-- ==== Sys2Proof/Word.lean ====
section
/-!
DEFINITION. The units of data of the BP410: bytes, blocks of 512 bytes, 16- and 32-bit fields, and a record of four
like things (four units, four slots of a port).
-/

namespace Sys2Proof

/-- One byte of a frame or of a block. -/
abbrev Byte := BitVec 8

/-- A 16-bit field: a sequence number, a stream mask, the event flags. -/
abbrev Half := BitVec 16

/-- A 32-bit field that wraps or is compared as a word: milliseconds, generation, start count, checks. -/
abbrev Word := BitVec 32

/-- The data of one block (512 bytes when it is well formed). -/
abbrev Block := List Byte

/-- Four like things, indexed 0 to 3: the units of the part, or the slots of a unit port. -/
structure Four (α : Type) where
  a : α
  b : α
  c : α
  d : α
  deriving DecidableEq, Repr

/-- The thing at an index. -/
def Four.get {α : Type} (f : Four α) : Fin 4 → α
  | 0 => f.a
  | 1 => f.b
  | 2 => f.c
  | 3 => f.d

/-- The record with the thing at one index replaced. -/
def Four.set {α : Type} (f : Four α) (i : Fin 4) (x : α) : Four α :=
  match i with
  | 0 => { f with a := x }
  | 1 => { f with b := x }
  | 2 => { f with c := x }
  | 3 => { f with d := x }

/-- The four things in index order. -/
def Four.toList {α : Type} (f : Four α) : List α := [f.a, f.b, f.c, f.d]

/-- The same thing four times. -/
def Four.all {α : Type} (x : α) : Four α := ⟨x, x, x, x⟩

/-- The four indices in order. -/
def units : List (Fin 4) := [0, 1, 2, 3]

@[simp] theorem Four.get_set_self {α : Type} (f : Four α) (i : Fin 4) (x : α) : (f.set i x).get i = x := by
  match i with
  | 0 => rfl
  | 1 => rfl
  | 2 => rfl
  | 3 => rfl

theorem Four.get_set_ne {α : Type} (f : Four α) {i j : Fin 4} (x : α) (h : j ≠ i) :
    (f.set i x).get j = f.get j := by
  match i, j with
  | 0, 0 => exact absurd rfl h
  | 0, 1 => rfl
  | 0, 2 => rfl
  | 0, 3 => rfl
  | 1, 0 => rfl
  | 1, 1 => exact absurd rfl h
  | 1, 2 => rfl
  | 1, 3 => rfl
  | 2, 0 => rfl
  | 2, 1 => rfl
  | 2, 2 => exact absurd rfl h
  | 2, 3 => rfl
  | 3, 0 => rfl
  | 3, 1 => rfl
  | 3, 2 => rfl
  | 3, 3 => exact absurd rfl h

@[simp] theorem Four.get_all {α : Type} (x : α) (i : Fin 4) : (Four.all x).get i = x := by
  match i with
  | 0 => rfl
  | 1 => rfl
  | 2 => rfl
  | 3 => rfl

theorem Four.get_set {α : Type} (f : Four α) (i j : Fin 4) (x : α) :
    (f.set i x).get j = if j = i then x else f.get j := by
  by_cases h : j = i
  · subst h; simp
  · rw [Four.get_set_ne f x h, if_neg h]

end Sys2Proof
end

