-- ==== Sys2Proof/Machine/Bytes.lean ====
section
/-!
DEFINITION. Byte order and the frame check (12.1, 12.2): little-endian fields of a list of bytes, written and read, and the
32-bit cyclic redundancy check of every frame.
-/

namespace Sys2Proof.Machine

/-- A number in one byte. -/
def le1 (n : Nat) : List Byte := [BitVec.ofNat 8 n]

/-- A number in two bytes, the less significant byte first (12.1). -/
def le2 (n : Nat) : List Byte := [BitVec.ofNat 8 n, BitVec.ofNat 8 (n / 256)]

/-- A number in four bytes. -/
def le4 (n : Nat) : List Byte := le2 n ++ le2 (n / 65536)

/-- A number in eight bytes. -/
def le8 (n : Nat) : List Byte := le4 n ++ le4 (n / 4294967296)

/-- Bytes of value zero. -/
def zeros (n : Nat) : List Byte := List.replicate n 0

/-- A flag as one byte, 1 for set (12.4). -/
def flag (b : Bool) : List Byte := if b then [1] else [0]

/-- The byte at an offset; 0 past the end. -/
def u1 (l : List Byte) (off : Nat) : Nat := (l.getD off 0).toNat

/-- The two-byte field at an offset. -/
def u2 (l : List Byte) (off : Nat) : Nat := u1 l off + 256 * u1 l (off + 1)

/-- The four-byte field at an offset. -/
def u4 (l : List Byte) (off : Nat) : Nat := u2 l off + 65536 * u2 l (off + 2)

/-- The eight-byte field at an offset. -/
def u8 (l : List Byte) (off : Nat) : Nat := u4 l off + 4294967296 * u4 l (off + 4)

/-- The bytes from an offset, n of them. -/
def slice (l : List Byte) (off n : Nat) : List Byte := (l.drop off).take n

/-- A list of bytes cut or padded with zero bytes to a length. -/
def fit (n : Nat) (l : List Byte) : List Byte := (l ++ zeros n).take n

/-- One bit enters the check: the shift register with polynomial 0x04C11DB7 (12.2). -/
def crcBit (r : Word) (b : Bool) : Word :=
  if (r.msb != b) then (r <<< 1) ^^^ 0x04C11DB7 else r <<< 1

/-- One byte enters the check, least significant bit first (12.2). -/
def crcByte (r : Word) (x : Byte) : Word :=
  [0, 1, 2, 3, 4, 5, 6, 7].foldl (fun r i => crcBit r (x.getLsbD i)) r

/-- The bits of a word in reverse order. -/
def reverseBits (r : Word) : Word :=
  (List.range 32).foldl (fun acc i => acc ||| (if r.getLsbD i then (1 : Word) <<< (31 - i) else 0)) 0

/-- The frame check over a list of bytes (12.2): all ones at first, the result bit-reversed and then complemented. -/
def frameCheck (l : List Byte) : Word := ~~~ (reverseBits (l.foldl crcByte 0xFFFFFFFF))

/-- The check as it stands at the end of a frame. -/
def checkBytes (l : List Byte) : List Byte := le4 (frameCheck l).toNat

/-- A frame with its check placed at its end. -/
def withCheck (l : List Byte) : List Byte := l ++ checkBytes l

/-- The bytes before the check of a frame whose check is good; none when the check fails or the frame is too short to hold
one (R41). -/
def checked (frame : List Byte) : Option (List Byte) :=
  let body := frame.take (frame.length - 4)
  if 4 ≤ frame.length ∧ frame.drop (frame.length - 4) = checkBytes body then some body else none

end Sys2Proof.Machine
end

