-- ==== Sys2Proof/Config.lean ====
section
/-!
DEFINITION. What is fixed for every BP410 (the dimensions of the device summary), and the values the spec leaves open,
each an opaque constant: no proof can see which value it is.
-/

namespace Sys2Proof.Config

/-- LBA of W0, the first block of the management window (00, 5.1). -/
def windowBase : Nat := 4294967292

/-- The largest value of a 32-bit field. -/
def top32 : Nat := 4294967295

/-- The largest request in bytes (R42). -/
def largestRequest : Nat := 1048576

/-- Bytes in a block (00, 5.1). -/
def blockSize : Nat := 512

/-- Buffers of the pool (R54). -/
def bufferCount : Nat := 128

/-- Blocks in the longest segment, scan VERIFY or erase write (R51, R112, R158). -/
def longestRun : Nat := 32

/-- Live segments a request may have (R51). -/
def segmentLimit : Nat := 4

/-- Places of a port's issue queue (R69). -/
def queuePlaces : Nat := 64

/-- Entries of the learned remap table (R26). -/
def learnedLimit : Nat := 512

/-- Entries of the watch list (R88). -/
def watchLimit : Nat := 64

/-- Blocks of the store area on unit 0 (R2). -/
def storeBlocks : Nat := 64

/-- The format mark of a store header: "one fixed value" (R178), which the spec does not give (log entry 9). -/
opaque formatMark : Word

/-- The generation after 4 294 967 295, the top of its range (R180), which the spec does not give (log entry 10). -/
opaque generationPastTop : Word

/-- The start count after 4 294 967 295, the top of its range (R180), which the spec does not give (log entry 10). -/
opaque startCountPastTop : Word

/-- A byte of a block whose DATA frame never arrived before a HARD_READ stop (log entry 11): free for every serial number of
the loss and every position. -/
opaque lostByte : Nat → Nat → Byte

/-- The code of the check named when a pool breaks the spare law in the full validation (R40), which the spec's list of
conflict checks does not hold (log entry 12). -/
opaque spareLawCode : Byte

end Sys2Proof.Config
end

