-- ==== Sys2Proof/Syntax.lean ====
section
/-!
DEFINITION. The commands of the block: one constructor of `Instr` for each row of spec/opcode_table.json, with the row's
operands.
-/

namespace Sys2Proof

/-- What makes a part reset (R187). A reset line asserted while power is being applied gives the cause POWER_ON and holds
the part in reset. -/
inductive ResetEvent where
  | power (lineAsserted : Bool)
  | resetLine
  | resetPart
  deriving DecidableEq, Repr

/-- The commands of the block, in the order of the table. Frames carry their bytes as they arrive on a link; the
management commands carry nothing, since their parameters stand in the command block the engine has taken (log entry 4). -/
inductive Instr where
  /-- REQUEST (R42): the bytes of a frame on the storage link. -/
  | request (frame : List Byte)
  /-- WRITE_DATA (R59). -/
  | writeData (frame : List Byte)
  /-- CANCEL (R66). -/
  | cancel (frame : List Byte)
  /-- LINK_RESET (R67). -/
  | linkReset (frame : List Byte)
  /-- WINDOW_DATA_TIMEOUT (R130): the data timer of the W0 write holding a tag expires. -/
  | windowDataTimeout (tag : Fin 32)
  /-- DATA_TIMEOUT (R60): the data timer of the segment that begins at a block index expires. -/
  | dataTimeout (tag : Fin 32) (index : Nat)
  /-- BUFFER_CLAIM_GRANT (R54). -/
  | bufferClaimGrant
  /-- HOLD_CLEARED (R48). -/
  | holdCleared
  /-- SYNC_COMPLETE (R50). -/
  | syncComplete
  /-- QUEUE_PLACE_FREE (R80). -/
  | queuePlaceFree (unit : Fin 4)
  /-- PENDING_WRITE_REDIRECT (R105). -/
  | pendingWriteRedirect
  /-- UNIT_PRESENT_ASSERTED (R71). -/
  | unitPresentAsserted (unit : Fin 4)
  /-- UNIT_PRESENT_RELEASED (R85). -/
  | unitPresentReleased (unit : Fin 4)
  /-- UNIT_FAULT_LINE_CHANGE (R72): the level the line takes. -/
  | unitFaultLineChange (unit : Fin 4) (level : Bool)
  /-- UNIT_DATA (R81): the bytes of a frame on a unit link. -/
  | unitData (unit : Fin 4) (frame : List Byte)
  /-- RESULT (R81): the bytes of a frame on a unit link. -/
  | result (unit : Fin 4) (frame : List Byte)
  /-- UNIT_TIMEOUT (R83): the timer of the operation in a slot expires. -/
  | unitTimeout (unit : Fin 4) (slot : Fin 4)
  /-- PART_RESET (R187). -/
  | partReset (event : ResetEvent)
  /-- AGING_EXPIRY (R95). -/
  | agingExpiry
  /-- QUIET_TIMER_EXPIRY (R111). -/
  | quietTimerExpiry
  /-- IDLE_TIMER_EXPIRY (R177). -/
  | idleTimerExpiry
  /-- RELOCATION_START (R100). -/
  | relocationStart
  /-- TAKE_SAVE (R182). -/
  | takeSave
  /-- DRAIN_END (R168). -/
  | drainEnd
  /-- POWER_DOWN (R86). -/
  | powerDown (unit : Fin 4)
  /-- POWERING_DOWN_COMPLETE (R172). -/
  | poweringDownComplete
  /-- WAKE_SETTLED (R174). -/
  | wakeSettled
  /-- ERASE_WAIT_END (R157). -/
  | eraseWaitEnd
  /-- IDENTIFY (R137). -/
  | identify
  /-- SET_PARAMS (R138). -/
  | setParams
  /-- SET_STREAMS (R140). -/
  | setStreams
  /-- SET_MODE (R165). -/
  | setMode
  /-- RESET_PART (R141). -/
  | resetPart
  /-- REGION_READ (R9). -/
  | regionRead
  /-- REGION_WRITE (R5). -/
  | regionWrite
  /-- REGION_CLEAR (R8). -/
  | regionClear
  /-- PIN_READ (R25). -/
  | pinRead
  /-- PIN_WRITE (R22). -/
  | pinWrite
  /-- PIN_CLEAR (R25). -/
  | pinClear
  /-- REMAP_READ (R30). -/
  | remapRead
  /-- REMAP_DELETE (R31). -/
  | remapDelete
  /-- SPARE_READ (R37). -/
  | spareRead
  /-- SPARE_LOAD (R36). -/
  | spareLoad
  /-- WATCH_READ (R96). -/
  | watchRead
  /-- WATCH_CLEAR (R97). -/
  | watchClear
  /-- UNIT_MODE (R74). -/
  | unitMode
  /-- UNIT_INFO (R75). -/
  | unitInfo
  /-- SAVE (R185). -/
  | save
  /-- SCAN_START (R124). -/
  | scanStart
  /-- SCAN_ABORT (R125). -/
  | scanAbort
  /-- SCAN_LOG_READ (R126). -/
  | scanLogRead
  /-- LOG_READ (R197). -/
  | logRead
  /-- COUNTERS_READ (R199). -/
  | countersRead
  /-- GUARD_SET_USER (R150). -/
  | guardSetUser
  /-- GUARD_SET_RECOVERY (R151). -/
  | guardSetRecovery
  /-- GUARD_UNLOCK (R152). -/
  | guardUnlock
  /-- GUARD_DISABLE (R153). -/
  | guardDisable
  /-- ERASE_PREPARE (R155). -/
  | erasePrepare
  /-- ERASE_GUARDED (R156). -/
  | eraseGuarded
  /-- FREEZE (R154). -/
  | freeze
  /-- RESET_LINE_RELEASED (R187). -/
  | resetLineReleased
  /-- READ_DATA_SENT (R56): the frame of a block index is sent. -/
  | readDataSent (tag : Fin 32) (index : Nat)
  deriving DecidableEq, Repr

end Sys2Proof
end

