-- ==== Sys2Proof/Machine/State.lean ====
section
/-!
DEFINITION. The state of the BP410: every piece of state the spec names, grouped under the functional block that owns it
(00, 3.2), the faults and refusals of a step, and the state of the part in reset.
-/

namespace Sys2Proof.Machine

/-! ### Named values (codes in 12.5) -/

/-- Request kinds (R42). -/
inductive ReqKind where
  | read | write | verify | sync
  deriving DecidableEq, Repr

/-- Completion statuses (12.5). -/
inductive Status where
  | ok | mediaError | noRegion | accessDenied | writeProtected | locked | erasing | notServicing
  | unitUnavailable | dataLate | cancelled | badRequest | windowMisuse | mgmtBusy
  deriving DecidableEq, Repr

/-- Results of management commands (R135). -/
inductive CmdResult where
  | done | pending | invalidCommand | invalidParameter | wrongMode | locked | frozen | codeMismatch
  | attemptsExceeded | conflict | emptyEntry | unitUnavailable | storeUnavailable | sequenceBroken
  deriving DecidableEq, Repr

/-- Event flags (R142). -/
inductive Event where
  | started | storeInvalid | saveDone | saveFailed | scanEnded | eraseDone | eraseFailed | unitChange
  | spareLow | spareExhausted | errorLogged | modeChange | watchOverflow | pinTargetSuspect
  deriving DecidableEq, Repr

/-- Part modes (R162). -/
inductive PartMode where
  | startup | config | service | draining | enteringStandby | standby | waking
  deriving DecidableEq, Repr

/-- Start causes (R187). -/
inductive StartCause where
  | powerOn | resetLine | resetCommand
  deriving DecidableEq, Repr

/-- Guard states (R146). -/
inductive GuardState where
  | disabled | opened | locked | erasing | eraseIncomplete
  deriving DecidableEq, Repr

/-- Store states (R180). -/
inductive StoreState where
  | absent | invalid | clean | dirty | saving
  deriving DecidableEq, Repr

/-- Engine states (R132). -/
inductive EngineState where
  | idle | executing
  deriving DecidableEq, Repr

/-- Unit port states (R69). -/
inductive PortState where
  | absent | attaching | ready | readOnly | offline | sleeping | failed
  deriving DecidableEq, Repr

/-- Desired modes of a port (R69). -/
inductive DesiredMode where
  | active | readOnly | offline
  deriving DecidableEq, Repr

/-- Failure causes of a port (R69). -/
inductive FailCause where
  | none | capacity | noResponse
  deriving DecidableEq, Repr

/-- Spare health of a unit (R38). -/
inductive SpareHealth where
  | good | low | exhausted
  deriving DecidableEq, Repr

/-- Scan states (R109). -/
inductive ScanState where
  | idle | running | suspended
  deriving DecidableEq, Repr

/-- Scan kinds (R109). -/
inductive ScanKind where
  | patrol | checkShort | checkFull
  deriving DecidableEq, Repr

/-- Scan phases (R109). -/
inductive ScanPhase where
  | store | regions | targets
  deriving DecidableEq, Repr

/-- Scan results (R110). -/
inductive ScanResult where
  | passed | failuresFound | noCoverage | failed | unitLost | abortedByCommand | abortedByStandby | abortedByMode
  deriving DecidableEq, Repr

/-- Conflict checks (R6, R23, R31, R36, R97); `spareLaw` stands for the check of the three counts of a pool in the full
validation, whose name the spec does not give (log entry 12). -/
inductive ConflictCheck where
  | logicalOverlap | physicalOverlap | storeArea | spareExtent | pinTarget | learnedTarget | capacity
  | sourceUnmapped | sourceInUse | targetInRegion | entrySource | spareOutstanding | extentOverlap | regionRange
  | sourceMismatch | blockMismatch | inRelocation | spareLaw
  deriving DecidableEq, Repr

/-- The other party of a conflict (12.5). -/
inductive ConflictParty where
  | none | region | pin | learned | extent | returned | issued | unit | block
  deriving DecidableEq, Repr

/-- Kinds of error log entry (R193). -/
inductive LogKind where
  | mediaHard | writeFault | verifyFailed | unitTimeout | unitFailed | relocateFailed | storeWriteFault | eraseBlockFailed
  deriving DecidableEq, Repr

/-- Causes of a learned entry (R26). -/
inductive LearnedCause where
  | writeFault | promotion | pendingWrite | verifyFailed
  deriving DecidableEq, Repr

/-- Last causes of a watch entry: the error kinds of R89. -/
inductive WatchCause where
  | softRead | softScan | hardRead | verifyFail | writeFaultNoSpare
  deriving DecidableEq, Repr

/-- Resolutions of a watched block (R98). -/
inductive Resolution where
  | pinTarget | learnedTarget | direct | stray
  deriving DecidableEq, Repr

/-- Routes of the remap lookup (R20). -/
inductive Route where
  | pin | learned | direct
  deriving DecidableEq, Repr

/-- Code kinds of the guard (R149). -/
inductive CodeKind where
  | user | recovery
  deriving DecidableEq, Repr

/-- Levels of the guard (R146). -/
inductive GuardLevel where
  | standard | strict
  deriving DecidableEq, Repr

/-- Stored states of the guard (R147). -/
inductive StoredState where
  | disabled | set | eraseIncomplete
  deriving DecidableEq, Repr

/-- Erase phases (12.5, R156 to R160). -/
inductive ErasePhase where
  | savingStart | waiting | writing | savingEnd | done
  deriving DecidableEq, Repr

/-- Standby phases (R162). -/
inductive StandbyPhase where
  | none | saving | poweringDown
  deriving DecidableEq, Repr

/-- Drain targets (R162). -/
inductive DrainTarget where
  | none | config | standby | reset
  deriving DecidableEq, Repr

/-- Operation kinds of a unit port (R78). -/
inductive OpKind where
  | read | write | verify | identify | powerDown | powerUp | unitReset
  deriving DecidableEq, Repr

/-- Reasons of a REJECT (R42). -/
inductive RejectReason where
  | tagInUse | malformed
  deriving DecidableEq, Repr

/-! ### Addresses and times -/

/-- A physical block, the pair (unit, block) of 00, 5.1. -/
structure Phys where
  unit : Fin 4
  block : Nat
  deriving DecidableEq, Repr

/-- An extent: a unit, a first physical block and a count (00, 5.1). -/
structure Extent where
  unit : Fin 4
  first : Nat
  count : Nat
  deriving DecidableEq, Repr

/-- A time stamp (00, 5.3); the start count is open while the load has not ended (R192). -/
structure TimeStamp where
  start : Option Word
  ms : Word
  deriving DecidableEq, Repr

/-- A timer: stopped, or running since a moment for a period in milliseconds. -/
inductive Timer where
  | stopped
  | running (since : Word) (period : Nat)
  deriving DecidableEq, Repr

/-- The idle timer (R177): `spent` is stopped after an expiry with standby disabled, until its condition breaks. -/
inductive IdleTimer where
  | stopped
  | running (since : Word) (period : Nat)
  | spent
  deriving DecidableEq, Repr

/-! ### Log records -/

/-- A history record (R191). -/
inductive HistRec where
  | host (kind : ReqKind) (stream : Fin 16) (tag : Fin 32) (lba len : Nat) (stamp : TimeStamp)
  | command (code : Nat) (seq : Half) (stamp : TimeStamp)
  | startup (cause : StartCause) (stamp : TimeStamp)
  deriving DecidableEq, Repr

/-- A history record in the ring or copied in a request context, with the serial number by which the log unit knows an
item's own record (R194). -/
structure RingRec where
  id : Nat
  record : HistRec
  deriving DecidableEq, Repr

/-- An error log entry (R193). -/
structure LogEntry where
  kind : LogKind
  unit : Fin 4
  block : Option Phys
  logical : Option Nat
  mode : PartMode
  stamp : TimeStamp
  item : Option HistRec
  preceding : List HistRec
  deriving DecidableEq, Repr

/-- The log unit. -/
structure LogUnit where
  /-- History ring, oldest first (R191). -/
  ring : List RingRec
  /-- Slots 1 to 8 of the error log, at indices 0 to 7 (R193). -/
  slots : Vector (Option LogEntry) 8
  /-- Latest index, 0 to 8 (R193). -/
  latest : Nat
  /-- Lifetime error count (R196). -/
  lifetime : Nat
  /-- Entries held until the load ends, in the order they arose (R196). -/
  held : List LogEntry
  deriving DecidableEq, Repr

/-! ### Link port -/

/-- Use of a tag (R43). -/
inductive TagUse where
  | free | request | window
  deriving DecidableEq, Repr

/-- The frames the part sends to the host (03, 3.1). -/
inductive HostFrame where
  | readData (tag : Fin 32) (index : Nat) (data : List Byte)
  | dataRequest (tag : Fin 32) (first count : Nat)
  | completion (tag : Fin 32) (status : Status) (residual : Nat) (failing : Option Nat) (recovered attention : Bool)
  | reject (tag : Fin 32) (reason : RejectReason)
  deriving DecidableEq, Repr

/-- The link port. -/
structure LinkPort where
  /-- Tag table (R43). -/
  tags : Vector TagUse 32
  /-- Frames sent to the host, oldest first (log entry 7). -/
  sent : List HostFrame
  deriving DecidableEq, Repr

/-! ### Request engine -/

/-- States of a request context; DONE is the request's leaving (R42, R48, R64). -/
inductive ReqState where
  | held | running | draining
  deriving DecidableEq, Repr

/-- Where a segment stands. Each value is one of the states of R52, as `SegPhase.state` says. -/
inductive SegPhase where
  /-- PENDING: its buffer claim waits (R54). -/
  | claim
  /-- FILLING (R58). -/
  | filling
  /-- PENDING: its operation was not taken by a full queue (R80). -/
  | place
  /-- PENDING: a first TIMEOUT returned it; offered when the port has re-attached (R61). -/
  | retry
  /-- A pending-write redirect waits for a place in the queue before its next spare claim: PENDING before its first spare, ISSUED
  once `tried` spares have faulted and the redirect is under way (R105). -/
  | redirect (tried : Nat)
  /-- ISSUED: its operation is queued or outstanding at the port. -/
  | issued
  /-- ISSUED: the data of a READ has arrived and its frames are being sent (R56). -/
  | sending
  /-- VERIFYING: its VERIFY is queued or outstanding (R63). -/
  | verifying
  /-- VERIFYING: its VERIFY was not taken by a full queue. -/
  | verifyPlace
  /-- VERIFYING: its VERIFY ended TIMEOUT and waits for the re-attach. -/
  | verifyRetry
  /-- ISSUED or VERIFYING: its first block is being written to a spare (R62, R63, R105). -/
  | repairing
  deriving DecidableEq, Repr

/-- What a repair is for. -/
inductive RepairKind where
  /-- Inline write-fault relocation (R62). -/
  | inlineFault
  /-- Pending-write redirect (R105). -/
  | redirect
  /-- Verify-after-write repair (R63). -/
  | verifyRepair
  deriving DecidableEq, Repr

/-- Where an operation of a repair, a relocation or the erase stands: waiting for a place in the queue, handed to the port,
or held for a retry after a TIMEOUT. -/
inductive OpWait where
  | place | port | retry
  deriving DecidableEq, Repr

/-- A repair of the first block of a segment: its spare, how many spares were tried, and whether the spare write has already
ended TIMEOUT or NOT_READY once (R62). -/
structure Repair where
  kind : RepairKind
  spare : Nat
  tried : Nat
  marked : Bool
  wait : OpWait
  deriving DecidableEq, Repr

/-- A segment (R51, R52). Its home blocks and its accessed blocks run in step from `home` and `first`. -/
structure Segment where
  id : Nat
  unit : Fin 4
  home : Nat
  first : Nat
  count : Nat
  /-- Logical offset of its first block in the request. -/
  off : Nat
  phase : SegPhase
  /-- Buffers it holds. -/
  buffers : Nat
  /-- Data held, by block index of the request. -/
  data : List (Nat × Block)
  timer : Timer
  retried : Bool
  /-- Cut as a pending block of the watch list (R51). -/
  pendingBlock : Bool
  /-- Its write is the fallback write of R106. -/
  fallback : Bool
  repair : Option Repair
  deriving DecidableEq, Repr

/-- A failure at a logical offset (R64). -/
structure Failure where
  off : Nat
  status : Status
  deriving DecidableEq, Repr

/-- A request context (R42), of a live request or of an orphan (R67). -/
structure Request where
  id : Nat
  tag : Fin 32
  stream : Fin 16
  kind : ReqKind
  lba : Nat
  len : Nat
  region : Option (Fin 16)
  home : Option Extent
  /-- The region's verify-after-write flag (R16). -/
  verifyAfter : Bool
  state : ReqState
  cursor : Nat
  segs : List Segment
  first : Option Failure
  recovered : Bool
  cancelled : Bool
  /-- Has passed all seven checks (R111, R171). -/
  passed : Bool
  orphan : Bool
  /-- Runs of completed blocks, (offset, count) (R66). -/
  completed : List (Nat × Nat)
  /-- Copy of its own history record (R191). -/
  record : RingRec
  deriving DecidableEq, Repr

/-- A relocation item (R101): its slot, its home extent and whether it is HELD. -/
structure RelocItem where
  id : Nat
  slot : Fin 2
  home : Extent
  held : Bool
  deriving DecidableEq, Repr

/-- An item of the admission list (R47). -/
inductive Item where
  | host (r : Request)
  | reloc (r : RelocItem)
  deriving DecidableEq, Repr

/-- The request engine. -/
structure RequestEngine where
  /-- Admission list in order of admission (R47). -/
  items : List Item
  /-- Free buffers of the pool (R54). -/
  freeBuffers : Nat
  deriving DecidableEq, Repr

/-! ### Map unit -/

/-- A region entry (R3). -/
structure RegionEntry where
  valid : Bool
  logical : Nat
  count : Nat
  unit : Fin 4
  physical : Nat
  readers : Half
  writers : Half
  readOnly : Bool
  guarded : Bool
  verifyAfter : Bool
  deriving DecidableEq, Repr

/-- A pin (R21); the target's unit equals the source's. -/
structure PinEntry where
  valid : Bool
  unit : Fin 4
  source : Nat
  target : Nat
  deriving DecidableEq, Repr

/-- A learned entry (R26); the target is a spare of the source's unit. -/
structure LearnedEntry where
  unit : Fin 4
  source : Nat
  target : Nat
  cause : LearnedCause
  stamp : TimeStamp
  deriving DecidableEq, Repr

/-- An extent of a spare pool (R32). -/
structure SpareExtent where
  first : Nat
  count : Nat
  deriving DecidableEq, Repr

/-- An issued spare with its claim: the source home block and whether the claim holds a reserved place (R27, R33). -/
structure Issued where
  spare : Nat
  source : Nat
  place : Bool
  deriving DecidableEq, Repr

/-- The spare pool of a unit (R32). -/
structure Pool where
  extents : List SpareExtent
  returned : List Nat
  issued : List Issued
  loaded : Nat
  consumed : Nat
  discarded : Nat
  deriving DecidableEq, Repr

/-- The map unit. -/
structure MapUnit where
  regions : Vector RegionEntry 16
  pins : Vector PinEntry 32
  learned : List LearnedEntry
  pools : Four Pool
  deriving DecidableEq, Repr

/-! ### Unit ports -/

/-- The block that offered an operation (R78). -/
inductive Owner where
  /-- The operation of a segment: its READ, WRITE or VERIFY, or the VERIFY of verify-after-write. -/
  | segment (item seg : Nat)
  /-- The spare write of a repair. -/
  | repair (item seg : Nat)
  | reloc (slot : Fin 2)
  | scan
  | store
  | erase
  /-- Attach and power operations of the port itself. -/
  | port
  deriving DecidableEq, Repr

/-- A unit operation (R78), with the serial number of its taking. -/
structure Op where
  kind : OpKind
  first : Nat
  count : Nat
  owner : Owner
  stamp : Nat
  data : List Block
  deriving DecidableEq, Repr

/-- An operation outstanding at the unit, with its unit timer (R83) and the data that has arrived for it (R81). -/
structure Outstanding where
  op : Op
  timer : Timer
  arrived : List (Nat × Block)
  deriving DecidableEq, Repr

/-- Outcomes of an ended operation (R78, R70, R83). A READ that ends DONE or HARD_READ carries the data that arrived. -/
inductive OpOutcome where
  | done (soft : List Nat) (data : List (Nat × Block)) (capacity : Nat)
  | hardRead (stop : Nat) (data : List (Nat × Block))
  | writeFault (stop : Nat)
  | notReady
  | timeout
  | unavailable
  deriving DecidableEq, Repr

/-- An OP frame the port sent (12.3). -/
structure SentOp where
  slot : Fin 4
  kind : OpKind
  first : Nat
  count : Nat
  data : List Block
  deriving DecidableEq, Repr

/-- A unit port (R69). -/
structure Port where
  state : PortState
  desired : DesiredMode
  capacity : Option Nat
  cause : FailCause
  writeFaults : Nat
  writeInhibit : Bool
  attempts : Nat
  powerDownAttempts : Nat
  slots : Four (Option Outstanding)
  queue : List Op
  scanPlace : Option Op
  storePlace : Option Op
  attachPlace : Option Op
  sleepRecord : Option PortState
  /-- Level of the unit-present line. -/
  present : Bool
  /-- Level of the unit-fault line. -/
  fault : Bool
  /-- The attach under way is a wake attach (R87). -/
  waking : Bool
  /-- The capacity is recorded and its check waits for the end of the load (R18, R77). -/
  identified : Bool
  /-- OP frames sent to the unit, oldest first (log entry 7). -/
  sent : List SentOp
  deriving DecidableEq, Repr

/-! ### Health monitor -/

/-- A watch entry (R88). -/
structure WatchEntry where
  block : Phys
  score : Nat
  age : Nat
  pending : Bool
  due : Bool
  cause : WatchCause
  stamp : TimeStamp
  deriving DecidableEq, Repr

/-- Steps of a relocation: its item HELD, waiting for its buffer, reading the old block, writing the spare (R101 to R103). -/
inductive RelocStep where
  | held | buffer | read | write
  deriving DecidableEq, Repr

/-- A relocation slot's record (R100). -/
structure Relocation where
  item : Nat
  block : Nat
  home : Nat
  unit : Fin 4
  resolution : Resolution
  spare : Option Nat
  tried : Nat
  retried : Bool
  step : RelocStep
  wait : OpWait
  /-- The data in its buffer, once read. -/
  data : Block
  deriving DecidableEq, Repr

/-- The health monitor. -/
structure HealthMonitor where
  watch : List WatchEntry
  aging : Timer
  slot0 : Option Relocation
  slot1 : Option Relocation
  tableFull : Bool
  deriving DecidableEq, Repr

/-! ### Scan engine -/

/-- The current VERIFY of a scan (R109): its extent, the retried mark, and its serial number while it is at the port; with
`stamp` none it is held, waiting for an attach (`retried`). The cursor it was cut at is the context's, which does not move
until it ends (R112). -/
structure ScanVerify where
  extent : Extent
  retried : Bool
  stamp : Option Nat
  deriving DecidableEq, Repr

/-- The scan context (R109). In TARGETS, `learnedPart` says whether `index` is a pin index or a learned position. -/
structure ScanContext where
  kind : ScanKind
  unit : Option (Fin 4)
  phase : ScanPhase
  index : Nat
  offset : Nat
  learnedPart : Bool
  pass : Nat
  verified : Nat
  failures : Nat
  firstFailing : Option Phys
  current : Option ScanVerify
  suspendRequested : Bool
  deriving DecidableEq, Repr

/-- A scan log entry (R123). -/
structure ScanLogEntry where
  kind : ScanKind
  unit : Option (Fin 4)
  result : ScanResult
  verified : Nat
  firstFailing : Option Phys
  stamp : TimeStamp
  deriving DecidableEq, Repr

/-- The scan engine. -/
structure ScanEngine where
  state : ScanState
  context : Option ScanContext
  quietTimer : Timer
  quiet : Bool
  /-- Scan log, oldest first (R123). -/
  log : List ScanLogEntry
  deriving DecidableEq, Repr

/-! ### Management engine -/

/-- The twelve parameters (R138), with the units of its table. -/
structure Params where
  dataTimeout : Nat
  unitTimeout : Nat
  quietTime : Nat
  agingPeriod : Nat
  promotion : Nat
  lowSpare : Nat
  writeFaultLimit : Nat
  idleCode : Nat
  autosave : Bool
  autoPatrol : Bool
  standbyDisabled : Bool
  startService : Bool
  deriving DecidableEq, Repr

/-- The taken command (R132): code, sequence, stream and tag of its W0 write, the command block delivered, the part mode at
the taking (R136), the erase-prepared flag noted for it (R155), its history record, and whether it has been decided (its
online phase goes on in a drain, a wake or a save). -/
structure Taken where
  code : Nat
  seq : Half
  stream : Fin 16
  tag : Option (Fin 32)
  block : Block
  mode : PartMode
  prepared : Bool
  record : RingRec
  decided : Bool
  deriving DecidableEq, Repr

/-- The response block (R135). -/
structure Response where
  seq : Half
  code : Nat
  result : CmdResult
  data : List Byte
  deriving DecidableEq, Repr

/-- A W0 write waiting for its data (R130). -/
structure WindowWrite where
  tag : Fin 32
  stream : Fin 16
  timer : Timer
  deriving DecidableEq, Repr

/-- A read of W1, W2 or W3 whose READ DATA frame has been sent and whose COMPLETION is still owed (R129, R131). -/
structure WindowRead where
  tag : Fin 32
  stream : Fin 16
  deriving DecidableEq, Repr

/-- Where RESET_PART stands (R141): in its drain, in its save, or answered and its part reset due. -/
inductive ResetStage where
  | none | drain | save | due
  deriving DecidableEq, Repr

/-- The management engine. -/
structure ManagementEngine where
  state : EngineState
  taken : Option Taken
  response : Response
  lastSeq : Half
  /-- The 14 event flags, by bit number (12.5). -/
  events : Half
  windows : List WindowWrite
  /-- Window reads served, whose COMPLETION has not been sent (R129, log entry 28). -/
  reads : List WindowRead
  resetStage : ResetStage
  /-- Management stream set (R128). -/
  streams : Half
  params : Params
  deriving DecidableEq, Repr

/-! ### Guard unit -/

/-- The repair of the first block of an erase write after a WRITE_FAULT (R159). -/
structure EraseRepair where
  spare : Nat
  marked : Bool
  deriving DecidableEq, Repr

/-- The erase write under way (R158, R159). -/
structure EraseWrite where
  unit : Fin 4
  home : Nat
  first : Nat
  count : Nat
  retried : Bool
  wait : OpWait
  repair : Option EraseRepair
  deriving DecidableEq, Repr

/-- The erase record (R146). -/
structure EraseRecord where
  phase : ErasePhase
  index : Nat
  offset : Nat
  write : Option EraseWrite
  tried : Nat
  erased : Nat
  unerased : Nat
  firstUnerased : Option Phys
  deriving DecidableEq, Repr

/-- The guard unit (R146). -/
structure GuardUnit where
  state : GuardState
  level : GuardLevel
  userCode : Option (List Byte)
  recoveryCode : List Byte
  failed : Nat
  frozen : Bool
  prepared : Bool
  erase : Option EraseRecord
  deriving DecidableEq, Repr

/-! ### Mode controller -/

/-- The mode controller (R162). -/
structure ModeController where
  mode : PartMode
  phase : StandbyPhase
  drain : DrainTarget
  wakeRequested : Bool
  /-- Target of the waiting SET_MODE. -/
  waiting : Option PartMode
  idle : IdleTimer
  deriving DecidableEq, Repr

/-! ### Store controller -/

/-- Writes of a save (R183): image blocks 1 to 32, image blocks from 33, the header. -/
inductive SaveStep where
  | first | second | header
  deriving DecidableEq, Repr

/-- The save record (R180): the image formed, the write under way (its serial number, or none while the store place is still
taken by an older write), and what the save is for. -/
structure SaveRecord where
  /-- Image blocks 1 to L, each with its stamp. -/
  image : List Block
  header : Block
  step : SaveStep
  stamp : Option Nat
  /-- The history record of the RESET_PART whose save this is (R194). -/
  command : Option RingRec
  /-- The first save of an erase (R156). -/
  firstOfErase : Bool
  /-- The save asked for at the end of an erase's walk (R160). -/
  lastOfErase : Bool
  /-- ERASE_DONE is raised when it ends (R160). -/
  eraseDone : Bool
  deriving DecidableEq, Repr

/-- The header of the store (R178). -/
structure Header where
  generation : Word
  startCount : Word
  length : Nat
  checksum : Word
  deriving DecidableEq, Repr

/-- Where the load stands (R188): waiting for port 0, reading the header, or reading the image. -/
inductive LoadStep where
  | port | header | first | second
  deriving DecidableEq, Repr

/-- The load under way (R188). -/
structure Load where
  step : LoadStep
  stamp : Option Nat
  header : Option Header
  image : List Block
  deriving DecidableEq, Repr

/-- The store controller (R180). -/
structure StoreController where
  state : StoreState
  dirtyAgain : Bool
  generation : Word
  startCount : Word
  cause : StartCause
  saveAsked : Bool
  /-- The save asked for raises ERASE_DONE at its end: the walk of an erase left no block unerased (R160). -/
  eraseDoneAsked : Bool
  retryHold : Bool
  save : Option SaveRecord
  /-- The load, until it has ended (R189). -/
  load : Option Load
  deriving DecidableEq, Repr

/-! ### Counter bank -/

/-- Counters of a stream (R198). -/
structure StreamCounters where
  completed : Nat
  refused : Nat
  blocksRead : Nat
  blocksWritten : Nat
  mediaErrors : Nat
  deriving DecidableEq, Repr

/-- Counters of a unit (R198). -/
structure UnitCounters where
  operations : Nat
  softErrors : Nat
  hardErrors : Nat
  writeFaults : Nat
  timeouts : Nat
  relocations : Nat
  deriving DecidableEq, Repr

/-- Link counters (R198). -/
structure LinkCounters where
  rejects : Nat
  framesDiscarded : Nat
  unknownCancels : Nat
  discardedData : Nat
  dataLate : Nat
  deriving DecidableEq, Repr

/-- The counter bank (R198, R200). -/
structure CounterBank where
  streams : Vector StreamCounters 16
  units : Four UnitCounters
  link : LinkCounters
  /-- Lifetime relocation counts (R200). -/
  lifetime : Four Nat
  deriving DecidableEq, Repr

/-! ### The saved items and the work inside a step -/

/-- The saved items decoded from an image (R179). -/
structure Saved where
  params : Params
  streams : Half
  stored : StoredState
  level : GuardLevel
  userCode : Option (List Byte)
  recoveryCode : List Byte
  lifetimeErrors : Nat
  relocations : Four Nat
  regions : Vector RegionEntry 16
  pins : Vector PinEntry 32
  pools : Four Pool
  slots : Vector (Option LogEntry) 8
  latest : Nat
  scanLog : List ScanLogEntry
  watch : List WatchEntry
  learned : List LearnedEntry
  deriving DecidableEq, Repr

/-- Outcomes of the load (R189). -/
inductive LoadOutcome where
  | valid (header : Header) (saved : Saved)
  | notValid
  | absent
  deriving DecidableEq, Repr

/-- Work left inside one step, in order (log entry 25): an ended operation on its way back to the block that offered it
(R82), operations held for a retry to be offered again (R77, R83), the state a port takes after a write fault (R72, R73), the
UNIT_FAILED entry of a port (R84), the end of the load and the leaving of STARTUP (R189). -/
inductive Work where
  | ended (unit : Fin 4) (op : Op) (outcome : OpOutcome)
  | retries (unit : Fin 4)
  | takes (unit : Fin 4)
  | unitFailed (unit : Fin 4)
  | loadEnds (outcome : LoadOutcome)
  | leaveStartup (valid invalid : Bool)
  deriving DecidableEq, Repr

/-! ### The state -/

/-- The state of the part, with the queue of waiting commands. -/
structure State where
  link : LinkPort
  engine : RequestEngine
  map : MapUnit
  ports : Four Port
  health : HealthMonitor
  scan : ScanEngine
  log : LogUnit
  mgmt : ManagementEngine
  guard : GuardUnit
  modes : ModeController
  store : StoreController
  counters : CounterBank
  /-- Milliseconds since start-up (R187). -/
  ms : Word
  /-- The reset line is asserted: the part stays in reset (R187). -/
  inReset : Bool
  /-- The next serial number (log entry 6). -/
  nextId : Nat
  /-- The counter that free values are read with (log entry 11). -/
  nextFree : Nat
  /-- Work left inside a step; empty between steps (log entry 25). -/
  todo : List Work
  /-- Commands waiting, the next one first. -/
  pending : List Instr
  deriving DecidableEq, Repr

/-- The reasons a step can fault. There is none: the spec gives every step an effect on every input (NOTES.md, Stops). -/
inductive Fault where
  deriving DecidableEq, Repr

/-- The reasons a step can be refused. -/
inductive Refusal where
  /-- Raised by an arm of `exec` for a command that has no meaning yet. Safe: nothing is claimed of it. No arm raises it. -/
  | notModelled (mnemonic : String)
  deriving DecidableEq, Repr

/-! ### The reset values -/

/-- An empty region entry (R4); the other fields of an empty entry are ignored (R3). -/
def RegionEntry.empty : RegionEntry :=
  { valid := false, logical := 0, count := 0, unit := 0, physical := 0, readers := 0, writers := 0,
    readOnly := false, guarded := false, verifyAfter := false }

/-- An empty pin (R21). -/
def PinEntry.empty : PinEntry := { valid := false, unit := 0, source := 0, target := 0 }

/-- An empty pool (R32). -/
def Pool.empty : Pool :=
  { extents := [], returned := [], issued := [], loaded := 0, consumed := 0, discarded := 0 }

/-- The parameters at their defaults (R138). -/
def Params.defaults : Params :=
  { dataTimeout := 200, unitTimeout := 2000, quietTime := 2000, agingPeriod := 60, promotion := 8, lowSpare := 16,
    writeFaultLimit := 8, idleCode := 0, autosave := true, autoPatrol := false, standbyDisabled := false,
    startService := false }

/-- The recovery code of the fresh values: 32 zero bytes (R146). -/
def freshRecovery : List Byte := List.replicate 32 0

/-- Counters at 0 (R199). -/
def StreamCounters.zero : StreamCounters :=
  { completed := 0, refused := 0, blocksRead := 0, blocksWritten := 0, mediaErrors := 0 }

/-- Counters at 0 (R199). -/
def UnitCounters.zero : UnitCounters :=
  { operations := 0, softErrors := 0, hardErrors := 0, writeFaults := 0, timeouts := 0, relocations := 0 }

/-- Counters at 0 (R199). -/
def LinkCounters.zero : LinkCounters :=
  { rejects := 0, framesDiscarded := 0, unknownCancels := 0, discardedData := 0, dataLate := 0 }

/-- A port after a part reset (R69), with the levels its input lines have. -/
def Port.reset (present fault : Bool) : Port :=
  { state := .absent, desired := .active, capacity := none, cause := .none, writeFaults := 0, writeInhibit := false,
    attempts := 0, powerDownAttempts := 0, slots := Four.all none, queue := [], scanPlace := none, storePlace := none,
    attachPlace := none, sleepRecord := none, present := present, fault := fault, waking := false, identified := false,
    sent := [] }

/-- The part in reset, with every field at its reset value: the cause of the reset, the levels of the input lines, the frames
already sent on the links (their record is not part of the part) and the serial numbers go on. -/
def State.atReset (cause : StartCause) (lines : Four (Bool × Bool)) (linkSent : List HostFrame)
    (unitSent : Four (List SentOp)) (nextId nextFree : Nat) (pending : List Instr) : State :=
  { link := { tags := Vector.replicate 32 TagUse.free, sent := linkSent }
    engine := { items := [], freeBuffers := Config.bufferCount }
    map := { regions := Vector.replicate 16 RegionEntry.empty, pins := Vector.replicate 32 PinEntry.empty, learned := [],
             pools := Four.all Pool.empty }
    ports := ⟨{ Port.reset lines.a.1 lines.a.2 with sent := unitSent.a },
              { Port.reset lines.b.1 lines.b.2 with sent := unitSent.b },
              { Port.reset lines.c.1 lines.c.2 with sent := unitSent.c },
              { Port.reset lines.d.1 lines.d.2 with sent := unitSent.d }⟩
    health := { watch := [], aging := .stopped, slot0 := none, slot1 := none, tableFull := false }
    scan := { state := .idle, context := none, quietTimer := .stopped, quiet := false, log := [] }
    log := { ring := [⟨nextId, .startup cause ⟨none, 0⟩⟩], slots := Vector.replicate 8 none, latest := 0, lifetime := 0,
             held := [] }
    mgmt := { state := .idle, taken := none, response := { seq := 0, code := 0, result := .done, data := [] }, lastSeq := 0,
              events := 0, windows := [], reads := [], resetStage := .none, streams := 1, params := Params.defaults }
    guard := { state := .locked, level := .standard, userCode := none, recoveryCode := freshRecovery, failed := 0,
               frozen := false, prepared := false, erase := none }
    modes := { mode := .startup, phase := .none, drain := .none, wakeRequested := false, waiting := none, idle := .stopped }
    store := { state := .absent, dirtyAgain := false, generation := 0, startCount := 0, cause := cause, saveAsked := false,
               eraseDoneAsked := false, retryHold := false, save := none,
               load := some { step := .port, stamp := none, header := none, image := [] } }
    counters := { streams := Vector.replicate 16 StreamCounters.zero, units := Four.all UnitCounters.zero,
                  link := LinkCounters.zero, lifetime := Four.all 0 }
    ms := 0
    inReset := true
    nextId := nextId + 1
    nextFree := nextFree
    todo := []
    pending := pending }

/-- The machine right after reset: power has been applied with the reset line asserted (log entry 5). The part waits for
RESET_LINE_RELEASED; no unit is fitted and nothing has been sent. -/
def State.reset : State :=
  State.atReset .powerOn (Four.all (false, false)) [] (Four.all []) 0 0 []

end Sys2Proof.Machine
end

