-- ==== Sys2Proof/Machine/Codes.lean ====
section
/-!
DEFINITION. The numeric codes of the named values (12.2, 12.3, 12.5) and the command codes.
"Each set of values is coded from 0 upward in the order listed."
-/

namespace Sys2Proof.Machine

/-- Completion status (12.5). -/
def Status.code : Status → Nat
  | .ok => 0
  | .mediaError => 1
  | .noRegion => 2
  | .accessDenied => 3
  | .writeProtected => 4
  | .locked => 5
  | .erasing => 6
  | .notServicing => 7
  | .unitUnavailable => 8
  | .dataLate => 9
  | .cancelled => 10
  | .badRequest => 11
  | .windowMisuse => 12
  | .mgmtBusy => 13

/-- Result (12.5). -/
def CmdResult.code : CmdResult → Nat
  | .done => 0
  | .pending => 1
  | .invalidCommand => 2
  | .invalidParameter => 3
  | .wrongMode => 4
  | .locked => 5
  | .frozen => 6
  | .codeMismatch => 7
  | .attemptsExceeded => 8
  | .conflict => 9
  | .emptyEntry => 10
  | .unitUnavailable => 11
  | .storeUnavailable => 12
  | .sequenceBroken => 13

/-- Event flag bit number (12.5). -/
def Event.code : Event → Nat
  | .started => 0
  | .storeInvalid => 1
  | .saveDone => 2
  | .saveFailed => 3
  | .scanEnded => 4
  | .eraseDone => 5
  | .eraseFailed => 6
  | .unitChange => 7
  | .spareLow => 8
  | .spareExhausted => 9
  | .errorLogged => 10
  | .modeChange => 11
  | .watchOverflow => 12
  | .pinTargetSuspect => 13

/-- Part mode (12.5). -/
def PartMode.code : PartMode → Nat
  | .startup => 0
  | .config => 1
  | .service => 2
  | .draining => 3
  | .enteringStandby => 4
  | .standby => 5
  | .waking => 6

/-- The part mode a code names. -/
def PartMode.ofCode : Nat → Option PartMode
  | 0 => some .startup
  | 1 => some .config
  | 2 => some .service
  | 3 => some .draining
  | 4 => some .enteringStandby
  | 5 => some .standby
  | 6 => some .waking
  | _ => none

/-- Start cause (12.5). -/
def StartCause.code : StartCause → Nat
  | .powerOn => 0
  | .resetLine => 1
  | .resetCommand => 2

/-- The start cause a code names. -/
def StartCause.ofCode : Nat → Option StartCause
  | 0 => some .powerOn
  | 1 => some .resetLine
  | 2 => some .resetCommand
  | _ => none

/-- Guard state (12.5). -/
def GuardState.code : GuardState → Nat
  | .disabled => 0
  | .opened => 1
  | .locked => 2
  | .erasing => 3
  | .eraseIncomplete => 4

/-- Store state (12.5). -/
def StoreState.code : StoreState → Nat
  | .absent => 0
  | .invalid => 1
  | .clean => 2
  | .dirty => 3
  | .saving => 4

/-- Engine state (12.5). -/
def EngineState.code : EngineState → Nat
  | .idle => 0
  | .executing => 1

/-- Port state (12.5). -/
def PortState.code : PortState → Nat
  | .absent => 0
  | .attaching => 1
  | .ready => 2
  | .readOnly => 3
  | .offline => 4
  | .sleeping => 5
  | .failed => 6

/-- Desired mode (12.5). -/
def DesiredMode.code : DesiredMode → Nat
  | .active => 0
  | .readOnly => 1
  | .offline => 2

/-- The desired mode a code names. -/
def DesiredMode.ofCode : Nat → Option DesiredMode
  | 0 => some .active
  | 1 => some .readOnly
  | 2 => some .offline
  | _ => none

/-- Health (12.5). -/
def SpareHealth.code : SpareHealth → Nat
  | .good => 0
  | .low => 1
  | .exhausted => 2

/-- Scan state (12.5). -/
def ScanState.code : ScanState → Nat
  | .idle => 0
  | .running => 1
  | .suspended => 2

/-- Scan kind (12.5). -/
def ScanKind.code : ScanKind → Nat
  | .patrol => 0
  | .checkShort => 1
  | .checkFull => 2

/-- The scan kind a code names. -/
def ScanKind.ofCode : Nat → Option ScanKind
  | 0 => some .patrol
  | 1 => some .checkShort
  | 2 => some .checkFull
  | _ => none

/-- Scan phase (12.5). -/
def ScanPhase.code : ScanPhase → Nat
  | .store => 0
  | .regions => 1
  | .targets => 2

/-- Scan result (12.5). -/
def ScanResult.code : ScanResult → Nat
  | .passed => 0
  | .failuresFound => 1
  | .noCoverage => 2
  | .failed => 3
  | .unitLost => 4
  | .abortedByCommand => 5
  | .abortedByStandby => 6
  | .abortedByMode => 7

/-- The scan result a code names. -/
def ScanResult.ofCode : Nat → Option ScanResult
  | 0 => some .passed
  | 1 => some .failuresFound
  | 2 => some .noCoverage
  | 3 => some .failed
  | 4 => some .unitLost
  | 5 => some .abortedByCommand
  | 6 => some .abortedByStandby
  | 7 => some .abortedByMode
  | _ => none

/-- Conflict party (12.5). -/
def ConflictParty.code : ConflictParty → Nat
  | .none => 0
  | .region => 1
  | .pin => 2
  | .learned => 3
  | .extent => 4
  | .returned => 5
  | .issued => 6
  | .unit => 7
  | .block => 8

/-- Error log kind (12.5). -/
def LogKind.code : LogKind → Nat
  | .mediaHard => 0
  | .writeFault => 1
  | .verifyFailed => 2
  | .unitTimeout => 3
  | .unitFailed => 4
  | .relocateFailed => 5
  | .storeWriteFault => 6
  | .eraseBlockFailed => 7

/-- The error log kind a code names. -/
def LogKind.ofCode : Nat → Option LogKind
  | 0 => some .mediaHard
  | 1 => some .writeFault
  | 2 => some .verifyFailed
  | 3 => some .unitTimeout
  | 4 => some .unitFailed
  | 5 => some .relocateFailed
  | 6 => some .storeWriteFault
  | 7 => some .eraseBlockFailed
  | _ => none

/-- Learned cause (12.5). -/
def LearnedCause.code : LearnedCause → Nat
  | .writeFault => 0
  | .promotion => 1
  | .pendingWrite => 2
  | .verifyFailed => 3

/-- The learned cause a code names. -/
def LearnedCause.ofCode : Nat → Option LearnedCause
  | 0 => some .writeFault
  | 1 => some .promotion
  | 2 => some .pendingWrite
  | 3 => some .verifyFailed
  | _ => none

/-- Watch last cause (12.5). -/
def WatchCause.code : WatchCause → Nat
  | .softRead => 0
  | .softScan => 1
  | .hardRead => 2
  | .verifyFail => 3
  | .writeFaultNoSpare => 4

/-- The watch last cause a code names. -/
def WatchCause.ofCode : Nat → Option WatchCause
  | 0 => some .softRead
  | 1 => some .softScan
  | 2 => some .hardRead
  | 3 => some .verifyFail
  | 4 => some .writeFaultNoSpare
  | _ => none

/-- Resolution (12.5). -/
def Resolution.code : Resolution → Nat
  | .pinTarget => 0
  | .learnedTarget => 1
  | .direct => 2
  | .stray => 3

/-- Failure cause (12.5). -/
def FailCause.code : FailCause → Nat
  | .none => 0
  | .capacity => 1
  | .noResponse => 2

/-- Code kind (12.5). -/
def CodeKind.code : CodeKind → Nat
  | .user => 0
  | .recovery => 1

/-- The code kind a code names. -/
def CodeKind.ofCode : Nat → Option CodeKind
  | 0 => some .user
  | 1 => some .recovery
  | _ => none

/-- Level (12.5). -/
def GuardLevel.code : GuardLevel → Nat
  | .standard => 0
  | .strict => 1

/-- The level a code names. -/
def GuardLevel.ofCode : Nat → Option GuardLevel
  | 0 => some .standard
  | 1 => some .strict
  | _ => none

/-- Stored state (12.5). -/
def StoredState.code : StoredState → Nat
  | .disabled => 0
  | .set => 1
  | .eraseIncomplete => 2

/-- The stored state a code names. -/
def StoredState.ofCode : Nat → Option StoredState
  | 0 => some .disabled
  | 1 => some .set
  | 2 => some .eraseIncomplete
  | _ => none

/-- Erase phase (12.5). -/
def ErasePhase.code : ErasePhase → Nat
  | .savingStart => 0
  | .waiting => 1
  | .writing => 2
  | .savingEnd => 3
  | .done => 4

/-- Conflict check (12.5); the spare law's check has no code of the spec's (log entry 12). -/
def ConflictCheck.code : ConflictCheck → Nat
  | .logicalOverlap => 0
  | .physicalOverlap => 1
  | .storeArea => 2
  | .spareExtent => 3
  | .pinTarget => 4
  | .learnedTarget => 5
  | .capacity => 6
  | .sourceUnmapped => 7
  | .sourceInUse => 8
  | .targetInRegion => 9
  | .entrySource => 10
  | .spareOutstanding => 11
  | .extentOverlap => 12
  | .regionRange => 13
  | .sourceMismatch => 14
  | .blockMismatch => 15
  | .inRelocation => 16
  | .spareLaw => Config.spareLawCode.toNat

/-- Request kinds: READ 1, WRITE 2, VERIFY 3, SYNC 4 (12.2). -/
def ReqKind.code : ReqKind → Nat
  | .read => 1
  | .write => 2
  | .verify => 3
  | .sync => 4

/-- The request kind a code names. -/
def ReqKind.ofCode : Nat → Option ReqKind
  | 1 => some .read
  | 2 => some .write
  | 3 => some .verify
  | 4 => some .sync
  | _ => none

/-- Reject reasons: TAG_IN_USE 1, MALFORMED 2 (12.2). -/
def RejectReason.code : RejectReason → Nat
  | .tagInUse => 1
  | .malformed => 2

/-- Operation kinds on the unit link (12.3). -/
def OpKind.code : OpKind → Nat
  | .read => 1
  | .write => 2
  | .verify => 3
  | .identify => 4
  | .powerDown => 5
  | .powerUp => 6
  | .unitReset => 7

/-- The command codes, 0x01 to 0x20 (12.5). -/
inductive Command where
  | identify | setParams | setStreams | setMode | resetPart | regionRead | regionWrite | regionClear
  | pinRead | pinWrite | pinClear | remapRead | remapDelete | spareRead | spareLoad | watchRead
  | watchClear | unitMode | unitInfo | save | scanStart | scanAbort | scanLogRead | logRead
  | countersRead | guardSetUser | guardSetRecovery | guardUnlock | guardDisable | erasePrepare | eraseGuarded | freeze
  deriving DecidableEq, Repr

/-- The code of a command. -/
def Command.code : Command → Nat
  | .identify => 1
  | .setParams => 2
  | .setStreams => 3
  | .setMode => 4
  | .resetPart => 5
  | .regionRead => 6
  | .regionWrite => 7
  | .regionClear => 8
  | .pinRead => 9
  | .pinWrite => 10
  | .pinClear => 11
  | .remapRead => 12
  | .remapDelete => 13
  | .spareRead => 14
  | .spareLoad => 15
  | .watchRead => 16
  | .watchClear => 17
  | .unitMode => 18
  | .unitInfo => 19
  | .save => 20
  | .scanStart => 21
  | .scanAbort => 22
  | .scanLogRead => 23
  | .logRead => 24
  | .countersRead => 25
  | .guardSetUser => 26
  | .guardSetRecovery => 27
  | .guardUnlock => 28
  | .guardDisable => 29
  | .erasePrepare => 30
  | .eraseGuarded => 31
  | .freeze => 32

/-- The command a code names; code 0 and codes above 0x20 name none (R133). -/
def Command.ofCode : Nat → Option Command
  | 1 => some .identify
  | 2 => some .setParams
  | 3 => some .setStreams
  | 4 => some .setMode
  | 5 => some .resetPart
  | 6 => some .regionRead
  | 7 => some .regionWrite
  | 8 => some .regionClear
  | 9 => some .pinRead
  | 10 => some .pinWrite
  | 11 => some .pinClear
  | 12 => some .remapRead
  | 13 => some .remapDelete
  | 14 => some .spareRead
  | 15 => some .spareLoad
  | 16 => some .watchRead
  | 17 => some .watchClear
  | 18 => some .unitMode
  | 19 => some .unitInfo
  | 20 => some .save
  | 21 => some .scanStart
  | 22 => some .scanAbort
  | 23 => some .scanLogRead
  | 24 => some .logRead
  | 25 => some .countersRead
  | 26 => some .guardSetUser
  | 27 => some .guardSetRecovery
  | 28 => some .guardUnlock
  | 29 => some .guardDisable
  | 30 => some .erasePrepare
  | 31 => some .eraseGuarded
  | 32 => some .freeze
  | _ => none

end Sys2Proof.Machine
end

