-- ==== Sys2Proof/Machine/Frames.lean ====
section
/-!
DEFINITION. The frames of the storage link and of the unit links (12.2, 12.3): how an arriving frame is tested and read
(R41, R201, R202), and the bytes of the frames the part sends.
-/

namespace Sys2Proof.Machine

/-! ### Frames of the host -/

/-- The fields of a REQUEST frame; the kind is the byte as received. -/
structure RequestFields where
  kind : Byte
  tag : Fin 32
  stream : Fin 16
  lba : Word
  len : Word
  deriving DecidableEq, Repr

/-- The fields of a WRITE DATA frame. -/
structure WriteFields where
  tag : Fin 32
  index : Half
  data : List Byte
  deriving DecidableEq, Repr

/-- A frame of the host that passed the tests of R201. -/
inductive LinkFrame where
  | request (r : RequestFields)
  | writeData (w : WriteFields)
  | cancel (tag : Fin 32)
  | linkReset
  deriving DecidableEq, Repr

/-- The five low bits of a tag byte; the unused high bits are ignored (R201). -/
def tagOf (b : Byte) : Fin 32 := Fin.ofNat 32 b.toNat

/-- The four low bits of a stream byte. -/
def streamOf (b : Byte) : Fin 16 := Fin.ofNat 16 b.toNat

/-- The frame in the bytes before the check, by its type code and length (R201); none when it is discarded. -/
def LinkFrame.ofBody (body : List Byte) : Option LinkFrame :=
  match u1 body 0 with
  | 1 =>
    if body.length = 12 then
      some (.request { kind := body.getD 1 0, tag := tagOf (body.getD 2 0), stream := streamOf (body.getD 3 0),
                       lba := BitVec.ofNat 32 (u4 body 4), len := BitVec.ofNat 32 (u4 body 8) })
    else none
  | 2 =>
    let n := u2 body 4
    if 1 ≤ n ∧ n ≤ 512 ∧ body.length = 8 + n then
      some (.writeData { tag := tagOf (body.getD 1 0), index := BitVec.ofNat 16 (u2 body 2), data := body.drop 8 })
    else none
  | 3 => if body.length = 4 then some (.cancel (tagOf (body.getD 1 0))) else none
  | 4 => if body.length = 4 then some .linkReset else none
  | _ => none

/-- A frame arriving on the storage link (R201): first its check, then its type and length; none when it is discarded. -/
def LinkFrame.parse (frame : List Byte) : Option LinkFrame := (checked frame).bind LinkFrame.ofBody

/-- The bytes before the check of a frame the host sends (12.2). -/
def LinkFrame.body : LinkFrame → List Byte
  | .request r => [1, r.kind, BitVec.ofNat 8 r.tag.val, BitVec.ofNat 8 r.stream.val] ++ le4 r.lba.toNat ++ le4 r.len.toNat
  | .writeData w => [2, BitVec.ofNat 8 w.tag.val] ++ le2 w.index.toNat ++ le2 w.data.length ++ [0, 0] ++ w.data
  | .cancel tag => [3, BitVec.ofNat 8 tag.val, 0, 0]
  | .linkReset => [4, 0, 0, 0]

/-- The bytes of a frame of the host. -/
def LinkFrame.bytes (f : LinkFrame) : List Byte := withCheck f.body

/-! ### Frames the part sends to the host -/

/-- The bytes of a frame of the part (12.2, R201). -/
def HostFrame.bytes : HostFrame → List Byte
  | .readData tag index data =>
    withCheck ([0x81, BitVec.ofNat 8 tag.val] ++ le2 index ++ le2 data.length ++ [0, 0] ++ data)
  | .dataRequest tag first count => withCheck ([0x82, BitVec.ofNat 8 tag.val] ++ le2 first ++ le2 count ++ [0, 0])
  | .completion tag status residual failing recovered attention =>
    withCheck ([0x83, BitVec.ofNat 8 tag.val, BitVec.ofNat 8 status.code,
                BitVec.ofNat 8 ((if recovered then 1 else 0) + (if attention then 2 else 0) + (if failing.isSome then 4 else 0))]
      ++ le4 residual ++ le4 (failing.getD 0))
  | .reject tag reason => withCheck [0x84, BitVec.ofNat 8 tag.val, BitVec.ofNat 8 reason.code, 0]

/-! ### Frames of a unit -/

/-- The fields of a RESULT frame; kind and outcome are the bytes as received. -/
structure ResultFields where
  slot : Fin 4
  kind : Byte
  outcome : Byte
  stop : Word
  soft : List Nat
  capacity : Nat
  deriving DecidableEq, Repr

/-- A frame of a unit that passed the tests of R202. -/
inductive UnitFrame where
  | data (slot : Fin 4) (offset : Nat) (block : Block)
  | result (r : ResultFields)
  deriving DecidableEq, Repr

/-- The four-byte fields of a list of bytes from an offset, n of them. -/
def words (l : List Byte) (off : Nat) : Nat → List Nat
  | 0 => []
  | n + 1 => u4 l off :: words l (off + 4) n

/-- The frame in the bytes before the check, by its type code, length and slot (R202); none when it is discarded. -/
def UnitFrame.ofBody (body : List Byte) : Option UnitFrame :=
  if h : u1 body 1 < 4 then
    let slot : Fin 4 := ⟨u1 body 1, h⟩
    match u1 body 0 with
    | 0x11 => if body.length = 516 then some (.data slot (u2 body 2) (body.drop 4)) else none
    | 0x12 =>
      let k := u1 body 8
      if k ≤ 8 ∧ body.length = 20 + 4 * k then
        some (.result { slot := slot, kind := body.getD 2 0, outcome := body.getD 3 0, stop := BitVec.ofNat 32 (u4 body 4),
                        soft := words body 20 k, capacity := u8 body 12 })
      else none
    | _ => none
  else none

/-- A frame arriving on a unit link (R202); none when it is discarded. -/
def UnitFrame.parse (frame : List Byte) : Option UnitFrame := (checked frame).bind UnitFrame.ofBody

/-- The bytes before the check of a frame a unit sends (12.3). -/
def UnitFrame.body : UnitFrame → List Byte
  | .data slot offset block => [0x11, BitVec.ofNat 8 slot.val] ++ le2 offset ++ block
  | .result r =>
    [0x12, BitVec.ofNat 8 r.slot.val, r.kind, r.outcome] ++ le4 r.stop.toNat ++ le1 r.soft.length ++ [0, 0, 0]
      ++ le8 r.capacity ++ r.soft.flatMap le4

/-- The bytes of a frame of a unit. -/
def UnitFrame.bytes (f : UnitFrame) : List Byte := withCheck f.body

/-- The bytes of an OP frame (12.3): the count is 0 for kinds without an extent, and a WRITE carries its blocks. -/
def SentOp.bytes (o : SentOp) : List Byte :=
  withCheck ([0x10, BitVec.ofNat 8 o.slot.val] ++ le1 o.kind.code ++ le1 o.count ++ le4 o.first ++ zeros 4
    ++ (match o.kind with
        | .write => o.data.flatten
        | _ => []))

/-! ### Kind of frame a command carries -/

/-- A frame on the storage link that the port would discard, or that is a REQUEST frame. -/
def isRequestFrame (frame : List Byte) : Bool :=
  match LinkFrame.parse frame with
  | none => true
  | some (.request _) => true
  | some (.writeData _) => false
  | some (.cancel _) => false
  | some .linkReset => false

/-- A frame on the storage link that the port would discard, or that is a WRITE DATA frame. -/
def isWriteDataFrame (frame : List Byte) : Bool :=
  match LinkFrame.parse frame with
  | none => true
  | some (.request _) => false
  | some (.writeData _) => true
  | some (.cancel _) => false
  | some .linkReset => false

/-- A frame on the storage link that the port would discard, or that is a CANCEL frame. -/
def isCancelFrame (frame : List Byte) : Bool :=
  match LinkFrame.parse frame with
  | none => true
  | some (.request _) => false
  | some (.writeData _) => false
  | some (.cancel _) => true
  | some .linkReset => false

/-- A frame on the storage link that the port would discard, or that is a LINK RESET frame. -/
def isLinkResetFrame (frame : List Byte) : Bool :=
  match LinkFrame.parse frame with
  | none => true
  | some (.request _) => false
  | some (.writeData _) => false
  | some (.cancel _) => false
  | some .linkReset => true

/-- A frame on a unit link that the port would discard, or that is a DATA frame. -/
def isUnitDataFrame (frame : List Byte) : Bool :=
  match UnitFrame.parse frame with
  | none => true
  | some (.data _ _ _) => true
  | some (.result _) => false

/-- A frame on a unit link that the port would discard, or that is a RESULT frame. -/
def isResultFrame (frame : List Byte) : Bool :=
  match UnitFrame.parse frame with
  | none => true
  | some (.data _ _ _) => false
  | some (.result _) => true

end Sys2Proof.Machine
end

