-- ==== Sys2Proof/WellFormed.lean ====
section
/-!
DEFINITION. Which commands are well formed: a command that carries a frame carries a frame of its own kind, or one the link
discards; a block index lies within the largest request.
-/

namespace Sys2Proof

open Sys2Proof.Machine

/-- The largest block count of a request: 1 048 576 bytes are 2048 blocks (R42). -/
def Instr.indexLimit : Nat := 2048

/-- A command is well formed when its frame is of its own kind or is discarded (R201, R202), and its block index is one a
request can have. -/
def Instr.wellFormed : Instr → Bool
  | .request frame => isRequestFrame frame
  | .writeData frame => isWriteDataFrame frame
  | .cancel frame => isCancelFrame frame
  | .linkReset frame => isLinkResetFrame frame
  | .windowDataTimeout _ => true
  | .dataTimeout _ index => decide (index < Instr.indexLimit)
  | .bufferClaimGrant => true
  | .holdCleared => true
  | .syncComplete => true
  | .queuePlaceFree _ => true
  | .pendingWriteRedirect => true
  | .unitPresentAsserted _ => true
  | .unitPresentReleased _ => true
  | .unitFaultLineChange _ _ => true
  | .unitData _ frame => isUnitDataFrame frame
  | .result _ frame => isResultFrame frame
  | .unitTimeout _ _ => true
  | .partReset _ => true
  | .agingExpiry => true
  | .quietTimerExpiry => true
  | .idleTimerExpiry => true
  | .relocationStart => true
  | .takeSave => true
  | .drainEnd => true
  | .powerDown _ => true
  | .poweringDownComplete => true
  | .wakeSettled => true
  | .eraseWaitEnd => true
  | .identify => true
  | .setParams => true
  | .setStreams => true
  | .setMode => true
  | .resetPart => true
  | .regionRead => true
  | .regionWrite => true
  | .regionClear => true
  | .pinRead => true
  | .pinWrite => true
  | .pinClear => true
  | .remapRead => true
  | .remapDelete => true
  | .spareRead => true
  | .spareLoad => true
  | .watchRead => true
  | .watchClear => true
  | .unitMode => true
  | .unitInfo => true
  | .save => true
  | .scanStart => true
  | .scanAbort => true
  | .scanLogRead => true
  | .logRead => true
  | .countersRead => true
  | .guardSetUser => true
  | .guardSetRecovery => true
  | .guardUnlock => true
  | .guardDisable => true
  | .erasePrepare => true
  | .eraseGuarded => true
  | .freeze => true
  | .resetLineReleased => true
  | .readDataSent _ index => decide (index < Instr.indexLimit)

end Sys2Proof
end

