-- ==== Sys2Proof/Machine/Ops.lean ====
section
/-!
DEFINITION. The named operations every meaning is made of: saturating counts, time stamps, event flags, the DIRTY mark, the
history ring and the error log, the tag table, frames sent to the host, the counter bank, the buffers.
-/

namespace Sys2Proof.Machine

/-! ### Small things -/

/-- A count that rises by n and saturates at a top (R198). -/
def satAdd (top n x : Nat) : Nat := min top (x + n)

/-- A list that keeps its newest n elements when one is added at its end (R123, R191). -/
def pushBounded {α : Type} (n : Nat) (l : List α) (x : α) : List α := (l ++ [x]).drop (l.length + 1 - n)

/-- A serial number, and the state that will give the next one (log entry 6). -/
def State.takeId (s : State) : Nat × State := (s.nextId, { s with nextId := s.nextId + 1 })

/-- Blocks in a byte length: divided by 512, rounded up (R1). -/
def blocksOf (len : Nat) : Nat := (len + 511) / 512

/-- Two extents on one unit share a block; extents with count 0 share none (R48). -/
def Extent.overlaps (x y : Extent) : Bool :=
  x.unit == y.unit && decide (max x.first y.first < min (x.first + x.count) (y.first + y.count))

/-- A block lies in the run of n blocks from a first one. -/
def inRun (first n x : Nat) : Bool := decide (first ≤ x ∧ x < first + n)

/-- Whether a mask holds a stream (12.1). -/
def hasStream (mask : Half) (stream : Fin 16) : Bool := mask.getLsbD stream.val

/-- The position of the first element that passes a test, with the element. -/
def findPos {α : Type} (p : α → Bool) : List α → Nat → Option (Nat × α)
  | [], _ => none
  | x :: l, n => if p x then some (n, x) else findPos p l (n + 1)

/-! ### Time -/

/-- Whether the start-up load has ended (R189). -/
def State.loadEnded (s : State) : Bool := s.store.load.isNone

/-- A time stamp formed now: its start count is open while the load has not ended (R192). -/
def State.now (s : State) : TimeStamp :=
  { start := if s.loadEnded then some s.store.startCount else none, ms := s.ms }

/-- A time stamp whose open start count is set (R192). -/
def TimeStamp.close (c : Word) (t : TimeStamp) : TimeStamp :=
  match t.start with
  | none => { t with start := some c }
  | some _ => t

/-- A timer started now for a period in milliseconds. -/
def State.startTimer (s : State) (period : Nat) : Timer := .running s.ms period

/-- Whether a timer runs. -/
def Timer.runs : Timer → Bool
  | .stopped => false
  | .running _ _ => true

/-- One millisecond passes: the milliseconds since start-up advance and wrap (00, 5.3), but not while the part is held in reset
(log entry 1). -/
def State.tick (s : State) : State := if s.inReset then s else { s with ms := s.ms + 1 }

/-- A command acts only while the part is out of reset (R187, log entry 5). -/
def whenUp (s : State) (f : State → State) : Host.Outcome State Fault Refusal := .next (if s.inReset then s else f s)

/-! ### Event flags (R142 to R144) -/

/-- The bit of an event flag. -/
def Event.bit (e : Event) : Half := (1 : Half) <<< e.code

/-- An event is raised: its flag is set (R142). -/
def State.raise (s : State) (e : Event) : State :=
  { s with mgmt := { s.mgmt with events := s.mgmt.events ||| e.bit } }

/-- The ATTENTION flag as a COMPLETION is sent: set when at least one event flag is set (R144). -/
def State.attention (s : State) : Bool := s.mgmt.events != 0

/-! ### The DIRTY mark (R181) -/

/-- The store's record after a change to a saved item (R181), without the retry hold. -/
def StoreController.changed (c : StoreController) : StoreController :=
  match c.state with
  | .clean => { c with state := .dirty }
  | .invalid => { c with state := .dirty }
  | .dirty => c
  | .saving => { c with dirtyAgain := true }
  | .absent => c

/-- A change to a saved item marks the store DIRTY and clears the retry hold (R181). -/
def State.markDirty (s : State) : State :=
  { s with store := { s.store.changed with retryHold := false } }

/-- The same mark for the entry that records the failure of a save: the retry hold stays (R181, R196). -/
def State.markDirtyKeepHold (s : State) : State := { s with store := s.store.changed }

/-! ### History ring and error log (R191 to R196) -/

/-- A record is added to the history ring, which keeps 5 (R191); the answer holds the record with its serial number. -/
def State.addRecord (s : State) (r : HistRec) : RingRec × State :=
  let rec' : RingRec := { id := s.nextId, record := r }
  (rec', { s with nextId := s.nextId + 1, log := { s.log with ring := pushBounded 5 s.log.ring rec' } })

/-- What is reported to the log unit: the failure, and the failing item's record where there is one (R194). -/
structure LogReport where
  kind : LogKind
  unit : Fin 4
  block : Option Nat
  logical : Option Nat
  item : Option RingRec
  /-- The entry records the failure of a save itself (R196). -/
  ofSave : Bool
  deriving DecidableEq, Repr

/-- The entry formed from a report: the preceding records are the 4 newest of the ring, newest first, without the failing
item's own (R194). -/
def State.formEntry (s : State) (r : LogReport) : LogEntry :=
  let others := s.log.ring.filter fun x =>
    match r.item with
    | none => true
    | some own => x.id != own.id
  { kind := r.kind, unit := r.unit, block := r.block.map fun b => ⟨r.unit, b⟩, logical := r.logical,
    mode := s.modes.mode, stamp := s.now, item := r.item.map (·.record),
    preceding := (others.reverse.take 4).map (·.record) }

/-- The slot after a latest index: from 8 back to 1 (R193). -/
def nextIndex (latest : Nat) : Nat := if 8 ≤ latest then 1 else latest + 1

/-- An entry is written into the log: latest index, slot, lifetime error count (R193, R196). -/
def LogUnit.write (l : LogUnit) (e : LogEntry) : LogUnit :=
  let k := nextIndex l.latest
  { l with latest := k, slots := if h : k - 1 < 8 then l.slots.set (k - 1) (some e) else l.slots,
           lifetime := satAdd 65535 1 l.lifetime }

/-- An entry is logged, with its three effects (R196). -/
def State.logEntry (s : State) (e : LogEntry) (ofSave : Bool) : State :=
  let s := { s with log := s.log.write e }
  let s := s.raise .errorLogged
  if ofSave then s.markDirtyKeepHold else s.markDirty

/-- A failure is reported to the log unit: logged at once, or held until the load ends (R196). -/
def State.report (s : State) (r : LogReport) : State :=
  let e := s.formEntry r
  if s.loadEnded then s.logEntry e r.ofSave
  else { s with log := { s.log with held := s.log.held ++ [e] } }

/-! ### Counters (R198) -/

/-- A 32-bit counter rises by n (R198). -/
def bump (n x : Nat) : Nat := satAdd Config.top32 n x

/-- A counter of a stream changes. -/
def State.onStream (s : State) (i : Fin 16) (f : StreamCounters → StreamCounters) : State :=
  { s with counters := { s.counters with streams := s.counters.streams.set i (f s.counters.streams[i]) } }

/-- A counter of a unit changes. -/
def State.onUnitCounters (s : State) (u : Fin 4) (f : UnitCounters → UnitCounters) : State :=
  { s with counters := { s.counters with units := s.counters.units.set u (f (s.counters.units.get u)) } }

/-- A link counter changes. -/
def State.onLinkCounters (s : State) (f : LinkCounters → LinkCounters) : State :=
  { s with counters := { s.counters with link := f s.counters.link } }

/-- Requests completed rises (R198). -/
def State.countCompleted (s : State) (i : Fin 16) : State :=
  s.onStream i fun c => { c with completed := bump 1 c.completed }

/-- Requests refused rises (R198). -/
def State.countRefused (s : State) (i : Fin 16) : State :=
  s.onStream i fun c => { c with refused := bump 1 c.refused }

/-- Blocks read rises by one (R56, R198). -/
def State.countBlockRead (s : State) (i : Fin 16) : State :=
  s.onStream i fun c => { c with blocksRead := bump 1 c.blocksRead }

/-- Blocks written rises by n (R59, R198). -/
def State.countBlocksWritten (s : State) (i : Fin 16) (n : Nat) : State :=
  s.onStream i fun c => { c with blocksWritten := bump n c.blocksWritten }

/-- Discarded data rises (R59). -/
def State.countDiscardedData (s : State) : State :=
  s.onLinkCounters fun c => { c with discardedData := bump 1 c.discardedData }

/-- Frames discarded rises (R41). -/
def State.countFrameDiscarded (s : State) : State :=
  s.onLinkCounters fun c => { c with framesDiscarded := bump 1 c.framesDiscarded }

/-- Data-late rises (R60, R130). -/
def State.countDataLate (s : State) : State :=
  s.onLinkCounters fun c => { c with dataLate := bump 1 c.dataLate }

/-! ### Link port (R41 to R43) -/

/-- A frame is sent to the host. -/
def State.send (s : State) (f : HostFrame) : State := { s with link := { s.link with sent := s.link.sent ++ [f] } }

/-- The use of a tag changes (R43). -/
def State.setTag (s : State) (t : Fin 32) (u : TagUse) : State :=
  { s with link := { s.link with tags := s.link.tags.set t u } }

/-- The use of a tag (R43). -/
def State.tagUse (s : State) (t : Fin 32) : TagUse := s.link.tags[t]

/-- A COMPLETION is sent, with ATTENTION as the event flags then stand (R144), and its tag is freed (R43). -/
def State.sendCompletion (s : State) (tag : Fin 32) (status : Status) (residual : Nat) (failing : Option Nat)
    (recovered : Bool) : State :=
  (s.send (.completion tag status residual failing recovered s.attention)).setTag tag .free

/-! ### Admission list (R47) -/

/-- The serial number of an item. -/
def Item.id : Item → Nat
  | .host r => r.id
  | .reloc r => r.id

/-- The request of a host item. -/
def Item.request? : Item → Option Request
  | .host r => some r
  | .reloc _ => none

/-- Whether an item makes host traffic: a READ, WRITE or VERIFY that has passed all seven checks, live or orphan (R111). -/
def Item.traffic : Item → Bool
  | .host r => r.passed
  | .reloc _ => false

/-- Whether host traffic is present (R111). -/
def State.traffic (s : State) : Bool := s.engine.items.any Item.traffic

/-- The request with a serial number. -/
def State.request? (s : State) (id : Nat) : Option Request :=
  (s.engine.items.find? fun i => i.id == id).bind Item.request?

/-- The live request that holds a tag. -/
def State.liveRequest? (s : State) (tag : Fin 32) : Option Request :=
  s.engine.items.findSome? fun i =>
    match i with
    | .host r => if r.tag == tag && !r.orphan then some r else none
    | .reloc _ => none

/-- An item whose request changes where it has a serial number. -/
def Item.onRequest (id : Nat) (f : Request → Request) : Item → Item
  | .host r => if r.id == id then .host (f r) else .host r
  | .reloc r => .reloc r

/-- A request's context changes. -/
def State.onRequest (s : State) (id : Nat) (f : Request → Request) : State :=
  { s with engine := { s.engine with items := s.engine.items.map (Item.onRequest id f) } }

/-- Traffic ends when the last item that made it present leaves: the quiet timer starts (R111). -/
def State.trafficEnds (before : Bool) (s : State) : State :=
  if before && !s.traffic then
    { s with scan := { s.scan with quietTimer := s.startTimer s.mgmt.params.quietTime } }
  else s

/-- A request leaves the admission list from wherever it stands (R47). -/
def State.removeItem (s : State) (id : Nat) : State :=
  let before := s.traffic
  State.trafficEnds before
    { s with engine := { s.engine with items := s.engine.items.filter fun i => i.id != id } }

/-- A relocation item leaves the admission list; no host traffic ends with it (R101, R111). -/
def State.removeReloc (s : State) (id : Nat) : State :=
  { s with engine := { s.engine with items := s.engine.items.filter fun i => i.request?.isSome || i.id != id } }

/-- An item joins the end of the admission list (R47); the idle timer's condition breaks (R177). -/
def State.addItem (s : State) (i : Item) : State :=
  { s with engine := { s.engine with items := s.engine.items ++ [i] }, modes := { s.modes with idle := .stopped } }

/-! ### Segments and buffers (R52 to R55) -/

/-- A request's segment changes. -/
def Request.onSegment (r : Request) (seg : Nat) (f : Segment → Segment) : Request :=
  { r with segs := r.segs.map fun g => if g.id == seg then f g else g }

/-- The segment of a request with a serial number. -/
def Request.segment? (r : Request) (seg : Nat) : Option Segment := r.segs.find? fun g => g.id == seg

/-- A segment changes. -/
def State.onSegment (s : State) (id seg : Nat) (f : Segment → Segment) : State :=
  s.onRequest id fun r => r.onSegment seg f

/-- The buffers that a list of segments holds (R54). -/
def heldBy (l : List Segment) : Nat := (l.map fun g => g.buffers).sum

/-- The segments of a request become a list, and the buffers they hold with them: what they give up goes back to the pool, what they
take comes from it. No more is taken than is free (R54, R55, log entry 61). -/
def State.resegment (s : State) (id : Nat) (f : List Segment → List Segment) : State :=
  match s.request? id with
  | none => s
  | some r =>
    let free := s.engine.freeBuffers + heldBy r.segs
    let l := f r.segs
    if heldBy l ≤ free then
      let s := s.onRequest id fun r => { r with segs := l }
      { s with engine := { s.engine with freeBuffers := free - heldBy l } }
    else s

/-- The state of a segment as R52 names it. -/
inductive SegState where
  | pending | filling | issued | verifying
  deriving DecidableEq, Repr

/-- The state of R52 in which a segment is. A segment under verify-after-write repair is VERIFYING. -/
def Segment.state (g : Segment) : SegState :=
  match g.phase with
  | .claim => .pending
  | .filling => .filling
  | .place => .pending
  | .retry => .pending
  | .redirect 0 => .pending
  | .redirect (_ + 1) => .issued
  | .issued => .issued
  | .sending => .issued
  | .verifying => .verifying
  | .verifyPlace => .verifying
  | .verifyRetry => .verifying
  | .repairing =>
    match g.repair with
    | some r => if r.kind = .verifyRepair then .verifying else .issued
    | none => .issued

/-- Whether a segment is PENDING or FILLING, so that it can be dropped (R52). -/
def Segment.droppable (g : Segment) : Bool :=
  match g.state with
  | .pending => true
  | .filling => true
  | .issued => false
  | .verifying => false

/-- The segments of a request that pass a test are dropped: their claims, DATA REQUESTs and data are forgotten and their
buffers released (R52, R55). -/
def State.dropSegments (s : State) (id : Nat) (p : Segment → Bool) : State :=
  s.resegment id fun l => l.filter fun g => !(g.droppable && p g)

/-- The data a segment holds for its blocks, in order; a block without data counts as empty. -/
def Segment.blocks (g : Segment) : List Block :=
  (List.range g.count).map fun i =>
    match g.data.find? fun d => d.1 == g.off + i with
    | some d => d.2
    | none => []

/-! ### Ports -/

/-- A port's record changes. -/
def State.onPort (s : State) (u : Fin 4) (f : Port → Port) : State :=
  { s with ports := s.ports.set u (f (s.ports.get u)) }

/-- The port of a unit. -/
def State.port (s : State) (u : Fin 4) : Port := s.ports.get u

/-- Work is left for later in the same step (log entry 25). -/
def State.later (s : State) (w : Work) : State := { s with todo := s.todo ++ [w] }

/-- Whether a port serves: READY or READ_ONLY. -/
def PortState.serves : PortState → Bool
  | .ready => true
  | .readOnly => true
  | .absent => false
  | .attaching => false
  | .offline => false
  | .sleeping => false
  | .failed => false

/-- Whether a port ends every operation offered to it (R70). -/
def PortState.unavailable : PortState → Bool
  | .absent => true
  | .offline => true
  | .failed => true
  | .ready => false
  | .readOnly => false
  | .attaching => false
  | .sleeping => false

end Sys2Proof.Machine
end

