-- ==== Sys2Proof/Machine/Operands.lean ====
section
/-!
DEFINITION. How a management command's parameters and payload are read from its command block (12.4): parameters from offset 8
in the order their rule names them, each packed at its natural width; the payload from offset 32.
-/

namespace Sys2Proof.Machine

/-- A one-byte parameter at an offset from the first parameter. -/
def Taken.p1 (t : Taken) (off : Nat) : Nat := u1 t.block (8 + off)

/-- A two-byte parameter. -/
def Taken.p2 (t : Taken) (off : Nat) : Nat := u2 t.block (8 + off)

/-- A four-byte parameter. -/
def Taken.p4 (t : Taken) (off : Nat) : Nat := u4 t.block (8 + off)

/-- The payload length (12.4). -/
def Taken.payloadLength (t : Taken) : Nat := u2 t.block 4

/-- The payload, as long as the payload length says. -/
def Taken.payload (t : Taken) : List Byte := slice t.block 32 t.payloadLength

/-- The unit a byte names, 0 to 3. -/
def unitOf (n : Nat) : Option (Fin 4) := if h : n < 4 then some ⟨n, h⟩ else none

/-- The region index a parameter names, 0 to 15. -/
def regionIndex (n : Nat) : Option (Fin 16) := if h : n < 16 then some ⟨n, h⟩ else none

/-- The pin index a parameter names, 0 to 31. -/
def pinIndex (n : Nat) : Option (Fin 32) := if h : n < 32 then some ⟨n, h⟩ else none

/-- The error log slot a parameter names, 1 to 8, as an index of the slots. -/
def slotIndex (n : Nat) : Option (Fin 8) := if h : 1 ≤ n ∧ n ≤ 8 then some ⟨n - 1, by omega⟩ else none

/-- The entry in the layout of 12.4, set valid; none when its unit byte is above 3. Byte 0 and the valid bit are not read. -/
def regionEntryOf (l : List Byte) : Option RegionEntry :=
  (unitOf (u1 l 2)).map fun u =>
    { valid := true, logical := u4 l 4, count := u4 l 8, unit := u, physical := u4 l 12,
      readers := BitVec.ofNat 16 (u2 l 16), writers := BitVec.ofNat 16 (u2 l 18),
      readOnly := (u1 l 1).testBit 1, guarded := (u1 l 1).testBit 2, verifyAfter := (u1 l 1).testBit 3 }

/-- The extents in a payload of SPARE_LOAD, 8 bytes each, n of them. -/
def extentsOf (l : List Byte) (n : Nat) : List SpareExtent :=
  (List.range n).map fun i => { first := u4 l (8 * i), count := u4 l (8 * i + 4) }

/-- An item of the change list of SET_PARAMS: a parameter number and a value. -/
structure Change where
  number : Nat
  value : Nat
  deriving DecidableEq, Repr

/-- The change list in a payload of SET_PARAMS, 8 bytes an item, n of them. -/
def changesOf (l : List Byte) (n : Nat) : List Change :=
  (List.range n).map fun i => { number := u1 l (8 * i), value := u4 l (8 * i + 4) }

/-- The code in the payload of a guard command. -/
def Taken.guardCode (t : Taken) : List Byte := slice t.block 32 32

end Sys2Proof.Machine
end

