-- ==== Sys2Proof/Machine/Map.lean ====
section
/-!
DEFINITION. The map unit: translation and the remap lookup (R10, R11, R20), the checks of the tables (R6, R19, R23, R36, R40),
capacity (R17), the spare pools and their claims (R27 to R35), and the health of a unit's pool (R38, R39).
-/

namespace Sys2Proof.Machine

open Sys2Proof

/-! ### Translation (R10 to R12) -/

/-- The indices of the region table in order. -/
def regionIndices : List (Fin 16) := List.finRange 16

/-- The indices of the pin table in order. -/
def pinIndices : List (Fin 32) := List.finRange 32

/-- A valid region whose logical range holds an LBA (R12). -/
def RegionEntry.holdsLba (r : RegionEntry) (x : Nat) : Bool := r.valid && inRun r.logical r.count x

/-- A valid region whose physical range holds a block (R11). -/
def RegionEntry.maps (r : RegionEntry) (u : Fin 4) (b : Nat) : Bool := r.valid && r.unit == u && inRun r.physical r.count b

/-- The physical range of a region (R3). -/
def RegionEntry.extent (r : RegionEntry) : Extent := { unit := r.unit, first := r.physical, count := r.count }

/-- The home block of an LBA of a region (R10). -/
def RegionEntry.homeOf (r : RegionEntry) (x : Nat) : Nat := r.physical + x - r.logical

/-- The region that maps a physical block (R11). -/
def MapUnit.regionOf (m : MapUnit) (u : Fin 4) (b : Nat) : Option (Fin 16) :=
  regionIndices.find? fun i => m.regions[i].maps u b

/-- The LBA that a physical block serves: the region's logical start, plus the block, minus the region's physical start; none for a
block that is not region-mapped (R11). -/
def MapUnit.lbaOf (m : MapUnit) (u : Fin 4) (b : Nat) : Option Nat :=
  (m.regionOf u b).map fun i => m.regions[i].logical + b - m.regions[i].physical

/-- Whether a physical block is region-mapped (R11). -/
def MapUnit.mapped (m : MapUnit) (u : Fin 4) (b : Nat) : Bool := (m.lbaOf u b).isSome

/-- The region that holds a range of LBAs whole, of which a count of 0 asks for the first alone (R12). -/
def MapUnit.regionLookup (m : MapUnit) (lba count : Nat) : Option (Fin 16) :=
  match regionIndices.find? fun i => m.regions[i].holdsLba lba with
  | none => none
  | some i => if count = 0 ∨ m.regions[i].holdsLba (lba + count - 1) then some i else none

/-! ### The remap lookup (R20) -/

/-- The valid pin with a source. -/
def MapUnit.pinOf (m : MapUnit) (u : Fin 4) (h : Nat) : Option (Fin 32) :=
  pinIndices.find? fun i => m.pins[i].valid && m.pins[i].unit == u && m.pins[i].source == h

/-- The valid pin with a target. -/
def MapUnit.pinAt (m : MapUnit) (u : Fin 4) (b : Nat) : Option (Fin 32) :=
  pinIndices.find? fun i => m.pins[i].valid && m.pins[i].unit == u && m.pins[i].target == b

/-- The learned entry with a source, with its position. -/
def MapUnit.learnedOf (m : MapUnit) (u : Fin 4) (h : Nat) : Option (Nat × LearnedEntry) :=
  findPos (fun e : LearnedEntry => e.unit == u && e.source == h) m.learned 0

/-- The learned entry with a target, with its position. -/
def MapUnit.learnedAt (m : MapUnit) (u : Fin 4) (b : Nat) : Option (Nat × LearnedEntry) :=
  findPos (fun e : LearnedEntry => e.unit == u && e.target == b) m.learned 0

/-- The remap lookup of a home block: the accessed block and the route (R20). -/
def MapUnit.lookup (m : MapUnit) (u : Fin 4) (h : Nat) : Nat × Route :=
  match m.pinOf u h with
  | some i => (m.pins[i].target, .pin)
  | none =>
    match m.learnedOf u h with
    | some (_, e) => (e.target, .learned)
    | none => (h, .direct)

/-- The length of the run of home blocks from a first one, at most n, whose route is DIRECT and that a test lets in. -/
def MapUnit.directRun (m : MapUnit) (u : Fin 4) (ok : Nat → Bool) (first : Nat) : Nat → Nat
  | 0 => 0
  | n + 1 => if (m.lookup u first).2 = .direct ∧ ok first then m.directRun u ok (first + 1) n + 1 else 0

/-- A cut from a home block (R51, R112, R158): the accessed first block and the count, at most `most` blocks. A block that is
not DIRECT, or that the test keeps out of runs, is cut alone. -/
def MapUnit.cut (m : MapUnit) (u : Fin 4) (ok : Nat → Bool) (h most : Nat) : Nat × Nat :=
  let found := m.lookup u h
  if found.2 = .direct ∧ ok found.1 then (h, max 1 (m.directRun u ok h (min most Config.longestRun))) else (found.1, 1)

/-! ### Capacity (R17) -/

/-- An extent fits a capacity (R17). -/
def fits (first count capacity : Nat) : Bool := decide (first + count ≤ capacity)

/-- The capacity a check of the tables compares with: known, and the port READY, READ_ONLY, OFFLINE or SLEEPING (R6, R23,
R36). -/
def Port.checkedCapacity (p : Port) : Option Nat :=
  match p.state with
  | .ready => p.capacity
  | .readOnly => p.capacity
  | .offline => p.capacity
  | .sleeping => p.capacity
  | .absent => none
  | .attaching => none
  | .failed => none

/-- An extent does not fit the capacity that checks compare with. -/
def Port.overCapacity (p : Port) (first count : Nat) : Bool :=
  match p.checkedCapacity with
  | some c => !fits first count c
  | none => false

/-- The capacity covers a unit's requirements (R17). -/
def MapUnit.covers (m : MapUnit) (u : Fin 4) (capacity : Nat) : Bool :=
  (regionIndices.all fun i =>
    !(m.regions[i].valid && m.regions[i].unit == u) || fits m.regions[i].physical m.regions[i].count capacity) &&
  (pinIndices.all fun i => !(m.pins[i].valid && m.pins[i].unit == u) || fits m.pins[i].target 1 capacity) &&
  (m.learned.all fun e => !(e.unit == u) || fits e.target 1 capacity) &&
  ((m.pools.get u).extents.all fun x => fits x.first x.count capacity) &&
  (u != 0 || decide (Config.storeBlocks ≤ capacity))

/-! ### Conflict reports (12.4) -/

/-- A conflict report: the failed check and the other party, with its index, position or unit and the block it names. -/
structure Conflict where
  check : ConflictCheck
  party : ConflictParty
  index : Option Nat
  block : Option Phys
  deriving DecidableEq, Repr

/-- A report that names an index. -/
def Conflict.at (check : ConflictCheck) (party : ConflictParty) (index : Nat) : Conflict :=
  { check := check, party := party, index := some index, block := none }

/-- A report that names no other party. -/
def Conflict.bare (check : ConflictCheck) : Conflict := { check := check, party := .none, index := none, block := none }

/-- The 12 bytes of a conflict report (12.4): 0xFFFF for no index, 0xFF for the unit of no block (12.1). -/
def Conflict.bytes (c : Conflict) : List Byte :=
  le1 c.check.code ++ le1 c.party.code ++ le2 (c.index.getD 65535)
    ++ (match c.block with
        | some b => le1 b.unit.val ++ zeros 3 ++ le4 b.block
        | none => le1 255 ++ zeros 3 ++ le4 0)

/-- The first report of a list of checks made in order. -/
def firstConflict (l : List (Option Conflict)) : Option Conflict := l.findSome? id

/-- A check that fails with a report when a test holds. -/
def failsWith (test : Bool) (c : Conflict) : Option Conflict := if test then some c else none

/-! ### Spare pools (R32) -/

/-- The remaining spares of a pool (R32). -/
def Pool.remaining (p : Pool) : Nat := (p.extents.map fun x => x.count).sum + p.returned.length

/-- A place in a pool that shares a block with a range: an extent position, RETURN or ISSUED (R6, R23). Where several do, the first
extent in list order is named, then RETURN, then ISSUED (log entry 48). -/
def Pool.placeIn (p : Pool) (first count : Nat) : Option Conflict :=
  match findPos (fun x : SpareExtent => decide (max x.first first < min (x.first + x.count) (first + count))) p.extents 0 with
  | some (i, _) => some (Conflict.at .spareExtent .extent i)
  | none =>
    if p.returned.any fun b => inRun first count b then some { Conflict.bare .spareExtent with party := .returned }
    else if p.issued.any fun c => inRun first count c.spare then some { Conflict.bare .spareExtent with party := .issued }
    else none

/-- The reserved places (R27): the issued spares whose claims hold one. -/
def MapUnit.reserved (m : MapUnit) : Nat := (m.pools.toList.map fun p => (p.issued.filter fun c => c.place).length).sum

/-- The sum of the accounts equals the loaded count (R32). -/
def Pool.lawful (p : Pool) : Bool := p.remaining + p.consumed + p.discarded == p.loaded

/-! ### Checks of the tables -/

/-- The lowest pin whose target lies in a range of a unit. -/
def MapUnit.pinTargetIn (m : MapUnit) (u : Fin 4) (first count : Nat) : Option (Fin 32) :=
  pinIndices.find? fun i => m.pins[i].valid && m.pins[i].unit == u && inRun first count m.pins[i].target

/-- The oldest learned entry whose target lies in a range of a unit. -/
def MapUnit.learnedTargetIn (m : MapUnit) (u : Fin 4) (first count : Nat) : Option (Nat × LearnedEntry) :=
  findPos (fun e : LearnedEntry => e.unit == u && inRun first count e.target) m.learned 0

/-- Two ranges of LBAs share one. -/
def rangesMeet (a n b m : Nat) : Bool := decide (max a b < min (a + n) (b + m))

/-- Checks 1 to 7 of R6 on a proposed entry at an index; the entry that stands there takes no part. Check 7 passes for a port
that is ABSENT, ATTACHING or FAILED, as R19 asks too. -/
def State.regionConflict (s : State) (i : Fin 16) (e : RegionEntry) : Option Conflict :=
  let m := s.map
  let others := regionIndices.filter fun j => j != i && m.regions[j].valid
  firstConflict [
    (others.find? fun j => rangesMeet e.logical e.count m.regions[j].logical m.regions[j].count).map
      fun j => Conflict.at .logicalOverlap .region j.val,
    (others.find? fun j => e.extent.overlaps m.regions[j].extent).map fun j => Conflict.at .physicalOverlap .region j.val,
    failsWith (e.unit == 0 && decide (e.physical < Config.storeBlocks)) (Conflict.bare .storeArea),
    (m.pools.get e.unit).placeIn e.physical e.count,
    (m.pinTargetIn e.unit e.physical e.count).map fun j => Conflict.at .pinTarget .pin j.val,
    (m.learnedTargetIn e.unit e.physical e.count).map fun j => Conflict.at .learnedTarget .learned j.1,
    failsWith ((s.port e.unit).overCapacity e.physical e.count) (Conflict.at .capacity .unit e.unit.val)]

/-- Checks 2 to 9 of R23 on a proposed pin at an index; the entry that stands there takes no part. -/
def State.pinConflict (s : State) (i : Fin 32) (e : PinEntry) : Option Conflict :=
  let m := s.map
  let others := pinIndices.filter fun j => j != i && m.pins[j].valid && m.pins[j].unit == e.unit
  firstConflict [
    (others.find? fun j => m.pins[j].source == e.source).map fun j => Conflict.at .sourceInUse .pin j.val,
    (m.regionOf e.unit e.target).map fun j => Conflict.at .targetInRegion .region j.val,
    failsWith (e.unit == 0 && decide (e.target < Config.storeBlocks)) (Conflict.bare .storeArea),
    (m.pools.get e.unit).placeIn e.target 1,
    (others.find? fun j => m.pins[j].target == e.target).map fun j => Conflict.at .pinTarget .pin j.val,
    (m.learnedAt e.unit e.target).map fun j => Conflict.at .learnedTarget .learned j.1,
    (others.find? fun j => m.pins[j].source == e.target).map fun j => Conflict.at .entrySource .pin j.val,
    (m.learnedOf e.unit e.target).map fun j => Conflict.at .entrySource .learned j.1,
    failsWith ((s.port e.unit).overCapacity e.target 1) (Conflict.at .capacity .unit e.unit.val)]

/-- Check 1 of R23: the source is not region-mapped. -/
def State.pinUnmapped (s : State) (e : PinEntry) : Option Conflict :=
  failsWith (!s.map.mapped e.unit e.source) (Conflict.bare .sourceUnmapped)

/-- An extent to check, with the party that names it in a report. -/
structure CheckedExtent where
  party : ConflictParty
  index : Option Nat
  first : Nat
  count : Nat
  deriving DecidableEq, Repr

/-- The extents of a list with their positions as parties. -/
def checkedExtents : Nat → List SpareExtent → List CheckedExtent
  | _, [] => []
  | i, x :: l => { party := .extent, index := some i, first := x.first, count := x.count } :: checkedExtents (i + 1) l

/-- The first extent, in list order, that shares a block with one before it (R36). -/
def laterOverlap : List CheckedExtent → List CheckedExtent → Option CheckedExtent
  | _, [] => none
  | before, x :: l =>
    if before.any fun y => rangesMeet y.first y.count x.first x.count then some x else laterOverlap (before ++ [x]) l

/-- Checks 2 to 8 of R36 on the extents of a unit. -/
def State.extentConflict (s : State) (u : Fin 4) (l : List CheckedExtent) : Option Conflict :=
  let m := s.map
  let report (check : ConflictCheck) (x : CheckedExtent) : Conflict :=
    { check := check, party := x.party, index := x.index, block := none }
  let holds (b : Nat) : Bool := l.any fun x => inRun x.first x.count b
  firstConflict [
    (laterOverlap [] l).map (report .extentOverlap),
    (l.find? fun x => u == 0 && decide (x.first < Config.storeBlocks)).map (report .storeArea),
    (regionIndices.find? fun j => m.regions[j].valid && m.regions[j].unit == u &&
      l.any fun x => rangesMeet x.first x.count m.regions[j].physical m.regions[j].count).map
      fun j => Conflict.at .regionRange .region j.val,
    (pinIndices.find? fun j => m.pins[j].valid && m.pins[j].unit == u && holds m.pins[j].target).map
      fun j => Conflict.at .pinTarget .pin j.val,
    (findPos (fun e : LearnedEntry => e.unit == u && holds e.target) m.learned 0).map
      fun j => Conflict.at .learnedTarget .learned j.1,
    (pinIndices.find? fun j => m.pins[j].valid && m.pins[j].unit == u && holds m.pins[j].source).map
      fun j => Conflict.at .entrySource .pin j.val,
    (findPos (fun e : LearnedEntry => e.unit == u && holds e.source) m.learned 0).map
      fun j => Conflict.at .entrySource .learned j.1,
    failsWith (l.any fun x => (s.port u).overCapacity x.first x.count) (Conflict.at .capacity .unit u.val)]

/-- The checks of part 2 of R40 on the learned entry at a position. -/
def State.learnedConflict (s : State) (pos : Nat) (e : LearnedEntry) : Option Conflict :=
  let m := s.map
  let other (p : LearnedEntry → Bool) : Option Nat :=
    (List.range m.learned.length).find? fun j => j != pos && (m.learned[j]?).any fun x => x.unit == e.unit && p x
  firstConflict [
    (m.regionOf e.unit e.target).map fun j => Conflict.at .targetInRegion .region j.val,
    failsWith (e.unit == 0 && decide (e.target < Config.storeBlocks)) (Conflict.bare .storeArea),
    (m.pools.get e.unit).placeIn e.target 1,
    (m.pinAt e.unit e.target).map fun j => Conflict.at .pinTarget .pin j.val,
    (other fun x => x.target == e.target).map fun j => Conflict.at .learnedTarget .learned j,
    (m.pinOf e.unit e.target).map fun j => Conflict.at .entrySource .pin j.val,
    (other fun x => x.source == e.target).map fun j => Conflict.at .entrySource .learned j,
    failsWith ((s.port e.unit).overCapacity e.target 1) (Conflict.at .capacity .unit e.unit.val)]

/-- The checks of part 3 of R40 on the pool of a unit; a returned block is an extent of one block named RETURN, and the check
of the three counts has the model's own name (log entry 12). -/
def State.poolConflict (s : State) (u : Fin 4) : Option Conflict :=
  let p := s.map.pools.get u
  let returned := p.returned.map fun b =>
    ({ party := .returned, index := none, first := b, count := 1 } : CheckedExtent)
  firstConflict [
    s.extentConflict u (checkedExtents 0 p.extents ++ returned),
    failsWith (!p.lawful) (Conflict.at .spareLaw .unit u.val)]

/-- The tables of the full validation, in order (R166); the code names the table in response data (log entry 17). -/
inductive ValidatedTable where
  | regions | pins | learned | pools
  deriving DecidableEq, Repr

/-- The code of a table. -/
def ValidatedTable.code : ValidatedTable → Nat
  | .regions => 0
  | .pins => 1
  | .learned => 2
  | .pools => 3

/-- The first failure of the full validation: the table, the index, position or unit, and the report (R166). -/
structure ValidationFailure where
  table : ValidatedTable
  index : Nat
  report : Conflict
  deriving DecidableEq, Repr

/-- The full validation of the tables: regions, pins, learned entries, pools (R19, R40, R166); none when it passes. -/
def State.validate (s : State) : Option ValidationFailure :=
  let m := s.map
  let regions := regionIndices.findSome? fun i =>
    if m.regions[i].valid then (s.regionConflict i m.regions[i]).map fun c => ⟨.regions, i.val, c⟩ else none
  let pins := pinIndices.findSome? fun i =>
    if m.pins[i].valid then (s.pinConflict i m.pins[i]).map fun c => ⟨.pins, i.val, c⟩ else none
  let learned := (List.range m.learned.length).findSome? fun pos =>
    (m.learned[pos]?).bind fun e => (s.learnedConflict pos e).map fun c => ⟨.learned, pos, c⟩
  let pools := units.findSome? fun u => (s.poolConflict u).map fun c => ⟨.pools, u.val, c⟩
  ([regions, pins, learned, pools] : List (Option ValidationFailure)).findSome? id

/-! ### Spare health (R38, R39) -/

/-- The health for a number of remaining spares and a low-spare threshold (R38). -/
def healthOf (remaining low : Nat) : SpareHealth :=
  if remaining = 0 then .exhausted else if remaining ≤ low then .low else .good

/-- The health of a unit (R38). -/
def State.unitHealth (s : State) (u : Fin 4) : SpareHealth :=
  healthOf (s.map.pools.get u).remaining s.mgmt.params.lowSpare

/-- An evaluation of a unit's health: a change to LOW or EXHAUSTED raises its event (R39). -/
def State.evaluateHealth (s : State) (before : SpareHealth) (u : Fin 4) : State :=
  if s.unitHealth u = before then s
  else
    match s.unitHealth u with
    | .good => s
    | .low => s.raise .spareLow
    | .exhausted => s.raise .spareExhausted

/-- A pool changes by an issue, a return, a discard or a load: the store is marked DIRTY (R32). -/
def State.onPool (s : State) (u : Fin 4) (f : Pool → Pool) : State :=
  State.markDirty { s with map := { s.map with pools := s.map.pools.set u (f (s.map.pools.get u)) } }

/-! ### Spare claims (R27, R33 to R35) -/

/-- The outcome of a spare claim (R27). -/
inductive ClaimOutcome where
  | issued (spare : Nat)
  | pinned | exhausted | tableFull
  deriving DecidableEq, Repr

/-- The next spare of a pool and the pool without it (R33). -/
def Pool.take (p : Pool) : Option (Nat × Pool) :=
  match p.returned with
  | b :: l => some (b, { p with returned := l })
  | [] =>
    match p.extents with
    | [] => none
    | x :: l =>
      if x.count ≤ 1 then some (x.first, { p with extents := l })
      else some (x.first, { p with extents := { first := x.first + 1, count := x.count - 1 } :: l })

/-- A spare claim for a home block (R27): refused PINNED, EXHAUSTED or TABLE_FULL, or a spare issued (R33). -/
def State.claim (s : State) (u : Fin 4) (h : Nat) : ClaimOutcome × State :=
  if (s.map.pinOf u h).isSome then (.pinned, s)
  else
    match (s.map.pools.get u).take with
    | none => (.exhausted, s)
    | some (spare, p) =>
      let place := (s.map.learnedOf u h).isNone
      if place && Config.learnedLimit ≤ s.map.learned.length + s.map.reserved then (.tableFull, s.raise .spareExhausted)
      else
        let before := s.unitHealth u
        let issued := { p with issued := p.issued ++ [{ spare := spare, source := h, place := place }],
                               consumed := satAdd 65535 1 p.consumed }
        (.issued spare, (s.onPool u fun _ => issued).evaluateHealth before u)

/-- Whether a spare is issued. -/
def Pool.isIssued (p : Pool) (spare : Nat) : Bool := p.issued.any fun c => c.spare == spare

/-- A spare leaves the issued list of its pool. -/
def Pool.unissue (p : Pool) (spare : Nat) : Pool := { p with issued := p.issued.eraseP fun c => c.spare == spare }

/-- The table-full hold clears when places are free again (R108). -/
def State.clearTableFull (s : State) : State :=
  if s.map.learned.length + s.map.reserved < Config.learnedLimit then
    { s with health := { s.health with tableFull := false } }
  else s

/-- An issued spare is returned to the front of its pool's return list (R34, log entry 61). -/
def State.returnSpare (s : State) (u : Fin 4) (spare : Nat) : State :=
  if (s.map.pools.get u).isIssued spare then
    let before := s.unitHealth u
    let s := s.onPool u fun p =>
      { p.unissue spare with returned := spare :: p.returned, consumed := p.consumed - 1 }
    (s.evaluateHealth before u).clearTableFull
  else s

/-- An issued spare is discarded (R35, log entry 61). -/
def State.discardSpare (s : State) (u : Fin 4) (spare : Nat) : State :=
  if (s.map.pools.get u).isIssued spare then
    let s := s.onPool u fun p =>
      { p.unissue spare with consumed := p.consumed - 1, discarded := satAdd 65535 1 p.discarded }
    s.clearTableFull
  else s

end Sys2Proof.Machine
end

