-- ==== Sys2Proof/Machine/Health.lean ====
section
/-!
DEFINITION. The watch list of the health monitor: reports and scoring (R89 to R93), eviction (R94), aging (R95), the resolution
of a watched block (R98), and the install of a spare (R28, R29).
-/

namespace Sys2Proof.Machine

open Sys2Proof

/-! ### The relocation slots (R100) -/

/-- The relocation in a slot. -/
def HealthMonitor.slot (h : HealthMonitor) : Fin 2 → Option Relocation
  | 0 => h.slot0
  | 1 => h.slot1

/-- The slots with one of them set. -/
def HealthMonitor.withSlot (h : HealthMonitor) (r : Option Relocation) : Fin 2 → HealthMonitor
  | 0 => { h with slot0 := r }
  | 1 => { h with slot1 := r }

/-- The buffers that a slot holds: one from its grant to the end of its relocation (R54, R101). -/
def slotBuffers (r : Option Relocation) : Nat :=
  if r.any fun r => decide (r.step = .read) || decide (r.step = .write) then 1 else 0

/-- A relocation slot's record changes, and the buffer it holds with it; no buffer is taken that is not free (R54, R101,
log entry 61). -/
def State.setReloc (s : State) (k : Fin 2) (r : Option Relocation) : State :=
  let free := s.engine.freeBuffers + slotBuffers (s.health.slot k)
  if slotBuffers r ≤ free then
    { s with health := s.health.withSlot r k, engine := { s.engine with freeBuffers := free - slotBuffers r } }
  else s

/-- The two slots in order. -/
def slotIndices : List (Fin 2) := [0, 1]

/-- A watched block is in relocation when a slot holds it (R88). -/
def HealthMonitor.inRelocation (h : HealthMonitor) (a : Phys) : Bool :=
  slotIndices.any fun k => (h.slot k).any fun r => r.unit == a.unit && r.block == a.block

/-! ### The list -/

/-- The watch entry of a block. -/
def State.watched (s : State) (a : Phys) : Option WatchEntry := s.health.watch.find? fun e => e.block == a

/-- Whether a block is a pending block of the watch list (R91). -/
def State.pendingBlock (s : State) (u : Fin 4) (b : Nat) : Bool := (s.watched ⟨u, b⟩).any fun e => e.pending

/-- The watch list becomes a list; a change marks the store DIRTY (R88). -/
def State.setWatch (s : State) (l : List WatchEntry) : State :=
  if l = s.health.watch then s else State.markDirty { s with health := { s.health with watch := l } }

/-- An entry with its promotion-due flag evaluated (R93). -/
def WatchEntry.evaluated (threshold : Nat) (e : WatchEntry) : WatchEntry :=
  { e with due := decide (threshold ≤ e.score) && !e.pending }

/-- The resolution of a watched block, with its home block where there is one (R98). -/
def MapUnit.resolve (m : MapUnit) (a : Phys) : Resolution × Option Nat :=
  if (m.pinAt a.unit a.block).isSome then (.pinTarget, none)
  else
    match m.learned.find? fun e => e.unit == a.unit && e.target == a.block && m.mapped e.unit e.source &&
        (m.pinOf e.unit e.source).isNone with
    | some e => (.learnedTarget, some e.source)
    | none =>
      if m.mapped a.unit a.block ∧ (m.lookup a.unit a.block).2 = .direct then (.direct, some a.block) else (.stray, none)

/-- Whether a block resolves PIN_TARGET (R98). -/
def State.isPinTarget (s : State) (a : Phys) : Bool := decide ((s.map.resolve a).1 = .pinTarget)

/-- Entries that became due between two lists and whose blocks are pin targets raise PIN_TARGET_SUSPECT (R93, R99). -/
def State.suspectDue (s : State) (before : List WatchEntry) : State :=
  if s.health.watch.any fun e => e.due && s.isPinTarget e.block && !(before.any fun x => x.block == e.block && x.due) then
    s.raise .pinTargetSuspect
  else s

/-- An entry after a change: its due flag is evaluated when its score or its pending flag has changed (R93). -/
def WatchEntry.changedTo (threshold : Nat) (e e' : WatchEntry) : WatchEntry :=
  if e'.score = e.score ∧ e'.pending = e.pending then e' else e'.evaluated threshold

/-- The list changes entry by entry, with the due flags of changed entries evaluated (R93). -/
def State.rewatch (s : State) (f : WatchEntry → WatchEntry) : State :=
  let before := s.health.watch
  (s.setWatch (before.map fun e => e.changedTo s.mgmt.params.promotion (f e))).suspectDue before

/-- The due flag of every entry is evaluated, as when the threshold changes (R93, R139). -/
def State.reevaluate (s : State) : State :=
  let before := s.health.watch
  (s.setWatch (before.map fun e => e.evaluated s.mgmt.params.promotion)).suspectDue before

/-- The better of two candidates for eviction: lowest score, then highest age, then earliest (R94). -/
def betterEviction (x y : WatchEntry) : WatchEntry :=
  if y.score < x.score ∨ (y.score = x.score ∧ x.age < y.age) then y else x

/-- The entry to evict, among those neither pending nor in relocation (R94). -/
def HealthMonitor.eviction (h : HealthMonitor) : Option WatchEntry :=
  match h.watch.filter fun e => !e.pending && !h.inRelocation e.block with
  | [] => none
  | e :: l => some (l.foldl betterEviction e)

/-- A new entry is inserted at the end, after an eviction where the list is full; with nothing to evict WATCH_OVERFLOW is
raised and the block is not recorded (R94). The answer says whether the entry was recorded. -/
def State.insertWatch (s : State) (e : WatchEntry) : Bool × State :=
  if s.health.watch.length < Config.watchLimit then (true, s.setWatch (s.health.watch ++ [e]))
  else
    match s.health.eviction with
    | none => (false, s.raise .watchOverflow)
    | some x => (true, s.setWatch ((s.health.watch.filter fun y => y.block != x.block) ++ [e]))

/-! ### Reports (R89 to R91) -/

/-- Whether an error kind is a hard error (R91). -/
def WatchCause.hard : WatchCause → Bool
  | .softRead => false
  | .softScan => false
  | .hardRead => true
  | .verifyFail => true
  | .writeFaultNoSpare => true

/-- How much a soft error adds to a score (R90). -/
def WatchCause.weight : WatchCause → Nat
  | .softRead => 2
  | .softScan => 1
  | .hardRead => 15
  | .verifyFail => 15
  | .writeFaultNoSpare => 15

/-- An entry after a report, before its due flag is evaluated (R90, R91). -/
def WatchEntry.apply (e : WatchEntry) (kind : WatchCause) (stamp : TimeStamp) : WatchEntry :=
  { e with score := satAdd 15 kind.weight e.score, age := 0, pending := e.pending || kind.hard, cause := kind, stamp := stamp }

/-- A report on an accessed block is applied (R89 to R91, R94, R99); a report on a learned source is ignored. -/
def State.applyError (s : State) (a : Phys) (kind : WatchCause) : State :=
  if (s.map.learnedOf a.unit a.block).isSome then s
  else
    let suspect := kind.hard && s.isPinTarget a
    match s.watched a with
    | some _ =>
      let s := s.rewatch fun e => if e.block = a then e.apply kind s.now else e
      if suspect then s.raise .pinTargetSuspect else s
    | none =>
      let fresh : WatchEntry :=
        { block := a, score := 0, age := 0, pending := false, due := false, cause := kind, stamp := s.now }
      let before := s.health.watch
      let found := s.insertWatch ((fresh.apply kind s.now).evaluated s.mgmt.params.promotion)
      if found.1 then
        let s := found.2.suspectDue before
        if suspect then s.raise .pinTargetSuspect else s
      else found.2

/-- Soft errors are applied one by one; a block listed twice is applied twice (R90). -/
def State.applySoft (s : State) (u : Fin 4) (kind : WatchCause) (blocks : List Nat) : State :=
  blocks.foldl (fun s b => s.applyError ⟨u, b⟩ kind) s

/-- Pending entries in the part of an extent that was read good lose their pending flag (R92). -/
def State.readGood (s : State) (u : Fin 4) (first count : Nat) : State :=
  if s.health.watch.any fun e => e.pending && e.block.unit == u && inRun first count e.block.block then
    s.rewatch fun e =>
      if e.pending && e.block.unit == u && inRun first count e.block.block then { e with pending := false } else e
  else s

/-- The entry of a block after a good fallback write: not pending, score one below the threshold, age 0; without an entry nothing
changes (R106). -/
def State.fallbackGood (s : State) (u : Fin 4) (b : Nat) : State :=
  if (s.watched ⟨u, b⟩).isSome then
    s.rewatch fun e =>
      if e.block = ⟨u, b⟩ then { e with pending := false, score := s.mgmt.params.promotion - 1, age := 0 } else e
  else s

/-- The entry of a block leaves the list. -/
def State.unwatch (s : State) (u : Fin 4) (b : Nat) : State :=
  s.setWatch (s.health.watch.filter fun e => e.block != ⟨u, b⟩)

/-! ### Aging (R95) -/

/-- An entry after an aging expiry; none when it leaves the list (R95). -/
def WatchEntry.aged (e : WatchEntry) : Option WatchEntry :=
  if e.age < 3 then some { e with age := e.age + 1 }
  else if 2 ≤ e.score then some { e with score := e.score - 1 }
  else none

/-- The list after an aging expiry: entries that are pending or in relocation are not aged; then the due flags are evaluated
(R95). -/
def State.ageWatch (s : State) : State :=
  let before := s.health.watch
  let aged := before.filterMap fun e => if e.pending || s.health.inRelocation e.block then some e else e.aged
  (s.setWatch (aged.map fun e => e.evaluated s.mgmt.params.promotion)).suspectDue before

/-- The aging timer for a period in minutes; 0 stops it (R95). -/
def State.agingTimer (s : State) : Timer :=
  if s.mgmt.params.agingPeriod = 0 then .stopped else s.startTimer (s.mgmt.params.agingPeriod * 60000)

/-! ### Installs (R28, R29) -/

/-- A spare is installed for a home block: a new learned entry, or the target of the present one replaced in place; the spare
leaves the issued list, watch entries of the source and of a replaced target leave the list, the relocation counts rise and the
store is marked DIRTY (R28, R29, R198, R200). -/
def State.install (s : State) (u : Fin 4) (h spare : Nat) (cause : LearnedCause) : State :=
  let old := s.map.learnedOf u h
  let entry : LearnedEntry := { unit := u, source := h, target := spare, cause := cause, stamp := s.now }
  let learned :=
    match old with
    | none => s.map.learned ++ [entry]
    | some (pos, _) => s.map.learned.set pos entry
  let s := (s.onPool u fun p => p.unissue spare).unwatch u h
  let s := { s with map := { s.map with learned := learned } }
  let s :=
    match old with
    | none => s
    | some (_, e) => s.unwatch u e.target
  let s := s.onUnitCounters u fun c => { c with relocations := bump 1 c.relocations }
  { s with counters := { s.counters with lifetime := s.counters.lifetime.set u (bump 1 (s.counters.lifetime.get u)) } }

/-! ### Start conditions of relocations (R100) -/

/-- Whether a home block lies in a guarded region. -/
def MapUnit.guarded (m : MapUnit) (u : Fin 4) (h : Nat) : Bool :=
  match m.regionOf u h with
  | some i => m.regions[i].guarded
  | none => false

/-- The home block and resolution of a watch entry for which a relocation may start (R100); none when a condition fails. -/
def State.eligible (s : State) (e : WatchEntry) : Option (Nat × Resolution) :=
  match s.map.resolve e.block with
  | (r, some h) =>
    let u := e.block.unit
    if e.due && !e.pending && !s.health.inRelocation e.block && decide (s.modes.mode = .service) &&
        decide ((s.port u).state = .ready) && decide (s.unitHealth u ≠ .exhausted) &&
        !(decide (r = .direct) && s.health.tableFull) && !(s.map.guarded u h && decide (s.guard.state = .erasing)) then
      some (h, r)
    else none
  | (_, none) => none

/-- The earliest eligible entry of the list. -/
def State.nextEligible (s : State) : Option (WatchEntry × Nat × Resolution) :=
  s.health.watch.findSome? fun e => (s.eligible e).map fun x => (e, x.1, x.2)

/-- The first empty relocation slot. -/
def HealthMonitor.emptySlot (h : HealthMonitor) : Option (Fin 2) := slotIndices.find? fun k => (h.slot k).isNone

/-- Relocation work waiting: a slot is occupied or an eligible entry exists (R100). -/
def State.relocationWork (s : State) : Bool :=
  s.health.slot0.isSome || s.health.slot1.isSome || s.nextEligible.isSome

end Sys2Proof.Machine
end

