-- ==== Sys2Proof/Machine/Offers.lean ====
section
/-!
DEFINITION. The places of a unit port: which operation is sent next (R79), sending it (R78, R83), and offering an operation to
the issue queue or to a reserved place (R70, R80).
-/

namespace Sys2Proof.Machine

open Sys2Proof

/-! ### Sending (R78, R79) -/

/-- The places of a port (R69). -/
inductive Place where
  | attach | store | scan | queue
  deriving DecidableEq, Repr

/-- A free slot, the lowest. -/
def Port.freeSlot (p : Port) : Option (Fin 4) := units.find? fun i => (p.slots.get i).isNone

/-- Whether no operation is outstanding. -/
def Port.idleSlots (p : Port) : Bool := p.slots.toList.all fun o => o.isNone

/-- The operations outstanding, in slot order. -/
def Port.outstanding (p : Port) : List Op := p.slots.toList.filterMap fun o => o.map fun x => x.op

/-- The POWER_DOWN that waits or is outstanding (R86). -/
def Port.poweringDown (p : Port) : Option Op :=
  match p.attachPlace with
  | some o => if o.kind = .powerDown then some o else none
  | none => p.outstanding.find? fun o => o.kind = .powerDown

/-- Whether an operation may be sent while a POWER_DOWN waits or is outstanding: only those that were waiting when it was
placed (R86). -/
def Port.notHeldBack (p : Port) (o : Op) : Bool :=
  match p.poweringDown with
  | some d => decide (o.stamp < d.stamp)
  | none => true

/-- The next operation of a READY or READ_ONLY port, in the order of R79; a POWER_DOWN is sent by its own step (R86). -/
def Port.nextServing (p : Port) : Option (Place × Op) :=
  match p.storePlace.filter p.notHeldBack with
  | some o => some (.store, o)
  | none =>
    match p.scanPlace.filter p.notHeldBack, p.queue.head?.filter p.notHeldBack with
    | some a, some b => if a.stamp < b.stamp then some (.scan, a) else some (.queue, b)
    | some a, none => some (.scan, a)
    | none, some b => some (.queue, b)
    | none, none => none

/-- The next operation of an ATTACHING port: the attach place, a UNIT_RESET only when nothing is outstanding (R76), and the
load reads of the store place (R77). -/
def Port.nextAttaching (p : Port) (loading : Bool) : Option (Place × Op) :=
  match p.attachPlace with
  | some o => if o.kind = .unitReset ∧ !p.idleSlots then none else some (.attach, o)
  | none => if loading then p.storePlace.map fun o => (.store, o) else none

/-- The next operation a port sends (R70, R79). -/
def Port.next (p : Port) (loading : Bool) : Option (Place × Op) :=
  match p.state with
  | .ready => p.nextServing
  | .readOnly => p.nextServing
  | .attaching => p.nextAttaching loading
  | .absent => none
  | .offline => none
  | .sleeping => none
  | .failed => none

/-- A port without the operation that leaves a place. -/
def Port.without (p : Port) : Place → Port
  | .attach => { p with attachPlace := none }
  | .store => { p with storePlace := none }
  | .scan => { p with scanPlace := none }
  | .queue => { p with queue := p.queue.tail }

/-- An operation is sent from its place in a slot: its timer starts and the unit's operations counter rises (R79, R83). -/
def State.sendOp (s : State) (u : Fin 4) (place : Place) (slot : Fin 4) (o : Op) : State :=
  let s := s.onPort u fun p =>
    { p.without place with
      slots := p.slots.set slot (some { op := o, timer := s.startTimer s.mgmt.params.unitTimeout, arrived := [] }),
      sent := p.sent ++ [{ slot := slot, kind := o.kind, first := o.first, count := o.count, data := o.data }] }
  s.onUnitCounters u fun c => { c with operations := bump 1 c.operations }

/-- The port sends while a slot is free and an operation may be sent, at most n. -/
def State.pumpUpTo (u : Fin 4) : Nat → State → State
  | 0, s => s
  | n + 1, s =>
    match (s.port u).freeSlot, (s.port u).next (!s.loadEnded) with
    | some slot, some (place, o) => State.pumpUpTo u n (s.sendOp u place slot o)
    | some _, none => s
    | none, _ => s

/-- The port sends what it may: four slots (R79). -/
def State.pump (s : State) (u : Fin 4) : State := State.pumpUpTo u 4 s

/-! ### Offering (R70, R80) -/

/-- What becomes of an offered operation: taken, not taken by a full queue, or ended UNIT_UNAVAILABLE at once. -/
inductive Offered where
  | taken | full | ended
  deriving DecidableEq, Repr

/-- An operation with the serial number of its taking. -/
def mkOp (kind : OpKind) (first count : Nat) (owner : Owner) (stamp : Nat) (data : List Block) : Op :=
  { kind := kind, first := first, count := count, owner := owner, stamp := stamp, data := data }

/-- An operation is offered to a port's issue queue (R70, R80). -/
def State.offer (s : State) (u : Fin 4) (kind : OpKind) (first count : Nat) (owner : Owner) (data : List Block) :
    Offered × State :=
  let o := mkOp kind first count owner s.nextId data
  if (s.port u).state.unavailable then
    (.ended, { s with nextId := s.nextId + 1 }.later (.ended u o .unavailable))
  else if Config.queuePlaces ≤ (s.port u).queue.length then (.full, s)
  else
    let s := { s with nextId := s.nextId + 1 }.onPort u fun p => { p with queue := p.queue ++ [o] }
    (.taken, s.pump u)

/-- A scan VERIFY is offered to the scan place (R112); the answer holds its serial number. -/
def State.offerScan (s : State) (x : Extent) : Nat × State :=
  let o := mkOp .verify x.first x.count .scan s.nextId []
  let s' := { s with nextId := s.nextId + 1 }
  if (s.port x.unit).state.unavailable then (o.stamp, s'.later (.ended x.unit o .unavailable))
  else (o.stamp, (s'.onPort x.unit fun p => { p with scanPlace := some o }).pump x.unit)

/-- A store read or write is offered to the store place of port 0 (R2, R183, R188); the answer holds its serial number. -/
def State.offerStore (s : State) (kind : OpKind) (first count : Nat) (data : List Block) : Nat × State :=
  let o := mkOp kind first count .store s.nextId data
  let s' := { s with nextId := s.nextId + 1 }
  if (s.port 0).state.unavailable then (o.stamp, s'.later (.ended 0 o .unavailable))
  else (o.stamp, (s'.onPort 0 fun p => { p with storePlace := some o }).pump 0)

/-- An attach or power operation is put in the attach place (R76, R86, R87). -/
def State.placeAttach (s : State) (u : Fin 4) (kind : OpKind) : State :=
  let o := mkOp kind 0 0 .port s.nextId []
  ({ s with nextId := s.nextId + 1 }.onPort u fun p => { p with attachPlace := some o }).pump u

/-- Whether a store operation waits in the store place or is outstanding at the unit. -/
def State.storeBusy (s : State) : Bool :=
  (s.port 0).storePlace.isSome || (s.port 0).outstanding.any fun o => decide (o.owner = .store)

/-- Whether a scan VERIFY waits in a scan place or is outstanding at some unit (R110). -/
def State.scanBusy (s : State) : Bool :=
  units.any fun u => (s.port u).scanPlace.isSome || (s.port u).outstanding.any fun o => decide (o.owner = .scan)

/-- The state of a port as it next takes one from the table of R72. -/
def Port.served (p : Port) : PortState :=
  match p.desired with
  | .offline => .offline
  | .readOnly => .readOnly
  | .active => if p.fault || p.writeInhibit then .readOnly else .ready

end Sys2Proof.Machine
end

