-- ==== Sys2Proof/Machine/Requests.lean ====
section
/-!
DEFINITION. The request engine: the holds of the admission list (R47 to R50), the cutting of segments (R51, R53), failures and
completion (R64, R65), the outcomes of segment operations (R56, R57, R61), the repairs of writes (R62, R63, R105, R106) and
what orphans do with their outcomes (R68).
-/

namespace Sys2Proof.Machine

open Sys2Proof

/-! ### Items and their holds (R48, R49) -/

/-- The block count of a request (R1). -/
def Request.count (r : Request) : Nat := blocksOf r.len

/-- The home extent of an item. -/
def Item.home : Item → Option Extent
  | .host r => r.home
  | .reloc r => some r.home

/-- Whether an item writes (R47). -/
def Item.writing : Item → Bool
  | .host r => decide (r.kind = .write)
  | .reloc _ => true

/-- Whether an item is HELD, SYNC requests apart. -/
def Item.held : Item → Bool
  | .host r => decide (r.state = .held) && decide (r.kind ≠ .sync)
  | .reloc r => r.held

/-- An earlier item holds a later one: their home extents overlap and one of them writes (R48). -/
def Item.blocks (earlier later : Item) : Bool :=
  (earlier.writing || later.writing) &&
    match earlier.home, later.home with
    | some x, some y => x.overlaps y
    | some _, none => false
    | none, _ => false

/-- Whether an orphan of a tag is in the list (R49). -/
def State.orphanOf (s : State) (tag : Fin 32) : Bool :=
  s.engine.items.any fun i =>
    match i with
    | .host r => r.orphan && r.tag == tag
    | .reloc _ => false

/-- The powering-down phase of ENTERING_STANDBY (R162). -/
def State.poweringDown (s : State) : Bool :=
  decide (s.modes.mode = .enteringStandby) && decide (s.modes.phase = .poweringDown)

/-- Whether an item is held by the items before it, by an orphan of its tag or by the powering-down phase; a request for no block has
no unit operation to hold back (R48, R49). -/
def State.holds (s : State) (before : List Item) (i : Item) : Bool :=
  (before.any fun e => e.blocks i) ||
    match i with
    | .host r => decide (r.count ≠ 0) && (s.orphanOf r.tag || s.poweringDown)
    | .reloc _ => false

/-- The first HELD item whose holds have all cleared. -/
def State.firstCleared (s : State) : List Item → List Item → Option Item
  | _, [] => none
  | before, i :: l => if i.held && !s.holds before i then some i else s.firstCleared (before ++ [i]) l

/-! ### Failures and completion (R64 to R66) -/

/-- A request takes a failure at a logical offset (R64): the lowest becomes or stays the first failure, the request drains and
drops its PENDING and FILLING segments above it. With the cancel flag set it neither becomes nor lowers the first failure. -/
def State.takeFailure (s : State) (id off : Nat) (status : Status) : State :=
  match s.request? id with
  | none => s
  | some r =>
    if r.cancelled || r.orphan || r.first.any (fun f => decide (f.off ≤ off)) then s
    else
      (s.onRequest id fun r => { r with first := some ⟨off, status⟩, state := .draining }).dropSegments id
        fun g => decide (off < g.off)

/-- Blocks of a request are completed (R66). -/
def addRun (off n : Nat) : List (Nat × Nat) → List (Nat × Nat)
  | [] => [(off, n)]
  | (o, m) :: l => if o + m = off then (o, m + n) :: l else (o, m) :: addRun off n l

/-- The lowest block at or above k in no run of completed blocks. -/
def lowestOpen (runs : List (Nat × Nat)) (k : Nat) : Nat → Nat
  | 0 => k
  | n + 1 =>
    match runs.find? fun x => inRun x.1 x.2 k with
    | some (o, m) => lowestOpen runs (o + m) n
    | none => k

/-- The logical offset of the lowest block not completed (R66). -/
def Request.lowestIncomplete (r : Request) : Nat := lowestOpen r.completed 0 (r.completed.length + 1)

/-- Blocks of a request are completed. -/
def State.complete (s : State) (id off n : Nat) : State :=
  s.onRequest id fun r => { r with completed := addRun off n r.completed }

/-- The status of a request's COMPLETION (R65). -/
def Request.status (r : Request) : Status :=
  match r.first with
  | some f => f.status
  | none => if r.cancelled then .cancelled else .ok

/-- The residual of a request's COMPLETION (R65, R66). -/
def Request.residual (r : Request) : Nat :=
  match r.first with
  | some f => r.len - 512 * f.off
  | none => if r.cancelled then r.len - 512 * r.lowestIncomplete else 0

/-- The failing LBA of a request's COMPLETION: with MEDIA_ERROR only (R65). -/
def Request.failingLba (r : Request) : Option Nat :=
  match r.first with
  | some f => if f.status = .mediaError then some (r.lba + f.off) else none
  | none => none

/-- A request's COMPLETION is sent: its tag is freed, it leaves the list, and its stream's counters rise (R65, R198). -/
def State.sendDone (s : State) (r : Request) : State :=
  let s := s.sendCompletion r.tag r.status r.residual r.failingLba r.recovered
  let s := s.removeItem r.id
  let s := s.countCompleted r.stream
  if r.status = .mediaError then s.onStream r.stream fun c => { c with mediaErrors := bump 1 c.mediaErrors } else s

/-- Whether a live request is DONE (R65, R66). -/
def Request.finished (r : Request) : Bool :=
  !r.orphan && (decide (r.state ≠ .held) || r.cancelled) && r.segs.isEmpty &&
    (decide (r.count ≤ r.cursor) || decide (r.state = .draining) || r.cancelled)

/-- A request that is DONE completes (R65). -/
def State.tryComplete (s : State) (id : Nat) : State :=
  match s.request? id with
  | none => s
  | some r => if r.finished then s.sendDone r else s

/-! ### Offering the operations of segments (R52, R80) -/

/-- The operation kind of a segment's own operation. -/
def ReqKind.op : ReqKind → OpKind
  | .read => .read
  | .write => .write
  | .verify => .verify
  | .sync => .verify

/-- A segment's own operation is offered: the segment is ISSUED, or stays PENDING while the queue is full (R52). -/
def State.offerSegment (s : State) (id seg : Nat) : State :=
  match s.request? id with
  | none => s
  | some r =>
    match r.segment? seg with
    | none => s
    | some g =>
      let data := if r.kind = .write then g.blocks else []
      let found := s.offer g.unit r.kind.op g.first g.count (.segment id seg) data
      found.2.onSegment id seg fun g => { g with phase := if found.1 = .full then .place else .issued }

/-- The VERIFY of verify-after-write is offered (R63). -/
def State.offerVerify (s : State) (id seg : Nat) : State :=
  match (s.request? id).bind fun r => r.segment? seg with
  | none => s
  | some g =>
    let found := s.offer g.unit .verify g.first g.count (.segment id seg) []
    found.2.onSegment id seg fun g => { g with phase := if found.1 = .full then .verifyPlace else .verifying }

/-- The spare write of a repair is offered (R62, R63, R105). -/
def State.offerRepair (s : State) (id seg : Nat) : State :=
  match (s.request? id).bind fun r => r.segment? seg with
  | none => s
  | some g =>
    match g.repair with
    | none => s
    | some p =>
      let found := s.offer g.unit .write p.spare 1 (.repair id seg) (g.blocks.take 1)
      found.2.onSegment id seg fun g =>
        { g with repair := g.repair.map fun p => { p with wait := if found.1 = .full then .place else .port } }

/-! ### Cutting (R51, R53) -/

/-- What the port's state does to a cut: none lets the segment be cut, a status is the failure taken (R53). -/
def cutFailure (p : PortState) (kind : ReqKind) : Option Status :=
  match p with
  | .ready => none
  | .attaching => none
  | .sleeping => none
  | .readOnly => if kind = .write then some .writeProtected else none
  | .absent => some .unitUnavailable
  | .failed => some .unitUnavailable
  | .offline => some .unitUnavailable

/-- Whether a request may cut (R51). -/
def Request.cuts (r : Request) : Bool :=
  decide (r.state = .running) && !r.cancelled && !r.orphan && decide (r.cursor < r.count) &&
    decide (r.segs.length < Config.segmentLimit)

/-- The segment a request cuts at its cursor (R51). -/
def State.nextSegment (s : State) (r : Request) (x : Extent) : Segment :=
  let ok (b : Nat) : Bool := !(decide (r.kind = .write) && s.pendingBlock x.unit b)
  let found := s.map.cut x.unit ok (x.first + r.cursor) (r.count - r.cursor)
  { id := s.nextId, unit := x.unit, home := x.first + r.cursor, first := found.1, count := found.2, off := r.cursor,
    phase := if r.kind = .verify then .place else .claim, buffers := 0, data := [], timer := .stopped, retried := false,
    pendingBlock := decide (r.kind = .write) && s.pendingBlock x.unit found.1, fallback := false, repair := none }

/-- One cut of a request, or the failure that the port's state gives it (R51, R53); the answer says whether to go on. -/
def State.cutOnce (s : State) (id : Nat) : Bool × State :=
  match s.request? id with
  | none => (false, s)
  | some r =>
    match r.home with
    | none => (false, s)
    | some x =>
      if r.cuts then
        match cutFailure (s.port x.unit).state r.kind with
        | some status => (false, s.takeFailure id r.cursor status)
        | none =>
          let g := s.nextSegment r x
          let s := { s with nextId := s.nextId + 1 }.onRequest id fun r =>
            { r with segs := r.segs ++ [g], cursor := r.cursor + g.count }
          (true, if r.kind = .verify then s.offerSegment id g.id else s)
      else (false, s)

/-- Cuts while the request may cut, at most n. -/
def State.cutUpTo (id : Nat) : Nat → State → State
  | 0, s => s
  | n + 1, s =>
    let found := s.cutOnce id
    if found.1 then State.cutUpTo id n found.2 else found.2

/-- A request cuts its segments, at most four live (R51). -/
def State.cut (s : State) (id : Nat) : State := State.cutUpTo id 5 s

/-! ### Ends of segments -/

/-- A segment leaves its request with its buffers released (R55). -/
def State.releaseSegment (s : State) (id seg : Nat) : State := s.resegment id fun l => l.filter fun g => g.id != seg

/-- A segment is DONE or FAILED: it leaves, the request cuts on, and completes when it is DONE (R51, R55, R65). -/
def State.segmentEnds (s : State) (id seg : Nat) : State := ((s.releaseSegment id seg).cut id).tryComplete id

/-- A segment is FAILED with a failure taken at a logical offset (R61, R64). -/
def State.segmentFails (s : State) (id seg off : Nat) (status : Status) : State :=
  (s.takeFailure id off status).segmentEnds id seg

/-- A segment without its first k blocks. -/
def Segment.dropFront (g : Segment) (k : Nat) : Segment :=
  { g with home := g.home + k, first := g.first + k, off := g.off + k, count := g.count - k, buffers := g.buffers - k,
           data := g.data.filter fun d => decide (g.off + k ≤ d.1) }

/-- A segment cut down to its first k blocks (R60). -/
def Segment.keepFront (g : Segment) (k : Nat) : Segment :=
  { g with count := k, buffers := min k g.buffers, data := g.data.filter fun d => decide (d.1 < g.off + k) }

/-- The first k blocks of a segment leave it, with their buffers (R55). -/
def State.trimFront (s : State) (id : Nat) (g : Segment) (k : Nat) : State :=
  s.resegment id fun l => l.map fun x => if x.id == g.id then x.dropFront k else x

/-- A segment is cut down to its first k blocks, and the other buffers are released (R60). -/
def State.trimBack (s : State) (id : Nat) (g : Segment) (k : Nat) : State :=
  s.resegment id fun l => l.map fun x => if x.id == g.id then x.keepFront k else x

/-- A failure of a request is reported to the log unit (R194, R195). -/
def State.logRequest (s : State) (r : Request) (kind : LogKind) (unit : Fin 4) (block off : Nat) : State :=
  s.report { kind := kind, unit := unit, block := some block, logical := some (r.lba + off), item := some r.record,
             ofSave := false }

/-- A soft-error list with DONE sets the recovered flag (R56, R61). -/
def State.markRecovered (s : State) (id : Nat) (soft : List Nat) : State :=
  if soft.isEmpty then s else s.onRequest id fun r => { r with recovered := true }

/-! ### Repairs (R62, R63, R105, R106) -/

/-- The cause of the learned entry that a repair installs. -/
def RepairKind.cause : RepairKind → LearnedCause
  | .inlineFault => .writeFault
  | .redirect => .pendingWrite
  | .verifyRepair => .verifyFailed

/-- The cause of the watch entry of a repair that finds no spare (R62, R63, R68). -/
def RepairKind.watchCause : RepairKind → WatchCause
  | .inlineFault => .writeFaultNoSpare
  | .redirect => .writeFaultNoSpare
  | .verifyRepair => .verifyFail

/-- The blocks after a repaired or given up block become a new segment that is offered without a new DATA REQUEST, or is
dropped when a first failure lies below it or the request is cancelled (R62). -/
def State.remainder (s : State) (r : Request) (g : Segment) : State :=
  let s := s.trimFront r.id g 1
  match s.request? r.id with
  | none => s
  | some now =>
    if g.count ≤ 1 ∨ now.cancelled ∨ now.first.any (fun f => decide (f.off < g.off + 1)) then s.segmentEnds r.id g.id
    else
      let fresh := s.nextId
      let s := { s with nextId := s.nextId + 1 }.onSegment r.id g.id fun g =>
        { g with id := fresh, phase := .place, retried := false, pendingBlock := false, fallback := false, repair := none }
      s.offerSegment r.id fresh

/-- After a repair of verify-after-write: a new VERIFY for the blocks after the repaired one, if any (R63). A failure of it without a
block of its own lies at the first block that remains (log entry 51). -/
def State.verifyRest (s : State) (r : Request) (g : Segment) : State :=
  let s := s.trimFront r.id g 1
  if g.count ≤ 1 then s.segmentEnds r.id g.id
  else
    let s := s.onSegment r.id g.id fun g => { g with phase := .verifyPlace, repair := none }
    s.offerVerify r.id g.id

/-- The fallback write to the old accessed block is offered (R106). -/
def State.fallbackWrite (s : State) (r : Request) (g : Segment) : State :=
  (s.onSegment r.id g.id fun g => { g with phase := .place, fallback := true, repair := none }).offerSegment r.id g.id

/-- No usable spare exists for the first block of a segment: R62 step 4, R63, or the fallback of R105. -/
def State.noSpare (s : State) (r : Request) (g : Segment) (kind : RepairKind) : State :=
  match kind with
  | .inlineFault =>
    let s := s.applyError ⟨g.unit, g.first⟩ .writeFaultNoSpare
    let s := s.logRequest r .writeFault g.unit g.first g.off
    (s.takeFailure r.id g.off .mediaError).remainder r g
  | .verifyRepair =>
    let s := s.applyError ⟨g.unit, g.first⟩ .verifyFail
    let s := s.logRequest r .verifyFailed g.unit g.first g.off
    s.segmentFails r.id g.id g.off .mediaError
  | .redirect => s.fallbackWrite r g

/-- A spare claim for the first block of a segment, the one after `tried` spares (R27, R62, R63, R105). -/
def State.repairClaim (s : State) (r : Request) (g : Segment) (kind : RepairKind) (tried : Nat) : State :=
  match s.claim g.unit g.home with
  | (.issued spare, s) =>
    let repair : Repair := { kind := kind, spare := spare, tried := tried + 1, marked := false, wait := .port }
    (s.onSegment r.id g.id fun g => { g with phase := .repairing, repair := some repair }).offerRepair r.id g.id
  | (.pinned, s) => (s.raise .pinTargetSuspect).noSpare r g kind
  | (.exhausted, s) => s.noSpare r g kind
  | (.tableFull, s) => s.noSpare r g kind

/-- The first block of a segment is given up after its spare write could not be made (R62, R63, R105). A repair of verify-after-write
ends its segment there, without a VERIFY of the blocks behind it (log entry 52). -/
def State.giveUp (s : State) (r : Request) (g : Segment) (kind : RepairKind) : State :=
  match kind with
  | .inlineFault => (s.takeFailure r.id g.off .unitUnavailable).remainder r g
  | .verifyRepair => s.segmentFails r.id g.id g.off .unitUnavailable
  | .redirect => s.segmentFails r.id g.id g.off .unitUnavailable

/-- A spare write of a repair ended TIMEOUT or NOT_READY: a first such outcome is retried, a second gives the block up (R62). -/
def State.repairRetry (s : State) (r : Request) (g : Segment) (p : Repair) (atOnce : Bool) : State :=
  if p.marked then (s.discardSpare g.unit p.spare).giveUp r g p.kind
  else
    let s := s.onSegment r.id g.id fun g =>
      { g with repair := g.repair.map fun p => { p with marked := true, wait := .retry } }
    if atOnce then s.offerRepair r.id g.id else s

/-- A spare write of a repair that ended DONE is installed (R62, R63, R105). -/
def State.repairDone (s : State) (r : Request) (g : Segment) (p : Repair) : State :=
  let s := s.install g.unit g.home p.spare p.kind.cause
  let s := s.complete r.id g.off 1
  match p.kind with
  | .inlineFault => (s.countBlocksWritten r.stream 1).remainder r g
  | .redirect => (s.countBlocksWritten r.stream 1).segmentEnds r.id g.id
  | .verifyRepair => s.verifyRest r g

/-- After a spare whose write faulted a repair claims its next one: at once, but a redirect only when the port's issue queue has a
place (R62, R63, R105). -/
def State.nextSpare (s : State) (r : Request) (g : Segment) (kind : RepairKind) (tried : Nat) : State :=
  if kind = .redirect ∧ Config.queuePlaces ≤ (s.port g.unit).queue.length then
    s.onSegment r.id g.id fun g => { g with phase := .redirect tried, repair := none }
  else s.repairClaim r g kind tried

/-- The outcome of a repair's spare write, for a live request (R62, R63, R105). -/
def State.repairEnded (s : State) (r : Request) (g : Segment) (p : Repair) (out : OpOutcome) : State :=
  match out with
  | .done _ _ _ => s.repairDone r g p
  | .writeFault _ =>
    let s := s.discardSpare g.unit p.spare
    if p.tried < 3 then s.nextSpare r g p.kind p.tried else s.noSpare r g p.kind
  | .timeout => s.repairRetry r g p false
  | .notReady => s.repairRetry r g p true
  | .hardRead _ _ => s.repairRetry r g p true
  | .unavailable => (s.discardSpare g.unit p.spare).giveUp r g p.kind

/-! ### Outcomes of segment operations (R56, R57, R61 to R63, R106) -/

/-- A segment whose operation ended TIMEOUT: kept for a retry the first time, FAILED the second (R61). With the cancel flag set a
segment returned to PENDING is dropped (R66). -/
def State.segmentTimeout (s : State) (r : Request) (g : Segment) (verifying : Bool) : State :=
  if g.retried then s.segmentFails r.id g.id g.off .unitUnavailable
  else if r.cancelled && !verifying then s.segmentEnds r.id g.id
  else
    s.onSegment r.id g.id fun g =>
      { g with phase := if verifying then .verifyRetry else .retry, retried := true }

/-- The outcome of a READ segment's operation (R56, R61). -/
def State.readEnded (s : State) (r : Request) (g : Segment) (out : OpOutcome) : State :=
  match out with
  | .done soft data _ =>
    (s.markRecovered r.id soft).onSegment r.id g.id fun g =>
      { g with phase := .sending, data := data.map fun d => (g.off + d.1, d.2) }
  | .hardRead stop data =>
    let k := stop - g.first
    let s := s.logRequest r .mediaHard g.unit stop (g.off + k)
    let s := s.takeFailure r.id (g.off + k) .mediaError
    if k = 0 then s.segmentEnds r.id g.id
    else
      (s.trimBack r.id g k).onSegment r.id g.id fun g =>
        { g with phase := .sending, data := data.map fun d => (g.off + d.1, d.2) }
  | .writeFault _ => s.segmentFails r.id g.id g.off .unitUnavailable
  | .notReady => s.segmentFails r.id g.id g.off .unitUnavailable
  | .timeout => s.segmentTimeout r g false
  | .unavailable => s.segmentFails r.id g.id g.off .unitUnavailable

/-- The outcome of a VERIFY segment's operation (R57, R61). -/
def State.verifyEnded (s : State) (r : Request) (g : Segment) (out : OpOutcome) : State :=
  match out with
  | .done soft _ _ => ((s.markRecovered r.id soft).complete r.id g.off g.count).segmentEnds r.id g.id
  | .hardRead stop _ =>
    let k := stop - g.first
    let s := s.logRequest r .mediaHard g.unit stop (g.off + k)
    (s.complete r.id g.off k).segmentFails r.id g.id (g.off + k) .mediaError
  | .writeFault _ => s.segmentFails r.id g.id g.off .unitUnavailable
  | .notReady => s.segmentFails r.id g.id g.off .unitUnavailable
  | .timeout => s.segmentTimeout r g false
  | .unavailable => s.segmentFails r.id g.id g.off .unitUnavailable

/-- A WRITE segment's unit write ended WRITE_FAULT (R62), or the fallback write did (R106). -/
def State.writeFaulted (s : State) (r : Request) (g : Segment) (stop : Nat) : State :=
  if g.fallback then
    let s := s.applyError ⟨g.unit, stop⟩ .writeFaultNoSpare
    let s := s.logRequest r .writeFault g.unit stop g.off
    s.segmentFails r.id g.id g.off .mediaError
  else
    let k := stop - g.first
    let s := if r.verifyAfter || k == 0 then s else s.complete r.id g.off k
    let s := s.trimFront r.id g k
    s.repairClaim r (g.dropFront k) .inlineFault 0

/-- The outcome of a WRITE segment's unit write (R61, R62, R63, R106). -/
def State.writeEnded (s : State) (r : Request) (g : Segment) (out : OpOutcome) : State :=
  match out with
  | .done soft _ _ =>
    let s := (s.markRecovered r.id soft).countBlocksWritten r.stream g.count
    if r.verifyAfter then s.offerVerify r.id g.id
    else
      let s := if g.fallback then s.fallbackGood g.unit g.first else s
      (s.complete r.id g.off g.count).segmentEnds r.id g.id
  | .writeFault stop => s.writeFaulted r g stop
  | .hardRead _ _ => s.segmentFails r.id g.id g.off .unitUnavailable
  | .notReady => s.segmentFails r.id g.id g.off .unitUnavailable
  | .timeout => s.segmentTimeout r g false
  | .unavailable => s.segmentFails r.id g.id g.off .unitUnavailable

/-- The outcome of the VERIFY of verify-after-write (R63, R106). -/
def State.afterWriteEnded (s : State) (r : Request) (g : Segment) (out : OpOutcome) : State :=
  match out with
  | .done soft _ _ =>
    let s := s.markRecovered r.id soft
    let s := if g.fallback then s.fallbackGood g.unit g.first else s
    (s.complete r.id g.off g.count).segmentEnds r.id g.id
  | .hardRead stop _ =>
    let k := stop - g.first
    if g.fallback then
      let s := s.logRequest r .verifyFailed g.unit stop (g.off + k)
      s.segmentFails r.id g.id (g.off + k) .mediaError
    else
      let s := if k = 0 then s else s.complete r.id g.off k
      let s := s.trimFront r.id g k
      s.repairClaim r (g.dropFront k) .verifyRepair 0
  | .writeFault _ => s.segmentFails r.id g.id g.off .unitUnavailable
  | .notReady => s.segmentFails r.id g.id g.off .unitUnavailable
  | .timeout => s.segmentTimeout r g true
  | .unavailable => s.segmentFails r.id g.id g.off .unitUnavailable

/-! ### Orphans (R68) -/

/-- A segment of an orphan leaves; the orphan leaves when it holds no operation (R68). -/
def State.orphanSegmentEnds (s : State) (id seg : Nat) : State :=
  let s := s.releaseSegment id seg
  match s.request? id with
  | none => s
  | some r => if r.orphan && r.segs.isEmpty then s.removeItem id else s

/-- A unit write or a VERIFY of an orphan ended DONE: a write counts its blocks, and a fallback write acts on its watch entry, with
verify-after-write once its VERIFY is DONE (R59, R68, R106). -/
def State.orphanDone (s : State) (r : Request) (g : Segment) (kind : OpKind) : State :=
  let s := if kind = .write then s.countBlocksWritten r.stream g.count else s
  if g.fallback && (decide (kind = .verify) || !r.verifyAfter) then s.fallbackGood g.unit g.first else s

/-- The outcome of an operation of an orphan's segment (R68). -/
def State.orphanEnded (s : State) (r : Request) (g : Segment) (kind : OpKind) (out : OpOutcome) : State :=
  let s :=
    match out with
    | .hardRead stop _ => s.logRequest r .mediaHard g.unit stop (g.off + (stop - g.first))
    | .writeFault stop =>
      (s.applyError ⟨g.unit, stop⟩ .writeFaultNoSpare).logRequest r .writeFault g.unit stop (g.off + (stop - g.first))
    | .done _ _ _ => s.orphanDone r g kind
    | .notReady => s
    | .timeout => s
    | .unavailable => s
  s.orphanSegmentEnds r.id g.id

/-- A spare of an orphan's repair is discarded and the block marked pending (R68). -/
def State.orphanDiscards (s : State) (g : Segment) (p : Repair) : State :=
  (s.discardSpare g.unit p.spare).applyError ⟨g.unit, g.first⟩ p.kind.watchCause

/-- The outcome of the spare write of an orphan's repair (R68). One that faults is a write of an orphan that faults, and is logged as
such for the block it repaired (R195, log entry 31). -/
def State.orphanRepairEnded (s : State) (r : Request) (g : Segment) (p : Repair) (out : OpOutcome) : State :=
  let s :=
    match out with
    | .done _ _ _ =>
      let s := s.install g.unit g.home p.spare p.kind.cause
      if p.kind = RepairKind.verifyRepair then s else s.countBlocksWritten r.stream 1
    | .hardRead _ _ => s.orphanDiscards g p
    | .writeFault _ => (s.orphanDiscards g p).logRequest r .writeFault g.unit g.first g.off
    | .notReady => s.orphanDiscards g p
    | .timeout => s.orphanDiscards g p
    | .unavailable => s.orphanDiscards g p
  s.orphanSegmentEnds r.id g.id

/-! ### Hand-backs to the request engine (R82) -/

/-- An operation of a segment has ended. -/
def State.segmentEnded (s : State) (id seg : Nat) (kind : OpKind) (out : OpOutcome) : State :=
  match s.request? id with
  | none => s
  | some r =>
    match r.segment? seg with
    | none => s
    | some g =>
      if r.orphan then s.orphanEnded r g kind out
      else
        match r.kind with
        | .read => s.readEnded r g out
        | .verify => s.verifyEnded r g out
        | .write => if kind = .verify then s.afterWriteEnded r g out else s.writeEnded r g out
        | .sync => s

/-- The spare write of a repair has ended. -/
def State.repairWriteEnded (s : State) (id seg : Nat) (out : OpOutcome) : State :=
  match s.request? id with
  | none => s
  | some r =>
    match r.segment? seg with
    | none => s
    | some g =>
      match g.repair with
      | none => s
      | some p => if r.orphan then s.orphanRepairEnded r g p out else s.repairEnded r g p out

/-! ### Data of writes (R59, R105) -/

/-- A WRITE segment whose data is complete: a block that is still pending waits for its redirect, any other is offered (R59,
R105). -/
def State.dataComplete (s : State) (id seg : Nat) : State :=
  match (s.request? id).bind fun r => r.segment? seg with
  | none => s
  | some g =>
    let s := s.onSegment id seg fun g => { g with timer := .stopped }
    if g.pendingBlock && s.pendingBlock g.unit g.first then s.onSegment id seg fun g => { g with phase := .redirect 0 }
    else s.offerSegment id seg

/-- The number of bytes the host sends for a block of a request (R59). -/
def Request.bytesOf (r : Request) (index : Nat) : Nat :=
  if index + 1 = r.count then r.len - 512 * (r.count - 1) else 512

/-! ### Offers made again (R77, R80) -/

/-- Where a segment's waiting operation waits: for a place, or for a retry. -/
def Segment.waits (g : Segment) : Option OpWait :=
  match g.phase with
  | .place => some .place
  | .verifyPlace => some .place
  | .retry => some .retry
  | .verifyRetry => some .retry
  | .repairing => g.repair.map fun p => p.wait
  | .claim => none
  | .filling => none
  | .redirect _ => none
  | .issued => none
  | .sending => none
  | .verifying => none

/-- A waiting operation of a segment is offered again. -/
def State.offerAgain (s : State) (id seg : Nat) : State :=
  match (s.request? id).bind fun r => r.segment? seg with
  | none => s
  | some g =>
    match g.phase with
    | .place => s.offerSegment id seg
    | .retry => s.offerSegment id seg
    | .verifyPlace => s.offerVerify id seg
    | .verifyRetry => s.offerVerify id seg
    | .repairing => s.offerRepair id seg
    | .claim => s
    | .filling => s
    | .redirect _ => s
    | .issued => s
    | .sending => s
    | .verifying => s

end Sys2Proof.Machine
end

