-- ==== Sys2Proof/Machine/Relocation.lean ====
section
/-!
DEFINITION. Relocations: how one starts, claims, copies and ends (R100 to R104), and the buffer claims of the pool (R54).
-/

namespace Sys2Proof.Machine

open Sys2Proof

/-- A relocation ends: its item leaves the list, its slot empties, and its buffer is released (R101). -/
def State.relocEnds (s : State) (k : Fin 2) : State :=
  match s.health.slot k with
  | none => s
  | some r => (s.setReloc k none).removeReloc r.item

/-- A relocation's spare is returned (R34). -/
def State.relocReturns (s : State) (r : Relocation) : State :=
  match r.spare with
  | some b => s.returnSpare r.unit b
  | none => s

/-- A relocation's spare is discarded (R35). -/
def State.relocDiscards (s : State) (r : Relocation) : State :=
  match r.spare with
  | some b => s.discardSpare r.unit b
  | none => s

/-- The operation of a relocation's step is offered to its port's issue queue: the READ of the old block or the WRITE to the
spare (R102, R103). -/
def State.offerReloc (s : State) (k : Fin 2) : State :=
  match s.health.slot k with
  | none => s
  | some r =>
    let found :=
      match r.step, r.spare with
      | .write, some b => s.offer r.unit .write b 1 (.reloc k) [r.data]
      | .write, none => (.full, s)
      | .read, _ => s.offer r.unit .read r.block 1 (.reloc k) []
      | .held, _ => (.full, s)
      | .buffer, _ => (.full, s)
    found.2.setReloc k (some { r with wait := if found.1 = .full then .place else .port })

/-- RELOCATE_FAILED is reported for the watched block (R195). -/
def State.logReloc (s : State) (r : Relocation) : State :=
  s.report { kind := .relocateFailed, unit := r.unit, block := some r.block, logical := none, item := none, ofSave := false }

/-- The table-full hold is set (R101, R108). -/
def State.holdTable (s : State) : State := { s with health := { s.health with tableFull := true } }

/-- A running relocation claims its first spare (R101). -/
def State.relocClaims (s : State) (k : Fin 2) : State :=
  match s.health.slot k with
  | none => s
  | some r =>
    match s.claim r.unit r.home with
    | (.issued b, s) => s.setReloc k (some { r with spare := some b, tried := 1, step := .buffer })
    | (.tableFull, s) => s.holdTable.relocEnds k
    | (.exhausted, s) => s.relocEnds k
    | (.pinned, s) => s.relocEnds k

/-- A relocation item that becomes RUNNING claims its spare (R101). -/
def State.relocRuns (s : State) (item : Nat) (k : Fin 2) : State :=
  let run (i : Item) : Item :=
    match i with
    | .host r => .host r
    | .reloc r => if r.id == item then .reloc { r with held := false } else .reloc r
  State.relocClaims { s with engine := { s.engine with items := s.engine.items.map run } } k

/-- A relocation starts for a watch entry in an empty slot: its item joins the list, HELD or RUNNING (R101). -/
def State.startReloc (s : State) (k : Fin 2) (e : WatchEntry) (home : Nat) (r : Resolution) : State :=
  let found := s.takeId
  let item : RelocItem := { id := found.1, slot := k, home := ⟨e.block.unit, home, 1⟩, held := true }
  let reloc : Relocation :=
    { item := found.1, block := e.block.block, home := home, unit := e.block.unit, resolution := r, spare := none,
      tried := 0, retried := false, step := .held, wait := .port, data := [] }
  let before := found.2.engine.items
  let s := (found.2.setReloc k (some reloc)).addItem (.reloc item)
  if s.holds before (.reloc item) then s else s.relocRuns item.id k

/-- The outcome of a relocation's READ (R102). -/
def State.relocReadEnded (s : State) (k : Fin 2) (r : Relocation) (out : OpOutcome) : State :=
  match out with
  | .done _ data _ =>
    let block := match data with
      | d :: _ => d.2
      | [] => []
    (s.setReloc k (some { r with step := .write, data := block, retried := false })).offerReloc k
  | .hardRead _ _ => ((s.relocReturns r).logReloc r).relocEnds k
  | .timeout =>
    if r.retried then (s.relocReturns r).relocEnds k
    else s.setReloc k (some { r with retried := true, wait := .retry })
  | .notReady => (s.relocReturns r).relocEnds k
  | .unavailable => (s.relocReturns r).relocEnds k
  | .writeFault _ => (s.relocReturns r).relocEnds k

/-- A relocation's WRITE faulted: a new spare from the same buffer, or the end (R103). -/
def State.relocFaulted (s : State) (k : Fin 2) (r : Relocation) : State :=
  let s := s.relocDiscards r
  if r.tried < 3 then
    match s.claim r.unit r.home with
    | (.issued b, s) => (s.setReloc k (some { r with spare := some b, tried := r.tried + 1, retried := false })).offerReloc k
    | (.tableFull, s) => (s.holdTable.logReloc r).relocEnds k
    | (.exhausted, s) => (s.logReloc r).relocEnds k
    | (.pinned, s) => (s.logReloc r).relocEnds k
  else (s.logReloc r).relocEnds k

/-- The outcome of a relocation's WRITE (R103). -/
def State.relocWriteEnded (s : State) (k : Fin 2) (r : Relocation) (out : OpOutcome) : State :=
  match out with
  | .done _ _ _ =>
    match r.spare with
    | some b => (s.install r.unit r.home b .promotion).relocEnds k
    | none => s.relocEnds k
  | .writeFault _ => s.relocFaulted k r
  | .timeout =>
    if r.retried then (s.relocDiscards r).relocEnds k
    else s.setReloc k (some { r with retried := true, wait := .retry })
  | .notReady => (s.relocDiscards r).relocEnds k
  | .unavailable => (s.relocDiscards r).relocEnds k
  | .hardRead _ _ => (s.relocDiscards r).relocEnds k

/-- An operation of a relocation has ended (R102, R103). -/
def State.relocEnded (s : State) (k : Fin 2) (kind : OpKind) (out : OpOutcome) : State :=
  match s.health.slot k with
  | none => s
  | some r => if kind = .read then s.relocReadEnded k r out else s.relocWriteEnded k r out

/-- A relocation ends when its port reports FAILED or ABSENT: a spare to which no write was offered is returned, another is
discarded; a write that a full queue did not take was offered (R80, R104). -/
def State.relocLost (s : State) (u : Fin 4) (k : Fin 2) : State :=
  match s.health.slot k with
  | none => s
  | some r =>
    if r.unit = u then
      (if r.step = .write then s.relocDiscards r else s.relocReturns r).relocEnds k
    else s

/-! ### Buffer claims (R54) -/

/-- A waiting claim: a segment's, for its count of buffers, or a relocation's, for one. -/
inductive BufferClaim where
  | segment (item seg count : Nat)
  | reloc (slot : Fin 2)
  deriving DecidableEq, Repr

/-- The waiting claims in order: by the position of their item, within one item by cut order (R54). -/
def State.bufferClaims (s : State) : List BufferClaim :=
  s.engine.items.flatMap fun i =>
    match i with
    | .host r => (r.segs.filter fun g => decide (g.phase = .claim)).map fun g => .segment r.id g.id g.count
    | .reloc r => if (s.health.slot r.slot).any fun x => decide (x.step = .buffer) && x.item == r.id then [.reloc r.slot] else []

/-- The size of a claim. -/
def BufferClaim.size : BufferClaim → Nat
  | .segment _ _ n => n
  | .reloc _ => 1

/-- A granted READ claim offers its operation; a granted WRITE claim makes its segment FILLING, sends its DATA REQUEST and
starts its data timer (R52, R58). -/
def State.grantSegment (s : State) (id seg count : Nat) : State :=
  match s.request? id with
  | none => s
  | some r =>
    match r.segment? seg with
    | none => s
    | some g =>
      let s := s.resegment id fun l => l.map fun g => if g.id == seg then { g with buffers := count } else g
      if r.kind = .write then
        (s.onSegment id seg fun g =>
          { g with phase := .filling, timer := s.startTimer s.mgmt.params.dataTimeout }).send (.dataRequest r.tag g.off count)
      else s.offerSegment id seg

/-- A claim is granted in full (R54). -/
def State.grant (s : State) (c : BufferClaim) : State :=
  match c with
  | .segment id seg n => s.grantSegment id seg n
  | .reloc k =>
    match s.health.slot k with
    | none => s
    | some r => (s.setReloc k (some { r with step := .read })).offerReloc k

end Sys2Proof.Machine
end

