-- ==== Sys2Proof/Machine/Scan.lean ====
section
/-!
DEFINITION. The scan engine: coverage and cuts (R112 to R115), outcomes of a scan VERIFY (R116, R117), pass ends (R118),
suspension and resumption (R119, R120), starts and endings (R110, R121, R122, R124) and the scan log (R123).
-/

namespace Sys2Proof.Machine

open Sys2Proof

/-! ### The scan log and the endings (R110, R123) -/

/-- A scan log entry is written: SCAN_ENDED is raised and the store marked DIRTY (R110, R123). -/
def State.writeScanLog (s : State) (c : ScanContext) (result : ScanResult) : State :=
  let e : ScanLogEntry :=
    { kind := c.kind, unit := c.unit, result := result, verified := c.verified, firstFailing := c.firstFailing, stamp := s.now }
  (State.raise { s with scan := { s.scan with log := pushBounded 16 s.scan.log e } } .scanEnded).markDirty

/-- Whether the current VERIFY of a context waits in its scan place. -/
def State.verifyWaits (s : State) (v : ScanVerify) : Bool :=
  (s.port v.extent.unit).scanPlace.any fun o => some o.stamp == v.stamp

/-- A current VERIFY that waits in the scan place is withdrawn. -/
def State.withdrawScan (s : State) (v : Option ScanVerify) : State :=
  match v with
  | none => s
  | some v => if s.verifyWaits v then s.onPort v.extent.unit fun p => { p with scanPlace := none } else s

/-- The scan ends with a result: its log entry is written, a waiting VERIFY is withdrawn, the engine is IDLE (R110). -/
def State.endScan (s : State) (result : ScanResult) : State :=
  match s.scan.context with
  | none => s
  | some c =>
    let s := (s.writeScanLog c result).withdrawScan c.current
    { s with scan := { s.scan with state := .idle, context := none } }

/-! ### Coverage (R112 to R115) -/

/-- A cursor at the start of a region index. -/
def ScanContext.atRegion (c : ScanContext) (i : Nat) : ScanContext := { c with phase := .regions, index := i, offset := 0 }

/-- The offset at which a walk of a region goes on, and the end of the covered part it is in (R114 for CHECK_SHORT). -/
def coveredPart (kind : ScanKind) (count offset : Nat) : Nat × Nat :=
  if kind = .checkShort ∧ 128 < count then
    if offset < 64 then (offset, 64) else (max offset (count - 64), count)
  else (offset, count)

/-- A pin target that phase TARGETS includes (R115). -/
def MapUnit.strayPin (m : MapUnit) (u : Fin 4) (i : Fin 32) : Bool :=
  m.pins[i].valid && m.pins[i].unit == u && !m.mapped u m.pins[i].source

/-- A learned target that phase TARGETS includes (R115). -/
def MapUnit.strayLearned (m : MapUnit) (u : Fin 4) (e : LearnedEntry) : Bool :=
  e.unit == u && (!m.mapped u e.source || (m.pinOf u e.source).isSome)

/-- The next VERIFY of a scan from its cursor, with the cursor it was found at; none at the end of the coverage. -/
def State.scanFind (s : State) : Nat → ScanContext → ScanContext × Option Extent
  | 0, c => (c, none)
  | n + 1, c =>
    let u := c.unit.getD 0
    match c.phase with
    | .store =>
      if c.index < 32 then (c, some ⟨0, c.index, 32 - c.index⟩)
      else if c.index < 64 then (c, some ⟨0, c.index, 64 - c.index⟩)
      else s.scanFind n (c.atRegion 0)
    | .regions =>
      match regionIndex c.index with
      | none => if c.kind = .checkFull then s.scanFind n { c with phase := .targets, index := 0, offset := 0 } else (c, none)
      | some i =>
        let r := s.map.regions[i]
        let part := coveredPart c.kind r.count c.offset
        let skipped := if c.kind = .patrol then !(s.port r.unit).state.serves else r.unit != u
        if !r.valid || skipped || decide (r.count ≤ c.offset) then s.scanFind n (c.atRegion (c.index + 1))
        else
          let found := s.map.cut r.unit (fun _ => true) (r.physical + part.1) (part.2 - part.1)
          ({ c with offset := part.1 }, some ⟨r.unit, found.1, found.2⟩)
    | .targets =>
      if c.learnedPart then
        match s.map.learned[c.index]? with
        | none => (c, none)
        | some e =>
          if s.map.strayLearned u e then (c, some ⟨u, e.target, 1⟩) else s.scanFind n { c with index := c.index + 1 }
      else
        match pinIndex c.index with
        | none => s.scanFind n { c with index := 0, learnedPart := true }
        | some i =>
          if s.map.strayPin u i then (c, some ⟨u, s.map.pins[i].target, 1⟩) else s.scanFind n { c with index := c.index + 1 }

/-- The number of cursor positions a search may pass over: 64 store blocks are two, then 17 regions, 33 pins, 513 entries. -/
def scanFuel : Nat := 1024

/-- A cursor after n blocks of the current VERIFY (R116). -/
def ScanContext.advance (c : ScanContext) (n : Nat) : ScanContext :=
  match c.phase with
  | .store => { c with index := c.index + n, current := none }
  | .regions => { c with offset := c.offset + n, current := none }
  | .targets => { c with index := c.index + 1, current := none }

/-! ### Cuts and pass ends (R112, R118) -/

/-- The result of a PATROL pass or of a CHECK that reached the end of its coverage (R110, R118). -/
def ScanContext.endResult (c : ScanContext) : ScanResult :=
  if c.verified = 0 then .noCoverage else if c.failures = 0 then .passed else .failuresFound

/-- The pass number after one: it wraps to 1 after its top (R109). -/
def nextPass (n : Nat) : Nat := if Config.top32 ≤ n then 1 else n + 1

/-- The context at the start of a new pass (R118). -/
def ScanContext.newPass (c : ScanContext) : ScanContext :=
  { c with phase := .regions, pass := nextPass c.pass, index := 0, offset := 0, verified := 0, failures := 0,
           firstFailing := none, current := none }

/-- The context of the scan under way becomes a context (R109). -/
def State.setScan (s : State) (c : ScanContext) : State :=
  { s with scan := { s.scan with context := s.scan.context.map fun _ => c } }

/-- The idle timer stops: a scan that is RUNNING breaks its condition, however soon it ends (R177). -/
def State.stopIdle (s : State) : State := { s with modes := { s.modes with idle := .stopped } }

/-- Whether the part mode lets a scan cut and a PATROL resume (R112, R120). -/
def PartMode.scans : PartMode → Bool
  | .config => true
  | .service => true
  | .startup => false
  | .draining => false
  | .enteringStandby => false
  | .standby => false
  | .waking => false

/-- The scan cuts its next VERIFY, or reaches the end of its coverage: a CHECK ends, a PATROL ends its pass and, with
auto-patrol on and blocks verified, begins a new one (R112, R118). At most n pass ends in one step. -/
def State.scanCutUpTo : Nat → State → State
  | 0, s => s
  | n + 1, s =>
    match s.scan.context with
    | none => s
    | some c =>
      if decide (s.scan.state = .running) && c.current.isNone && s.modes.mode.scans &&
          !(decide (c.kind = .patrol) && c.suspendRequested) && !s.scanBusy then
        match s.scanFind scanFuel c with
        | (c', some x) =>
          let found := s.offerScan x
          found.2.setScan { c' with current := some { extent := x, retried := false, stamp := some found.1 } }
        | (_, none) =>
          if c.kind = .patrol ∧ s.mgmt.params.autoPatrol = true ∧ c.endResult ≠ .noCoverage then
            State.scanCutUpTo n ((s.writeScanLog c c.endResult).setScan c.newPass)
          else s.endScan c.endResult
      else s

/-- The scan cuts if it may. A second pass with nothing to verify ends the PATROL, so three rounds are enough. -/
def State.scanCut (s : State) : State := State.scanCutUpTo 3 s

/-! ### Suspension and resumption (R119, R120) -/

/-- A SUSPENDED PATROL resumes when the quiet flag is set and the mode is SERVICE or CONFIG (R120). -/
def State.scanResume (s : State) : State :=
  match s.scan.context with
  | none => s
  | some c =>
    if decide (s.scan.state = .suspended) && s.scan.quiet && s.modes.mode.scans then
      let s := State.stopIdle
        { s with scan := { s.scan with state := .running, context := some { c with suspendRequested := false } } }
      let c := { c with suspendRequested := false }
      match c.current with
      | some v =>
        if (s.port v.extent.unit).state.serves then
          let found := s.offerScan v.extent
          found.2.setScan { c with current := some { v with stamp := some found.1 } }
        else (s.setScan (c.advance v.extent.count)).scanCut
      | none => s.scanCut
    else s

/-- The PATROL enters SUSPENDED, and resumes at once where it may (R119, R120). -/
def State.scanSuspends (s : State) : State :=
  match s.scan.context with
  | none => s
  | some _ => State.scanResume { s with scan := { s.scan with state := .suspended } }

/-- A RUNNING PATROL is asked to suspend (R119): at once, unless its VERIFY is outstanding at the unit. -/
def State.suspendPatrol (s : State) : State :=
  match s.scan.context with
  | none => s
  | some c =>
    if decide (c.kind = .patrol) && decide (s.scan.state = .running) && !c.suspendRequested then
      match c.current with
      | none => (s.setScan { c with suspendRequested := true }).scanSuspends
      | some v =>
        if v.stamp.isNone then (s.setScan { c with suspendRequested := true }).scanSuspends
        else if s.verifyWaits v then
          ((s.withdrawScan (some v)).setScan { c with suspendRequested := true, current := none }).scanSuspends
        else s.setScan { c with suspendRequested := true }
    else s

/-- The quiet flag is set (R111, R119, R120): a suspend request is withdrawn while the mode is SERVICE or CONFIG, and a
SUSPENDED PATROL resumes. -/
def State.becomeQuiet (s : State) : State :=
  let s := { s with scan := { s.scan with quiet := true, quietTimer := .stopped } }
  match s.scan.context with
  | none => s
  | some c =>
    if s.scan.state = .running ∧ s.modes.mode.scans then s.setScan { c with suspendRequested := false } else s.scanResume

/-- Traffic begins: the quiet timer stops, the quiet flag clears and a RUNNING PATROL is asked to suspend (R111, R119). -/
def State.trafficBegins (s : State) : State :=
  State.suspendPatrol { s with scan := { s.scan with quietTimer := .stopped, quiet := false } }

/-! ### Outcomes (R116, R117) -/

/-- Whether a PATROL holds no VERIFY and has nothing left to verify in its pass (R118). -/
def State.passOver (s : State) (c : ScanContext) : Bool := c.current.isNone && (s.scanFind scanFuel c).2.isNone

/-- A PATROL that was asked to suspend and whose VERIFY has ended: a pass that is over writes its result first, and the PATROL
suspends unless it ends there (R118, R119, log entry 47). -/
def State.patrolPauses (s : State) (c : ScanContext) : State :=
  if s.passOver c then
    if s.mgmt.params.autoPatrol = true ∧ c.endResult ≠ .noCoverage then
      ((s.writeScanLog c c.endResult).setScan c.newPass).scanSuspends
    else s.endScan c.endResult
  else s.scanSuspends

/-- What follows the end of a PATROL's VERIFY: it suspends where it was asked to, and cuts otherwise. -/
def State.scanGoesOn (s : State) : State :=
  match s.scan.context with
  | none => s
  | some c =>
    if decide (c.kind = .patrol) && c.suspendRequested && decide (s.scan.state = .running) then s.patrolPauses c else s.scanCut

/-- A CHECK ends UNIT_LOST; a PATROL skips the blocks of its VERIFY (R117). -/
def State.scanSkips (s : State) (c : ScanContext) (v : ScanVerify) : State :=
  if c.kind = .patrol then (s.setScan (c.advance v.extent.count)).scanGoesOn else s.endScan .unitLost

/-- The outcome of the current VERIFY (R116, R117). -/
def State.scanOutcome (s : State) (c : ScanContext) (v : ScanVerify) (out : OpOutcome) : State :=
  match out with
  | .done _ _ _ =>
    (s.setScan { c.advance v.extent.count with verified := satAdd Config.top32 v.extent.count c.verified }).scanGoesOn
  | .hardRead stop _ =>
    let k := stop - v.extent.first
    let c : ScanContext := { c.advance (k + 1) with
      verified := satAdd Config.top32 (k + 1) c.verified, failures := satAdd 65535 1 c.failures,
      firstFailing := match c.firstFailing with
        | some b => some b
        | none => some ⟨v.extent.unit, stop⟩ }
    if c.kind = .patrol then (s.setScan c).scanGoesOn else (s.setScan c).endScan .failed
  | .timeout =>
    if c.kind = .patrol ∧ v.retried = false then
      (s.setScan { c with current := some { v with retried := true, stamp := none } }).scanGoesOn
    else s.scanSkips c v
  | .notReady => s.scanSkips c v
  | .unavailable => s.scanSkips c v
  | .writeFault _ => s.scanSkips c v

/-- A scan VERIFY has ended: the current one is taken into the context, one left by an ended scan only frees the way for a new
cut (R110). -/
def State.scanEnded (s : State) (o : Op) (out : OpOutcome) : State :=
  match s.scan.context with
  | none => s
  | some c =>
    match c.current with
    | some v => if v.stamp = some o.stamp then s.scanOutcome c v out else s
    | none => s.scanCut

/-- A held VERIFY of a RUNNING PATROL meets the end of its port's attach (R117). -/
def State.scanRetry (s : State) (u : Fin 4) : State :=
  match s.scan.context with
  | none => s
  | some c =>
    match c.current with
    | none => s
    | some v =>
      if decide (s.scan.state = .running) && v.stamp.isNone && v.extent.unit == u then
        if (s.port u).state.serves then
          let found := s.offerScan v.extent
          found.2.setScan { c with current := some { v with stamp := some found.1 } }
        else s.scanSkips c v
      else s

/-- A port reports its state: a CHECK of its unit ends UNIT_LOST in any state but READY and READ_ONLY (R117). -/
def State.scanPort (s : State) (u : Fin 4) (p : PortState) : State :=
  match s.scan.context with
  | none => s
  | some c => if c.kind ≠ .patrol ∧ c.unit = some u ∧ p.serves = false then s.endScan .unitLost else s

/-! ### Starts and part modes (R121, R122, R124) -/

/-- A fresh context (R124). -/
def ScanContext.fresh (kind : ScanKind) (unit : Option (Fin 4)) : ScanContext :=
  { kind := kind, unit := unit, phase := if kind ≠ .patrol ∧ unit = some 0 then .store else .regions, index := 0, offset := 0,
    learnedPart := false, pass := if kind = .patrol then 1 else 0, verified := 0, failures := 0, firstFailing := none,
    current := none, suspendRequested := false }

/-- A scan starts (R121, R124): a CHECK RUNNING, a PATROL RUNNING when the quiet flag is set and SUSPENDED otherwise. -/
def State.startScan (s : State) (kind : ScanKind) (unit : Option (Fin 4)) : State :=
  let state := if kind = .patrol ∧ s.scan.quiet = false then ScanState.suspended else .running
  let s := { s with scan := { s.scan with state := state, context := some (ScanContext.fresh kind unit) } }
  State.scanCut (if state = .running then s.stopIdle else s)

/-- The mode has become SERVICE or CONFIG: auto-patrol may start a PATROL in SERVICE, a SUSPENDED PATROL may resume, a RUNNING
scan goes on (R120 to R122). -/
def State.scanServes (s : State) : State :=
  if decide (s.modes.mode = .service) && s.mgmt.params.autoPatrol && decide (s.scan.state = .idle) then s.startScan .patrol none
  else s.scanResume.scanCut

/-- A drain toward CONFIG or a part reset ends a scan (R122). -/
def State.scanAborts (s : State) : State := s.endScan .abortedByMode

/-- A drain toward STANDBY or standby entry ends a CHECK and suspends a PATROL (R122). -/
def State.scanStandsBy (s : State) : State :=
  match s.scan.context with
  | none => s
  | some c => if c.kind = .patrol then s.suspendPatrol else s.endScan .abortedByStandby

end Sys2Proof.Machine
end

