-- ==== Sys2Proof/Machine/Image.lean ====
section
/-!
DEFINITION. The layouts of records (12.4, 12.6), the image of the map store and its header (R178, R179), and the reading of an
image back, with the tests of a valid store.
-/

namespace Sys2Proof.Machine

open Sys2Proof

/-! ### Parameters (R138) -/

/-- The value of a parameter by its row in the table of R138, counted from 1; on and off are 1 and 0, the start mode is its
mode code. -/
def Params.value (p : Params) : Nat → Nat
  | 1 => p.dataTimeout
  | 2 => p.unitTimeout
  | 3 => p.quietTime
  | 4 => p.agingPeriod
  | 5 => p.promotion
  | 6 => p.lowSpare
  | 7 => p.writeFaultLimit
  | 8 => p.idleCode
  | 9 => p.autosave.toNat
  | 10 => p.autoPatrol.toNat
  | 11 => p.standbyDisabled.toNat
  | 12 => if p.startService then 2 else 1
  | _ => 0

/-- The parameters with one of them set. -/
def Params.withValue (p : Params) (number value : Nat) : Params :=
  match number with
  | 1 => { p with dataTimeout := value }
  | 2 => { p with unitTimeout := value }
  | 3 => { p with quietTime := value }
  | 4 => { p with agingPeriod := value }
  | 5 => { p with promotion := value }
  | 6 => { p with lowSpare := value }
  | 7 => { p with writeFaultLimit := value }
  | 8 => { p with idleCode := value }
  | 9 => { p with autosave := value == 1 }
  | 10 => { p with autoPatrol := value == 1 }
  | 11 => { p with standbyDisabled := value == 1 }
  | 12 => { p with startService := value == 2 }
  | _ => p

/-- Whether a value lies in a parameter's range (R138); a number that names no parameter has no value in range. -/
def paramInRange (number value : Nat) : Bool :=
  match number with
  | 1 => decide (10 ≤ value ∧ value ≤ 2000)
  | 2 => decide (100 ≤ value ∧ value ≤ 10000)
  | 3 => decide (100 ≤ value ∧ value ≤ 60000)
  | 4 => decide (value ≤ 1440)
  | 5 => decide (2 ≤ value ∧ value ≤ 15)
  | 6 => decide (value ≤ 65535)
  | 7 => decide (1 ≤ value ∧ value ≤ 255)
  | 8 => decide (value ≤ 250)
  | 9 => decide (value ≤ 1)
  | 10 => decide (value ≤ 1)
  | 11 => decide (value ≤ 1)
  | 12 => decide (value = 1 ∨ value = 2)
  | _ => false

/-- The numbers of the parameters, in the order of the table. -/
def paramNumbers : List Nat := [1, 2, 3, 4, 5, 6, 7, 8, 9, 10, 11, 12]

/-- A set of the twelve parameters: 48 bytes (12.4, 12.6). -/
def Params.bytes (p : Params) : List Byte := paramNumbers.flatMap fun n => le4 (p.value n)

/-! ### Records written (12.4, 12.6) -/

/-- A time stamp: the start count first; an open start count is 0. -/
def TimeStamp.bytes (t : TimeStamp) : List Byte := le4 (t.start.getD 0).toNat ++ le4 t.ms.toNat

/-- The region entry at an index: 32 bytes (12.4). -/
def RegionEntry.bytes (i : Nat) (r : RegionEntry) : List Byte :=
  le1 i ++ le1 (r.valid.toNat + 2 * r.readOnly.toNat + 4 * r.guarded.toNat + 8 * r.verifyAfter.toNat) ++ le1 r.unit.val
    ++ zeros 1 ++ le4 r.logical ++ le4 r.count ++ le4 r.physical ++ le2 r.readers.toNat ++ le2 r.writers.toNat ++ zeros 12

/-- A pin: 12 bytes. -/
def PinEntry.bytes (p : PinEntry) : List Byte := flag p.valid ++ le1 p.unit.val ++ zeros 2 ++ le4 p.source ++ le4 p.target

/-- A spare pool: 88 bytes. -/
def Pool.bytes (p : Pool) : List Byte :=
  le1 p.extents.length ++ le1 p.returned.length ++ le2 p.loaded ++ le2 p.consumed ++ le2 p.discarded
    ++ fit 64 (p.extents.flatMap fun x => le4 x.first ++ le2 x.count ++ zeros 2) ++ fit 8 (p.returned.flatMap le4) ++ zeros 8

/-- A history record: 20 bytes. -/
def HistRec.bytes : HistRec → List Byte
  | .host kind stream tag lba len stamp =>
    le1 0 ++ le1 kind.code ++ le1 stream.val ++ le1 tag.val ++ le4 lba ++ le4 len ++ stamp.bytes
  | .command code seq stamp => le1 1 ++ zeros 3 ++ le2 code ++ le2 seq.toNat ++ zeros 4 ++ stamp.bytes
  | .startup cause stamp => le1 2 ++ le1 cause.code ++ zeros 10 ++ stamp.bytes

/-- The number of an optional unit: 0xFF when it is absent (12.1). -/
def optUnit : Option (Fin 4) → Nat
  | some u => u.val
  | none => 255

/-- An error log entry: 124 bytes. -/
def LogEntry.bytes (e : LogEntry) : List Byte :=
  le1 (1 + 2 * e.block.isSome.toNat + 4 * e.logical.isSome.toNat + 8 * e.item.isSome.toNat) ++ le1 e.kind.code
    ++ le1 e.unit.val ++ le1 e.mode.code ++ le1 (optUnit (e.block.map fun b => b.unit)) ++ le1 e.preceding.length ++ zeros 2
    ++ le4 ((e.block.map fun b => b.block).getD 0) ++ le4 (e.logical.getD 0) ++ e.stamp.bytes
    ++ ((e.item.map HistRec.bytes).getD (zeros 20)) ++ fit 80 (e.preceding.flatMap HistRec.bytes)

/-- An error log slot: an entry, or zero bytes. -/
def slotBytes : Option LogEntry → List Byte
  | some e => e.bytes
  | none => zeros 124

/-- A scan log entry: 24 bytes. -/
def ScanLogEntry.bytes (e : ScanLogEntry) : List Byte :=
  le1 e.kind.code ++ le1 (optUnit e.unit) ++ le1 e.result.code ++ flag e.firstFailing.isSome ++ le4 e.verified
    ++ le1 (optUnit (e.firstFailing.map fun b => b.unit)) ++ zeros 3 ++ le4 ((e.firstFailing.map fun b => b.block).getD 0)
    ++ e.stamp.bytes

/-- A watch entry: 20 bytes. -/
def WatchEntry.bytes (e : WatchEntry) : List Byte :=
  le1 e.block.unit.val ++ le1 e.score ++ le1 e.age ++ le1 (e.pending.toNat + 2 * e.due.toNat) ++ le1 e.cause.code ++ zeros 3
    ++ le4 e.block.block ++ e.stamp.bytes

/-- A learned entry: 32 bytes. -/
def LearnedEntry.bytes (e : LearnedEntry) : List Byte :=
  le1 e.unit.val ++ le1 e.cause.code ++ zeros 2 ++ le4 e.source ++ le4 e.target ++ e.stamp.bytes ++ zeros 12

/-! ### The image (R179, 12.6) -/

/-- The stored state of the guard (R147). -/
def GuardUnit.stored (g : GuardUnit) : StoredState :=
  match g.state with
  | .erasing => .eraseIncomplete
  | .eraseIncomplete => .eraseIncomplete
  | .disabled => if g.userCode.isNone then .disabled else .set
  | .opened => if g.userCode.isNone then .disabled else .set
  | .locked => if g.userCode.isNone then .disabled else .set

/-- The saved items as they stand (R179). -/
def State.savedItems (s : State) : Saved :=
  { params := s.mgmt.params, streams := s.mgmt.streams, stored := s.guard.stored, level := s.guard.level,
    userCode := s.guard.userCode, recoveryCode := s.guard.recoveryCode, lifetimeErrors := s.log.lifetime,
    relocations := s.counters.lifetime, regions := s.map.regions, pins := s.map.pins, pools := s.map.pools,
    slots := s.log.slots, latest := s.log.latest, scanLog := s.scan.log, watch := s.health.watch, learned := s.map.learned }

/-- The fixed part of the stream: 160 bytes. -/
def Saved.fixedPart (v : Saved) : List Byte :=
  v.params.bytes ++ le2 v.streams.toNat ++ le1 v.stored.code ++ le1 v.level.code ++ flag v.userCode.isSome
    ++ le1 v.scanLog.length ++ le2 v.learned.length ++ le1 v.watch.length ++ le1 v.latest ++ le2 v.lifetimeErrors ++ zeros 4
    ++ fit 32 (v.userCode.getD []) ++ fit 32 v.recoveryCode ++ (v.relocations.toList.flatMap le4) ++ zeros 16

/-- The stream of the image: its sections in order (12.6). -/
def Saved.stream (v : Saved) : List Byte :=
  v.fixedPart ++ (regionIndices.flatMap fun i => v.regions[i].bytes i.val) ++ (pinIndices.flatMap fun i => v.pins[i].bytes)
    ++ (v.pools.toList.flatMap Pool.bytes) ++ (v.slots.toList.flatMap slotBytes) ++ (v.scanLog.flatMap ScanLogEntry.bytes)
    ++ (v.watch.flatMap WatchEntry.bytes) ++ (v.learned.flatMap LearnedEntry.bytes)

/-- The length S of the stream (12.6). -/
def streamLength (scans watches learned : Nat) : Nat := 2400 + 24 * scans + 20 * watches + 32 * learned

/-- The image length L: S divided by 508, rounded up (12.6). -/
def imageLength (scans watches learned : Nat) : Nat := (streamLength scans watches learned + 507) / 508

/-- The image length of the saved items. -/
def Saved.length (v : Saved) : Nat := imageLength v.scanLog.length v.watch.length v.learned.length

/-- A stream cut into n image blocks: each begins with the stamp, and the last is filled with zero bytes (R178, 12.6). -/
def imageBlocks (stamp : Word) : Nat → List Byte → List Block
  | 0, _ => []
  | n + 1, l => (le4 stamp.toNat ++ fit 508 (l.take 508)) :: imageBlocks stamp n (l.drop 508)

/-- The sum of the 32-bit words of a list of bytes, modulo 2 to the power 32 (R178). -/
def wordSum : List Byte → Word
  | a :: b :: c :: d :: l => BitVec.ofNat 32 (u4 [a, b, c, d] 0) + wordSum l
  | _ => 0

/-- The sum of the words of the image. -/
def imageSum (blocks : List Block) : Word := blocks.foldl (fun n b => n + wordSum b) 0

/-- The header block (R178); its byte layout is the model's (log entry 9). -/
def Header.block (h : Header) : Block :=
  fit 512 (le4 Config.formatMark.toNat ++ le4 h.generation.toNat ++ le4 h.startCount.toNat ++ le4 h.length
    ++ le4 h.checksum.toNat)

/-- The header of an image (R178, R183). -/
def headerOf (generation startCount : Word) (blocks : List Block) : Header :=
  { generation := generation, startCount := startCount, length := blocks.length, checksum := -(imageSum blocks) }

/-- The generation after one (R180, log entry 10). -/
def nextGeneration (g : Word) : Word := if g.toNat = Config.top32 then Config.generationPastTop else g + 1

/-- The start count after one (R189, log entry 10). -/
def nextStartCount (c : Word) : Word := if c.toNat = Config.top32 then Config.startCountPastTop else c + 1

/-! ### Records read back (R178, test 5) -/

/-- A value that passes a test. -/
def guardOpt {α : Type} (test : Bool) (x : α) : Option α := if test then some x else none

/-- A vector of read entries, when every one was read. -/
def allRead {α : Type} {n : Nat} (v : Vector (Option α) n) (d : α) : Option (Vector α n) :=
  guardOpt (v.all fun x => x.isSome) (v.map fun x => x.getD d)

/-- A list of read entries, when every one was read. -/
def allOf {α : Type} : List (Option α) → Option (List α)
  | [] => some []
  | x :: l => x.bind fun a => (allOf l).map fun m => a :: m

/-- A time stamp read at an offset. -/
def stampAt (l : List Byte) (off : Nat) : TimeStamp :=
  { start := some (BitVec.ofNat 32 (u4 l off)), ms := BitVec.ofNat 32 (u4 l (off + 4)) }

/-- The parameters read, when each lies in its range. -/
def readParams (l : List Byte) : Option Params :=
  let value (n : Nat) : Nat := u4 l (4 * (n - 1))
  guardOpt (paramNumbers.all fun n => paramInRange n (value n))
    (paramNumbers.foldl (fun p n => p.withValue n (value n)) Params.defaults)

/-- A region entry read (R3); the fields of an empty one are kept without a test. -/
def readRegion (l : List Byte) : Option RegionEntry :=
  let valid := (u1 l 1).testBit 0
  let r : RegionEntry :=
    { valid := valid, logical := u4 l 4, count := u4 l 8, unit := Fin.ofNat 4 (u1 l 2), physical := u4 l 12,
      readers := BitVec.ofNat 16 (u2 l 16), writers := BitVec.ofNat 16 (u2 l 18), readOnly := (u1 l 1).testBit 1,
      guarded := (u1 l 1).testBit 2, verifyAfter := (u1 l 1).testBit 3 }
  guardOpt (!valid || (decide (u1 l 2 < 4) && decide (1 ≤ r.count) && decide (r.logical + r.count ≤ Config.windowBase) &&
    decide (r.physical + r.count ≤ Config.top32 + 1))) r

/-- A pin read (R21). -/
def readPin (l : List Byte) : Option PinEntry :=
  let valid := (u1 l 0).testBit 0
  guardOpt (!valid || decide (u1 l 1 < 4))
    { valid := valid, unit := Fin.ofNat 4 (u1 l 1), source := u4 l 4, target := u4 l 8 }

/-- A spare pool read (R32). -/
def readPool (l : List Byte) : Option Pool :=
  let extents := (List.range (u1 l 0)).map fun i => ({ first := u4 l (8 + 8 * i), count := u2 l (12 + 8 * i) } : SpareExtent)
  let p : Pool :=
    { extents := extents, returned := (List.range (u1 l 1)).map fun i => u4 l (72 + 4 * i), issued := [], loaded := u2 l 2,
      consumed := u2 l 4, discarded := u2 l 6 }
  guardOpt (decide (u1 l 0 ≤ 8) && decide (u1 l 1 ≤ 2) && decide (p.remaining ≤ 65535) &&
    extents.all fun x => decide (1 ≤ x.count) && decide (x.first + x.count ≤ Config.top32 + 1)) p

/-- A history record read (R191). -/
def readHist (l : List Byte) : Option HistRec :=
  match u1 l 0 with
  | 0 =>
    (ReqKind.ofCode (u1 l 1)).bind fun kind =>
      guardOpt (decide (u1 l 2 < 16) && decide (u1 l 3 < 32) && decide (u4 l 8 ≤ Config.largestRequest))
        (.host kind (Fin.ofNat 16 (u1 l 2)) (Fin.ofNat 32 (u1 l 3)) (u4 l 4) (u4 l 8) (stampAt l 12))
  | 1 => some (.command (u2 l 4) (BitVec.ofNat 16 (u2 l 6)) (stampAt l 12))
  | 2 => (StartCause.ofCode (u1 l 1)).map fun cause => .startup cause (stampAt l 12)
  | _ => none

/-- An optional block read: a unit byte, a block, and whether it is present. -/
def readBlock (present : Bool) (unit block : Nat) : Option (Option Phys) :=
  if present then (unitOf unit).map fun u => some ⟨u, block⟩ else some none

/-- An error log entry read (R193). -/
def readEntry (l : List Byte) : Option LogEntry :=
  (LogKind.ofCode (u1 l 1)).bind fun kind =>
  (unitOf (u1 l 2)).bind fun unit =>
  (PartMode.ofCode (u1 l 3)).bind fun mode =>
  (readBlock ((u1 l 0).testBit 1) (u1 l 4) (u4 l 8)).bind fun block =>
  (if (u1 l 0).testBit 3 then (readHist (slice l 24 20)).map some else some none).bind fun item =>
  (allOf ((List.range (u1 l 5)).map fun i => readHist (slice l (44 + 20 * i) 20))).bind fun preceding =>
    guardOpt (decide (u1 l 5 ≤ 4))
      { kind := kind, unit := unit, block := block, logical := if (u1 l 0).testBit 2 then some (u4 l 12) else none,
        mode := mode, stamp := stampAt l 16, item := item, preceding := preceding }

/-- An error log slot read. -/
def readSlot (l : List Byte) : Option (Option LogEntry) :=
  if (u1 l 0).testBit 0 then (readEntry l).map some else some none

/-- A scan log entry read (R123). -/
def readScanLog (l : List Byte) : Option ScanLogEntry :=
  (ScanKind.ofCode (u1 l 0)).bind fun kind =>
  (ScanResult.ofCode (u1 l 2)).bind fun result =>
  (readBlock ((u1 l 3).testBit 0) (u1 l 8) (u4 l 12)).bind fun block =>
    let unit := unitOf (u1 l 1)
    guardOpt (if kind = .patrol then u1 l 1 == 255 else unit.isSome)
      { kind := kind, unit := unit, result := result, verified := u4 l 4, firstFailing := block, stamp := stampAt l 16 }

/-- A watch entry read (R88). -/
def readWatch (l : List Byte) : Option WatchEntry :=
  (unitOf (u1 l 0)).bind fun unit =>
  (WatchCause.ofCode (u1 l 4)).bind fun cause =>
    guardOpt (decide (u1 l 1 ≤ 15) && decide (u1 l 2 ≤ 3))
      { block := ⟨unit, u4 l 8⟩, score := u1 l 1, age := u1 l 2, pending := (u1 l 3).testBit 0, due := (u1 l 3).testBit 1,
        cause := cause, stamp := stampAt l 12 }

/-- A learned entry read (R26). -/
def readLearned (l : List Byte) : Option LearnedEntry :=
  (unitOf (u1 l 0)).bind fun unit =>
  (LearnedCause.ofCode (u1 l 1)).map fun cause =>
    { unit := unit, source := u4 l 4, target := u4 l 8, cause := cause, stamp := stampAt l 12 }

/-- n records of a length read from an offset. -/
def readMany {α : Type} (read : List Byte → Option α) (l : List Byte) (off size n : Nat) : Option (List α) :=
  allOf ((List.range n).map fun i => read (slice l (off + size * i) size))

/-- The four pools read. -/
def readPools (l : List Byte) : Option (Four Pool) :=
  match readMany readPool l 1056 88 4 with
  | some [a, b, c, d] => some ⟨a, b, c, d⟩
  | _ => none

/-- The saved items decoded from a stream (R178, test 5); none when one lies outside its range. The image length of the header
must be that of the decoded numbers of entries (12.6). -/
def readSaved (l : List Byte) (length : Nat) : Option Saved :=
  let scans := u1 l 53
  let learned := u2 l 54
  let watches := u1 l 56
  if scans ≤ 16 ∧ learned ≤ Config.learnedLimit ∧ watches ≤ Config.watchLimit ∧ u1 l 57 ≤ 8 ∧ u2 l 48 ≠ 0 ∧
      length = imageLength scans watches learned then
    (readParams l).bind fun params =>
    (StoredState.ofCode (u1 l 50)).bind fun stored =>
    (GuardLevel.ofCode (u1 l 51)).bind fun level =>
    (allRead (Vector.ofFn fun i : Fin 16 => readRegion (slice l (160 + 32 * i.val) 32)) RegionEntry.empty).bind fun regions =>
    (allRead (Vector.ofFn fun i : Fin 32 => readPin (slice l (672 + 12 * i.val) 12)) PinEntry.empty).bind fun pins =>
    (readPools l).bind fun pools =>
    (allRead (Vector.ofFn fun i : Fin 8 => readSlot (slice l (1408 + 124 * i.val) 124)) none).bind fun slots =>
    (readMany readScanLog l 2400 24 scans).bind fun scanLog =>
    (readMany readWatch l (2400 + 24 * scans) 20 watches).bind fun watch =>
    (readMany readLearned l (2400 + 24 * scans + 20 * watches) 32 learned).map fun entries =>
      { params := params, streams := BitVec.ofNat 16 (u2 l 48), stored := stored, level := level,
        userCode := if (u1 l 52).testBit 0 then some (slice l 64 32) else none, recoveryCode := slice l 96 32,
        lifetimeErrors := u2 l 58, relocations := ⟨u4 l 128, u4 l 132, u4 l 136, u4 l 140⟩, regions := regions, pins := pins,
        pools := pools, slots := slots, latest := u1 l 57, scanLog := scanLog, watch := watch, learned := entries }
  else none

/-- The header read from block 0; none for a wrong format mark or an image length outside 1 to 63 (R188). -/
def readHeader (l : Block) : Option Header :=
  guardOpt (u4 l 0 == Config.formatMark.toNat && decide (1 ≤ u4 l 12) && decide (u4 l 12 ≤ 63))
    { generation := BitVec.ofNat 32 (u4 l 4), startCount := BitVec.ofNat 32 (u4 l 8), length := u4 l 12,
      checksum := BitVec.ofNat 32 (u4 l 16) }

/-- The saved items of a complete image, when the store is valid (R178, tests 3 to 5). -/
def readImage (h : Header) (blocks : List Block) : Option Saved :=
  if blocks.all (fun b => u4 b 0 == h.generation.toNat) ∧ imageSum blocks + h.checksum = 0 then
    readSaved (blocks.flatMap fun b => b.drop 4) h.length
  else none

/-- The saved items of a store that is not valid or ABSENT: tables and logs empty, defaults, the guard at the fresh values
(R189). -/
def Saved.fresh : Saved :=
  { params := Params.defaults, streams := 1, stored := .disabled, level := .standard, userCode := none,
    recoveryCode := freshRecovery, lifetimeErrors := 0, relocations := Four.all 0,
    regions := Vector.replicate 16 RegionEntry.empty, pins := Vector.replicate 32 PinEntry.empty, pools := Four.all Pool.empty,
    slots := Vector.replicate 8 none, latest := 0, scanLog := [], watch := [], learned := [] }

end Sys2Proof.Machine
end

