-- ==== Sys2Proof/Machine/Responses.lean ====
section
/-!
DEFINITION. How a management command ends: its response in W1, the COMPLETION of its W0 write (R134, R135), and the stages that
several commands share (R136, R148).
-/

namespace Sys2Proof.Machine

open Sys2Proof

/-- The COMPLETION of the W0 write whose command has ended, if the write still holds its tag (R134); it counts as completed
(R127). -/
def State.completeW0 (s : State) (t : Taken) : State :=
  match t.tag with
  | some tag => (s.sendCompletion tag .ok 0 none false).countCompleted t.stream
  | none => s

/-- The online phase of the taken command ends with a result and data: the response is placed in W1, the engine is IDLE, and
the COMPLETION of the W0 write is sent (R134). -/
def State.respond (s : State) (result : CmdResult) (data : List Byte) : State :=
  match s.mgmt.taken with
  | none => s
  | some t =>
    State.completeW0
      { s with mgmt := { s.mgmt with
          state := .idle, taken := none, response := { seq := t.seq, code := t.code, result := result, data := data } } } t

/-- RESET_PART answers: the response is placed and the COMPLETION sent; the engine stays EXECUTING until the part reset, which
is due (R141, log entry 24). -/
def State.respondReset (s : State) (data : List Byte) : State :=
  match s.mgmt.taken with
  | none => { s with mgmt := { s.mgmt with resetStage := .due } }
  | some t =>
    State.completeW0
      { s with mgmt := { s.mgmt with
          taken := none, resetStage := .due, response := { seq := t.seq, code := t.code, result := .done, data := data } } } t

/-- The data of RESET_PART's response: whether a save was made and how it ended, the store state and generation (R141, log
entry 17). -/
def State.resetData (s : State) (made ended : Bool) : List Byte :=
  flag made ++ flag ended ++ le1 s.store.state.code ++ le4 s.store.generation.toNat

/-- The standby modes, in which SAVE, SCAN_START and ERASE_GUARDED fail their mode stage (R136). -/
def PartMode.resting : PartMode → Bool
  | .enteringStandby => true
  | .standby => true
  | .waking => true
  | .startup => false
  | .config => false
  | .service => false
  | .draining => false

/-- The guard states that refuse table-changing commands (R148). -/
def GuardState.refusesTables : GuardState → Bool
  | .locked => true
  | .erasing => true
  | .eraseIncomplete => true
  | .disabled => false
  | .opened => false

/-- The mode and guard stages of the table-changing commands (R5, R22, R136, R148): the refusal, or none. -/
def State.tableStages (s : State) (t : Taken) : Option CmdResult :=
  if t.mode ≠ .config then some .wrongMode else if s.guard.state.refusesTables then some .locked else none

end Sys2Proof.Machine
end

