-- ==== Sys2Proof/Machine/Store.lean ====
section
/-!
DEFINITION. The store controller: when a save is taken (R182), how it runs, completes and fails (R183, R184), what its end means
to the erase, to standby entry and to RESET_PART (R141, R157, R160, R170), and how the store follows port 0 (R186).
-/

namespace Sys2Proof.Machine

open Sys2Proof

/-- The store controller's record changes. -/
def State.onStore (s : State) (f : StoreController → StoreController) : State := { s with store := f s.store }

/-! ### Power-down of the ports (R86) -/

/-- A READY or READ_ONLY port records its state and places POWER_DOWN (R86). -/
def State.askPowerDown (s : State) (u : Fin 4) : State :=
  if (s.port u).state.serves then (s.onPort u fun p => { p with sleepRecord := some p.state }).placeAttach u .powerDown else s

/-- The powering-down phase begins: every port is asked to power down (R86, R172). -/
def State.beginPoweringDown (s : State) : State :=
  units.foldl State.askPowerDown { s with modes := { s.modes with phase := .poweringDown } }

/-! ### Saves (R182, R183) -/

/-- The write of a save's present step: first block, and the blocks written (R183). -/
def SaveRecord.write (r : SaveRecord) : Nat × List Block :=
  match r.step with
  | .first => (1, r.image.take 32)
  | .second => (33, r.image.drop 32)
  | .header => (0, [r.header])

/-- The write of the present step is offered, once the store place is free (R183). -/
def State.offerSave (s : State) : State :=
  match s.store.save with
  | none => s
  | some r =>
    if s.storeBusy then s.onStore fun c => { c with save := some { r with stamp := none } }
    else
      let found := s.offerStore .write r.write.1 r.write.2.length r.write.2
      found.2.onStore fun c => { c with save := some { r with stamp := some found.1 } }

/-- Whether the erase is in a phase (R146). -/
def GuardUnit.inPhase (g : GuardUnit) (p : ErasePhase) : Bool := g.erase.any fun e => decide (e.phase = p)

/-- A save starts: SAVING, the image formed with stamps of the generation plus one, its first write offered (R183). It is the
first save of an erase when it starts in phase SAVING_START (R156), and the last when in SAVING_END (R160). -/
def State.startSave (s : State) (command : Option RingRec) : State :=
  let items := s.savedItems
  let generation := nextGeneration s.store.generation
  let image := imageBlocks generation items.length items.stream
  let r : SaveRecord :=
    { image := image, header := (headerOf generation s.store.startCount image).block, step := .first, stamp := none,
      command := command, firstOfErase := decide (s.guard.state = .erasing) && s.guard.inPhase .savingStart,
      lastOfErase := s.guard.inPhase .savingEnd, eraseDone := s.store.eraseDoneAsked }
  State.offerSave (s.onStore fun c =>
    { c with state := .saving, dirtyAgain := false, saveAsked := false, eraseDoneAsked := false, save := some r })

/-- Whether the part mode lets saves be taken (R163, R182). -/
def PartMode.saves : PartMode → Bool
  | .config => true
  | .service => true
  | .draining => true
  | .startup => false
  | .enteringStandby => false
  | .standby => false
  | .waking => false

/-- Whether the store controller takes a save (R182). -/
def State.takesSave (s : State) : Bool :=
  let c := s.store
  (decide (c.state = .clean) || decide (c.state = .dirty) || decide (c.state = .invalid)) &&
    decide ((s.port 0).state = .ready) && s.modes.mode.saves &&
    (c.saveAsked || (s.mgmt.params.autosave && decide (c.state = .dirty) && !c.retryHold))

/-- A save is asked for (R156, R160, R185). -/
def State.askSave (s : State) : State := s.onStore fun c => { c with saveAsked := true }

/-! ### The end of a save (R141, R157, R160, R170, R183, R184) -/

/-- The erase record changes. -/
def State.onErase (s : State) (f : EraseRecord → EraseRecord) : State :=
  { s with guard := { s.guard with erase := s.guard.erase.map f } }

/-- What the end of a save means to the erase: its first save leads to WAITING or to ERASE_INCOMPLETE (R157); the save asked for
after a walk that left nothing unerased raises ERASE_DONE, and the last save leads to phase DONE (R160). -/
def State.eraseSaveEnded (s : State) (r : SaveRecord) (ok : Bool) : State :=
  let s := if r.eraseDone then s.raise .eraseDone else s
  if r.firstOfErase then
    if ok then s.onErase fun e => { e with phase := .waiting }
    else State.raise { s with guard := { s.guard with state := .eraseIncomplete } } .eraseFailed
  else if r.lastOfErase then
    s.onErase fun e => if e.phase = .savingEnd then { e with phase := .done } else e
  else s

/-- A save has ended: the erase, the saving phase of standby entry and the save step of RESET_PART go on (R141, R157, R160,
R170). -/
def State.saveEnded (s : State) (r : SaveRecord) (ok : Bool) : State :=
  let s := s.eraseSaveEnded r ok
  let s := if s.modes.mode = .enteringStandby ∧ s.modes.phase = .saving then s.beginPoweringDown else s
  if s.mgmt.resetStage = .save then s.respondReset (s.resetData true ok) else s

/-- The header write has ended DONE: the save completes (R183). -/
def State.saveCompletes (s : State) (r : SaveRecord) : State :=
  let s := s.onStore fun c =>
    { c with state := if c.dirtyAgain then .dirty else .clean, dirtyAgain := false, generation := nextGeneration c.generation,
             retryHold := false, save := none }
  (s.raise .saveDone).saveEnded r true

/-- A write of a running save waiting in the store place is withdrawn (R184). -/
def State.withdrawSave (s : State) (r : SaveRecord) : State :=
  if (s.port 0).storePlace.any fun o => some o.stamp == r.stamp then s.onPort 0 fun p => { p with storePlace := none } else s

/-- The running save fails (R184): SAVE_FAILED, the retry hold, the store state that its cause gives, and the log entry of a
write fault. -/
def State.saveFails (s : State) (after : StoreState) (faultAt : Option Nat) : State :=
  match s.store.save with
  | none => s
  | some r =>
    let s := (s.withdrawSave r).onStore fun c => { c with state := after, dirtyAgain := false, retryHold := true, save := none }
    let s := s.raise .saveFailed
    let s :=
      match faultAt with
      | some b =>
        s.report { kind := .storeWriteFault, unit := 0, block := some b, logical := none, item := r.command, ofSave := true }
      | none => s
    s.saveEnded r false

/-- The next write of a save after one that ended DONE, or its completion (R183). -/
def State.saveStepDone (s : State) (r : SaveRecord) : State :=
  match r.step with
  | .first =>
    let next := if 32 < r.image.length then SaveStep.second else .header
    (s.onStore fun c => { c with save := some { r with step := next, stamp := none } }).offerSave
  | .second => (s.onStore fun c => { c with save := some { r with step := .header, stamp := none } }).offerSave
  | .header => s.saveCompletes r

/-- A store write has ended: the running save acts on its own (R183, R184); the end of an older one lets a waiting write be
offered. -/
def State.saveWriteEnded (s : State) (o : Op) (out : OpOutcome) : State :=
  match s.store.save with
  | none => s
  | some r =>
    if r.stamp = some o.stamp then
      match out with
      | .done _ _ _ => s.saveStepDone r
      | .writeFault stop => s.saveFails .dirty (some stop)
      | .unavailable => s.saveFails .absent none
      | .timeout => s.saveFails .dirty none
      | .notReady => s.saveFails .dirty none
      | .hardRead _ _ => s.saveFails .dirty none
    else if r.stamp = none then s.offerSave
    else s

/-! ### The store and port 0 (R184, R186, R188) -/

/-- The store follows a change of port 0 (R184, R186); FAILED and ABSENT end a load (R188). -/
def State.storePort (s : State) (p : PortState) : State :=
  match p with
  | .ready =>
    let s := s.onStore fun c => { c with retryHold := false }
    if s.loadEnded ∧ s.store.state = .absent then s.onStore fun c => { c with state := .invalid } else s
  | .readOnly =>
    let s := s.saveFails .dirty none
    if s.loadEnded ∧ s.store.state = .absent then s.onStore fun c => { c with state := .invalid } else s
  | .attaching => s.saveFails .dirty none
  | .sleeping => s
  | .offline => (s.saveFails .absent none).onStore fun c => { c with state := .absent }
  | .failed =>
    if s.loadEnded then (s.saveFails .absent none).onStore fun c => { c with state := .absent }
    else s.later (.loadEnds .absent)
  | .absent =>
    if s.loadEnded then (s.saveFails .absent none).onStore fun c => { c with state := .absent }
    else s.later (.loadEnds .absent)

end Sys2Proof.Machine
end

