-- ==== Sys2Proof/Machine/Guard.lean ====
section
/-!
DEFINITION. The guard unit: the erase of the guarded regions (R157 to R160) and the stages of the guard commands (R149).
-/

namespace Sys2Proof.Machine

open Sys2Proof

/-! ### The guard's record and the DIRTY mark (R147, R181) -/

/-- The guard unit's record changes. -/
def State.onGuard (s : State) (f : GuardUnit → GuardUnit) : State := { s with guard := f s.guard }

/-- Whether two records of the guard have the same saved items: stored state, level, user code and recovery code (R147, R179). -/
def GuardUnit.savesAs (g h : GuardUnit) : Bool :=
  decide (g.stored = h.stored) && decide (g.level = h.level) && decide (g.userCode = h.userCode) &&
    decide (g.recoveryCode = h.recoveryCode)

/-- The guard unit's record changes; a difference in its saved items marks the store DIRTY (R181, log entry 16). -/
def State.changeGuard (s : State) (f : GuardUnit → GuardUnit) : State :=
  if (f s.guard).savesAs s.guard then s.onGuard f else (s.onGuard f).markDirty

/-! ### The erase (R158 to R160) -/

/-- A block of zero bytes. -/
def zeroBlock : Block := zeros Config.blockSize

/-- ERASE_BLOCK_FAILED is reported for an accessed block; it carries no logical block (R158, R159). -/
def State.logErase (s : State) (u : Fin 4) (b : Nat) : State :=
  s.report { kind := .eraseBlockFailed, unit := u, block := some b, logical := none, item := none, ofSave := false }

/-- Blocks are left unwritten: blocks unerased rises, the first unerased block is set if absent, and one entry is logged (R158,
R159). -/
def State.leaveUnerased (s : State) (u : Fin 4) (b n : Nat) : State :=
  State.logErase (s.onErase fun e =>
    { e with unerased := e.unerased + n,
             firstUnerased := match e.firstUnerased with
               | some x => some x
               | none => some ⟨u, b⟩ }) u b

/-- The erase write under way, or the spare write of its repair, is offered to the issue queue (R158, R159). -/
def State.offerErase (s : State) : State :=
  match s.guard.erase.bind fun e => e.write with
  | none => s
  | some w =>
    let found :=
      match w.repair with
      | none => s.offer w.unit .write w.first w.count .erase (List.replicate w.count zeroBlock)
      | some p => s.offer w.unit .write p.spare 1 .erase [zeroBlock]
    found.2.onErase fun e => { e with write := e.write.map fun w => { w with wait := if found.1 = .full then .place else .port } }

/-- The walk is over (R160): DISABLED when nothing was left unerased, ERASE_INCOMPLETE with ERASE_FAILED otherwise; a save is
asked for. -/
def State.eraseWalkEnds (s : State) : State :=
  let s := s.onErase fun e => { e with phase := .savingEnd }
  let s :=
    if s.guard.erase.any fun e => e.unerased == 0 then
      (s.changeGuard fun g => { g with state := .disabled, level := .standard, userCode := none }).onStore
        fun c => { c with eraseDoneAsked := true }
    else State.raise { s with guard := { s.guard with state := .eraseIncomplete } } .eraseFailed
  s.askSave

/-- The guard unit cuts its next erase write, passing over regions that are empty, not guarded or covered, and skipping the
rest of a region whose port does not take it (R158); at most n indices. -/
def State.eraseCutUpTo : Nat → State → State
  | 0, s => s
  | n + 1, s =>
    match s.guard.erase with
    | none => s
    | some e =>
      if e.phase = .writing ∧ e.write = none then
        match regionIndex e.index with
        | none => s.eraseWalkEnds
        | some i =>
          let r := s.map.regions[i]
          let nextRegion (e : EraseRecord) : EraseRecord := { e with index := e.index + 1, offset := 0 }
          if !r.valid || !r.guarded || decide (r.count ≤ e.offset) then State.eraseCutUpTo n (s.onErase nextRegion)
          else
            let found := s.map.cut r.unit (fun _ => true) (r.physical + e.offset) (r.count - e.offset)
            if (s.port r.unit).state.unavailable then
              State.eraseCutUpTo n ((s.leaveUnerased r.unit found.1 (r.count - e.offset)).onErase nextRegion)
            else
              let w : EraseWrite :=
                { unit := r.unit, home := r.physical + e.offset, first := found.1, count := found.2, retried := false,
                  wait := .port, repair := none }
              (s.onErase fun e => { e with write := some w, tried := 0 }).offerErase
      else s

/-- The guard unit cuts its next erase write: sixteen regions and the end of the walk (R158). -/
def State.eraseCut (s : State) : State := State.eraseCutUpTo 17 s

/-- The erase write is over and the cursor moves by n blocks; the next one is cut (R159). -/
def State.eraseMoves (s : State) (n : Nat) : State :=
  (s.onErase fun e => { e with write := none, offset := e.offset + n }).eraseCut

/-- Blocks are counted erased (R159). -/
def State.countErased (s : State) (n : Nat) : State := s.onErase fun e => { e with erased := e.erased + n }

/-- The faulting block of an erase write is given up (R159): unerased, logged, and entered pending. -/
def State.eraseGivesUp (s : State) (w : EraseWrite) : State :=
  State.eraseMoves ((s.leaveUnerased w.unit w.first 1).applyError ⟨w.unit, w.first⟩ .writeFaultNoSpare) 0

/-- A spare claim for the faulting block of an erase write, the one after `tried` spares (R159). -/
def State.eraseClaims (s : State) (w : EraseWrite) (tried : Nat) : State :=
  match s.claim w.unit w.home with
  | (.issued b, s) =>
    (s.onErase fun e => { e with write := some { w with repair := some { spare := b, marked := false } },
                                 tried := tried + 1 }).offerErase
  | (.pinned, s) => (s.raise .pinTargetSuspect).eraseGivesUp w
  | (.exhausted, s) => s.eraseGivesUp w
  | (.tableFull, s) => s.eraseGivesUp w

/-- The write's blocks are not written (R159). -/
def State.eraseUnwritten (s : State) (w : EraseWrite) : State :=
  (s.leaveUnerased w.unit w.first w.count).eraseMoves w.count

/-- An erase write has ended (R159). -/
def State.eraseWriteEnded (s : State) (w : EraseWrite) (out : OpOutcome) : State :=
  match out with
  | .done _ _ _ => (s.countErased w.count).eraseMoves w.count
  | .writeFault stop =>
    let k := stop - w.first
    let s := (s.countErased k).onErase fun e => { e with offset := e.offset + k + 1 }
    s.eraseClaims { w with home := w.home + k, first := w.first + k, count := 1 } 0
  | .timeout =>
    if w.retried then s.eraseUnwritten w
    else s.onErase fun e => { e with write := some { w with retried := true, wait := .retry } }
  | .notReady => s.eraseUnwritten w
  | .unavailable => s.eraseUnwritten w
  | .hardRead _ _ => s.eraseUnwritten w

/-- The spare write of an erase has ended TIMEOUT or NOT_READY: retried the first time, given up the second (R62, R159). -/
def State.eraseRetries (s : State) (w : EraseWrite) (p : EraseRepair) (atOnce : Bool) : State :=
  if p.marked then (s.discardSpare w.unit p.spare).eraseGivesUp w
  else
    let s := s.onErase fun e => { e with write := some { w with repair := some { p with marked := true }, wait := .retry } }
    if atOnce then s.offerErase else s

/-- The spare write of an erase has ended (R159). -/
def State.eraseSpareEnded (s : State) (w : EraseWrite) (p : EraseRepair) (tried : Nat) (out : OpOutcome) : State :=
  match out with
  | .done _ _ _ => ((s.install w.unit w.home p.spare .writeFault).countErased 1).eraseMoves 0
  | .writeFault _ =>
    let s := s.discardSpare w.unit p.spare
    if tried < 3 then s.eraseClaims w tried else s.eraseGivesUp w
  | .timeout => s.eraseRetries w p false
  | .notReady => s.eraseRetries w p true
  | .hardRead _ _ => s.eraseRetries w p true
  | .unavailable => (s.discardSpare w.unit p.spare).eraseGivesUp w

/-- An operation of the erase has ended. -/
def State.eraseEnded (s : State) (out : OpOutcome) : State :=
  match s.guard.erase with
  | none => s
  | some e =>
    match e.write with
    | none => s
    | some w =>
      match w.repair with
      | none => s.eraseWriteEnded w out
      | some p => s.eraseSpareEnded w p e.tried out

/-- Where the erase's operation for a unit waits. -/
def GuardUnit.eraseWaits (g : GuardUnit) (u : Fin 4) : Option OpWait :=
  (g.erase.bind fun e => e.write).bind fun w => if w.unit = u then some w.wait else none

/-- Whether the list holds an item whose home extent lies in a guarded region (R157). -/
def State.guardedWork (s : State) : Bool :=
  s.engine.items.any fun i =>
    match i.home with
    | none => false
    | some x => regionIndices.any fun j => s.map.regions[j].valid && s.map.regions[j].guarded && x.overlaps s.map.regions[j].extent

/-! ### Stages of the guard commands (R149) -/

/-- The guard report (R149): the response data of every guard command that passes its parameter stage. -/
def GuardUnit.report (g : GuardUnit) : List Byte :=
  le1 g.state.code ++ le1 g.level.code ++ flag g.userCode.isSome ++ flag g.frozen ++ flag g.prepared ++ le1 g.failed
    ++ (match g.erase with
        | none => zeros 30
        | some e =>
          le1 1 ++ le1 e.phase.code ++ le2 e.index ++ le4 e.offset
            ++ (match e.write with
                | none => zeros 7
                | some w => le1 1 ++ le1 w.unit.val ++ le4 w.first ++ le1 w.count)
            ++ le1 e.tried ++ le4 e.erased ++ le4 e.unerased
            ++ (match e.firstUnerased with
                | none => zeros 6
                | some b => le1 1 ++ le1 b.unit.val ++ le4 b.block))

/-- Whether a code of a kind matches (R149): a USER code the user code held, a RECOVERY code the recovery code, which level STRICT
refuses without a comparison where the command's rule limits it (R152). -/
def GuardUnit.matches (g : GuardUnit) (kind : CodeKind) (code : List Byte) (limited : Bool) : Bool :=
  match kind with
  | .user => decide (g.userCode = some code)
  | .recovery => if limited && decide (g.level = .strict) then false else decide (g.recoveryCode = code)

/-- A CODE_MISMATCH raises failed attempts by one, up to 5 (R149). -/
def State.countMismatch (s : State) : State := { s with guard := { s.guard with failed := satAdd 5 1 s.guard.failed } }

/-- A guard command ends with a result and the guard report as data (R149). -/
def State.guardEnds (s : State) (result : CmdResult) : State := s.respond result s.guard.report

/-- The code kind a guard command carries with a payload of 32 bytes (R149); none ends INVALID_PARAMETER. -/
def Taken.codeKind (t : Taken) : Option CodeKind := if t.payloadLength = 32 then CodeKind.ofCode (t.p1 0) else none

/-- The attempts and code stages of R149: a refusal, or what the accepted command does. -/
def State.withCode (s : State) (kind : CodeKind) (code : List Byte) (limited : Bool) (accepted : State → State) : State :=
  if 5 ≤ s.guard.failed then s.guardEnds .attemptsExceeded
  else if s.guard.matches kind code limited then accepted s
  else s.countMismatch.guardEnds .codeMismatch

end Sys2Proof.Machine
end

