-- ==== Sys2Proof/Machine/Modes.lean ====
section
/-!
DEFINITION. The mode controller: entries to SERVICE, CONFIG, DRAINING and ENTERING_STANDBY (R164 to R171), the drain's end
(R168), and the idle timer (R176, R177).
-/

namespace Sys2Proof.Machine

open Sys2Proof

/-- The mode controller's record changes. -/
def State.onModes (s : State) (f : ModeController → ModeController) : State := { s with modes := f s.modes }

/-- The mode becomes SERVICE, with the effects on the scan engine (R121, R166, R174). -/
def State.enterService (s : State) : State :=
  (s.onModes fun m => { m with mode := .service, phase := .none, drain := .none }).scanServes

/-- The mode becomes CONFIG (R168). -/
def State.enterConfig (s : State) : State :=
  (s.onModes fun m => { m with mode := .config, phase := .none, drain := .none }).scanServes

/-- The mode becomes DRAINING with a target; the scan engine acts on its scan (R122, R167). -/
def State.enterDraining (s : State) (target : DrainTarget) : State :=
  let s := s.onModes fun m => { m with mode := .draining, phase := .none, drain := target }
  if target = .standby then s.scanStandsBy else s.scanAborts

/-- The mode becomes ENTERING_STANDBY (R170): the saving phase when the store is DIRTY, autosave is on and port 0 is READY, the
powering-down phase otherwise. -/
def State.enterStandby (s : State) : State :=
  let s := (s.onModes fun m => { m with mode := .enteringStandby, phase := .saving, drain := .none }).scanStandsBy
  if s.store.state = .dirty ∧ s.mgmt.params.autosave = true ∧ (s.port 0).state = .ready then s.startSave none
  else s.beginPoweringDown

/-- Standby entry is abandoned in its saving phase (R171). -/
def State.abandonStandby (s : State) : State := s.enterService

/-- The saving phase of ENTERING_STANDBY (R162). -/
def State.savingPhase (s : State) : Bool := decide (s.modes.mode = .enteringStandby) && decide (s.modes.phase = .saving)

/-- The waiting SET_MODE ends DONE, with the part mode as data (R165). -/
def State.endWaiting (s : State) : State :=
  match s.modes.waiting with
  | none => s
  | some _ => (s.onModes fun m => { m with waiting := none }).respond .done (le1 s.modes.mode.code)

/-- Whether a drain may end: the admission list is empty and no save runs (R168). -/
def State.drained (s : State) : Bool := s.engine.items.isEmpty && s.store.save.isNone

/-- The save step of RESET_PART (R141): a save when the store is DIRTY and port 0 is READY, the response otherwise. -/
def State.resetSave (s : State) : State :=
  if s.store.state = .dirty ∧ (s.port 0).state = .ready then
    let record := s.mgmt.taken.map fun t => t.record
    State.startSave { s with mgmt := { s.mgmt with resetStage := .save } } record
  else s.respondReset (s.resetData false false)

/-- The drain's end (R168): CONFIG or ENTERING_STANDBY is entered and the waiting SET_MODE ends, or RESET_PART goes on to its
save step. -/
def State.drainEnds (s : State) : State :=
  match s.modes.drain with
  | .none => s
  | .config => s.enterConfig.endWaiting
  | .standby => s.enterStandby.endWaiting
  | .reset => (s.onModes fun m => { m with drain := .none, waiting := none }).resetSave

/-! ### The idle timer (R176, R177) -/

/-- The idle period in milliseconds for an idle code (R176). -/
def idlePeriod (code : Nat) : Nat :=
  if code = 0 then 0 else if code ≤ 200 then code * 2000 else (code - 200) * 60000

/-- The condition under which the idle timer runs (R177). -/
def State.idleHolds (s : State) : Bool :=
  decide (s.modes.mode = .service) && s.engine.items.isEmpty && decide (s.scan.state ≠ .running) && s.store.save.isNone &&
    !s.relocationWork && decide (s.guard.state ≠ .erasing) && decide (s.mgmt.params.idleCode ≠ 0)

/-- The idle timer after an event: it starts when its condition begins to hold and stops when it stops holding (R177). -/
def State.refreshIdle (s : State) : State :=
  if s.idleHolds then
    match s.modes.idle with
    | .stopped => s.onModes fun m => { m with idle := .running s.ms (idlePeriod s.mgmt.params.idleCode) }
    | .running _ _ => s
    | .spent => s
  else s.onModes fun m => { m with idle := .stopped }

/-- The timer starts again for a changed idle code (R176): `refreshIdle` starts it with the new period where its condition
holds. -/
def State.restartIdle (s : State) : State := s.stopIdle

end Sys2Proof.Machine
end

