-- ==== Sys2Proof/Machine/Ports.lean ====
section
/-!
DEFINITION. The unit ports: changes of state and who hears of them (R70, R72, R84 to R87), attach (R76, R77), results and timeouts
(R81 to R83), and the load that port 0 serves (R188, R189).
-/

namespace Sys2Proof.Machine

open Sys2Proof

/-! ### Changes of state (R70, R72, R84, R85) -/

/-- A change of a port's state is reported to the scan engine, to the health monitor and, for port 0, to the store controller
(R70, R84, R104, R117). -/
def State.portReports (s : State) (u : Fin 4) (p : PortState) : State :=
  let s := s.scanPort u p
  let s := if p = .failed ∨ p = .absent then slotIndices.foldl (fun s k => s.relocLost u k) s else s
  if u = 0 then s.storePort p else s

/-- A port enters a state; UNIT_CHANGE is raised where it is a change that R70 names (R70), in STARTUP too (log entry 58). -/
def State.portEnters (s : State) (u : Fin 4) (p : PortState) (raises : Bool) : State :=
  let before := (s.port u).state
  let s := s.onPort u fun x => { x with state := p }
  let s := if raises && decide (before ≠ p) then s.raise .unitChange else s
  s.portReports u p

/-- The operations waiting at a port: the issue queue, then the scan, store and attach places (log entry 21). -/
def Port.waiting (p : Port) : List Op :=
  p.queue ++ p.scanPlace.toList ++ p.storePlace.toList ++ p.attachPlace.toList

/-- Operations end UNIT_UNAVAILABLE and are handed back, in order. -/
def State.endAll (s : State) (u : Fin 4) (l : List Op) : State := l.foldl (fun s o => s.later (.ended u o .unavailable)) s

/-- The operations waiting at a port end UNIT_UNAVAILABLE (R74, R77, R84). -/
def State.endWaitingOps (s : State) (u : Fin 4) : State :=
  let l := (s.port u).waiting
  (s.onPort u fun p => { p with queue := [], scanPlace := none, storePlace := none, attachPlace := none }).endAll u l

/-- A port enters OFFLINE (R74, R77, R87): what waits ends UNIT_UNAVAILABLE, what is outstanding runs on. -/
def State.enterOffline (s : State) (u : Fin 4) : State :=
  let s := s.endWaitingOps u
  let s := s.onPort u fun p => { p with powerDownAttempts := 0, sleepRecord := none, waking := false, identified := false }
  (s.portEnters u .offline true).later (.retries u)

/-- A port enters FAILED (R84): what waits ends UNIT_UNAVAILABLE, held retries are offered and end, UNIT_FAILED is logged. UNIT_CHANGE is
raised before the operations go back to their blocks (log entry 54), UNIT_FAILED logged after (R194). -/
def State.portFails (s : State) (u : Fin 4) (cause : FailCause) : State :=
  let s := s.endWaitingOps u
  let s := s.onPort u fun p =>
    { p with cause := cause, powerDownAttempts := 0, sleepRecord := none, waking := false, identified := false }
  ((s.portEnters u .failed true).later (.retries u)).later (.unitFailed u)

/-- A READY or READ_ONLY port takes the state of the table of R72. -/
def State.takeState (s : State) (u : Fin 4) : State :=
  let p := s.port u
  if p.state.serves && decide (p.served ≠ p.state) then
    if p.served = .offline then s.enterOffline u else s.portEnters u p.served true
  else s

/-! ### Attach (R76, R77) -/

/-- A port enters ATTACHING and begins an attach, or a wake attach (R76, R87). Its operation takes the attach place from a POWER_DOWN that
still waits there (log entry 57). -/
def State.beginAttach (s : State) (u : Fin 4) (wake : Bool) : State :=
  let s := s.onPort u fun p => { p with attempts := 0, cause := .none, waking := wake, identified := false }
  (s.portEnters u .attaching false).placeAttach u (if wake then .powerUp else .unitReset)

/-- The load waits for port 0 again, without what it had read (R188). -/
def State.loadRestarts (s : State) : State :=
  s.onStore fun c => { c with load := c.load.map fun _ => { step := .port, stamp := none, header := none, image := [] } }

/-- An attach attempt fails (R76): a new one begins with UNIT_RESET, the third failure takes the port to FAILED. -/
def State.attemptFails (s : State) (u : Fin 4) : State :=
  let n := (s.port u).attempts + 1
  let s := s.onPort u fun p =>
    { p with attempts := n, identified := false, storePlace := if u = 0 ∧ s.loadEnded = false then none else p.storePlace }
  let s := if u = 0 then s.loadRestarts else s
  if n < 3 then s.placeAttach u .unitReset else s.portFails u .noResponse

/-- An attach ends with its capacity covered: READY, READ_ONLY or OFFLINE (R77); a wake that ends in the state of the sleep
record raises no UNIT_CHANGE (R87). -/
def State.attachEnds (s : State) (u : Fin 4) : State :=
  let p := s.port u
  if p.served = .offline then s.enterOffline u
  else
    let raises := !(p.waking && decide (p.sleepRecord = some p.served))
    let s := s.onPort u fun p => { p with waking := false, identified := false, sleepRecord := none }
    ((s.portEnters u p.served raises).pump u).later (.retries u)

/-- The coverage of a recorded capacity decides the end of the attach (R18, R77). -/
def State.checkCoverage (s : State) (u : Fin 4) : State :=
  match (s.port u).capacity with
  | none => s
  | some c => if s.map.covers u c then s.attachEnds u else s.portFails u .capacity

/-- A read of the load is offered (R188). -/
def State.offerLoad (s : State) (step : LoadStep) (first count : Nat) : State :=
  let found := s.offerStore .read first count []
  found.2.onStore fun c => { c with load := c.load.map fun l => { l with step := step, stamp := some found.1 } }

/-- IDENTIFY ended DONE: the capacity is recorded, whatever it is (log entry 56), and checked; before the end of the load the check waits,
but for the store area of unit 0 (R18, R76, R77, R188). -/
def State.identified (s : State) (u : Fin 4) (capacity : Nat) : State :=
  let s := s.onPort u fun p => { p with capacity := some capacity }
  if s.loadEnded then s.checkCoverage u
  else if u = 0 ∧ capacity < Config.storeBlocks then s.portFails 0 .capacity
  else
    let s := s.onPort u fun p => { p with identified := true }
    if u = 0 then s.offerLoad .header 0 1 else s

/-- A POWER_DOWN ended NOT_READY or TIMEOUT (R86): an attach, or FAILED at the third. -/
def State.powerDownFails (s : State) (u : Fin 4) : State :=
  let n := (s.port u).powerDownAttempts + 1
  let s := s.onPort u fun p => { p with powerDownAttempts := n }
  if n < 3 then s.beginAttach u false else s.portFails u .noResponse

/-- The outcome of a POWER_DOWN (R86): the port enters SLEEPING, or recovers. A port that has become OFFLINE since, or that attaches
again from there, keeps its state (log entry 46). -/
def State.powerDownEnded (s : State) (u : Fin 4) (out : OpOutcome) : State :=
  if (s.port u).state.serves then
    match out with
    | .done _ _ _ => (s.onPort u fun p => { p with powerDownAttempts := 0 }).portEnters u .sleeping false
    | _ => s.powerDownFails u
  else s

/-- The outcome of an attach or power operation of the port (R76, R86, R87). -/
def State.portOpEnded (s : State) (u : Fin 4) (kind : OpKind) (out : OpOutcome) : State :=
  match kind, out with
  | .unitReset, .done _ _ _ => s.placeAttach u .identify
  | .powerUp, .done _ _ _ => s.placeAttach u .identify
  | .identify, .done _ _ capacity => s.identified u capacity
  | .powerDown, _ => s.powerDownEnded u out
  | _, _ => s.attemptFails u

/-! ### Results (R78, R81, R82, R92, R202) -/

/-- Whether an outcome byte is one an operation kind can give (R78, R81). -/
def OpKind.gives (k : OpKind) (outcome : Nat) : Bool :=
  match outcome with
  | 0 => true
  | 1 => decide (k = .read) || decide (k = .verify)
  | 2 => decide (k = .write)
  | 3 => true
  | _ => false

/-- Whether an ATTACHING port takes a RESULT for an operation (R81): an attach operation, a load read, or one left outstanding
from OFFLINE while the UNIT_RESET waits (R76, log entry 13). -/
def Port.attachingTakes (p : Port) (o : Op) (loading : Bool) : Bool :=
  decide (o.owner = .port) || (loading && decide (o.owner = .store)) ||
    p.attachPlace.any fun x => decide (x.kind = .unitReset)

/-- Whether a RESULT is taken for the operation outstanding in its slot (R81). A soft-error list inside the extent is taken with any kind
and outcome (log entries 37, 55). -/
def Port.takes (p : Port) (o : Op) (r : ResultFields) (loading : Bool) : Bool :=
  decide (r.kind.toNat = o.kind.code) && o.kind.gives r.outcome.toNat &&
    (decide (r.outcome.toNat ≠ 1 ∧ r.outcome.toNat ≠ 2) || inRun o.first o.count r.stop.toNat) &&
    (r.soft.all fun b => inRun o.first o.count b) &&
    (decide (p.state ≠ .attaching) || p.attachingTakes o loading) && decide (p.state ≠ .absent)

/-- The data of the first n blocks of a READ, in order; a block whose DATA frame was lost is a free value (log entry 11). -/
def collected (free n : Nat) (arrived : List (Nat × Block)) : List (Nat × Block) :=
  (List.range n).map fun i =>
    (i, ((arrived.find? fun d => d.1 == i).map fun d => d.2).getD
      ((List.range Config.blockSize).map fun j => Config.lostByte free (i * Config.blockSize + j)))

/-- Whether the data of the first n blocks has all arrived. -/
def allArrived (n : Nat) (arrived : List (Nat × Block)) : Bool :=
  (List.range n).all fun i => arrived.any fun d => d.1 == i

/-- The outcome a taken RESULT gives its operation; a READ that ends DONE without all its data ends NOT_READY (R202). -/
def outcomeOf (free : Nat) (x : Outstanding) (r : ResultFields) : OpOutcome :=
  match r.outcome.toNat with
  | 0 =>
    if x.op.kind = .read then
      if allArrived x.op.count x.arrived then .done r.soft (collected free x.op.count x.arrived) 0 else .notReady
    else .done r.soft [] r.capacity
  | 1 =>
    let n := r.stop.toNat - x.op.first
    .hardRead r.stop.toNat (if x.op.kind = .read then collected free n x.arrived else [])
  | 2 => .writeFault r.stop.toNat
  | _ => .notReady

/-- Whether an operation is the VERIFY of verify-after-write (R63). -/
def State.verifiesWrite (s : State) (o : Op) : Bool :=
  match o.owner with
  | .segment id _ => decide (o.kind = .verify) && (s.request? id).any fun r => decide (r.kind = .write)
  | .repair _ _ => false
  | .reloc _ => false
  | .scan => false
  | .store => false
  | .erase => false
  | .port => false

/-- Whether the health monitor takes reports of an operation (R89): those of requests, relocations and scans; a scan of the store
area is store work (R116). -/
def Op.reported (o : Op) (u : Fin 4) : Bool :=
  (decide (o.kind = .read) || decide (o.kind = .verify)) &&
    match o.owner with
    | .segment _ _ => true
    | .reloc _ => true
    | .scan => u != 0 || decide (Config.storeBlocks ≤ o.first)
    | .repair _ _ => false
    | .store => false
    | .erase => false
    | .port => false

/-- The error kind of a soft error of an operation (R89). -/
def Op.softCause (o : Op) : WatchCause := if o.owner = .scan then .softScan else .softRead

/-- The error kind of a hard error of an operation (R89). -/
def Op.hardCause (o : Op) : WatchCause := if o.kind = .read then .hardRead else .verifyFail

/-- What the health monitor takes from an ended operation: soft errors, the hard block, then the pending blocks read good (R82,
R89, R92; the order is log entry 20). -/
def State.healthTakes (s : State) (u : Fin 4) (o : Op) (out : OpOutcome) : State :=
  if o.reported u then
    match out with
    | .done soft _ _ =>
      let s := s.applySoft u o.softCause soft
      if s.verifiesWrite o then s else s.readGood u o.first o.count
    | .hardRead stop _ =>
      let s := s.applyError ⟨u, stop⟩ o.hardCause
      if s.verifiesWrite o then s else s.readGood u o.first (stop - o.first)
    | .writeFault _ => s
    | .notReady => s
    | .timeout => s
    | .unavailable => s
  else s

/-- A WRITE ended WRITE_FAULT: the write-fault count rises, and write inhibit is set when it reaches the limit (R73). -/
def State.countWriteFault (s : State) (u : Fin 4) : State :=
  s.onPort u fun p =>
    let n := satAdd 255 1 p.writeFaults
    { p with writeFaults := n, writeInhibit := p.writeInhibit || decide (s.mgmt.params.writeFaultLimit ≤ n) }

/-- What the per-unit counters take from an ended operation (R82, R198). -/
def State.countOutcome (s : State) (u : Fin 4) (out : OpOutcome) : State :=
  match out with
  | .done soft _ _ => s.onUnitCounters u fun c => { c with softErrors := bump soft.length c.softErrors }
  | .hardRead _ _ => s.onUnitCounters u fun c => { c with hardErrors := bump 1 c.hardErrors }
  | .writeFault _ => (s.onUnitCounters u fun c => { c with writeFaults := bump 1 c.writeFaults }).countWriteFault u
  | .timeout => s.onUnitCounters u fun c => { c with timeouts := bump 1 c.timeouts }
  | .notReady => s
  | .unavailable => s

/-- A RESULT that is taken: its slot is free, the operation ends with its outcome, and the port sends on (R81, R82). -/
def State.resultTaken (s : State) (u : Fin 4) (slot : Fin 4) (x : Outstanding) (r : ResultFields) : State :=
  let out := outcomeOf s.nextFree x r
  let s := { s with nextFree := s.nextFree + 1 }.onPort u fun p => { p with slots := p.slots.set slot none }
  let s := (s.countOutcome u out).healthTakes u x.op out
  let s := if x.op.owner = .port then s.portOpEnded u x.op.kind out else s.later (.ended u x.op out)
  (s.pump u).later (.takes u)

/-- A DATA frame of a unit: taken for an outstanding READ and a block inside its extent (R81). -/
def State.takeData (s : State) (u : Fin 4) (slot : Fin 4) (offset : Nat) (block : Block) : State :=
  match (s.port u).slots.get slot with
  | none => s
  | some x =>
    if x.op.kind = .read ∧ offset < x.op.count then
      let arrived := (offset, block) :: x.arrived.filter fun d => d.1 != offset
      s.onPort u fun p => { p with slots := p.slots.set slot (some { x with arrived := arrived }) }
    else s

/-! ### Timeouts (R83) -/

/-- The report of a UNIT_TIMEOUT (R83, R194, R195). -/
def State.timeoutReport (s : State) (u : Fin 4) (o : Op) : LogReport :=
  let ofRequest (id seg : Nat) : Option RingRec × Option Nat :=
    match s.request? id with
    | none => (none, none)
    | some r => (some r.record, (r.segment? seg).map fun g => r.lba + g.off)
  let found : Option RingRec × Option Nat :=
    match o.owner with
    | .segment id seg => ofRequest id seg
    | .repair id seg => ofRequest id seg
    | .store => ((s.store.save.bind fun r => if r.stamp = some o.stamp then r.command else none), none)
    | .reloc _ => (none, none)
    | .scan => (none, none)
    | .erase => (none, none)
    | .port => (none, none)
  { kind := .unitTimeout, unit := u, block := if o.count = 0 then none else some o.first, logical := found.2, item := found.1,
    ofSave := decide (o.owner = .store) && decide (o.kind = .write) }

/-- One outstanding operation ends TIMEOUT: logged, counted and handed back (R83). -/
def State.timeOut (u : Fin 4) (s : State) (o : Op) : State :=
  ((s.report (s.timeoutReport u o)).countOutcome u .timeout).later (.ended u o .timeout)

/-- What the port does by its state after a timeout (R83, R86). -/
def State.afterTimeout (s : State) (u : Fin 4) (ended : List Op) : State :=
  match (s.port u).state with
  | .ready => if ended.any fun o => decide (o.kind = .powerDown) then s.powerDownFails u else s.beginAttach u false
  | .readOnly => if ended.any fun o => decide (o.kind = .powerDown) then s.powerDownFails u else s.beginAttach u false
  | .attaching =>
    if ended.any fun o => (s.port u).attachingTakes o (!s.loadEnded) && !((s.port u).attachPlace.isSome) then s.attemptFails u
    else s.pump u
  | .offline => s.later (.retries u)
  | .absent => s
  | .sleeping => s
  | .failed => s

/-- The timer of an operation expires: every outstanding operation ends TIMEOUT, in slot order (R83). -/
def State.unitTimesOut (s : State) (u : Fin 4) : State :=
  let ended := (s.port u).outstanding
  let s := s.onPort u fun p => { p with slots := Four.all none }
  (ended.foldl (State.timeOut u) s).afterTimeout u ended

/-! ### Presence (R71, R85) -/

/-- The unit-present line is released: the port enters ABSENT from any other state (R85). -/
def State.presentReleased (s : State) (u : Fin 4) : State :=
  let s := s.onPort u fun p => { p with present := false }
  if (s.port u).state = .absent then s
  else
    let ended := (s.port u).outstanding
    let s := s.onPort u fun p => { p with slots := Four.all none }
    let s := (s.endAll u ended).endWaitingOps u
    let s := s.onPort u fun p =>
      { p with capacity := none, cause := .none, powerDownAttempts := 0, sleepRecord := none, waking := false,
               identified := false }
    (s.portEnters u .absent true).later (.retries u)

/-- The unit-present line is asserted: an ABSENT port begins an attach (R71). -/
def State.presentAsserted (s : State) (u : Fin 4) : State :=
  let s := s.onPort u fun p => { p with present := true }
  if (s.port u).state = .absent then s.beginAttach u false else s

/-! ### Wake (R87, R173, R174) -/

/-- A SLEEPING port wakes by its desired mode (R87). -/
def State.wakePort (s : State) (u : Fin 4) : State :=
  if (s.port u).state = .sleeping then
    if (s.port u).desired = .offline then s.enterOffline u else s.beginAttach u true
  else s

/-- The mode becomes WAKING (R173, R174). -/
def State.enterWaking (s : State) : State :=
  let s := (s.onModes fun m => { m with mode := .waking, phase := .none, wakeRequested := false }).raise .modeChange
  units.foldl State.wakePort s

/-! ### The load (R188, R189) -/

/-- The blocks of a load read that ended DONE. -/
def loadBlocks (data : List (Nat × Block)) : List Block := data.map fun d => d.2

/-- The store is tested when the image is complete (R178, R188). -/
def testImage (h : Header) (image : List Block) : LoadOutcome :=
  match readImage h image with
  | some v => .valid h v
  | none => .notValid

/-- A load read ended DONE (R188). -/
def State.loadReadDone (s : State) (l : Load) (data : List Block) : State :=
  match l.step with
  | .port => s
  | .header =>
    match readHeader (data.flatten) with
    | none => s.later (.loadEnds .notValid)
    | some h =>
      (s.onStore fun c => { c with load := c.load.map fun l => { l with header := some h } }).offerLoad .first 1 (min 32 h.length)
  | .first =>
    match l.header with
    | none => s.later (.loadEnds .notValid)
    | some h =>
      if 32 < h.length then
        (s.onStore fun c => { c with load := c.load.map fun l => { l with image := data } }).offerLoad .second 33 (h.length - 32)
      else s.later (.loadEnds (testImage h data))
  | .second =>
    match l.header with
    | none => s.later (.loadEnds .notValid)
    | some h => s.later (.loadEnds (testImage h (l.image ++ data)))

/-- A store read has ended (R188): a NOT_READY fails the attach attempt; after a TIMEOUT the port has done so (R83). -/
def State.loadReadEnded (s : State) (o : Op) (out : OpOutcome) : State :=
  match s.store.load with
  | none => s
  | some l =>
    if l.stamp = some o.stamp then
      match out with
      | .done _ data _ => s.loadReadDone l (loadBlocks data)
      | .hardRead _ _ => s.later (.loadEnds .notValid)
      | .notReady => s.attemptFails 0
      | .writeFault _ => s
      | .timeout => s
      | .unavailable => s
    else s

/-- A history record whose open start count is set (R192). -/
def HistRec.close (c : Word) : HistRec → HistRec
  | .host kind stream tag lba len stamp => .host kind stream tag lba len (stamp.close c)
  | .command code seq stamp => .command code seq (stamp.close c)
  | .startup cause stamp => .startup cause (stamp.close c)

/-- A ring record whose open start count is set (R192). -/
def RingRec.close (c : Word) (r : RingRec) : RingRec := { r with record := r.record.close c }

/-- A log entry whose open start counts are set (R192, R196). -/
def LogEntry.close (c : Word) (e : LogEntry) : LogEntry :=
  { e with stamp := e.stamp.close c, item := e.item.map (HistRec.close c), preceding := e.preceding.map (HistRec.close c) }

/-- The open time stamps of the ring, of the request contexts and of the held errors get the start count (R192). -/
def State.closeStamps (s : State) : State :=
  let c := s.store.startCount
  { s with
    log := { s.log with ring := s.log.ring.map (RingRec.close c), held := s.log.held.map (LogEntry.close c) },
    engine := { s.engine with items := s.engine.items.map fun i =>
      match i with
      | .host r => .host { r with record := r.record.close c }
      | .reloc r => .reloc r } }

/-- The saved items are set (R189). -/
def State.setSaved (s : State) (v : Saved) : State :=
  { s with
    map := { regions := v.regions, pins := v.pins, learned := v.learned, pools := v.pools },
    mgmt := { s.mgmt with params := v.params, streams := v.streams },
    guard := { s.guard with level := v.level, userCode := v.userCode, recoveryCode := v.recoveryCode },
    log := { s.log with slots := v.slots, latest := v.latest, lifetime := v.lifetimeErrors },
    scan := { s.scan with log := v.scanLog },
    health := { s.health with watch := v.watch },
    counters := { s.counters with lifetime := v.relocations } }

/-- The guard state at the start, from the stored state (R147). -/
def StoredState.start : StoredState → GuardState
  | .eraseIncomplete => .eraseIncomplete
  | .set => .locked
  | .disabled => .disabled

/-- The errors held during the load are logged in order (R196). -/
def State.logHeld (s : State) : State :=
  let held := s.log.held
  held.foldl (fun s e => s.logEntry e false) { s with log := { s.log with held := [] } }

/-- The outcome of the load in the store controller's record and the saved items (R189). -/
def State.setLoaded (s : State) (outcome : LoadOutcome) : State :=
  match outcome with
  | .valid h v =>
    (s.setSaved v).onStore fun c =>
      { c with state := .clean, generation := h.generation, startCount := nextStartCount h.startCount, load := none }
  | .notValid =>
    (s.setSaved Saved.fresh).onStore fun c => { c with state := .invalid, generation := 0, startCount := 1, load := none }
  | .absent =>
    (s.setSaved Saved.fresh).onStore fun c => { c with state := .absent, generation := 0, startCount := 1, load := none }

/-- The stored guard state of a load's outcome. -/
def LoadOutcome.stored : LoadOutcome → StoredState
  | .valid _ v => v.stored
  | .notValid => .disabled
  | .absent => .disabled

/-- The capacity check of a port that waited for the end of the load (R18, R77). -/
def State.checkWaiting (s : State) (u : Fin 4) : State :=
  if (s.port u).state = .attaching ∧ (s.port u).identified = true then s.checkCoverage u else s

/-- The load ends (R189): saved items, store, open time stamps, held errors, guard state, the capacity checks that waited, in the order
of the units (log entry 49); then the part leaves STARTUP. -/
def State.loadEnds (s : State) (outcome : LoadOutcome) : State :=
  if s.loadEnded then s
  else
    let s := ((s.setLoaded outcome).closeStamps).logHeld
    let s := { s with guard := { s.guard with state := outcome.stored.start } }
    let s := units.foldl State.checkWaiting s
    match outcome with
    | .valid _ _ => s.later (.leaveStartup true false)
    | .notValid => s.later (.leaveStartup false true)
    | .absent => s.later (.leaveStartup false false)

/-- The part leaves STARTUP (R164, R189): the mode by the start mode and the store, the events, the aging and quiet timers. -/
def State.leaveStartup (s : State) (valid invalid : Bool) : State :=
  let wanted := valid && s.mgmt.params.startService
  let fails := wanted && s.validate.isSome
  let s := if wanted && !fails then s.enterService else s.enterConfig
  let s := s.raise .started
  let s := if invalid then s.raise .storeInvalid else s
  let s := if fails then s.raise .modeChange else s
  { s with health := { s.health with aging := s.agingTimer },
           scan := { s.scan with quietTimer := s.startTimer s.mgmt.params.quietTime } }

end Sys2Proof.Machine
end

