-- ==== Sys2Proof/Machine/Settle.lean ====
section
/-!
DEFINITION. The end of a step: operations that have ended go back to the blocks that offered them (R82), operations held for a
retry are offered again (R77, R80, R83), and what else the step has left to do, in order, until nothing is left (log entry 25).
-/

namespace Sys2Proof.Machine

open Sys2Proof

/-- An ended operation goes back to the block that offered it (R82). -/
def State.handBack (s : State) (o : Op) (out : OpOutcome) : State :=
  match o.owner with
  | .segment id seg => s.segmentEnded id seg o.kind out
  | .repair id seg => s.repairWriteEnded id seg out
  | .reloc k => s.relocEnded k o.kind out
  | .scan => s.scanEnded o out
  | .store => if o.kind = .read then s.loadReadEnded o out else s.saveWriteEnded o out
  | .erase => s.eraseEnded out
  | .port => s

/-- An operation that waits in the request engine or in a relocation slot to be offered. -/
inductive WaitingOp where
  | segment (item seg : Nat)
  | reloc (slot : Fin 2)
  deriving DecidableEq, Repr

/-- The operations for a unit that wait in a way a test lets in, in admission-list order, within one item in cut order (R77,
R80). -/
def State.waitingOps (s : State) (u : Fin 4) (p : OpWait → Bool) : List WaitingOp :=
  s.engine.items.flatMap fun i =>
    match i with
    | .host r => (r.segs.filter fun g => g.unit == u && g.waits.any p).map fun g => .segment r.id g.id
    | .reloc r =>
      if (s.health.slot r.slot).any fun x =>
          x.unit == u && x.item == r.id && (decide (x.step = .read) || decide (x.step = .write)) && p x.wait then
        [.reloc r.slot]
      else []

/-- A waiting operation is offered again. -/
def State.offerWaiting (s : State) (w : WaitingOp) : State :=
  match w with
  | .segment id seg => s.offerAgain id seg
  | .reloc k => s.offerReloc k

/-- Whether a wait ends when a port ends its attach: a held retry, and a wait for a place where the port serves (R77). -/
def OpWait.endsWithAttach (serves : Bool) : OpWait → Bool
  | .retry => true
  | .place => serves
  | .port => false

/-- The erase write held for a port is offered again (R159). -/
def State.eraseRetry (s : State) (u : Fin 4) : State :=
  if (s.guard.eraseWaits u).any fun w => w.endsWithAttach (s.port u).state.serves then s.offerErase else s

/-- An attach that ended READY or READ_ONLY in the powering-down phase or in STANDBY is followed by power-down (R77, R86). -/
def State.powersDownAgain (s : State) (u : Fin 4) : State :=
  if (s.poweringDown || decide (s.modes.mode = .standby)) && (s.port u).poweringDown.isNone then s.askPowerDown u else s

/-- The operations held for a port meet its new state (R77, R83, R84, R117, R159). -/
def State.retriesDue (s : State) (u : Fin 4) : State :=
  let l := s.waitingOps u fun w => w.endsWithAttach (s.port u).state.serves
  (((l.foldl State.offerWaiting s).scanRetry u).eraseRetry u).powersDownAgain u

/-- Whether the step still has operations of a unit to hand back or to offer. -/
def State.unitBusy (s : State) (u : Fin 4) : Bool :=
  s.todo.any fun w =>
    match w with
    | .ended v _ _ => v == u
    | .retries v => v == u
    | .takes _ => false
    | .unitFailed _ => false
    | .loadEnds _ => false
    | .leaveStartup _ _ => false

/-- UNIT_FAILED is logged after the operations of the unit have been handed back (R84, R195). -/
def State.logUnitFailed (s : State) (u : Fin 4) : State :=
  if s.unitBusy u then s.later (.unitFailed u)
  else s.report { kind := .unitFailed, unit := u, block := none, logical := none, item := none, ofSave := false }

/-- One piece of the work left. -/
def State.doWork (s : State) (w : Work) : State :=
  match w with
  | .ended _ o out => s.handBack o out
  | .retries u => s.retriesDue u
  | .takes u => s.takeState u
  | .unitFailed u => s.logUnitFailed u
  | .loadEnds outcome => s.loadEnds outcome
  | .leaveStartup valid invalid => s.leaveStartup valid invalid

/-- The work left is done in order, at most n pieces. -/
def State.settleUpTo : Nat → State → State
  | 0, s => s
  | n + 1, s =>
    match s.todo with
    | [] => s
    | w :: l => State.settleUpTo n (State.doWork { s with todo := l } w)

/-- The most pieces of work one step may have: far above what 64 queued, 4 outstanding and 264 held operations of one unit can
leave. -/
def settleFuel : Nat := 4096

/-- The work left is done; nothing is left of it between steps (log entry 25). -/
def State.settle (s : State) : State := { State.settleUpTo settleFuel s with todo := [] }

/-- The end of a step: the work left is done, and the idle timer follows its condition (R177). -/
def State.finish (s : State) : State := s.settle.refreshIdle

end Sys2Proof.Machine
end

