-- ==== Sys2Proof/Machine/Flags.lean ====
section
/-!
DEFINITION. The blocks that the management window shows: the status block with its flags and conditions (R145, 12.4), and the
response block (R129, R135).
-/

namespace Sys2Proof.Machine

open Sys2Proof

/-- The items of a unit in the status block: 8 bytes (12.4). -/
def State.unitStatus (s : State) (u : Fin 4) : List Byte :=
  le1 (s.port u).state.code ++ le1 (s.port u).desired.code ++ le1 (s.unitHealth u).code ++ zeros 1
    ++ le2 (s.map.pools.get u).remaining ++ zeros 2

/-- The items of the scan engine in the status block: 22 bytes, 0 with 0xFF at the unit while it is IDLE (12.4). -/
def ScanEngine.status (e : ScanEngine) : List Byte :=
  match e.context with
  | none => le1 0 ++ le1 255 ++ zeros 20
  | some c =>
    le1 c.kind.code ++ le1 (optUnit c.unit) ++ le1 c.phase.code ++ zeros 1 ++ le2 c.index ++ zeros 2 ++ le4 c.offset
      ++ le4 c.pass ++ le4 c.verified ++ le2 c.failures

/-- The number of pending entries of the watch list. -/
def HealthMonitor.pendingCount (h : HealthMonitor) : Nat := (h.watch.filter fun e => e.pending).length

/-- The status block: 512 bytes (R145, 12.4). -/
def State.statusBlock (s : State) : List Byte :=
  fit 512 (le1 s.modes.mode.code ++ le1 s.store.cause.code ++ le1 s.guard.state.code ++ flag s.guard.frozen
    ++ le1 s.guard.failed ++ le1 s.store.state.code ++ le1 s.mgmt.state.code ++ le1 s.scan.state.code
    ++ le4 s.ms.toNat ++ le4 s.store.startCount.toNat ++ le4 s.store.generation.toNat ++ le2 s.mgmt.lastSeq.toNat
    ++ le2 s.mgmt.events.toNat ++ le2 s.log.lifetime ++ le1 s.log.latest ++ flag s.health.tableFull
    ++ le1 s.health.watch.length ++ le1 s.health.pendingCount ++ zeros 2 ++ (units.flatMap s.unitStatus) ++ s.scan.status)

/-- The 512 bytes of a response block (12.4). -/
def Response.block (r : Response) : List Byte :=
  fit 512 (le2 r.seq.toNat ++ le2 r.code ++ le1 r.result.code ++ zeros 1 ++ le2 r.data.length ++ zeros 8 ++ r.data)

/-- What W1 shows (R129): the response block as it stands, or PENDING with the taken command's sequence and code. -/
def ManagementEngine.shown (m : ManagementEngine) : Response :=
  match m.taken with
  | none => m.response
  | some t => { seq := t.seq, code := t.code, result := .pending, data := [] }

end Sys2Proof.Machine
end

