-- ==== Sys2Proof/Machine/Checks.lean ====
section
/-!
DEFINITION. What a REQUEST meets after its frame is read: rejection and admission (R42), the SYNC handling (R50), the window
stages (R127, R129, R130) and the seven request checks (R44, R45).
-/

namespace Sys2Proof.Machine

open Sys2Proof

/-! ### Rejection and admission (R42, R43) -/

/-- A REJECT is sent and counted (R42, R198). -/
def State.reject (s : State) (tag : Fin 32) (reason : RejectReason) : State :=
  (s.send (.reject tag reason)).onLinkCounters fun c => { c with rejects := bump 1 c.rejects }

/-- The context of an admitted request (R42). -/
def Request.admitted (id : Nat) (kind : ReqKind) (r : RequestFields) (record : RingRec) : Request :=
  { id := id, tag := r.tag, stream := r.stream, kind := kind, lba := r.lba.toNat, len := r.len.toNat, region := none, home := none,
    verifyAfter := false, state := .running, cursor := 0, segs := [], first := none, recovered := false, cancelled := false,
    passed := false, orphan := false, completed := [], record := record }

/-- A request is admitted: it takes its tag, its history record is added and it joins the end of the admission list (R42). -/
def State.takeIn (s : State) (kind : ReqKind) (r : RequestFields) : Request × State :=
  let recorded := s.addRecord (.host kind r.stream r.tag r.lba.toNat r.len.toNat s.now)
  let found := recorded.2.takeId
  let q := Request.admitted found.1 kind r recorded.1
  (q, (found.2.setTag r.tag .request).addItem (.host q))

/-- A request that ends at a check: its COMPLETION is sent at once with a residual of its byte length, it leaves the list, and
the refusal counts (R44). -/
def State.refuse (s : State) (q : Request) (status : Status) : State :=
  ((s.sendCompletion q.tag status q.len none false).removeItem q.id).countRefused q.stream

/-! ### SYNC (R50) -/

/-- A SYNC is refused, completes at once, or is HELD behind the items before it (R50). -/
def State.syncAdmitted (s : State) (q : Request) : State :=
  if q.len ≠ 0 then s.refuse q .badRequest
  else
    match s.engine.items with
    | [_] => s.sendDone q
    | _ => s.onRequest q.id fun r => { r with state := .held }

/-! ### Window accesses (R1, R127 to R130) -/

/-- Whether a request is a window target (R1). -/
def Request.windowTarget (q : Request) : Bool :=
  decide (Config.windowBase ≤ q.lba) || decide (Config.windowBase < q.lba + q.count)

/-- The stages of a window access (R127): the failure, or none when it passes. -/
def State.windowFailure (s : State) (q : Request) : Option Status :=
  if s.modes.mode = .startup then some .notServicing
  else if q.kind = .verify ∨ q.kind = .sync ∨ q.len ≠ 512 ∨ q.lba < Config.windowBase then some .windowMisuse
  else if hasStream s.mgmt.streams q.stream = false then some .accessDenied
  else if (q.kind = .read ∧ q.lba = Config.windowBase) ∨ (q.kind = .write ∧ q.lba ≠ Config.windowBase) then some .windowMisuse
  else none

/-- A window access ends with a status: its COMPLETION is sent, its tag is freed and the refusal counts (R127). -/
def State.windowRefuse (s : State) (tag : Fin 32) (stream : Fin 16) (status : Status) (residual : Nat) : State :=
  (s.sendCompletion tag status residual none false).countRefused stream

/-- The block that a window read shows (R129). -/
def State.windowBlock (s : State) (lba : Nat) : List Byte :=
  if lba = Config.windowBase + 1 then s.mgmt.shown.block else s.statusBlock

/-- The event flags are cleared (R143). -/
def State.clearEvents (s : State) : State := { s with mgmt := { s.mgmt with events := 0 } }

/-- A read of W1, W2 or W3 is served: the block is formed and sent, and W3 clears the event flags it shows; the COMPLETION is owed
until the frame has been sent (R129, R143, log entry 28). -/
def State.windowRead (s : State) (q : Request) : State :=
  let s := s.send (.readData q.tag 0 (s.windowBlock q.lba))
  let s := if q.lba = Config.windowBase + 3 then s.clearEvents else s
  { s with mgmt := { s.mgmt with reads := s.mgmt.reads ++ [{ tag := q.tag, stream := q.stream }] } }

/-- A write of W0: MGMT_BUSY while the engine is EXECUTING, a DATA REQUEST and a data timer otherwise (R130). -/
def State.windowWrite (s : State) (q : Request) : State :=
  match s.mgmt.state with
  | .executing => s.windowRefuse q.tag q.stream .mgmtBusy 512
  | .idle =>
    let w : WindowWrite := { tag := q.tag, stream := q.stream, timer := s.startTimer s.mgmt.params.dataTimeout }
    State.send { s with mgmt := { s.mgmt with windows := s.mgmt.windows ++ [w] } } (.dataRequest q.tag 0 1)

/-- A window target leaves the list, keeps its tag, and is decided (R127). -/
def State.windowAccess (s : State) (q : Request) : State :=
  let s := (s.removeItem q.id).setTag q.tag .window
  match s.windowFailure q with
  | some status => s.windowRefuse q.tag q.stream status q.len
  | none => if q.kind = .read then s.windowRead q else s.windowWrite q

/-! ### The request checks (R44, R45) -/

/-- Check 2 (R44, R164): the part modes that serve host requests. -/
def PartMode.servicing : PartMode → Bool
  | .service => true
  | .enteringStandby => true
  | .standby => true
  | .waking => true
  | .startup => false
  | .config => false
  | .draining => false

/-- Check 4 (R13): the set of streams that a request kind consults. -/
def RegionEntry.streamSet (e : RegionEntry) (kind : ReqKind) : Half := if kind = .write then e.writers else e.readers

/-- Check 5 (R14). -/
def guardFailure (g : GuardState) (guarded : Bool) : Option Status :=
  if guarded then
    match g with
    | .disabled => none
    | .opened => none
    | .locked => some .locked
    | .erasing => some .erasing
    | .eraseIncomplete => some .locked
  else none

/-- What the checks decide: the failure, or the region that the lookup found. -/
inductive Checked where
  | fails (status : Status)
  | passes (region : Fin 16)
  deriving DecidableEq, Repr

/-- Checks 2 to 7 of a request that is not a window target (R44); check 7 has the outcomes of a cut (R45, R53). -/
def State.check (s : State) (q : Request) : Checked :=
  if s.modes.mode.servicing = false then .fails .notServicing
  else
    match s.map.regionLookup q.lba q.count with
    | none => .fails .noRegion
    | some i =>
      let e := s.map.regions[i]
      if hasStream (e.streamSet q.kind) q.stream = false then .fails .accessDenied
      else
        match guardFailure s.guard.state e.guarded with
        | some status => .fails status
        | none =>
          if q.kind = .write ∧ e.readOnly = true then .fails .writeProtected
          else
            match cutFailure (s.port e.unit).state q.kind with
            | some status => .fails status
            | none => .passes i

/-! ### A request that has passed (R10, R16, R46, R48, R49, R111, R171, R173) -/

/-- A request becomes RUNNING: it cuts its segments, and a request that is DONE completes (R48, R51, R65). -/
def State.runRequest (s : State) (id : Nat) : State :=
  ((s.onRequest id fun r => { r with state := .running }).cut id).tryComplete id

/-- A request becomes RUNNING unless the other items of the list hold it (R48, R49). -/
def State.runUnlessHeld (s : State) (id : Nat) : State :=
  match s.request? id with
  | none => s
  | some r => if s.holds (s.engine.items.filter fun i => i.id != id) (.host r) then s else s.runRequest id

/-- What a host request to a region does to standby: it abandons the saving phase (R171) or starts a wake (R173). -/
def State.standbyMeetsRequest (s : State) : State :=
  if s.savingPhase then s.abandonStandby.raise .modeChange
  else if s.modes.mode = .standby then s.enterWaking
  else s

/-- A request passes all seven checks: its context takes the region and its home extent, host traffic begins, standby meets it,
and it stays HELD or becomes RUNNING. -/
def State.passed (s : State) (q : Request) (i : Fin 16) : State :=
  let e := s.map.regions[i]
  let home : Extent := { unit := e.unit, first := e.homeOf q.lba, count := q.count }
  let s := s.onRequest q.id fun r =>
    { r with region := some i, home := some home, verifyAfter := decide (q.kind = .write) && e.verifyAfter, passed := true,
             state := .held }
  let s := s.trafficBegins.standbyMeetsRequest
  s.runUnlessHeld q.id

/-- An admitted READ, WRITE or VERIFY meets its checks (R44). -/
def State.checkRequest (s : State) (q : Request) : State :=
  if q.windowTarget then s.windowAccess q
  else
    match s.check q with
    | .fails status => s.refuse q status
    | .passes i => s.passed q i

/-- A REQUEST frame that passed the tests of R201 (R42). -/
def State.takeRequest (s : State) (r : RequestFields) : State :=
  match ReqKind.ofCode r.kind.toNat with
  | none => s.reject r.tag .malformed
  | some kind =>
    if Config.largestRequest < r.len.toNat then s.reject r.tag .malformed
    else if s.tagUse r.tag ≠ .free then s.reject r.tag .tagInUse
    else
      let found := s.takeIn kind r
      (if kind = .sync then found.2.syncAdmitted found.1 else found.2.checkRequest found.1).finish

end Sys2Proof.Machine
end

