-- ==== Sys2Proof/Machine/Link.lean ====
section
/-!
DEFINITION. The commands of the storage link: REQUEST, WRITE_DATA, CANCEL, LINK_RESET, the two data timers and READ_DATA_SENT.
-/

namespace Sys2Proof.Machine

open Sys2Proof

/-! ### REQUEST (R41, R42) -/

/-- What a frame delivered as a REQUEST does: a discarded frame is counted (R41, R201), a REQUEST is taken, and a frame of another
kind has no effect (log entry 26). -/
def State.requestFrame (s : State) (frame : List Byte) : State :=
  match LinkFrame.parse frame with
  | none => s.countFrameDiscarded
  | some (.request r) => s.takeRequest r
  | some (.writeData _) => s
  | some (.cancel _) => s
  | some .linkReset => s

/-- REQUEST (R42). -/
def execRequest (frame : List Byte) (s : State) : Host.Outcome State Fault Refusal := whenUp s fun s => s.requestFrame frame

/-! ### WRITE_DATA (R59, R130, R133) -/

/-- Whether a frame brings the right number of bytes for its block (R59). -/
def Request.sizeFits (r : Request) (w : WriteFields) : Bool := decide (w.data.length = r.bytesOf w.index.toNat)

/-- The FILLING segment of a request for which a block is requested and not yet delivered (R58, R59). -/
def Request.requesting (r : Request) (index : Nat) : Option Segment :=
  r.segs.find? fun g =>
    decide (g.phase = .filling) && inRun g.off g.count index && !(g.data.any fun d => d.1 == index)

/-- Whether every block of a segment has been delivered. -/
def Segment.delivered (g : Segment) : Bool :=
  (List.range g.count).all fun i => g.data.any fun d => d.1 == g.off + i

/-- A block is delivered: it is stored, padded to 512 bytes, and the last one of a segment offers the segment's write (R59). -/
def State.deliver (s : State) (r : Request) (g : Segment) (w : WriteFields) : State :=
  let s := s.onSegment r.id g.id fun g => { g with data := g.data ++ [(w.index.toNat, fit 512 w.data)] }
  match (s.request? r.id).bind fun r => r.segment? g.id with
  | none => s
  | some now => if now.delivered then s.dataComplete r.id g.id else s

/-- WRITE DATA for a request in the admission list (R59). -/
def State.writeRequest (s : State) (r : Request) (w : WriteFields) : State :=
  if r.count ≤ w.index.toNat then (s.countDiscardedData.takeFailure r.id 0 .badRequest).tryComplete r.id
  else
    match r.requesting w.index.toNat with
    | none => s.countDiscardedData
    | some g => if r.sizeFits w then s.deliver r g w else s.countDiscardedData

/-- The management engine takes a command (R133, steps 1 to 4): it is recorded, the history ring receives its record, and the
guard unit notes and clears its erase-prepared flag (R155). -/
def State.beginCommand (s : State) (x : WindowWrite) (block : Block) : State :=
  let code := u2 block 0
  let seq := BitVec.ofNat 16 (u2 block 2)
  let recorded := s.addRecord (.command code seq s.now)
  let t : Taken :=
    { code := code, seq := seq, stream := x.stream, tag := some x.tag, block := block, mode := s.modes.mode,
      prepared := s.guard.prepared, record := recorded.1, decided := false }
  let s := recorded.2
  { s with mgmt := { s.mgmt with state := .executing, taken := some t, lastSeq := seq },
           guard := { s.guard with prepared := false } }

/-- A command that ends before its own stages (R133, step 5): a code of no command, or a payload that is too long. Any other waits
for its own command to be carried out (log entry 4). -/
def State.commandTaken (s : State) (x : WindowWrite) (block : Block) : State :=
  let s := s.beginCommand x block
  match Command.ofCode (u2 block 0) with
  | none => s.respond .invalidCommand []
  | some _ => if 480 < u2 block 4 then s.respond .invalidParameter [] else s

/-- A W0 write no longer waits for its data. -/
def State.endWindow (s : State) (tag : Fin 32) : State :=
  { s with mgmt := { s.mgmt with windows := s.mgmt.windows.filter fun x => x.tag != tag } }

/-- The W0 write of the taken command holds its tag no longer (R130, R131). -/
def State.releaseTaken (s : State) (tag : Fin 32) : State :=
  { s with mgmt := { s.mgmt with taken := s.mgmt.taken.map fun t => if t.tag = some tag then { t with tag := none } else t } }

/-- The stream of the W0 write that holds a tag. -/
def ManagementEngine.windowStream (m : ManagementEngine) (tag : Fin 32) : Option (Fin 16) :=
  match m.windows.find? fun x => x.tag == tag with
  | some x => some x.stream
  | none => m.taken.bind fun t => if t.tag = some tag then some t.stream else none

/-- WRITE DATA for a window access (R130). A block that is delivered while the engine is EXECUTING is discarded with its access, and
does not count in discarded data (log entry 59). -/
def State.writeWindow (s : State) (w : WriteFields) : State :=
  if w.index ≠ 0 then
    match s.mgmt.windowStream w.tag with
    | none => s.countDiscardedData
    | some stream => ((s.endWindow w.tag).releaseTaken w.tag).windowRefuse w.tag stream .badRequest 512
  else
    match s.mgmt.windows.find? fun x => x.tag == w.tag with
    | none => s.countDiscardedData
    | some x =>
      if w.data.length ≠ 512 then s.countDiscardedData
      else
        match s.mgmt.state with
        | .executing => (s.endWindow w.tag).windowRefuse w.tag x.stream .mgmtBusy 512
        | .idle => (s.endWindow w.tag).commandTaken x w.data

/-- A WRITE DATA frame by its tag (R59). -/
def State.takeWriteData (s : State) (w : WriteFields) : State :=
  match s.tagUse w.tag with
  | .free => s.countDiscardedData
  | .window => s.writeWindow w
  | .request =>
    match s.liveRequest? w.tag with
    | none => s.countDiscardedData
    | some r => s.writeRequest r w

/-- What a frame delivered as WRITE DATA does. -/
def State.writeDataFrame (s : State) (frame : List Byte) : State :=
  match LinkFrame.parse frame with
  | none => s.countFrameDiscarded
  | some (.writeData w) => (s.takeWriteData w).finish
  | some (.request _) => s
  | some (.cancel _) => s
  | some .linkReset => s

/-- WRITE_DATA (R59). -/
def execWriteData (frame : List Byte) (s : State) : Host.Outcome State Fault Refusal :=
  whenUp s fun s => s.writeDataFrame frame

/-! ### CANCEL (R66) -/

/-- CANCEL of a request in the list (R66): its flag is set, its PENDING and FILLING segments are dropped, and it completes when
it is DONE. -/
def State.cancelRequest (s : State) (r : Request) : State :=
  if r.cancelled then s
  else
    ((s.onRequest r.id fun r => { r with cancelled := true }).dropSegments r.id fun _ => true).tryComplete r.id

/-- A CANCEL by its tag (R66, R131). -/
def State.takeCancel (s : State) (tag : Fin 32) : State :=
  match s.tagUse tag with
  | .free => s.onLinkCounters fun c => { c with unknownCancels := bump 1 c.unknownCancels }
  | .window => s
  | .request =>
    match s.liveRequest? tag with
    | none => s
    | some r => (s.cancelRequest r).finish

/-- What a frame delivered as CANCEL does. -/
def State.cancelFrame (s : State) (frame : List Byte) : State :=
  match LinkFrame.parse frame with
  | none => s.countFrameDiscarded
  | some (.cancel tag) => s.takeCancel tag
  | some (.request _) => s
  | some (.writeData _) => s
  | some .linkReset => s

/-- CANCEL (R66). -/
def execCancel (frame : List Byte) (s : State) : Host.Outcome State Fault Refusal := whenUp s fun s => s.cancelFrame frame

/-! ### LINK_RESET (R67, R68, R131) -/

/-- Whether a segment has an operation at its port, queued or outstanding. -/
def Segment.atPort (g : Segment) : Bool :=
  match g.phase with
  | .issued => true
  | .verifying => true
  | .repairing => g.repair.any fun p => decide (p.wait = .port)
  | .claim => false
  | .filling => false
  | .place => false
  | .retry => false
  | .redirect _ => false
  | .sending => false
  | .verifyPlace => false
  | .verifyRetry => false

/-- A spare whose write the request engine holds is discarded, and its block marked pending (R68); a write that waits for a place in a
queue is met like one held for a retry (log entry 50). -/
def State.discardHeld (s : State) (g : Segment) : State :=
  match g.phase, g.repair with
  | .repairing, some p => if p.wait = .port then s else s.orphanDiscards g p
  | _, _ => s

/-- Whether an item is a live request. -/
def Item.live : Item → Bool
  | .host r => !r.orphan
  | .reloc _ => false

/-- A request that a LINK RESET has ended: it stays, if at all, as an orphan (R67). -/
def Item.orphaned : Item → Item
  | .host r => .host { r with orphan := true }
  | .reloc r => .reloc r

/-- A LINK RESET takes every tag from the request or window access that holds it (R67, R131). -/
def State.freeTags (s : State) : State :=
  { s with
    link := { s.link with tags := Vector.replicate 32 TagUse.free }
    mgmt := { s.mgmt with windows := [], reads := [], taken := s.mgmt.taken.map fun t => { t with tag := none } }
    engine := { s.engine with items := s.engine.items.map Item.orphaned } }

/-- What a LINK RESET leaves of a request that was live (R67): its segments without an operation at the port are dropped with their
buffers; it stays as an orphan, or leaves when it holds none. Data that has arrived for a READ at the port stays in its buffers
until that READ ends (log entry 53); a redirect that waits between two spares is dropped (log entry 60). -/
def State.resetRequest (s : State) (id : Nat) : State :=
  match s.request? id with
  | none => s
  | some r =>
    let s := s.resegment id fun l => l.filter Segment.atPort
    let s := (r.segs.filter fun g => !g.atPort).foldl State.discardHeld s
    if r.segs.any Segment.atPort then s else s.removeItem id

/-- A LINK RESET (R67, R131): every live request and window access ends without a COMPLETION, and every tag is freed. -/
def State.takeLinkReset (s : State) : State :=
  let ids := (s.engine.items.filter Item.live).map Item.id
  ids.foldl State.resetRequest s.freeTags

/-- What a frame delivered as LINK RESET does. -/
def State.linkResetFrame (s : State) (frame : List Byte) : State :=
  match LinkFrame.parse frame with
  | none => s.countFrameDiscarded
  | some .linkReset => s.takeLinkReset.finish
  | some (.request _) => s
  | some (.writeData _) => s
  | some (.cancel _) => s

/-- LINK_RESET (R67). -/
def execLinkReset (frame : List Byte) (s : State) : Host.Outcome State Fault Refusal :=
  whenUp s fun s => s.linkResetFrame frame

/-! ### The data timers (R60, R130) -/

/-- The data timer of a W0 write expires (R130). -/
def State.windowTimesOut (s : State) (tag : Fin 32) : State :=
  match s.mgmt.windows.find? fun x => x.tag == tag with
  | none => s
  | some x => ((s.endWindow tag).countDataLate).windowRefuse tag x.stream .dataLate 512

/-- WINDOW_DATA_TIMEOUT (R130). -/
def execWindowDataTimeout (tag : Fin 32) (s : State) : Host.Outcome State Fault Refusal :=
  whenUp s fun s => s.windowTimesOut tag

/-- The number of blocks delivered before the first undelivered one of a segment (R60). -/
def Segment.deliveredBefore (g : Segment) : Nat :=
  (List.range g.count).takeWhile (fun i => g.data.any fun d => d.1 == g.off + i) |>.length

/-- A segment's data timer expires (R60): the request fails DATA_LATE at the late block, and the segment is cut down to the
blocks before it, or is FAILED. -/
def State.dataLate (s : State) (r : Request) (g : Segment) : State :=
  let k := g.deliveredBefore
  let s := s.countDataLate.takeFailure r.id (g.off + k) .dataLate
  if k = 0 then s.segmentEnds r.id g.id else (s.trimBack r.id g k).dataComplete r.id g.id

/-- The FILLING segment of a request that begins at a block index. -/
def Request.fillingAt (r : Request) (index : Nat) : Option Segment :=
  r.segs.find? fun g => decide (g.phase = .filling) && g.off == index

/-- The data timer of the segment of a tag that begins at a block index expires. -/
def State.dataTimesOut (s : State) (tag : Fin 32) (index : Nat) : State :=
  match s.liveRequest? tag with
  | none => s
  | some r =>
    match r.fillingAt index with
    | none => s
    | some g => (s.dataLate r g).finish

/-- DATA_TIMEOUT (R60). -/
def execDataTimeout (tag : Fin 32) (index : Nat) (s : State) : Host.Outcome State Fault Refusal :=
  whenUp s fun s => s.dataTimesOut tag index

/-! ### READ_DATA_SENT (R55, R56) -/

/-- The segment of a request whose next frame is that of a block index. -/
def Request.sendingAt (r : Request) (index : Nat) : Option Segment :=
  r.segs.find? fun g => decide (g.phase = .sending) && g.off == index

/-- The frame of the first unsent block of a segment is sent: its buffer is released, it counts as read, the block is completed;
after the last frame the segment ends (R55, R56, R66). -/
def State.frameSent (s : State) (r : Request) (g : Segment) : State :=
  let block := (g.blocks.head?).getD []
  let s := s.send (.readData r.tag g.off (block.take (r.bytesOf g.off)))
  let s := ((s.trimFront r.id g 1).countBlockRead r.stream).complete r.id g.off 1
  if g.count ≤ 1 then s.segmentEnds r.id g.id else s

/-- The frame of a window read has been sent: its COMPLETION follows, its tag is freed and it counts as completed (R127, R129). -/
def State.windowReadEnds (s : State) (x : WindowRead) : State :=
  let s := { s with mgmt := { s.mgmt with reads := s.mgmt.reads.filter fun y => y.tag != x.tag } }
  (s.sendCompletion x.tag .ok 0 none false).countCompleted x.stream

/-- The READ DATA frame of a tag with a block index has been sent: the one frame of a window read, or the next of a READ. -/
def State.readDataSent (s : State) (tag : Fin 32) (index : Nat) : State :=
  match s.mgmt.reads.find? fun x => x.tag == tag with
  | some x => if index = 0 then s.windowReadEnds x else s
  | none =>
    match s.liveRequest? tag with
    | none => s
    | some r =>
      match r.sendingAt index with
      | none => s
      | some g => (s.frameSent r g).finish

/-- READ_DATA_SENT (R56). -/
def execReadDataSent (tag : Fin 32) (index : Nat) (s : State) : Host.Outcome State Fault Refusal :=
  whenUp s fun s => s.readDataSent tag index

end Sys2Proof.Machine
end

