-- ==== Sys2Proof/Machine/Events.lean ====
section
/-!
DEFINITION. The steps the part makes of itself when their conditions hold, and the expiries of its timers (log entries 2, 3): grants,
holds, SYNC, queue places, redirects, relocations, saves, drains, standby, the erase's wait, aging, quiet and idle timers.
-/

namespace Sys2Proof.Machine

open Sys2Proof

/-! ### The request engine (R48, R50, R54, R80, R105) -/

/-- The front claim is granted when the free buffers suffice (R54). -/
def State.grantFront (s : State) : State :=
  match s.bufferClaims with
  | [] => s
  | c :: _ => if c.size ≤ s.engine.freeBuffers then (s.grant c).finish else s

/-- BUFFER_CLAIM_GRANT (R54). -/
def execBufferClaimGrant (s : State) : Host.Outcome State Fault Refusal := whenUp s fun s => s.grantFront

/-- An item whose holds have cleared becomes RUNNING (R48). -/
def State.runItem (s : State) (i : Item) : State :=
  match i with
  | .host r => s.runRequest r.id
  | .reloc r => s.relocRuns r.id r.slot

/-- The first HELD item whose holds have all cleared becomes RUNNING (R48, R49). -/
def State.runCleared (s : State) : State :=
  match s.firstCleared [] s.engine.items with
  | none => s
  | some i => (s.runItem i).finish

/-- HOLD_CLEARED (R48). -/
def execHoldCleared (s : State) : Host.Outcome State Fault Refusal := whenUp s fun s => s.runCleared

/-- A SYNC at the head of the list completes (R50). -/
def State.completeSync (s : State) : State :=
  match s.engine.items with
  | .host r :: _ => if r.kind = .sync ∧ r.orphan = false ∧ r.segs = [] then (s.sendDone r).finish else s
  | _ => s

/-- SYNC_COMPLETE (R50). -/
def execSyncComplete (s : State) : Host.Outcome State Fault Refusal := whenUp s fun s => s.completeSync

/-- Whether the erase's operation for a unit waits for a place. -/
def GuardUnit.eraseWantsPlace (g : GuardUnit) (u : Fin 4) : Bool := g.eraseWaits u == some .place

/-- Operations that found the queue full are offered again: one while the queue holds places, each of them where the port ends what
it is offered; the erase write comes after the request engine's (R80, R158). -/
def State.offerPlaces (s : State) (u : Fin 4) : State :=
  let waiting := s.waitingOps u fun w => decide (w = .place)
  if (s.port u).state.unavailable then
    let s := waiting.foldl State.offerWaiting s
    if s.guard.eraseWantsPlace u then s.offerErase else s
  else
    match waiting with
    | w :: _ => s.offerWaiting w
    | [] => if s.guard.eraseWantsPlace u then s.offerErase else s

/-- A place of a port's issue queue is free (R80). -/
def State.placeFree (s : State) (u : Fin 4) : State :=
  if (s.port u).queue.length < Config.queuePlaces then (s.offerPlaces u).finish else s

/-- QUEUE_PLACE_FREE (R80). -/
def execQueuePlaceFree (unit : Fin 4) (s : State) : Host.Outcome State Fault Refusal := whenUp s fun s => s.placeFree unit

/-- The number of spares that a segment waiting for a redirect has tried. -/
def Segment.redirects (g : Segment) : Option Nat :=
  match g.phase with
  | .redirect tried => some tried
  | _ => none

/-- A request with the first of its segments that waits for a redirect and whose port's queue has a place, and the number of spares
tried (R105). -/
def State.redirectOf (s : State) (i : Item) : Option (Request × Segment × Nat) :=
  i.request?.bind fun r =>
    r.segs.findSome? fun g =>
      if (s.port g.unit).queue.length < Config.queuePlaces then g.redirects.map fun tried => (r, g, tried) else none

/-- The first waiting redirect claims its spare (R105). -/
def State.redirect (s : State) : State :=
  match s.engine.items.findSome? s.redirectOf with
  | none => s
  | some (r, g, tried) => (s.repairClaim r g .redirect tried).finish

/-- PENDING_WRITE_REDIRECT (R105). -/
def execPendingWriteRedirect (s : State) : Host.Outcome State Fault Refusal := whenUp s fun s => s.redirect

/-! ### The health monitor (R95, R100, R101) -/

/-- A relocation starts for the earliest eligible entry, in the first empty slot (R100, R101). -/
def State.startRelocation (s : State) : State :=
  match s.health.emptySlot, s.nextEligible with
  | some k, some (e, h, r) => (s.startReloc k e h r).finish
  | some _, none => s
  | none, _ => s

/-- RELOCATION_START (R100). -/
def execRelocationStart (s : State) : Host.Outcome State Fault Refusal := whenUp s fun s => s.startRelocation

/-- The aging timer expires: the list ages and the timer starts again (R95). -/
def State.age (s : State) : State :=
  if s.health.aging.runs then
    let s := s.ageWatch
    State.finish { s with health := { s.health with aging := s.agingTimer } }
  else s

/-- AGING_EXPIRY (R95). -/
def execAgingExpiry (s : State) : Host.Outcome State Fault Refusal := whenUp s fun s => s.age

/-! ### The scan engine (R111) -/

/-- The quiet timer expires (R111). -/
def State.quietExpires (s : State) : State := if s.scan.quietTimer.runs then s.becomeQuiet.finish else s

/-- QUIET_TIMER_EXPIRY (R111). -/
def execQuietTimerExpiry (s : State) : Host.Outcome State Fault Refusal := whenUp s fun s => s.quietExpires

/-! ### The store controller (R182) -/

/-- The store controller takes a save (R182). -/
def State.takeASave (s : State) : State := if s.takesSave then (s.startSave none).finish else s

/-- TAKE_SAVE (R182). -/
def execTakeSave (s : State) : Host.Outcome State Fault Refusal := whenUp s fun s => s.takeASave

/-! ### The guard unit (R157) -/

/-- The wait of the erase ends: phase WRITING, and the first write is cut (R157, R158). -/
def State.endEraseWait (s : State) : State :=
  if s.guard.inPhase .waiting && !s.guardedWork then
    ((s.onErase fun e => { e with phase := .writing }).eraseCut).finish
  else s

/-- ERASE_WAIT_END (R157). -/
def execEraseWaitEnd (s : State) : Host.Outcome State Fault Refusal := whenUp s fun s => s.endEraseWait

/-! ### The mode controller (R86, R168, R172 to R177) -/

/-- The drain's end (R168). -/
def State.endDrain (s : State) : State :=
  if s.modes.mode = .draining ∧ s.drained = true then s.drainEnds.finish else s

/-- DRAIN_END (R168). -/
def execDrainEnd (s : State) : Host.Outcome State Fault Refusal := whenUp s fun s => s.endDrain

/-- Whether an operation was waiting before a POWER_DOWN was placed. -/
def Port.older (p : Port) (d : Op) : Bool := (p.queue ++ p.scanPlace.toList ++ p.storePlace.toList).any fun o => o.stamp < d.stamp

/-- The POWER_DOWN of a port that may be sent: placed, nothing outstanding, and nothing waiting that waited when it was placed
(R86). -/
def Port.powerDownReady (p : Port) : Option Op :=
  p.attachPlace.filter fun o =>
    decide (o.kind = .powerDown) && p.state.serves && p.idleSlots && !p.older o

/-- A placed POWER_DOWN is sent (R86). -/
def State.sendPowerDown (s : State) (u : Fin 4) : State :=
  match (s.port u).powerDownReady with
  | none => s
  | some o => s.sendOp u .attach 0 o

/-- POWER_DOWN (R86). -/
def execPowerDown (unit : Fin 4) (s : State) : Host.Outcome State Fault Refusal := whenUp s fun s => s.sendPowerDown unit

/-- Whether a port has done its part of the powering-down phase (R172). -/
def PortState.down : PortState → Bool
  | .ready => false
  | .readOnly => false
  | .attaching => false
  | .absent => true
  | .offline => true
  | .sleeping => true
  | .failed => true

/-- Whether every port is down. -/
def State.allDown (s : State) : Bool := units.all fun u => (s.port u).state.down

/-- Whether a cause for a wake stands at the end of the powering-down phase: a request held by R49, wake requested, or erase work
(R172). -/
def State.wakeCause (s : State) : Bool :=
  (s.engine.items.any fun i =>
      match i with
      | .host r => i.held && !r.orphan
      | .reloc _ => false) || s.modes.wakeRequested || decide (s.guard.state = .erasing)

/-- Every HELD item whose holds have cleared becomes RUNNING, at most n. -/
def State.runAllCleared : Nat → State → State
  | 0, s => s
  | n + 1, s =>
    match s.firstCleared [] s.engine.items with
    | none => s
    | some i => State.runAllCleared n (s.runItem i)

/-- The powering-down phase is complete (R172): STANDBY, the holds of R49 lift, and WAKING at once for a cause. -/
def State.enterRest (s : State) : State :=
  let cause := s.wakeCause
  let s := (s.onModes fun m => { m with mode := .standby, phase := .none }).raise .modeChange
  let s := State.runAllCleared 66 s
  if cause then s.enterWaking else s

/-- The end of the powering-down phase (R172). -/
def State.completePowerDown (s : State) : State := if s.poweringDown && s.allDown then s.enterRest.finish else s

/-- POWERING_DOWN_COMPLETE (R172). -/
def execPoweringDownComplete (s : State) : Host.Outcome State Fault Refusal := whenUp s fun s => s.completePowerDown

/-- Whether a port is settled (R174). -/
def PortState.settled : PortState → Bool
  | .sleeping => false
  | .attaching => false
  | .absent => true
  | .ready => true
  | .readOnly => true
  | .offline => true
  | .failed => true

/-- Whether every port is settled. -/
def State.allSettled (s : State) : Bool := units.all fun u => (s.port u).state.settled

/-- Every port is settled during WAKING (R174): SERVICE, MODE_CHANGE, and the waiting SET_MODE ends. -/
def State.wakeEnds (s : State) : State :=
  if s.modes.mode = .waking ∧ s.allSettled = true then ((s.enterService.raise .modeChange).endWaiting).finish else s

/-- WAKE_SETTLED (R174). -/
def execWakeSettled (s : State) : Host.Outcome State Fault Refusal := whenUp s fun s => s.wakeEnds

/-- Whether the idle timer runs. -/
def IdleTimer.runs : IdleTimer → Bool
  | .running _ _ => true
  | .stopped => false
  | .spent => false

/-- The idle timer expires (R177): standby entry, or nothing while standby is disabled. -/
def State.idleExpires (s : State) : State :=
  if s.modes.idle.runs then
    if s.mgmt.params.standbyDisabled then s.onModes fun m => { m with idle := .spent }
    else (s.enterStandby.raise .modeChange).finish
  else s

/-- IDLE_TIMER_EXPIRY (R177). -/
def execIdleTimerExpiry (s : State) : Host.Outcome State Fault Refusal := whenUp s fun s => s.idleExpires

end Sys2Proof.Machine
end

