-- ==== Sys2Proof/Machine/Lines.lean ====
section
/-!
DEFINITION. The commands of the unit links, of the unit lines and of the reset: UNIT_DATA, RESULT, UNIT_TIMEOUT, the unit-present
and unit-fault lines, PART_RESET and RESET_LINE_RELEASED.
-/

namespace Sys2Proof.Machine

open Sys2Proof

/-! ### Unit links (R81, R83, R202) -/

/-- What a frame delivered as DATA of a unit does: a discarded frame changes nothing (R202). -/
def State.unitDataFrame (s : State) (u : Fin 4) (frame : List Byte) : State :=
  match UnitFrame.parse frame with
  | none => s
  | some (.data slot offset block) => s.takeData u slot offset block
  | some (.result _) => s

/-- UNIT_DATA (R81). -/
def execUnitData (unit : Fin 4) (frame : List Byte) (s : State) : Host.Outcome State Fault Refusal :=
  whenUp s fun s => s.unitDataFrame unit frame

/-- A RESULT frame of a unit: taken for the operation outstanding in its slot, or discarded (R81). -/
def State.takeResult (s : State) (u : Fin 4) (r : ResultFields) : State :=
  match (s.port u).slots.get r.slot with
  | none => s
  | some x => if (s.port u).takes x.op r (!s.loadEnded) then (s.resultTaken u r.slot x r).finish else s

/-- What a frame delivered as a RESULT does. -/
def State.resultFrame (s : State) (u : Fin 4) (frame : List Byte) : State :=
  match UnitFrame.parse frame with
  | none => s
  | some (.data _ _ _) => s
  | some (.result r) => s.takeResult u r

/-- RESULT (R81). -/
def execResult (unit : Fin 4) (frame : List Byte) (s : State) : Host.Outcome State Fault Refusal :=
  whenUp s fun s => s.resultFrame unit frame

/-- The timer of the operation in a slot expires (R83). -/
def State.slotTimesOut (s : State) (u slot : Fin 4) : State :=
  match (s.port u).slots.get slot with
  | none => s
  | some _ => (s.unitTimesOut u).finish

/-- UNIT_TIMEOUT (R83). -/
def execUnitTimeout (unit slot : Fin 4) (s : State) : Host.Outcome State Fault Refusal :=
  whenUp s fun s => s.slotTimesOut unit slot

/-! ### Unit lines (R71, R72, R85) -/

/-- The level of a unit-present line while the part is in reset: the line is an input, and start-up reads it (R71). -/
def State.presentLevel (s : State) (u : Fin 4) (level : Bool) : State := s.onPort u fun p => { p with present := level }

/-- The level of a unit-fault line. -/
def State.faultLevel (s : State) (u : Fin 4) (level : Bool) : State := s.onPort u fun p => { p with fault := level }

/-- UNIT_PRESENT_ASSERTED (R71). -/
def execUnitPresentAsserted (unit : Fin 4) (s : State) : Host.Outcome State Fault Refusal :=
  .next (if s.inReset then s.presentLevel unit true else (s.presentAsserted unit).finish)

/-- UNIT_PRESENT_RELEASED (R85). -/
def execUnitPresentReleased (unit : Fin 4) (s : State) : Host.Outcome State Fault Refusal :=
  .next (if s.inReset then s.presentLevel unit false else (s.presentReleased unit).finish)

/-- UNIT_FAULT_LINE_CHANGE (R72). -/
def execUnitFaultLineChange (unit : Fin 4) (level : Bool) (s : State) : Host.Outcome State Fault Refusal :=
  .next (if s.inReset then s.faultLevel unit level else ((s.faultLevel unit level).takeState unit).finish)

/-! ### Reset (R187 to R189, R71) -/

/-- The levels of the input lines. -/
def State.lines (s : State) : Four (Bool × Bool) :=
  ⟨((s.port 0).present, (s.port 0).fault), ((s.port 1).present, (s.port 1).fault), ((s.port 2).present, (s.port 2).fault),
   ((s.port 3).present, (s.port 3).fault)⟩

/-- A part reset (R187): every block takes its reset values, with the cause recorded; the levels of the input lines, the record of
frames already sent and the serial numbers are not the part's to reset. -/
def State.partReset (s : State) (cause : StartCause) : State :=
  State.atReset cause s.lines s.link.sent ⟨(s.port 0).sent, (s.port 1).sent, (s.port 2).sent, (s.port 3).sent⟩ s.nextId s.nextFree
    s.pending

/-- A fitted unit's port begins its attach at start-up (R71). -/
def State.attachFitted (s : State) (u : Fin 4) : State := if (s.port u).present then s.beginAttach u false else s

/-- Start-up begins (R71, R188): the ports of fitted units attach; without a unit 0 the load ends at once, ABSENT. -/
def State.startUp (s : State) : State :=
  let s := units.foldl State.attachFitted { s with inReset := false }
  (if (s.port 0).present then s else s.later (.loadEnds .absent)).finish

/-- PART_RESET (R187): power, the reset line, or a RESET_PART that has answered. -/
def execPartReset (event : ResetEvent) (s : State) : Host.Outcome State Fault Refusal :=
  match event with
  | .power lineAsserted => .next (if lineAsserted then s.partReset .powerOn else (s.partReset .powerOn).startUp)
  | .resetLine => .next (if s.inReset then s else s.partReset .resetLine)
  | .resetPart =>
    .next (if s.inReset = false ∧ s.mgmt.resetStage = .due then (s.partReset .resetCommand).startUp else s)

/-- RESET_LINE_RELEASED (R187): the part leaves reset and begins its start-up. -/
def execResetLineReleased (s : State) : Host.Outcome State Fault Refusal := .next (if s.inReset then s.startUp else s)

end Sys2Proof.Machine
end

