-- ==== Sys2Proof/Machine/Management.lean ====
section
/-!
DEFINITION. The management commands of identity and parameters, of the part mode, of the store, of the scans, of the log and of the
counters: IDENTIFY, SET_PARAMS, SET_STREAMS, SET_MODE, RESET_PART, SAVE, SCAN_START, SCAN_ABORT, SCAN_LOG_READ, LOG_READ and
COUNTERS_READ.
-/

namespace Sys2Proof.Machine

open Sys2Proof

/-- A management command is carried out: only when the engine holds a taken command of its code that is not yet decided (R133,
log entry 4). -/
def State.carry (s : State) (c : Command) (f : State → Taken → State) : State :=
  match s.mgmt.taken with
  | none => s
  | some t => if t.code = c.code ∧ t.decided = false then f s t else s

/-- The taken command has been decided; its online phase goes on. -/
def State.markDecided (s : State) : State :=
  { s with mgmt := { s.mgmt with taken := s.mgmt.taken.map fun t => { t with decided := true } } }

/-! ### IDENTIFY (R137) -/

/-- The response data of IDENTIFY (R137, 12.5). -/
def State.identity (s : State) : List Byte :=
  le2 0x5A31 ++ le2 0x0410 ++ le1 1 ++ le4 Config.windowBase ++ le2 Config.blockSize ++ le1 4 ++ le1 32 ++ le1 16
    ++ le4 Config.largestRequest ++ le1 16 ++ le1 32 ++ le2 Config.learnedLimit ++ le1 8 ++ le1 Config.watchLimit
    ++ le1 Config.bufferCount ++ le1 Config.longestRun ++ le1 Config.segmentLimit ++ le1 Config.queuePlaces ++ le1 4
    ++ le1 8 ++ le1 5 ++ le1 16 ++ le2 480 ++ le2 496 ++ le4 s.store.startCount.toNat ++ le4 s.ms.toNat
    ++ le1 s.store.state.code ++ le4 s.store.generation.toNat

/-- IDENTIFY (R137). -/
def execIdentify (s : State) : Host.Outcome State Fault Refusal :=
  whenUp s fun s => s.carry .identify fun s _ => s.respond .done s.identity

/-! ### SET_PARAMS (R138, R139) -/

/-- The first parameter, in the order of the table, named with a value outside its range; after those of the table, a number that
names no parameter (R138, log entry 18). -/
def firstOutOfRange (l : List Change) : Option Nat :=
  match paramNumbers.find? fun n => l.any fun c => c.number == n && !paramInRange n c.value with
  | some n => some n
  | none => (l.find? fun c => !paramNumbers.contains c.number).map fun c => c.number

/-- The parameters after a change list. -/
def Params.changed (p : Params) (l : List Change) : Params := l.foldl (fun p c => p.withValue c.number c.value) p

/-- The effects of changed parameters on the running part (R139): the aging timer, the due flags, the health of the units and the
idle timer. -/
def State.paramEffects (s : State) (old : Params) (health : Four SpareHealth) : State :=
  let p := s.mgmt.params
  let s := if p.agingPeriod = old.agingPeriod then s else { s with health := { s.health with aging := s.agingTimer } }
  let s := if p.promotion = old.promotion then s else s.reevaluate
  let s := if p.lowSpare = old.lowSpare then s else units.foldl (fun s u => s.evaluateHealth (health.get u) u) s
  if p.idleCode = old.idleCode then s else s.restartIdle

/-- The parameters become a set of parameters; a difference marks the store DIRTY (R138). -/
def State.setParams (s : State) (p : Params) : State :=
  let old := s.mgmt.params
  let health : Four SpareHealth := ⟨s.unitHealth 0, s.unitHealth 1, s.unitHealth 2, s.unitHealth 3⟩
  if p = old then s
  else (State.markDirty { s with mgmt := { s.mgmt with params := p } }).paramEffects old health

/-- SET_PARAMS with a change list (R138). -/
def State.changeParams (s : State) (l : List Change) : State :=
  match firstOutOfRange l with
  | some n => s.respond .invalidParameter (le1 n)
  | none =>
    let s := s.setParams (s.mgmt.params.changed l)
    (s.respond .done s.mgmt.params.bytes).finish

/-- SET_PARAMS (R138). -/
def execSetParams (s : State) : Host.Outcome State Fault Refusal :=
  whenUp s fun s => s.carry .setParams fun s t => s.changeParams (changesOf t.payload (t.payloadLength / 8))

/-! ### SET_STREAMS (R140) -/

/-- The management stream set is replaced; a difference marks the store DIRTY (R140). -/
def State.setStreams (s : State) (mask : Half) : State :=
  if mask = s.mgmt.streams then s else State.markDirty { s with mgmt := { s.mgmt with streams := mask } }

/-- SET_STREAMS with a set (R140). -/
def State.changeStreams (s : State) (t : Taken) (mask : Half) : State :=
  if hasStream mask t.stream = false then s.respond .invalidParameter []
  else ((s.setStreams mask).respond .done (le2 mask.toNat)).finish

/-- SET_STREAMS (R140). -/
def execSetStreams (s : State) : Host.Outcome State Fault Refusal :=
  whenUp s fun s => s.carry .setStreams fun s t => s.changeStreams t (BitVec.ofNat 16 (t.p2 0))

/-! ### SET_MODE (R165 to R167, R171 to R173) -/

/-- A SET_MODE ends with a result and the part mode as it then stands (R165). -/
def State.modeEnds (s : State) (result : CmdResult) : State := s.respond result (le1 s.modes.mode.code)

/-- A SET_MODE waits for the mode it asked for (R165). -/
def State.modeWaits (s : State) (target : PartMode) : State := (s.onModes fun m => { m with waiting := some target }).markDecided

/-- The guard stage of a target CONFIG (R148, R165). -/
def GuardState.refusesConfig : GuardState → Bool
  | .locked => true
  | .eraseIncomplete => true
  | .disabled => false
  | .opened => false
  | .erasing => false

/-- The report of a failed full validation (R166): the table, the index, position or unit, and the conflict report. -/
def ValidationFailure.bytes (v : ValidationFailure) : List Byte := le1 v.table.code ++ le2 v.index ++ v.report.bytes

/-- SET_MODE SERVICE in CONFIG (R166). -/
def State.toService (s : State) : State :=
  match s.validate with
  | some v => s.respond .conflict (le1 s.modes.mode.code ++ v.bytes)
  | none => (s.enterService.modeEnds .done).finish

/-- SET_MODE CONFIG (R165, R167). -/
def State.toConfig (s : State) : State :=
  match s.modes.mode with
  | .config => if s.guard.state.refusesConfig then s.modeEnds .locked else s.modeEnds .done
  | .service =>
    if s.guard.state.refusesConfig then s.modeEnds .locked else ((s.enterDraining .config).modeWaits .config).finish
  | .startup => s.modeEnds .wrongMode
  | .draining => s.modeEnds .wrongMode
  | .enteringStandby => s.modeEnds .wrongMode
  | .standby => s.modeEnds .wrongMode
  | .waking => s.modeEnds .wrongMode

/-- SET_MODE SERVICE (R165, R166, R171 to R174). -/
def State.askService (s : State) : State :=
  match s.modes.mode with
  | .config => s.toService
  | .service => s.modeEnds .done
  | .enteringStandby =>
    match s.modes.phase with
    | .saving => (s.abandonStandby.modeEnds .done).finish
    | .poweringDown => (s.onModes fun m => { m with wakeRequested := true }).modeWaits .service
    | .none => s.modeEnds .wrongMode
  | .standby => ((s.modeWaits .service).enterWaking).finish
  | .waking => s.modeWaits .service
  | .startup => s.modeEnds .wrongMode
  | .draining => s.modeEnds .wrongMode

/-- SET_MODE STANDBY (R165, R167, R170). -/
def State.toStandby (s : State) : State :=
  match s.modes.mode with
  | .service =>
    if s.mgmt.params.standbyDisabled then s.modeEnds .wrongMode
    else if s.drained then (s.enterStandby.modeEnds .done).finish
    else ((s.enterDraining .standby).modeWaits .standby).finish
  | .enteringStandby => s.modeEnds .done
  | .standby => s.modeEnds .done
  | .config => s.modeEnds .wrongMode
  | .waking => s.modeEnds .wrongMode
  | .startup => s.modeEnds .wrongMode
  | .draining => s.modeEnds .wrongMode

/-- SET_MODE by its target's mode code (R165). -/
def State.changeMode (s : State) (target : Nat) : State :=
  match PartMode.ofCode target with
  | some .config => s.toConfig
  | some .service => s.askService
  | some .standby => s.toStandby
  | some .startup => s.modeEnds .invalidParameter
  | some .draining => s.modeEnds .invalidParameter
  | some .enteringStandby => s.modeEnds .invalidParameter
  | some .waking => s.modeEnds .invalidParameter
  | none => s.modeEnds .invalidParameter

/-- SET_MODE (R165). -/
def execSetMode (s : State) : Host.Outcome State Fault Refusal :=
  whenUp s fun s => s.carry .setMode fun s t => s.changeMode (t.p1 0)

/-! ### RESET_PART (R141, R169) -/

/-- RESET_PART drains the part (R169). -/
def State.resetDrains (s : State) : State :=
  State.enterDraining { s with mgmt := { s.mgmt with resetStage := .drain } } .reset

/-- RESET_PART begins: its drain by the part mode, or its save step at once (R141, R169). -/
def State.resetBegins (s : State) : State :=
  match s.modes.mode with
  | .config => s.resetDrains
  | .service => s.resetDrains
  | .enteringStandby =>
    match s.modes.phase with
    | .saving => s.abandonStandby.resetDrains
    | .poweringDown => s.resetSave
    | .none => s.resetSave
  | .standby => s.resetSave
  | .waking => s.resetSave
  | .startup => s.resetSave
  | .draining => s.resetSave

/-- RESET_PART (R141). -/
def execResetPart (s : State) : Host.Outcome State Fault Refusal :=
  whenUp s fun s => s.carry .resetPart fun s _ => s.markDecided.resetBegins.finish

/-! ### SAVE (R185) -/

/-- The response data of SAVE: whether its save started (1) or is to follow (0), the store state and generation. -/
def State.saveData (s : State) (started : Bool) : List Byte :=
  flag started ++ le1 s.store.state.code ++ le4 s.store.generation.toNat

/-- An accepted SAVE (R185). -/
def State.saveAccepted (s : State) : State :=
  let s := s.onStore fun c => { c with retryHold := false }
  match s.store.save with
  | none => let s := s.startSave none; (s.respond .done (s.saveData true)).finish
  | some _ => let s := s.askSave; s.respond .done (s.saveData false)

/-- SAVE by its stages (R185). -/
def State.saveCommand (s : State) (t : Taken) : State :=
  if t.mode ≠ .config ∧ t.mode ≠ .service then s.respond .wrongMode []
  else if s.store.state = .absent then s.respond .storeUnavailable []
  else if (s.port 0).state ≠ .ready then s.respond .unitUnavailable []
  else s.saveAccepted

/-- SAVE (R185). -/
def execSave (s : State) : Host.Outcome State Fault Refusal := whenUp s fun s => s.carry .save State.saveCommand

/-! ### SCAN_START, SCAN_ABORT, SCAN_LOG_READ (R124 to R126) -/

/-- An optional unit in response data: a presence byte, and the unit (12.4). -/
def optionalUnit : Option (Fin 4) → List Byte
  | some u => le1 1 ++ le1 u.val
  | none => zeros 2

/-- An accepted SCAN_START (R124): the scan under way ends, the new one starts, and the response names the state in which it
started. -/
def State.scanAccepted (s : State) (kind : ScanKind) (unit : Option (Fin 4)) : State :=
  let s := if s.scan.state = .idle then s else s.endScan .abortedByCommand
  let state := if kind = .patrol ∧ s.scan.quiet = false then ScanState.suspended else .running
  ((s.startScan kind unit).respond .done (le1 kind.code ++ optionalUnit unit ++ le1 state.code)).finish

/-- SCAN_START by its stages (R124). -/
def State.scanStart (s : State) (t : Taken) : State :=
  if t.mode ≠ .config ∧ t.mode ≠ .service then s.respond .wrongMode []
  else
    match ScanKind.ofCode (t.p1 0) with
    | none => s.respond .invalidParameter []
    | some kind =>
      if kind = .patrol then s.scanAccepted kind none
      else
        match unitOf (t.p1 1) with
        | none => s.respond .invalidParameter []
        | some u => if (s.port u).state.serves then s.scanAccepted kind (some u) else s.respond .unitUnavailable []

/-- SCAN_START (R124). -/
def execScanStart (s : State) : Host.Outcome State Fault Refusal := whenUp s fun s => s.carry .scanStart State.scanStart

/-- SCAN_ABORT (R125): a scan ends with its log entry as data; an IDLE engine answers empty data. -/
def State.scanAbort (s : State) : State :=
  if s.scan.state = .idle then s.respond .done []
  else
    let s := s.endScan .abortedByCommand
    (s.respond .done ((s.scan.log.getLast?.map ScanLogEntry.bytes).getD [])).finish

/-- SCAN_ABORT (R125). -/
def execScanAbort (s : State) : Host.Outcome State Fault Refusal :=
  whenUp s fun s => s.carry .scanAbort fun s _ => s.scanAbort

/-- SCAN_LOG_READ by age (R126). -/
def State.scanLogRead (s : State) (age : Nat) : State :=
  if 15 < age then s.respond .invalidParameter []
  else
    match s.scan.log.reverse[age]? with
    | none => s.respond .emptyEntry (le1 s.scan.log.length)
    | some e => s.respond .done (le1 s.scan.log.length ++ e.bytes)

/-- SCAN_LOG_READ (R126). -/
def execScanLogRead (s : State) : Host.Outcome State Fault Refusal :=
  whenUp s fun s => s.carry .scanLogRead fun s t => s.scanLogRead (t.p2 0)

/-! ### LOG_READ (R197) -/

/-- LOG_READ of a slot number (R197). -/
def State.logRead (s : State) (number : Nat) : State :=
  match slotIndex number with
  | none => s.respond .invalidParameter []
  | some k =>
    let head := le2 s.log.latest ++ le2 s.log.lifetime
    match s.log.slots[k] with
    | none => s.respond .emptyEntry head
    | some e => s.respond .done (head ++ e.bytes)

/-- LOG_READ (R197). -/
def execLogRead (s : State) : Host.Outcome State Fault Refusal :=
  whenUp s fun s => s.carry .logRead fun s t => s.logRead (t.p2 0)

/-! ### COUNTERS_READ (R199) -/

/-- The five counters of a stream. -/
def StreamCounters.bytes (c : StreamCounters) : List Byte :=
  le4 c.completed ++ le4 c.refused ++ le4 c.blocksRead ++ le4 c.blocksWritten ++ le4 c.mediaErrors

/-- The six counters of a unit. -/
def UnitCounters.bytes (c : UnitCounters) : List Byte :=
  le4 c.operations ++ le4 c.softErrors ++ le4 c.hardErrors ++ le4 c.writeFaults ++ le4 c.timeouts ++ le4 c.relocations

/-- The five link counters. -/
def LinkCounters.bytes (c : LinkCounters) : List Byte :=
  le4 c.rejects ++ le4 c.framesDiscarded ++ le4 c.unknownCancels ++ le4 c.discardedData ++ le4 c.dataLate

/-- The counters of selection ALL: 109 counters and the four lifetime relocation counts (R199). -/
def CounterBank.bytes (c : CounterBank) : List Byte :=
  (c.streams.toList.flatMap StreamCounters.bytes) ++ (c.units.toList.flatMap UnitCounters.bytes) ++ c.link.bytes
    ++ (c.lifetime.toList.flatMap le4)

/-- The bank with every counter of the three groups at 0; the lifetime counts stay (R199). -/
def CounterBank.cleared (c : CounterBank) : CounterBank :=
  { c with streams := Vector.replicate 16 StreamCounters.zero, units := Four.all UnitCounters.zero, link := LinkCounters.zero }

/-- The counters become a bank of counters. -/
def State.setCounters (s : State) (c : CounterBank) : State := { s with counters := c }

/-- A stream's number names a stream, 0 to 15. -/
def streamIndex (n : Nat) : Option (Fin 16) := if h : n < 16 then some ⟨n, h⟩ else none

/-- COUNTERS_READ with selection STREAM (R199). -/
def State.readStream (s : State) (n : Nat) : State :=
  match streamIndex n with
  | none => s.respond .invalidParameter []
  | some i => (s.onStream i fun _ => StreamCounters.zero).respond .done s.counters.streams[i].bytes

/-- COUNTERS_READ with selection UNIT (R199). -/
def State.readUnit (s : State) (n : Nat) : State :=
  match unitOf n with
  | none => s.respond .invalidParameter []
  | some u =>
    (s.onUnitCounters u fun _ => UnitCounters.zero).respond .done
      ((s.counters.units.get u).bytes ++ le4 (s.counters.lifetime.get u))

/-- COUNTERS_READ by selection (R199). -/
def State.countersRead (s : State) (selection item : Nat) : State :=
  match selection with
  | 0 => (s.setCounters s.counters.cleared).respond .done s.counters.bytes
  | 1 => s.readStream item
  | 2 => s.readUnit item
  | 3 => (s.onLinkCounters fun _ => LinkCounters.zero).respond .done s.counters.link.bytes
  | _ => s.respond .invalidParameter []

/-- COUNTERS_READ (R199). -/
def execCountersRead (s : State) : Host.Outcome State Fault Refusal :=
  whenUp s fun s => s.carry .countersRead fun s t => s.countersRead (t.p1 0) (t.p1 1)

end Sys2Proof.Machine
end

