-- ==== Sys2Proof/Machine/Tables.lean ====
section
/-!
DEFINITION. The management commands of the tables: regions, pins, learned entries, spare pools and the watch list.
-/

namespace Sys2Proof.Machine

open Sys2Proof

/-! ### Regions (R5 to R9) -/

/-- REGION_READ of an index (R9). -/
def State.regionRead (s : State) (index : Nat) : State :=
  match regionIndex index with
  | none => s.respond .invalidParameter []
  | some i =>
    if s.map.regions[i].valid then s.respond .done (s.map.regions[i].bytes i.val) else s.respond .emptyEntry []

/-- REGION_READ (R9). -/
def execRegionRead (s : State) : Host.Outcome State Fault Refusal :=
  whenUp s fun s => s.carry .regionRead fun s t => s.regionRead (t.p2 0)

/-- The entry at an index of the region table becomes an entry; a difference marks the store DIRTY (R7, R8, R181, log entry
16). -/
def State.setRegion (s : State) (i : Fin 16) (e : RegionEntry) : State :=
  if e = s.map.regions[i] then s else State.markDirty { s with map := { s.map with regions := s.map.regions.set i e } }

/-- The ranges of a region entry (R5, stage 3). -/
def RegionEntry.inRange (e : RegionEntry) : Bool :=
  decide (1 ≤ e.count) && decide (e.logical + e.count ≤ Config.windowBase) && decide (e.physical + e.count ≤ Config.top32 + 1)

/-- The parameters of REGION_WRITE that pass stage 3: an index and an entry in range (R5). -/
def regionWriteOf (index : Nat) (payload : List Byte) : Option (Fin 16 × RegionEntry) :=
  (regionIndex index).bind fun i => (regionEntryOf payload).bind fun e => if e.inRange then some (i, e) else none

/-- REGION_WRITE of an entry that has passed stage 3 (R5 to R7). -/
def State.regionWriteAt (s : State) (i : Fin 16) (e : RegionEntry) : State :=
  match s.regionConflict i e with
  | some c => s.respond .conflict c.bytes
  | none => ((s.setRegion i e).respond .done (e.bytes i.val)).finish

/-- REGION_WRITE by its stages (R5). -/
def State.regionWrite (s : State) (t : Taken) : State :=
  match s.tableStages t with
  | some result => s.respond result []
  | none =>
    match regionWriteOf (t.p2 0) t.payload with
    | none => s.respond .invalidParameter []
    | some (i, e) => s.regionWriteAt i e

/-- REGION_WRITE (R5). -/
def execRegionWrite (s : State) : Host.Outcome State Fault Refusal := whenUp s fun s => s.carry .regionWrite State.regionWrite

/-- REGION_CLEAR by its stages (R8). -/
def State.regionClear (s : State) (t : Taken) : State :=
  match s.tableStages t with
  | some result => s.respond result []
  | none =>
    match regionIndex (t.p2 0) with
    | none => s.respond .invalidParameter []
    | some i =>
      let e := s.map.regions[i]
      if e.valid then ((s.setRegion i { e with valid := false }).respond .done (e.bytes i.val)).finish
      else s.respond .emptyEntry []

/-- REGION_CLEAR (R8). -/
def execRegionClear (s : State) : Host.Outcome State Fault Refusal := whenUp s fun s => s.carry .regionClear State.regionClear

/-! ### Pins (R22 to R25) -/

/-- The two derived facts of a pin: whether it is dormant, and the learned entry it shadows (R25). -/
def MapUnit.pinFacts (m : MapUnit) (e : PinEntry) : List Byte :=
  flag (!m.mapped e.unit e.source)
    ++ (match m.learnedOf e.unit e.source with
        | some (pos, _) => le1 1 ++ le2 pos
        | none => zeros 3)

/-- PIN_READ of an index (R25). -/
def State.pinRead (s : State) (index : Nat) : State :=
  match pinIndex index with
  | none => s.respond .invalidParameter []
  | some i =>
    let e := s.map.pins[i]
    if e.valid then s.respond .done (e.bytes ++ s.map.pinFacts e) else s.respond .emptyEntry []

/-- PIN_READ (R25). -/
def execPinRead (s : State) : Host.Outcome State Fault Refusal :=
  whenUp s fun s => s.carry .pinRead fun s t => s.pinRead (t.p2 0)

/-- The entry at an index of the pin table becomes an entry; a difference marks the store DIRTY (R22, R25, R181, log
entry 16). -/
def State.setPin (s : State) (i : Fin 32) (e : PinEntry) : State :=
  if e = s.map.pins[i] then s else State.markDirty { s with map := { s.map with pins := s.map.pins.set i e } }

/-- The parameters of PIN_WRITE that pass stage 3: an index, and a source and a target on one unit (R22). -/
def Taken.pinWriteOf (t : Taken) : Option (Fin 32 × PinEntry) :=
  (pinIndex (t.p2 0)).bind fun i => (unitOf (t.p1 2)).bind fun u =>
    if t.p1 7 = u.val then some (i, { valid := true, unit := u, source := t.p4 3, target := t.p4 8 }) else none

/-- PIN_WRITE of a pin that has passed stage 3 (R22, R23). -/
def State.pinWriteAt (s : State) (i : Fin 32) (e : PinEntry) : State :=
  match firstConflict [s.pinUnmapped e, s.pinConflict i e] with
  | some c => s.respond .conflict c.bytes
  | none => ((s.setPin i e).respond .done e.bytes).finish

/-- PIN_WRITE by its stages (R22). -/
def State.pinWrite (s : State) (t : Taken) : State :=
  match s.tableStages t with
  | some result => s.respond result []
  | none =>
    match t.pinWriteOf with
    | none => s.respond .invalidParameter []
    | some (i, e) => s.pinWriteAt i e

/-- PIN_WRITE (R22). -/
def execPinWrite (s : State) : Host.Outcome State Fault Refusal := whenUp s fun s => s.carry .pinWrite State.pinWrite

/-- PIN_CLEAR by its stages (R25). -/
def State.pinClear (s : State) (t : Taken) : State :=
  match s.tableStages t with
  | some result => s.respond result []
  | none =>
    match pinIndex (t.p2 0) with
    | none => s.respond .invalidParameter []
    | some i =>
      let e := s.map.pins[i]
      if e.valid then ((s.setPin i { e with valid := false }).respond .done e.bytes).finish else s.respond .emptyEntry []

/-- PIN_CLEAR (R25). -/
def execPinClear (s : State) : Host.Outcome State Fault Refusal := whenUp s fun s => s.carry .pinClear State.pinClear

/-! ### Learned entries (R30, R31) -/

/-- Whether a position lies in the range of the learned table (R30). -/
def learnedPosition (n : Nat) : Bool := decide (n < Config.learnedLimit)

/-- REMAP_READ of a position (R30). -/
def State.remapRead (s : State) (pos : Nat) : State :=
  if learnedPosition pos = false then s.respond .invalidParameter []
  else
    let n := le2 s.map.learned.length
    match s.map.learned[pos]? with
    | none => s.respond .emptyEntry n
    | some e =>
      s.respond .done
        (n ++ e.bytes ++ flag (s.map.pinOf e.unit e.source).isSome ++ flag (!s.map.mapped e.unit e.source))

/-- REMAP_READ (R30). -/
def execRemapRead (s : State) : Host.Outcome State Fault Refusal :=
  whenUp s fun s => s.carry .remapRead fun s t => s.remapRead (t.p2 0)

/-- A learned entry is removed, the later positions close up, the store is marked DIRTY and the table-full hold clears (R31,
R108). -/
def State.forget (s : State) (pos : Nat) : State :=
  State.markDirty
    { s with map := { s.map with learned := s.map.learned.eraseIdx pos }, health := { s.health with tableFull := false } }

/-- A report that names a block as the other party (R31, R36, R97). -/
def Conflict.naming (check : ConflictCheck) (b : Phys) : Conflict :=
  { check := check, party := .block, index := none, block := some b }

/-- REMAP_DELETE by its stages (R31). -/
def State.remapDelete (s : State) (t : Taken) : State :=
  match s.tableStages t with
  | some result => s.respond result []
  | none =>
    if learnedPosition (t.p2 0) = false then s.respond .invalidParameter []
    else
      match s.map.learned[t.p2 0]? with
      | none => s.respond .emptyEntry []
      | some e =>
        if e.unit.val = t.p1 2 ∧ e.source = t.p4 3 then ((s.forget (t.p2 0)).respond .done e.bytes).finish
        else s.respond .conflict (Conflict.naming .sourceMismatch ⟨e.unit, e.source⟩).bytes

/-- REMAP_DELETE (R31). -/
def execRemapDelete (s : State) : Host.Outcome State Fault Refusal := whenUp s fun s => s.carry .remapDelete State.remapDelete

/-! ### Spare pools (R36, R37) -/

/-- The response data of SPARE_READ (R37, log entry 17). -/
def State.spareData (s : State) (u : Fin 4) : List Byte :=
  let p := s.map.pools.get u
  le2 p.extents.length ++ (p.extents.flatMap fun x => le4 x.first ++ le4 x.count) ++ le2 p.returned.length
    ++ p.returned.flatMap le4 ++ le1 p.issued.length ++ le2 p.loaded ++ le2 p.consumed ++ le2 p.discarded ++ le2 p.remaining
    ++ le1 (s.unitHealth u).code

/-- SPARE_READ of a unit (R37). -/
def State.spareRead (s : State) (unit : Nat) : State :=
  match unitOf unit with
  | none => s.respond .invalidParameter []
  | some u => s.respond .done (s.spareData u)

/-- SPARE_READ (R37). -/
def execSpareRead (s : State) : Host.Outcome State Fault Refusal :=
  whenUp s fun s => s.carry .spareRead fun s t => s.spareRead (t.p1 0)

/-- The sum of the counts of a list of extents. -/
def extentSum (l : List SpareExtent) : Nat := (l.map fun x => x.count).sum

/-- Whether a list of extents passes the parameter stage of SPARE_LOAD (R36). -/
def extentsInRange (l : List SpareExtent) : Bool :=
  decide (l.length ≤ 8) && (l.all fun x => decide (1 ≤ x.count) && decide (x.first + x.count ≤ Config.top32 + 1)) &&
    decide (extentSum l ≤ 65535)

/-- Check 1 of R36: the unit's issued list is not empty. -/
def MapUnit.spareOutstanding (m : MapUnit) (u : Fin 4) : Option Conflict :=
  (m.pools.get u).issued.head?.map fun c => Conflict.naming .spareOutstanding ⟨u, c.source⟩

/-- A pool loaded with a list of extents (R37). -/
def Pool.loadedWith (p : Pool) (l : List SpareExtent) : Pool :=
  { p with extents := l, returned := [], loaded := extentSum l, consumed := 0, discarded := 0 }

/-- A pool is loaded with a list of extents; a difference marks the store DIRTY, and the unit's health is evaluated (R37, R181,
log entry 16). -/
def State.loadPool (s : State) (u : Fin 4) (l : List SpareExtent) : State :=
  let p := s.map.pools.get u
  if p.loadedWith l = p then s else (s.onPool u fun p => p.loadedWith l).evaluateHealth (s.unitHealth u) u

/-- SPARE_LOAD that has passed stage 3 (R36, R37). -/
def State.spareLoadAt (s : State) (u : Fin 4) (l : List SpareExtent) : State :=
  match firstConflict [s.map.spareOutstanding u, s.extentConflict u (checkedExtents 0 l)] with
  | some c => s.respond .conflict c.bytes
  | none =>
    let s := s.loadPool u l
    (s.respond .done (s.map.pools.get u).bytes).finish

/-- SPARE_LOAD by its stages (R36). -/
def State.spareLoad (s : State) (t : Taken) : State :=
  match s.tableStages t with
  | some result => s.respond result []
  | none =>
    let l := extentsOf t.payload (t.payloadLength / 8)
    match unitOf (t.p1 0) with
    | none => s.respond .invalidParameter []
    | some u => if extentsInRange l then s.spareLoadAt u l else s.respond .invalidParameter []

/-- SPARE_LOAD (R36). -/
def execSpareLoad (s : State) : Host.Outcome State Fault Refusal := whenUp s fun s => s.carry .spareLoad State.spareLoad

/-! ### Watch list (R96, R97) -/

/-- Whether a position lies in the range of the watch list (R96). -/
def watchPosition (n : Nat) : Bool := decide (n < Config.watchLimit)

/-- The resolution of a watched block with its home block, in response data (R96, R98). -/
def resolutionBytes (u : Fin 4) (r : Resolution × Option Nat) : List Byte :=
  le1 r.1.code
    ++ (match r.2 with
        | some h => le1 1 ++ le1 u.val ++ le4 h
        | none => zeros 6)

/-- WATCH_READ of a position (R96). -/
def State.watchRead (s : State) (pos : Nat) : State :=
  if watchPosition pos = false then s.respond .invalidParameter []
  else
    let n := le1 s.health.watch.length
    match s.health.watch[pos]? with
    | none => s.respond .emptyEntry n
    | some e =>
      s.respond .done
        (n ++ le1 s.health.pendingCount ++ e.bytes ++ flag (s.health.inRelocation e.block)
          ++ resolutionBytes e.block.unit (s.map.resolve e.block))

/-- WATCH_READ (R96). -/
def execWatchRead (s : State) : Host.Outcome State Fault Refusal :=
  whenUp s fun s => s.carry .watchRead fun s t => s.watchRead (t.p2 0)

/-- WATCH_CLEAR ALL (R97): the entries that are neither pending nor in relocation leave. -/
def State.watchClearAll (s : State) : State :=
  let kept := s.health.watch.filter fun e => e.pending || s.health.inRelocation e.block
  ((s.setWatch kept).respond .done (le1 (s.health.watch.length - kept.length))).finish

/-- WATCH_CLEAR of one position with the block expected there (R97). -/
def State.watchClearOne (s : State) (t : Taken) : State :=
  if watchPosition (t.p2 1) = false then s.respond .invalidParameter []
  else
    match s.health.watch[t.p2 1]? with
    | none => s.respond .emptyEntry []
    | some e =>
      if ¬(e.block.unit.val = t.p1 3 ∧ e.block.block = t.p4 4) then
        s.respond .conflict (Conflict.naming .blockMismatch e.block).bytes
      else if s.health.inRelocation e.block then s.respond .conflict (Conflict.bare .inRelocation).bytes
      else ((s.setWatch (s.health.watch.eraseIdx (t.p2 1))).respond .done e.bytes).finish

/-- WATCH_CLEAR by its ALL marker (R97, 12.4). -/
def State.watchClear (s : State) (t : Taken) : State :=
  match t.p1 0 with
  | 0 => s.watchClearOne t
  | 1 => s.watchClearAll
  | _ => s.respond .invalidParameter []

/-- WATCH_CLEAR (R97). -/
def execWatchClear (s : State) : Host.Outcome State Fault Refusal := whenUp s fun s => s.carry .watchClear State.watchClear

end Sys2Proof.Machine
end

