-- ==== Sys2Proof/Machine/UnitCommands.lean ====
section
/-!
DEFINITION. The management commands of the unit ports: UNIT_MODE and UNIT_INFO.
-/

namespace Sys2Proof.Machine

open Sys2Proof

/-- The record of a port in response data (R75): a presence byte before the capacity. -/
def Port.record (p : Port) : List Byte :=
  le1 p.state.code ++ le1 p.desired.code
    ++ (match p.capacity with
        | some c => le1 1 ++ le8 c
        | none => zeros 9)
    ++ le1 p.cause.code ++ le1 p.writeFaults ++ flag p.writeInhibit ++ flag p.present ++ flag p.fault ++ le1 p.attempts
    ++ le1 p.outstanding.length ++ le1 p.queue.length

/-- UNIT_INFO of a unit (R75). -/
def State.unitInfo (s : State) (unit : Nat) : State :=
  match unitOf unit with
  | none => s.respond .invalidParameter []
  | some u => s.respond .done (s.port u).record

/-- UNIT_INFO (R75). -/
def execUnitInfo (s : State) : Host.Outcome State Fault Refusal :=
  whenUp s fun s => s.carry .unitInfo fun s t => s.unitInfo (t.p1 0)

/-- The desired mode is recorded; ACTIVE sets the write-fault count to 0, and clears write inhibit when the fault line is released
(R74). -/
def Port.desire (p : Port) (m : DesiredMode) : Port :=
  if m = .active then { p with desired := m, writeFaults := 0, writeInhibit := p.writeInhibit && p.fault }
  else { p with desired := m }

/-- What a new desired mode does to the port (R74). -/
def State.desireActs (s : State) (u : Fin 4) (m : DesiredMode) : State :=
  match (s.port u).state with
  | .ready => s.takeState u
  | .readOnly => s.takeState u
  | .offline => if m = .offline then s else s.beginAttach u false
  | .failed => if m = .active then s.beginAttach u false else s
  | .absent => s
  | .attaching => s
  | .sleeping => s

/-- UNIT_MODE that has passed its parameter stage (R74): the port acts, what it ends goes back, and the record is the response. -/
def State.unitModeAt (s : State) (u : Fin 4) (m : DesiredMode) : State :=
  let s := ((s.onPort u fun p => p.desire m).desireActs u m).settle
  (s.respond .done (s.port u).record).finish

/-- UNIT_MODE by its stages (R74). -/
def State.unitMode (s : State) (unit mode : Nat) : State :=
  match unitOf unit, DesiredMode.ofCode mode with
  | some u, some m => s.unitModeAt u m
  | some _, none => s.respond .invalidParameter []
  | none, _ => s.respond .invalidParameter []

/-- UNIT_MODE (R74). -/
def execUnitMode (s : State) : Host.Outcome State Fault Refusal :=
  whenUp s fun s => s.carry .unitMode fun s t => s.unitMode (t.p1 0) (t.p1 1)

end Sys2Proof.Machine
end

