-- ==== Sys2Proof/Machine/GuardCommands.lean ====
section
/-!
DEFINITION. The guard commands: GUARD_SET_USER, GUARD_SET_RECOVERY, GUARD_UNLOCK, GUARD_DISABLE, FREEZE, ERASE_PREPARE and
ERASE_GUARDED (R149 to R156).
-/

namespace Sys2Proof.Machine

open Sys2Proof

/-- The parameter stage of a command that carries a code of any kind (R149). -/
def State.withKind (s : State) (t : Taken) (f : State → CodeKind → State) : State :=
  match t.codeKind with
  | none => s.respond .invalidParameter []
  | some kind => f s kind

/-- The frozen stage (R149). -/
def State.unlessFrozen (s : State) (f : State → State) : State := if s.guard.frozen then s.guardEnds .frozen else f s

/-! ### Codes (R150, R151) -/

/-- The guard states in which GUARD_SET_USER is allowed (R150). -/
def GuardState.setsUser : GuardState → Bool
  | .disabled => true
  | .opened => true
  | .locked => false
  | .erasing => false
  | .eraseIncomplete => false

/-- An accepted GUARD_SET_USER (R150). -/
def State.setUser (s : State) (level : GuardLevel) (code : List Byte) : State :=
  ((s.changeGuard fun g => { g with userCode := some code, level := level, state := .opened }).guardEnds .done).finish

/-- The parameters of GUARD_SET_USER: a USER code and a level (R149, R150, log entry 19). -/
def Taken.userLevel (t : Taken) : Option GuardLevel :=
  match t.codeKind with
  | some .user => GuardLevel.ofCode (t.p1 1)
  | some .recovery => none
  | none => none

/-- GUARD_SET_USER by its stages (R149, R150). -/
def State.guardSetUser (s : State) (t : Taken) : State :=
  match t.userLevel with
  | none => s.respond .invalidParameter []
  | some level =>
    if s.guard.state.setsUser then s.unlessFrozen fun s => s.setUser level t.guardCode else s.guardEnds .wrongMode

/-- GUARD_SET_USER (R150). -/
def execGuardSetUser (s : State) : Host.Outcome State Fault Refusal :=
  whenUp s fun s => s.carry .guardSetUser State.guardSetUser

/-- An accepted GUARD_SET_RECOVERY (R151): a code that differs marks the store DIRTY. -/
def State.setRecovery (s : State) (code : List Byte) : State :=
  ((s.changeGuard fun g => { g with recoveryCode := code }).guardEnds .done).finish

/-- GUARD_SET_RECOVERY by its stages (R149, R151). -/
def State.guardSetRecovery (s : State) (t : Taken) : State :=
  match t.codeKind with
  | some .recovery =>
    if s.guard.state = .locked then s.guardEnds .locked else s.unlessFrozen fun s => s.setRecovery t.guardCode
  | some .user => s.respond .invalidParameter []
  | none => s.respond .invalidParameter []

/-- GUARD_SET_RECOVERY (R151). -/
def execGuardSetRecovery (s : State) : Host.Outcome State Fault Refusal :=
  whenUp s fun s => s.carry .guardSetRecovery State.guardSetRecovery

/-! ### Unlock and disable (R152, R153) -/

/-- An accepted GUARD_UNLOCK (R152). -/
def State.unlock (s : State) : State := (s.onGuard fun g => { g with state := .opened }).guardEnds .done

/-- GUARD_UNLOCK by its stages (R149, R152). -/
def State.guardUnlock (s : State) (t : Taken) : State :=
  s.withKind t fun s kind =>
    if s.guard.state = .locked then s.withCode kind t.guardCode true State.unlock else s.guardEnds .wrongMode

/-- GUARD_UNLOCK (R152). -/
def execGuardUnlock (s : State) : Host.Outcome State Fault Refusal := whenUp s fun s => s.carry .guardUnlock State.guardUnlock

/-- An accepted GUARD_DISABLE (R153). -/
def State.disableGuard (s : State) : State :=
  ((s.changeGuard fun g => { g with userCode := none, level := .standard, state := .disabled }).guardEnds .done).finish

/-- GUARD_DISABLE by its stages (R149, R153). -/
def State.guardDisable (s : State) (t : Taken) : State :=
  s.withKind t fun s kind =>
    if s.guard.state = .opened then
      s.unlessFrozen fun s => s.withCode kind t.guardCode true State.disableGuard
    else s.guardEnds .wrongMode

/-- GUARD_DISABLE (R153). -/
def execGuardDisable (s : State) : Host.Outcome State Fault Refusal := whenUp s fun s => s.carry .guardDisable State.guardDisable

/-! ### FREEZE (R154) -/

/-- FREEZE: the frozen flag is set (R154). -/
def State.freeze (s : State) : State := (s.onGuard fun g => { g with frozen := true }).guardEnds .done

/-- FREEZE (R154). -/
def execFreeze (s : State) : Host.Outcome State Fault Refusal := whenUp s fun s => s.carry .freeze fun s _ => s.freeze

/-! ### Erase (R155, R156) -/

/-- An accepted ERASE_PREPARE (R155). -/
def State.prepare (s : State) : State := (s.onGuard fun g => { g with prepared := true }).guardEnds .done

/-- ERASE_PREPARE by its stages (R149, R155). -/
def State.erasePrepare (s : State) : State :=
  if s.guard.state = .erasing then s.guardEnds .wrongMode else s.unlessFrozen State.prepare

/-- ERASE_PREPARE (R155). -/
def execErasePrepare (s : State) : Host.Outcome State Fault Refusal :=
  whenUp s fun s => s.carry .erasePrepare fun s _ => s.erasePrepare

/-- The fresh erase record (R156). -/
def EraseRecord.fresh : EraseRecord :=
  { phase := .savingStart, index := 0, offset := 0, write := none, tried := 0, erased := 0, unerased := 0, firstUnerased := none }

/-- An accepted ERASE_GUARDED (R156). -/
def State.startErase (s : State) : State :=
  let s := s.changeGuard fun g => { g with state := .erasing, erase := some EraseRecord.fresh }
  (s.askSave.guardEnds .done).finish

/-- The store states in which an erase may start (R156). -/
def StoreState.erases : StoreState → Bool
  | .clean => true
  | .dirty => true
  | .saving => true
  | .absent => false
  | .invalid => false

/-- ERASE_GUARDED by its stages after the mode stage (R156). -/
def State.eraseStages (s : State) (t : Taken) (kind : CodeKind) : State :=
  if t.prepared = false then s.guardEnds .sequenceBroken
  else if (s.port 0).state ≠ .ready then s.guardEnds .unitUnavailable
  else if s.store.state.erases = false then s.guardEnds .storeUnavailable
  else s.withCode kind t.guardCode false State.startErase

/-- ERASE_GUARDED by its stages (R136, R149, R156). -/
def State.eraseGuarded (s : State) (t : Taken) : State :=
  if t.mode.resting then s.guardEnds .wrongMode else s.withKind t fun s kind => s.eraseStages t kind

/-- ERASE_GUARDED (R156). -/
def execEraseGuarded (s : State) : Host.Outcome State Fault Refusal := whenUp s fun s => s.carry .eraseGuarded State.eraseGuarded

end Sys2Proof.Machine
end

