-- ==== Sys2Proof/Machine/Dispatch.lean ====
section
/-!
DEFINITION. The meaning of every command: one arm for each constructor of `Instr`, each a direct call of a definition of its own.
-/

namespace Sys2Proof.Machine

open Sys2Proof

/-- The effect of a command on everything but the queue. -/
def exec (i : Instr) (s : State) : Host.Outcome State Fault Refusal :=
  match i with
  | .request frame => Sys2Proof.Machine.execRequest frame s
  | .writeData frame => Sys2Proof.Machine.execWriteData frame s
  | .cancel frame => Sys2Proof.Machine.execCancel frame s
  | .linkReset frame => Sys2Proof.Machine.execLinkReset frame s
  | .windowDataTimeout tag => Sys2Proof.Machine.execWindowDataTimeout tag s
  | .dataTimeout tag index => Sys2Proof.Machine.execDataTimeout tag index s
  | .bufferClaimGrant => Sys2Proof.Machine.execBufferClaimGrant s
  | .holdCleared => Sys2Proof.Machine.execHoldCleared s
  | .syncComplete => Sys2Proof.Machine.execSyncComplete s
  | .queuePlaceFree unit => Sys2Proof.Machine.execQueuePlaceFree unit s
  | .pendingWriteRedirect => Sys2Proof.Machine.execPendingWriteRedirect s
  | .unitPresentAsserted unit => Sys2Proof.Machine.execUnitPresentAsserted unit s
  | .unitPresentReleased unit => Sys2Proof.Machine.execUnitPresentReleased unit s
  | .unitFaultLineChange unit level => Sys2Proof.Machine.execUnitFaultLineChange unit level s
  | .unitData unit frame => Sys2Proof.Machine.execUnitData unit frame s
  | .result unit frame => Sys2Proof.Machine.execResult unit frame s
  | .unitTimeout unit slot => Sys2Proof.Machine.execUnitTimeout unit slot s
  | .partReset event => Sys2Proof.Machine.execPartReset event s
  | .agingExpiry => Sys2Proof.Machine.execAgingExpiry s
  | .quietTimerExpiry => Sys2Proof.Machine.execQuietTimerExpiry s
  | .idleTimerExpiry => Sys2Proof.Machine.execIdleTimerExpiry s
  | .relocationStart => Sys2Proof.Machine.execRelocationStart s
  | .takeSave => Sys2Proof.Machine.execTakeSave s
  | .drainEnd => Sys2Proof.Machine.execDrainEnd s
  | .powerDown unit => Sys2Proof.Machine.execPowerDown unit s
  | .poweringDownComplete => Sys2Proof.Machine.execPoweringDownComplete s
  | .wakeSettled => Sys2Proof.Machine.execWakeSettled s
  | .eraseWaitEnd => Sys2Proof.Machine.execEraseWaitEnd s
  | .identify => Sys2Proof.Machine.execIdentify s
  | .setParams => Sys2Proof.Machine.execSetParams s
  | .setStreams => Sys2Proof.Machine.execSetStreams s
  | .setMode => Sys2Proof.Machine.execSetMode s
  | .resetPart => Sys2Proof.Machine.execResetPart s
  | .regionRead => Sys2Proof.Machine.execRegionRead s
  | .regionWrite => Sys2Proof.Machine.execRegionWrite s
  | .regionClear => Sys2Proof.Machine.execRegionClear s
  | .pinRead => Sys2Proof.Machine.execPinRead s
  | .pinWrite => Sys2Proof.Machine.execPinWrite s
  | .pinClear => Sys2Proof.Machine.execPinClear s
  | .remapRead => Sys2Proof.Machine.execRemapRead s
  | .remapDelete => Sys2Proof.Machine.execRemapDelete s
  | .spareRead => Sys2Proof.Machine.execSpareRead s
  | .spareLoad => Sys2Proof.Machine.execSpareLoad s
  | .watchRead => Sys2Proof.Machine.execWatchRead s
  | .watchClear => Sys2Proof.Machine.execWatchClear s
  | .unitMode => Sys2Proof.Machine.execUnitMode s
  | .unitInfo => Sys2Proof.Machine.execUnitInfo s
  | .save => Sys2Proof.Machine.execSave s
  | .scanStart => Sys2Proof.Machine.execScanStart s
  | .scanAbort => Sys2Proof.Machine.execScanAbort s
  | .scanLogRead => Sys2Proof.Machine.execScanLogRead s
  | .logRead => Sys2Proof.Machine.execLogRead s
  | .countersRead => Sys2Proof.Machine.execCountersRead s
  | .guardSetUser => Sys2Proof.Machine.execGuardSetUser s
  | .guardSetRecovery => Sys2Proof.Machine.execGuardSetRecovery s
  | .guardUnlock => Sys2Proof.Machine.execGuardUnlock s
  | .guardDisable => Sys2Proof.Machine.execGuardDisable s
  | .erasePrepare => Sys2Proof.Machine.execErasePrepare s
  | .eraseGuarded => Sys2Proof.Machine.execEraseGuarded s
  | .freeze => Sys2Proof.Machine.execFreeze s
  | .resetLineReleased => Sys2Proof.Machine.execResetLineReleased s
  | .readDataSent tag index => Sys2Proof.Machine.execReadDataSent tag index s

end Sys2Proof.Machine
end

