-- ==== Sys2Proof/Safety.lean ====
section
/-!
DEFINITION. What a state of the part must satisfy to be a state of the part at all: the bounds that the spec gives its fields, and the
laws of its admission list, buffers, tags, scans, watch list, spare pools and tables. No step leads out of them. Then the words in which
the statements about commands are made: a part that runs, a management command that waits to be carried out, and what its answer leaves.
-/

namespace Sys2Proof.Machine

open Sys2Proof

/-- Every parameter lies in its range (R138). -/
def Params.inRange (p : Params) : Prop := ∀ n ∈ paramNumbers, paramInRange n (p.value n) = true

/-- The bounded fields of a port: the write-fault count saturates at 255 (R73), the issue queue has 64 places (R69). -/
structure Port.Lawful (p : Port) : Prop where
  writeFaults : p.writeFaults ≤ 255
  queue : p.queue.length ≤ Config.queuePlaces

/-- A watch entry within its bounds: score 0 to 15, age 0 to 3 (R88). -/
def WatchEntry.InRange (e : WatchEntry) : Prop := e.score ≤ 15 ∧ e.age ≤ 3

/-- The bounded fields of the saved items that a load sets (R178, test 5). -/
structure Saved.Lawful (v : Saved) : Prop where
  params : v.params.inRange
  latest : v.latest ≤ 8
  lifetime : v.lifetimeErrors ≤ 65535
  scanLog : v.scanLog.length ≤ 16
  watch : v.watch.length ≤ Config.watchLimit
  watchRange : ∀ e ∈ v.watch, e.InRange

/-- A piece of work left inside a step is lawful when the saved items it carries, if any, are within their bounds. -/
def Work.Lawful : Work → Prop
  | .loadEnds (.valid _ v) => v.Lawful
  | .loadEnds .notValid => True
  | .loadEnds .absent => True
  | .ended _ _ _ => True
  | .retries _ => True
  | .takes _ => True
  | .unitFailed _ => True
  | .leaveStartup _ _ => True

/-- An item that has begun no work: a request that has cut no segment and is not RUNNING, a relocation item that is HELD (R48). -/
def Item.Waits : Item → Prop
  | .host r => r.segs = [] ∧ r.state ≠ .running
  | .reloc r => r.held = true

/-- The bounded fields of the part, the order of its admission list and its ordering law, and the scan law. -/
structure State.Bounded (s : State) : Prop where
  /-- Failed attempts, 0 to 5 (R146, R149). -/
  failed : s.guard.failed ≤ 5
  /-- The history ring keeps 5 records (R191). -/
  ring : s.log.ring.length ≤ 5
  /-- The latest index, 0 to 8 (R193). -/
  latest : s.log.latest ≤ 8
  /-- The lifetime error count saturates at 65 535 (R196). -/
  lifetime : s.log.lifetime ≤ 65535
  /-- The scan log keeps 16 entries (R123). -/
  scanLog : s.scan.log.length ≤ 16
  /-- The watch list holds up to 64 entries (R88). -/
  watch : s.health.watch.length ≤ Config.watchLimit
  /-- Every parameter in its range (R138). -/
  params : s.mgmt.params.inRange
  /-- Only the 14 event flags of R142 are ever set. -/
  events : s.mgmt.events &&& 0xC000 = 0
  /-- Every port within its bounds. -/
  ports : ∀ u, (s.port u).Lawful
  /-- Every piece of work left is lawful. -/
  todo : ∀ w ∈ s.todo, w.Lawful
  /-- The admission list stands in order of admission: its serial numbers rise (R47). -/
  order : (s.engine.items.map Item.id).Pairwise (· < ·)
  /-- No item has a serial number that is still to be given. -/
  given : ∀ n ∈ s.engine.items.map Item.id, n < s.nextId
  /-- Scores and ages of the watch list stay within their bounds (R88). -/
  watchRange : ∀ e ∈ s.health.watch, e.InRange
  /-- The scan law: the engine is IDLE exactly when it holds no context, so at most one scan is RUNNING or SUSPENDED (R109). -/
  scan : s.scan.state = .idle ↔ s.scan.context = none
  /-- An IDLE management engine holds no command (R132). -/
  engine : s.mgmt.state = .idle → s.mgmt.taken = none
  /-- The ordering law: an item that an earlier one holds has begun no work (R48). -/
  waits : s.engine.items.Pairwise fun e i => e.blocks i = true → i.Waits

/-- The buffers that a request holds, one count for each item. -/
def Item.buffers : Item → Nat
  | .host r => heldBy r.segs
  | .reloc _ => 0

/-- The buffers held: by the segments of requests and by the two relocation slots (R54). -/
def State.heldBuffers (s : State) : Nat :=
  (s.engine.items.map Item.buffers).sum + (slotBuffers s.health.slot0 + slotBuffers s.health.slot1)

/-- The tag that a live request holds. -/
def Item.liveTag : Item → Option (Fin 32)
  | .host r => if r.orphan then none else some r.tag
  | .reloc _ => none

/-- The tags that window accesses hold: W0 writes waiting for data, window reads whose COMPLETION is owed, and the W0 write of the taken
command (R127, R130, R131). -/
def ManagementEngine.tags (m : ManagementEngine) : List (Fin 32) :=
  m.windows.map (fun x => x.tag) ++ (m.reads.map (fun x => x.tag) ++ (m.taken.bind fun t => t.tag).toList)

/-- The tag law: no two live requests share a tag, no two window accesses do, and a tag is in use exactly when one of them holds it
(R43). -/
structure State.TagLaw (s : State) : Prop where
  one : ∀ i ∈ s.engine.items, ∀ j ∈ s.engine.items, ∀ g, i.liveTag = some g → j.liveTag = some g → i.id = j.id
  requests : ∀ g, s.link.tags[g] = .request ↔ ∃ i ∈ s.engine.items, i.liveTag = some g
  distinct : s.mgmt.tags.Nodup
  windows : ∀ g, s.link.tags[g] = .window ↔ g ∈ s.mgmt.tags

/-- What every state of the part satisfies: its bounds, the buffer law and the tag law. -/
structure State.Lawful (s : State) : Prop extends s.Bounded where
  /-- The buffer law: free and held buffers are 128 (R54). -/
  buffers : s.engine.freeBuffers + s.heldBuffers = Config.bufferCount
  /-- The tag law (R43). -/
  tagLaw : s.TagLaw

/-- The frame is a COMPLETION for a tag. -/
def HostFrame.completes (g : Fin 32) : HostFrame → Bool
  | .completion tag _ _ _ _ _ => tag == g
  | .readData _ _ _ => false
  | .dataRequest _ _ _ => false
  | .reject _ _ => false

/-- The account of a tag: the COMPLETIONs sent for it, and one more while it is in use. An admission raises it by one; what ends an
admission with exactly one COMPLETION keeps it (R65). -/
def State.ledger (s : State) (g : Fin 32) : Nat :=
  s.link.sent.countP (HostFrame.completes g) + (if s.link.tags[g] = .free then 0 else 1)

/-- The spare law of a pool: remaining, consumed and discarded spares are those loaded, and every issued spare is consumed (R32). -/
structure Pool.Lawful (p : Pool) : Prop where
  sum : p.remaining + p.consumed + p.discarded = p.loaded
  loaded : p.loaded ≤ 65535
  issued : p.issued.length ≤ p.consumed
  counts : ∀ x ∈ p.extents, 1 ≤ x.count

/-- The laws of the records that a load brings, from the load's end on: the watch law (R88) and the spare law (R32). A load may bring
records that break them; no step does. -/
structure State.Sound (s : State) : Prop where
  loaded : s.store.load = none
  distinct : (s.health.watch.map fun e => e.block).Nodup
  unlearned : ∀ e ∈ s.health.watch, s.map.learnedOf e.block.unit e.block.block = none
  pools : ∀ u, (s.map.pools.get u).Lawful

/-- The part runs: it is out of reset, and no work of a step is left (log entries 5, 25). -/
structure State.Running (s : State) : Prop where
  up : s.inReset = false
  settled : s.todo = []

/-- The part runs and its engine holds a taken command of a code, not yet decided (R133, log entry 4). -/
structure State.Awaits (s : State) (c : Command) (t : Taken) : Prop extends s.Running where
  taken : s.mgmt.taken = some t
  code : t.code = c.code
  undecided : t.decided = false

/-- What the answer to a management command leaves (R134, R135, R127): the response block, an IDLE engine and, while its W0 write holds
its tag, a COMPLETION with status OK, a free tag and a completed request of its stream. All else stays. -/
def State.answered (s : State) (t : Taken) (result : CmdResult) (data : List Byte) : State :=
  { s with
    mgmt := { s.mgmt with
      state := .idle, taken := none, response := { seq := t.seq, code := t.code, result := result, data := data } }
    link := match t.tag with
      | none => s.link
      | some tag =>
        { tags := s.link.tags.set tag .free,
          sent := s.link.sent ++ [.completion tag .ok 0 none false (s.mgmt.events != 0)] }
    counters := match t.tag with
      | none => s.counters
      | some _ =>
        let c := s.counters.streams[t.stream]
        { s.counters with streams := s.counters.streams.set t.stream { c with completed := min 4294967295 (c.completed + 1) } } }

/-- A state after a command whose answer is a result with data, where the command may have raised events first: the answer of
`State.answered`, with the ATTENTION flag left open. -/
structure State.Answers (s x : State) (t : Taken) (result : CmdResult) (data : List Byte) : Prop where
  idle : x.mgmt.state = .idle
  taken : x.mgmt.taken = none
  response : x.mgmt.response = { seq := t.seq, code := t.code, result := result, data := data }
  link : ∃ a, x.link = match t.tag with
    | none => s.link
    | some tag =>
      { tags := s.link.tags.set tag .free, sent := s.link.sent ++ [.completion tag .ok 0 none false a] }

/-- A saved item has changed: the store is DIRTY, or dirty again under a running save, and the retry hold is cleared; an ABSENT store
stays (R181). -/
def StoreController.dirtied (c : StoreController) : StoreController :=
  { c with
    state := match c.state with
      | .clean => .dirty
      | .invalid => .dirty
      | .dirty => .dirty
      | .saving => .saving
      | .absent => .absent
    dirtyAgain := if c.state = .saving then true else c.dirtyAgain
    retryHold := false }

/-- An operation sent now: outstanding in its slot, its unit timer running, no data yet (R78, R83). -/
def State.sentNow (s : State) (op : Op) : Outstanding :=
  { op := op, timer := .running s.ms s.mgmt.params.unitTimeout, arrived := [] }

/-- A port that has nothing outstanding and nothing waiting but in its attach place. -/
structure Port.Rests (p : Port) : Prop where
  slots : p.slots = Four.all none
  queue : p.queue = []
  scan : p.scanPlace = none
  store : p.storePlace = none

/-- A port that rests after it has taken an operation: the operation is outstanding in slot 0 (R78, R79). -/
def State.sendsFirst (s : State) (p : Port) (o : Op) : Port := { p with
  slots := (Four.all none).set 0 (some (s.sentNow o)), sent := p.sent ++ [⟨0, o.kind, o.first, o.count, o.data⟩] }

/-- A port whose attach begins and whose first operation is sent at once: UNIT_RESET, or POWER_UP for a wake (R76, R87). -/
def State.attachBegun (s : State) (p : Port) (wake : Bool) (id : Nat) : Port :=
  let kind : OpKind := if wake then .powerUp else .unitReset
  { p with
    state := .attaching, attempts := 0, cause := .none, waking := wake, identified := false, attachPlace := none,
    slots := (Four.all none).set 0 (some (s.sentNow (mkOp kind 0 0 .port id [])))
    sent := p.sent ++ [⟨0, kind, 0, 0, []⟩] }

/-- What standby entry leaves, with no scan under way (R86, R170, R172): its saving phase, with a save running, where the store is DIRTY,
autosave is on and port 0 is READY; otherwise its powering-down phase, with POWER_DOWN placed at every port that serves. -/
structure State.EntersStandby (s x : State) : Prop where
  mode : x.modes.mode = .enteringStandby
  drain : x.modes.drain = .none
  engine : x.engine = s.engine
  map : x.map = s.map
  health : x.health = s.health
  scan : x.scan = s.scan
  log : x.log = s.log
  saves : s.store.state = .dirty → s.mgmt.params.autosave = true → (s.port 0).state = .ready →
    x.modes.phase = .saving ∧ x.store.state = .saving ∧ (∃ r, x.store.save = some r ∧ r.step = .first ∧ r.command = none) ∧
    ∀ u, u ≠ 0 → x.port u = s.port u
  powersDown : s.store.state ≠ .dirty ∨ s.mgmt.params.autosave = false ∨ (s.port 0).state ≠ .ready →
    x.modes.phase = .poweringDown ∧ x.store = s.store ∧
    ∀ u, ((s.port u).state.serves = false → x.port u = s.port u) ∧
      ((s.port u).state.serves = true → (s.port u).queue = [] → (s.port u).scanPlace = none → (s.port u).storePlace = none →
        ∃ n, x.port u = { s.port u with
          sleepRecord := some (s.port u).state, attachPlace := some (mkOp .powerDown 0 0 .port n []) })

/-- A frame that a host may send: a WRITE DATA frame carries 1 to 512 bytes (12.2). -/
def LinkFrame.Sendable : LinkFrame → Prop
  | .request _ => True
  | .writeData w => 1 ≤ w.data.length ∧ w.data.length ≤ 512
  | .cancel _ => True
  | .linkReset => True

/-- A frame that a unit may send: a block of 512 bytes at an offset of two bytes; at most 8 soft-error blocks of four bytes, a capacity of
eight bytes (12.3). -/
def UnitFrame.Sendable : UnitFrame → Prop
  | .data _ offset block => offset < 65536 ∧ block.length = 512
  | .result r => r.soft.length ≤ 8 ∧ (∀ b ∈ r.soft, b < 4294967296) ∧ r.capacity < 18446744073709551616

/-- Whether a code is accepted: a USER code equals the user code held; a RECOVERY code equals the recovery code, at level STANDARD only
where the command limits it (R149, R152). -/
def GuardUnit.Accepts (g : GuardUnit) (kind : CodeKind) (code : List Byte) (limited : Bool) : Prop :=
  match kind with
  | .user => g.userCode = some code
  | .recovery => g.recoveryCode = code ∧ (limited = true → g.level = .standard)

/-! ### The laws of the tables -/

/-- How many valid regions map a block (R11). -/
def MapUnit.regionsAt (m : MapUnit) (u : Fin 4) (b : Nat) : Nat := regionIndices.countP fun i => m.regions[i].maps u b

/-- How many places of its unit's pool hold a block: extents, returned blocks, issued spares (R32). -/
def MapUnit.sparesAt (m : MapUnit) (u : Fin 4) (b : Nat) : Nat :=
  let p := m.pools.get u
  (p.extents.countP fun x => inRun x.first x.count b) + (p.returned.countP fun x => x == b) + (p.issued.countP fun c => c.spare == b)

/-- How many pins and learned entries have a block as their target (R21, R26). -/
def MapUnit.targetsAt (m : MapUnit) (u : Fin 4) (b : Nat) : Nat :=
  (pinIndices.countP fun j => m.pins[j].valid && m.pins[j].unit == u && m.pins[j].target == b) +
    (m.learned.countP fun e => e.unit == u && e.target == b)

/-- How many pins have a block as their source (R21). -/
def MapUnit.pinSourcesAt (m : MapUnit) (u : Fin 4) (b : Nat) : Nat :=
  pinIndices.countP fun j => m.pins[j].valid && m.pins[j].unit == u && m.pins[j].source == b

/-- How many learned entries have a block as their source (R26). -/
def MapUnit.learnedSourcesAt (m : MapUnit) (u : Fin 4) (b : Nat) : Nat := m.learned.countP fun e => e.unit == u && e.source == b

/-- The region law (R6) and the remap law (R23): no LBA lies in two regions and none of a region in the window; no block is mapped twice,
held by two places of a pool, the target of two entries, or two of these at once, and no store-area block is any; no block is the source of
two pins or of two learned entries, and no source is a spare or a target. -/
structure MapUnit.Lawful (m : MapUnit) : Prop where
  logical : ∀ x, (regionIndices.countP fun i => m.regions[i].holdsLba x) ≤ 1
  window : ∀ i : Fin 16, ∀ x, m.regions[i].holdsLba x = true → x < 4294967292
  blocks : ∀ u b, m.regionsAt u b + m.sparesAt u b + m.targetsAt u b ≤ 1
  area : ∀ b, b < 64 → m.regionsAt 0 b + m.sparesAt 0 b + m.targetsAt 0 b = 0
  pins : ∀ u b, m.pinSourcesAt u b ≤ 1
  learned : ∀ u b, m.learnedSourcesAt u b ≤ 1
  apart : ∀ u b, 1 ≤ m.pinSourcesAt u b + m.learnedSourcesAt u b → m.sparesAt u b + m.targetsAt u b = 0

/-! ### The checks of the tables, as their rules list them -/

/-- Two runs share a place. -/
def Meet (a n b m : Nat) : Prop := ∃ x, a ≤ x ∧ x < a + n ∧ b ≤ x ∧ x < b + m

/-- A place lies in a run. -/
def Within (first n x : Nat) : Prop := first ≤ x ∧ x < first + n

/-- An answer is the first of a list whose condition holds, and there is none where none holds. -/
def FirstOf {α : Type} (answer : Option α) : List (α × Prop) → Prop
  | [] => answer = none
  | (c, holds) :: l => (holds → answer = some c) ∧ (¬ holds → FirstOf answer l)

/-- An extent does not fit a capacity that is known, on a port that is READY, READ_ONLY, OFFLINE or SLEEPING (R6, R17). -/
def State.Overflows (s : State) (u : Fin 4) (first count : Nat) : Prop :=
  ((s.port u).state = .ready ∨ (s.port u).state = .readOnly ∨ (s.port u).state = .offline ∨ (s.port u).state = .sleeping) ∧
    ∃ c, (s.port u).capacity = some c ∧ c < first + count

/-- A valid region maps a block (R11). -/
def MapUnit.MapsAt (m : MapUnit) (j : Fin 16) (u : Fin 4) (b : Nat) : Prop :=
  m.regions[j].valid = true ∧ m.regions[j].unit = u ∧ Within m.regions[j].physical m.regions[j].count b

/-- A run shares a block with a place of a pool; the order of the places is log entry 48 (R6, R23). -/
def MapUnit.poolChecks (m : MapUnit) (u : Fin 4) (first n : Nat) : List (Conflict × Prop) :=
  let p := m.pools.get u
  (p.extents.zipIdx.map fun x => (Conflict.at .spareExtent .extent x.2, Meet x.1.first x.1.count first n)) ++
  [({ Conflict.bare .spareExtent with party := .returned }, ∃ b ∈ p.returned, Within first n b),
   ({ Conflict.bare .spareExtent with party := .issued }, ∃ c ∈ p.issued, Within first n c.spare)]

/-- The pins of a unit that a test lets in, lowest first, as the other party of a check. -/
def MapUnit.pinChecks (m : MapUnit) (u : Fin 4) (check : ConflictCheck) (test : Fin 32 → PinEntry → Prop) : List (Conflict × Prop) :=
  pinIndices.map fun j => (Conflict.at check .pin j.val, m.pins[j].valid = true ∧ m.pins[j].unit = u ∧ test j m.pins[j])

/-- The learned entries of a unit that a test lets in, oldest first, as the other party of a check. -/
def MapUnit.learnedChecks (m : MapUnit) (u : Fin 4) (check : ConflictCheck) (test : Nat → LearnedEntry → Prop) :
    List (Conflict × Prop) :=
  m.learned.zipIdx.map fun x => (Conflict.at check .learned x.2, x.1.unit = u ∧ test x.2 x.1)

/-- The seven checks of R6 on a proposed region. -/
def State.regionChecks (s : State) (i : Fin 16) (e : RegionEntry) : List (Conflict × Prop) :=
  let m := s.map
  (regionIndices.map fun j => (Conflict.at .logicalOverlap .region j.val,
    j ≠ i ∧ m.regions[j].valid = true ∧ Meet e.logical e.count m.regions[j].logical m.regions[j].count)) ++
  (regionIndices.map fun j => (Conflict.at .physicalOverlap .region j.val,
    j ≠ i ∧ m.regions[j].valid = true ∧ m.regions[j].unit = e.unit ∧
      Meet e.physical e.count m.regions[j].physical m.regions[j].count)) ++
  [(Conflict.bare .storeArea, e.unit = 0 ∧ Meet e.physical e.count 0 64)] ++
  m.poolChecks e.unit e.physical e.count ++
  m.pinChecks e.unit .pinTarget (fun _ p => Within e.physical e.count p.target) ++
  m.learnedChecks e.unit .learnedTarget (fun _ x => Within e.physical e.count x.target) ++
  [(Conflict.at .capacity .unit e.unit.val, s.Overflows e.unit e.physical e.count)]

/-- Checks 2 to 9 of R23 on a proposed pin. -/
def State.pinTests (s : State) (i : Fin 32) (e : PinEntry) : List (Conflict × Prop) :=
  let m := s.map
  m.pinChecks e.unit .sourceInUse (fun j p => j ≠ i ∧ p.source = e.source) ++
  (regionIndices.map fun j => (Conflict.at .targetInRegion .region j.val, m.MapsAt j e.unit e.target)) ++
  [(Conflict.bare .storeArea, e.unit = 0 ∧ e.target < 64)] ++
  m.poolChecks e.unit e.target 1 ++
  m.pinChecks e.unit .pinTarget (fun j p => j ≠ i ∧ p.target = e.target) ++
  m.learnedChecks e.unit .learnedTarget (fun _ x => x.target = e.target) ++
  m.pinChecks e.unit .entrySource (fun j p => j ≠ i ∧ p.source = e.target) ++
  m.learnedChecks e.unit .entrySource (fun _ x => x.source = e.target) ++
  [(Conflict.at .capacity .unit e.unit.val, s.Overflows e.unit e.target 1)]

/-- Checks 2 to 8 of R36 on the extents of a unit; which of several parties a report names is log entry 35. -/
def State.extentChecks (s : State) (u : Fin 4) (l : List CheckedExtent) : List (Conflict × Prop) :=
  let m := s.map
  let report (check : ConflictCheck) (x : CheckedExtent) : Conflict := { check := check, party := x.party, index := x.index, block := none }
  let holds (b : Nat) : Prop := ∃ x ∈ l, Within x.first x.count b
  (l.zipIdx.map fun x => (report .extentOverlap x.1, ∃ y ∈ l.take x.2, Meet y.first y.count x.1.first x.1.count)) ++
  (l.map fun x => (report .storeArea x, u = 0 ∧ Meet x.first x.count 0 64)) ++
  (regionIndices.map fun j => (Conflict.at .regionRange .region j.val,
    m.regions[j].valid = true ∧ m.regions[j].unit = u ∧ ∃ x ∈ l, Meet x.first x.count m.regions[j].physical m.regions[j].count)) ++
  m.pinChecks u .pinTarget (fun _ p => holds p.target) ++
  m.learnedChecks u .learnedTarget (fun _ x => holds x.target) ++
  m.pinChecks u .entrySource (fun _ p => holds p.source) ++
  m.learnedChecks u .entrySource (fun _ x => holds x.source) ++
  [(Conflict.at .capacity .unit u.val, ∃ x ∈ l, s.Overflows u x.first x.count)]

/-- The checks of part 2 of R40 on a learned entry. -/
def State.learnedTests (s : State) (pos : Nat) (e : LearnedEntry) : List (Conflict × Prop) :=
  let m := s.map
  (regionIndices.map fun j => (Conflict.at .targetInRegion .region j.val, m.MapsAt j e.unit e.target)) ++
  [(Conflict.bare .storeArea, e.unit = 0 ∧ e.target < 64)] ++
  m.poolChecks e.unit e.target 1 ++
  m.pinChecks e.unit .pinTarget (fun _ p => p.target = e.target) ++
  m.learnedChecks e.unit .learnedTarget (fun j x => j ≠ pos ∧ x.target = e.target) ++
  m.pinChecks e.unit .entrySource (fun _ p => p.source = e.target) ++
  m.learnedChecks e.unit .entrySource (fun j x => j ≠ pos ∧ x.source = e.target) ++
  [(Conflict.at .capacity .unit e.unit.val, s.Overflows e.unit e.target 1)]

/-- The checks of part 3 of R40 on a pool: those of its extents, with each returned block as an extent of one block, then the sum of
its accounts, whose name is log entry 12. -/
def State.poolTests (s : State) (u : Fin 4) : List (Conflict × Prop) :=
  let p := s.map.pools.get u
  s.extentChecks u (checkedExtents 0 p.extents ++
    p.returned.map fun b => { party := .returned, index := none, first := b, count := 1 }) ++
  [(Conflict.at .spareLaw .unit u.val, p.remaining + p.consumed + p.discarded ≠ p.loaded)]

/-- The full validation: every valid region, every valid pin, every learned entry and every pool, in this order (R19, R40, R166). -/
def State.validations (s : State) : List (ValidationFailure × Prop) :=
  let m := s.map
  (regionIndices.flatMap fun i => (s.regionChecks i m.regions[i]).map fun c => (⟨.regions, i.val, c.1⟩, m.regions[i].valid = true ∧ c.2)) ++
  (pinIndices.flatMap fun i => (s.pinTests i m.pins[i]).map fun c => (⟨.pins, i.val, c.1⟩, m.pins[i].valid = true ∧ c.2)) ++
  (m.learned.zipIdx.flatMap fun x => (s.learnedTests x.2 x.1).map fun c => (⟨.learned, x.2, c.1⟩, c.2)) ++
  (units.flatMap fun u => (s.poolTests u).map fun c => (⟨.pools, u.val, c.1⟩, c.2))

/-- The regions of a table and the extents of a list hold at least one block each (R5, R36). -/
def State.Counted (s : State) : Prop :=
  (∀ i : Fin 16, s.map.regions[i].valid = true → 1 ≤ s.map.regions[i].count) ∧
    ∀ u, ∀ x ∈ (s.map.pools.get u).extents, 1 ≤ x.count

/-! ### Cuts -/

/-- A cut of up to `most` blocks from a home block (R51, R112, R158): a DIRECT block that the test lets into runs starts a run of such
blocks, which ends after 32 blocks, after `most`, or before a block that is none; any other block is cut alone, on its accessed block. -/
def MapUnit.Cuts (m : MapUnit) (u : Fin 4) (ok : Nat → Bool) (h most first count : Nat) : Prop :=
  let runs (b : Nat) : Prop := (m.lookup u b).2 = .direct ∧ ok b = true
  (runs h → first = h ∧ 1 ≤ count ∧ count ≤ most ∧ count ≤ 32 ∧ (∀ b, h ≤ b → b < h + count → runs b) ∧
    (count = most ∨ count = 32 ∨ ¬ runs (h + count))) ∧
  (¬ runs h → first = (m.lookup u h).1 ∧ count = 1)

/-- A log unit whose history ring has received a record: it keeps its newest five (R191). -/
def LogUnit.recorded (l : LogUnit) (id : Nat) (r : HistRec) : LogUnit := { l with ring := pushBounded 5 l.ring ⟨id, r⟩ }

/-- A REQUEST frame of a kind arrives that is neither MALFORMED nor finds its tag in use (R42). -/
structure State.Arrives (s : State) (frame : List Byte) (r : RequestFields) (k : ReqKind) : Prop extends s.Running where
  lawful : s.Lawful
  frame : LinkFrame.parse frame = some (.request r)
  kind : r.kind.toNat = k.code
  length : r.len.toNat ≤ 1048576
  tag : s.link.tags[r.tag] = .free

/-- What a request leaves that ends as it arrives: its history record, the frames sent, one counter of its stream (R42, R44). Its tag
is free again; the idle timer has stopped, and starts again where its condition holds (R177). -/
def State.passedThrough (s : State) (r : RequestFields) (k : ReqKind) (frames : List HostFrame)
    (count : StreamCounters → StreamCounters) : State :=
  { s with
    link := { s.link with sent := s.link.sent ++ frames }
    log := s.log.recorded s.nextId (.host k r.stream r.tag r.lba.toNat r.len.toNat s.now)
    nextId := s.nextId + 2
    counters := { s.counters with streams := s.counters.streams.set r.stream (count s.counters.streams[r.stream]) }
    modes := { s.modes with idle := .stopped } }

/-- A RESULT frame arrives for the one operation outstanding at a port that serves and stays in its state; nothing else waits at the port,
the operation is none of the port's own, and every soft-error block lies inside its extent (R78, R81, R82). -/
structure State.Ends (s : State) (u : Fin 4) (frame : List Byte) (f : ResultFields) (o : Outstanding) : Prop extends s.Running where
  lawful : s.Lawful
  loaded : s.store.load = none
  frame : UnitFrame.parse frame = some (.result f)
  serves : (s.port u).state.serves = true
  stays : (s.port u).served = (s.port u).state
  slots : (s.port u).slots = (Four.all none).set f.slot (some o)
  queue : (s.port u).queue = []
  scan : (s.port u).scanPlace = none
  store : (s.port u).storePlace = none
  attach : (s.port u).attachPlace = none
  kind : f.kind.toNat = o.op.kind.code
  owner : o.op.owner ≠ .port
  soft : ∀ b ∈ f.soft, o.op.first ≤ b ∧ b < o.op.first + o.op.count

/-- The counters after one counter of a unit has changed. -/
def State.countedAt (s : State) (u : Fin 4) (f : UnitCounters → UnitCounters) : Four UnitCounters :=
  s.counters.units.set u (f (s.counters.units.get u))

/-- The last segment of a live request that has taken no failure, is not cancelled and cuts no more (R51, R65). -/
structure State.Last (s : State) (r : Request) (g : Segment) : Prop where
  found : s.request? r.id = some r
  segs : r.segs = [g]
  first : r.first = none
  cancelled : r.cancelled = false
  live : r.orphan = false
  state : r.state = .running
  cut : r.count ≤ r.cursor

/-- The last segment of a request, with an operation over its own extent. -/
structure State.LastAt (s : State) (r : Request) (g : Segment) (o : Op) : Prop extends s.Last r g where
  extent : o.first = g.first ∧ o.count = g.count

/-- A request has completed with its last segment: its COMPLETION is sent, its tag is free, it has left the list and its segment's
buffers are released (R55, R65). -/
structure State.Completes (s x : State) (r : Request) (g : Segment) (status : Status) (residual : Nat) (failing : Option Nat)
    (recovered : Bool) : Prop where
  link : ∃ a, x.link = { tags := s.link.tags.set r.tag .free,
                         sent := s.link.sent ++ [.completion r.tag status residual failing recovered a] }
  engine : x.engine = { items := s.engine.items.filter fun i => i.id != r.id, freeBuffers := s.engine.freeBuffers + g.buffers }

/-- A capacity covers a unit's requirements: its valid regions, pin targets, learned targets, spare extents and, for unit 0, the store
area (R17). -/
structure MapUnit.Covers (m : MapUnit) (u : Fin 4) (c : Nat) : Prop where
  regions : ∀ i : Fin 16, m.regions[i].valid = true → m.regions[i].unit = u → m.regions[i].physical + m.regions[i].count ≤ c
  pins : ∀ i : Fin 32, m.pins[i].valid = true → m.pins[i].unit = u → m.pins[i].target + 1 ≤ c
  learned : ∀ e ∈ m.learned, e.unit = u → e.target + 1 ≤ c
  spares : ∀ x ∈ (m.pools.get u).extents, x.first + x.count ≤ c
  area : u = 0 → 64 ≤ c

/-- The RESULT of an attach's IDENTIFY arrives DONE, after the load, at the port of a unit other than unit 0, with no other work of that
unit: nothing else outstanding or waiting at the port, no item, no scan, no erase (R18, R76). -/
structure State.Identifies (s : State) (u : Fin 4) (frame : List Byte) (f : ResultFields) (o : Outstanding) : Prop extends s.Running where
  loaded : s.store.load = none
  frame : UnitFrame.parse frame = some (.result f)
  kind : f.kind = 4
  outcome : f.outcome = 0
  soft : f.soft = []
  unit : u ≠ 0
  attaching : (s.port u).state = .attaching
  slots : (s.port u).slots = (Four.all none).set f.slot (some o)
  waiting : (s.port u).waiting = []
  op : o.op.kind = .identify
  owner : o.op.owner = .port
  items : s.engine.items = []
  scan : s.scan.context = none
  erase : s.guard.erase = none
  relocs : s.health.slot0 = none ∧ s.health.slot1 = none
  mode : s.modes.mode = .service ∨ s.modes.mode = .config

/-- A request refused, counted (R44, R198). -/
def StreamCounters.refusedOne (c : StreamCounters) : StreamCounters := { c with refused := min 4294967295 (c.refused + 1) }

/-- A request completed, counted (R65, R198). -/
def StreamCounters.completedOne (c : StreamCounters) : StreamCounters := { c with completed := min 4294967295 (c.completed + 1) }

/-- The first of checks 2 to 7 that a request fails, with its status (R44, R45, R12 to R15). -/
def State.failedCheck (s : State) (k : ReqKind) (stream : Fin 16) (lba count : Nat) : Option Status :=
  if s.modes.mode = .startup ∨ s.modes.mode = .config ∨ s.modes.mode = .draining then some .notServicing
  else
    match s.map.regionLookup lba count with
    | none => some .noRegion
    | some i =>
      let e := s.map.regions[i]
      let p := (s.port e.unit).state
      if (if k = .write then e.writers else e.readers).getLsbD stream.val = false then some .accessDenied
      else if e.guarded = true ∧ (s.guard.state = .locked ∨ s.guard.state = .eraseIncomplete) then some .locked
      else if e.guarded = true ∧ s.guard.state = .erasing then some .erasing
      else if k = .write ∧ (e.readOnly = true ∨ p = .readOnly) then some .writeProtected
      else if p = .absent ∨ p = .failed ∨ p = .offline then some .unitUnavailable
      else none

end Sys2Proof.Machine
end

