-- ==== Sys2Proof/Certificates/Slice0/Obligations.lean ====
section
/-!
DEFINITION. The statements about the model, for the provers. Each says what a command, a step or an operation of a block does; each
docstring names the rules of spec/ it rests on. The statements about management commands use the words of Safety.lean:
`Awaits` (the command is taken and not yet decided), `answered` and `Answers` (what its answer leaves).
-/

open Sys2Proof Sys2Proof.Machine

/-! ### Steps, reset and what every state keeps -/

/-- A step takes the command at the front of the queue and carries it out on the state with the rest of the queue. On an empty queue a
millisecond passes, but not while the part is held in reset (the model's choice, log entry 1; 00, 5.3). -/
def Obligations.StepRunsTheFrontCommand : Prop :=
  ∀ s : State, (∀ (c : Instr) (rest : List Instr), s.pending = c :: rest → step s = exec c { s with pending := rest }) ∧
    (s.pending = [] → step s = .next { s with ms := if s.inReset then s.ms else s.ms + 1 })

/-- Every command answers a next state, on every state: none faults and none is refused. None touches the queue, none takes back a frame
that was sent on a link (the model's records, log entry 7), and none leaves work of its own for the next step (the model's form, log entry
25). -/
def Obligations.EveryCommandAnswersANextState : Prop :=
  ∀ (c : Instr) (s : State), ∃ t, exec c s = .next t ∧ t.pending = s.pending ∧ s.link.sent <+: t.link.sent ∧
    (∀ u, (s.port u).sent <+: (t.port u).sent) ∧ (s.todo = [] → t.todo = [])

/-- Every step keeps what `State.Lawful` says: the bounds of the fields (R69, R73, R88, R123, R138, R142, R146, R191, R193, R196), the order
of the admission list (R47) and its ordering law (R48), the scan law (R109), an IDLE management engine without a command (R132), the buffer
law (R54) and the tag law (R43). -/
def Obligations.EveryStepKeepsTheStateLawful : Prop :=
  ∀ s t : State, s.Lawful → step s = .next t → t.Lawful

/-- From the end of the load on, every command but those of the reset keeps the laws of the records that a load brings: the watch list holds
no block twice and no learned source, and every pool keeps the spare law. A load may bring records that break them (R32, R88). -/
def Obligations.EveryCommandKeepsTheLoadedLaws : Prop :=
  ∀ (c : Instr) (s t : State), (∀ e, c ≠ .partReset e) → c ≠ .resetLineReleased → s.Sound → exec c s = .next t → t.Sound

/-- The completion law (R43, R65, R67): an admitted request opens the account of its tag; from then on every command but LINK RESET and
those of the reset keeps every account, so that the tag stays in use until its one COMPLETION is sent and none other is; and a LINK RESET
frees every tag without a COMPLETION. -/
def Obligations.EveryAdmissionGetsOneCompletion : Prop :=
  (∀ (s t : State) (frame : List Byte) (r : RequestFields) (k : ReqKind), s.Arrives frame r k → exec (.request frame) s = .next t →
    ∀ g, t.ledger g = s.ledger g + if g = r.tag then 1 else 0) ∧
  (∀ (c : Instr) (s t : State), s.Lawful → (∀ f, c ≠ .request f) → (∀ f, c ≠ .linkReset f) → (∀ e, c ≠ .partReset e) →
    c ≠ .resetLineReleased → exec c s = .next t → ∀ g, t.ledger g = s.ledger g) ∧
  ∀ (s t : State) (frame : List Byte), s.Running → s.Lawful → LinkFrame.parse frame = some .linkReset →
    exec (.linkReset frame) s = .next t →
    t.link = { tags := Vector.replicate 32 .free, sent := s.link.sent }

/-- The state after reset is lawful. -/
def Obligations.ResetIsLawful : Prop := State.reset.Lawful

/-- The reset values of every group of state: tags and lists empty, the buffer pool whole, tables empty, ports ABSENT, the watch list, the
scans and the logs empty but for the start-up record, the engine IDLE with the fresh parameters, the mode STARTUP, counters and milliseconds
at 0 (R4, R21, R32, R43, R54, R69, R88, R109, R138, R146, R162, R187, R191, R193, R199). The guard's level STANDARD, no user code and a
recovery code of zeros before the load are the model's values (log entry 8; R146 has them as loaded), and the state after reset is one held
in reset (log entry 5). -/
def Obligations.ResetValues : Prop :=
  let s := State.reset
  s.inReset = true ∧
  s.link.tags = Vector.replicate 32 .free ∧ s.engine.items = [] ∧ s.engine.freeBuffers = 128 ∧
  (∀ i : Fin 16, s.map.regions[i].valid = false) ∧ (∀ i : Fin 32, s.map.pins[i].valid = false) ∧ s.map.learned = [] ∧
  (∀ u, s.map.pools.get u = ⟨[], [], [], 0, 0, 0⟩) ∧
  (∀ u, (s.port u).state = .absent ∧ (s.port u).desired = .active ∧ (s.port u).capacity = none ∧ (s.port u).writeFaults = 0 ∧
    (s.port u).queue = [] ∧ (s.port u).slots = Four.all none ∧ (s.port u).sent = []) ∧
  s.health.watch = [] ∧ s.health.slot0 = none ∧ s.health.slot1 = none ∧ s.scan.state = .idle ∧ s.scan.log = [] ∧
  s.log.ring.map RingRec.record = [.startup .powerOn ⟨none, 0⟩] ∧ s.log.slots = Vector.replicate 8 none ∧ s.log.latest = 0 ∧
  s.log.lifetime = 0 ∧ s.mgmt.state = .idle ∧ s.mgmt.events = 0 ∧ s.mgmt.windows = [] ∧ s.mgmt.reads = [] ∧ s.mgmt.streams = 1 ∧
  s.mgmt.params = ⟨200, 2000, 2000, 60, 8, 16, 8, 0, true, false, false, false⟩ ∧
  s.guard.state = .locked ∧ s.guard.level = .standard ∧ s.guard.userCode = none ∧ s.guard.recoveryCode = List.replicate 32 0 ∧
  s.guard.failed = 0 ∧ s.guard.frozen = false ∧ s.modes.mode = .startup ∧ s.counters.link = ⟨0, 0, 0, 0, 0⟩ ∧ s.ms = 0 ∧
  s.pending = []

/-- While the part is held in reset, the only commands with an effect are those of the reset and the levels of the unit lines (R187; the
model's reading of a part in reset, log entry 5). -/
def Obligations.NothingElseActsInReset : Prop :=
  ∀ (c : Instr) (s : State), s.inReset = true → (∀ e, c ≠ .partReset e) → c ≠ .resetLineReleased →
    (∀ u, c ≠ .unitPresentAsserted u ∧ c ≠ .unitPresentReleased u ∧ ∀ l, c ≠ .unitFaultLineChange u l) → exec c s = .next s

/-! ### Frames -/

/-- The bytes of every frame that a host or a unit may send are read back as that frame, with every field (12.2, 12.3, R41, R201, R202). -/
def Obligations.FramesReadBack : Prop :=
  (∀ f : LinkFrame, f.Sendable → LinkFrame.parse f.bytes = some f) ∧ ∀ f : UnitFrame, f.Sendable → UnitFrame.parse f.bytes = some f

/-! ### Commands that read -/

/-- REGION_READ (R9): an index above 15 ends INVALID_PARAMETER, an empty entry EMPTY_ENTRY with empty data, a valid one DONE with its
fields, in every part mode and guard state; nothing else changes. -/
def Obligations.RegionReadAnswersTheEntry : Prop :=
  ∀ (s : State) (t : Taken), s.Awaits .regionRead t →
    exec .regionRead s = .next (
      if h : t.p2 0 < 16 then
        let e := s.map.regions[t.p2 0]
        if e.valid then s.answered t .done (e.bytes (t.p2 0)) else s.answered t .emptyEntry []
      else s.answered t .invalidParameter [])

/-- The other commands that read a table or the part: each answers what it names and changes nothing else (the bytes of an answer are log
entry 17). IDENTIFY (R137): vendor and part codes, revision 1, window base, block size, the sizes of everything, the start count, the
milliseconds, the store state and the generation. PIN_READ (R25): the pin, whether it is dormant, and the learned entry it shadows.
REMAP_READ (R30): the number of entries, and the entry with whether it is shadowed and whether it is dormant. SPARE_READ (R37): extents,
return list, counts and health of a unit's pool. WATCH_READ (R96, R98): the number of entries and of pending ones, and the entry with
whether its block is in relocation and its resolution. LOG_READ (R197): the latest index and the lifetime error count, and the entry. -/
def Obligations.ReadCommandsAnswerTheirTables : Prop :=
  ∀ (s : State) (t : Taken),
    (s.Awaits .identify t → exec .identify s = .next (s.answered t .done
      (le2 0x5A31 ++ le2 0x0410 ++ le1 1 ++ le4 4294967292 ++ le2 512 ++ le1 4 ++ le1 32 ++ le1 16 ++ le4 1048576 ++ le1 16 ++ le1 32
        ++ le2 512 ++ le1 8 ++ le1 64 ++ le1 128 ++ le1 32 ++ le1 4 ++ le1 64 ++ le1 4 ++ le1 8 ++ le1 5 ++ le1 16 ++ le2 480
        ++ le2 496 ++ le4 s.store.startCount.toNat ++ le4 s.ms.toNat ++ le1 s.store.state.code ++ le4 s.store.generation.toNat))) ∧
    (s.Awaits .pinRead t → exec .pinRead s = .next (
      if h : t.p2 0 < 32 then
        let e := s.map.pins[t.p2 0]
        if e.valid then
          s.answered t .done (e.bytes ++ flag (!s.map.mapped e.unit e.source) ++
            (match s.map.learnedOf e.unit e.source with
              | some (pos, _) => le1 1 ++ le2 pos
              | none => zeros 3))
        else s.answered t .emptyEntry []
      else s.answered t .invalidParameter [])) ∧
    (s.Awaits .remapRead t → exec .remapRead s = .next (
      if t.p2 0 < 512 then
        match s.map.learned[t.p2 0]? with
        | some e => s.answered t .done (le2 s.map.learned.length ++ e.bytes ++ flag (s.map.pinOf e.unit e.source).isSome
            ++ flag (!s.map.mapped e.unit e.source))
        | none => s.answered t .emptyEntry (le2 s.map.learned.length)
      else s.answered t .invalidParameter [])) ∧
    (s.Awaits .spareRead t →
      (∀ u : Fin 4, t.p1 0 = u.val →
        let p := s.map.pools.get u
        exec .spareRead s = .next (s.answered t .done
          (le2 p.extents.length ++ (p.extents.flatMap fun x => le4 x.first ++ le4 x.count) ++ le2 p.returned.length
            ++ p.returned.flatMap le4 ++ le1 p.issued.length ++ le2 p.loaded ++ le2 p.consumed ++ le2 p.discarded ++ le2 p.remaining
            ++ le1 (healthOf p.remaining s.mgmt.params.lowSpare).code))) ∧
      (4 ≤ t.p1 0 → exec .spareRead s = .next (s.answered t .invalidParameter []))) ∧
    (s.Awaits .watchRead t → exec .watchRead s = .next (
      if t.p2 0 < 64 then
        match s.health.watch[t.p2 0]? with
        | some e => s.answered t .done (le1 s.health.watch.length ++ le1 (s.health.watch.filter fun e => e.pending).length ++ e.bytes
            ++ flag (s.health.inRelocation e.block) ++ le1 (s.map.resolve e.block).1.code ++
            (match (s.map.resolve e.block).2 with
              | some h => le1 1 ++ le1 e.block.unit.val ++ le4 h
              | none => zeros 6))
        | none => s.answered t .emptyEntry (le1 s.health.watch.length)
      else s.answered t .invalidParameter [])) ∧
    (s.Awaits .logRead t →
      let head := le2 s.log.latest ++ le2 s.log.lifetime
      exec .logRead s = .next (
        if h : 1 ≤ t.p2 0 ∧ t.p2 0 ≤ 8 then
          match s.log.slots[t.p2 0 - 1] with
          | some e => s.answered t .done (head ++ e.bytes)
          | none => s.answered t .emptyEntry head
        else s.answered t .invalidParameter []))

/-- The health of a unit is GOOD above the low-spare threshold, LOW from 1 up to it, EXHAUSTED without spares; with a threshold of 0 it is
never LOW, and an empty pool is EXHAUSTED. The status block shows it, third of a unit's bytes, and SPARE_READ returns it, last of its data.
An evaluation that finds it changed raises SPARE_LOW at LOW and SPARE_EXHAUSTED at EXHAUSTED, and nothing at GOOD (R38, R39). -/
def Obligations.SpareHealthFollowsTheThreshold : Prop :=
  ∀ (s : State) (u : Fin 4),
    let n := (s.map.pools.get u).remaining
    let low := s.mgmt.params.lowSpare
    (s.unitHealth u = .good ↔ low < n ∧ 0 < n) ∧ (s.unitHealth u = .low ↔ 1 ≤ n ∧ n ≤ low) ∧ (s.unitHealth u = .exhausted ↔ n = 0) ∧
    (low = 0 → s.unitHealth u ≠ .low) ∧ (Pool.empty.remaining = 0) ∧
    (s.unitStatus u)[2]? = some (BitVec.ofNat 8 (s.unitHealth u).code) ∧
    (s.spareData u).getLast? = some (BitVec.ofNat 8 (s.unitHealth u).code) ∧
    ∀ before, s.evaluateHealth before u =
      if s.unitHealth u = before ∨ s.unitHealth u = .good then s
      else
        let e : Event := if s.unitHealth u = .low then .spareLow else .spareExhausted
        { s with mgmt := { s.mgmt with events := s.mgmt.events ||| e.bit } }

/-- UNIT_INFO (R75): a unit above 3 ends INVALID_PARAMETER; otherwise the port's record as it stands, in every part mode and guard state;
nothing else changes, and no unit is woken. -/
def Obligations.UnitInfoAnswersThePort : Prop :=
  ∀ (s : State) (t : Taken), s.Awaits .unitInfo t →
    (∀ u : Fin 4, t.p1 0 = u.val →
      let p := s.port u
      exec .unitInfo s = .next (s.answered t .done
        (le1 p.state.code ++ le1 p.desired.code ++
          (match p.capacity with
            | some c => le1 1 ++ le8 c
            | none => zeros 9)
          ++ le1 p.cause.code ++ le1 p.writeFaults ++ flag p.writeInhibit ++ flag p.present ++ flag p.fault ++ le1 p.attempts
          ++ le1 (p.slots.toList.filter fun o => o.isSome).length ++ le1 p.queue.length))) ∧
    (4 ≤ t.p1 0 → exec .unitInfo s = .next (s.answered t .invalidParameter []))

/-- SCAN_LOG_READ (R126): age 0 is the newest entry; an age above 15 ends INVALID_PARAMETER, one at or beyond the number of entries
EMPTY_ENTRY with that number; otherwise the number and the entry; nothing else changes. -/
def Obligations.ScanLogReadAnswersByAge : Prop :=
  ∀ (s : State) (t : Taken), s.Awaits .scanLogRead t →
    let n := s.scan.log.length
    exec .scanLogRead s = .next (
      if 15 < t.p2 0 then s.answered t .invalidParameter []
      else if h : t.p2 0 < n then s.answered t .done (le1 n ++ (s.scan.log[n - 1 - t.p2 0]).bytes)
      else s.answered t .emptyEntry (le1 n))

/-- COUNTERS_READ (R199): the selected counters are answered as they stood and set to 0, at the start of their group's count; the lifetime
relocation counts are answered and stay. The completion of the command itself counts after the clearing. That the item which selects a
stream or a unit is one byte is log entry 17. -/
def Obligations.CountersReadAnswersAndClears : Prop :=
  ∀ (s : State) (t : Taken), s.Awaits .countersRead t →
    let c := s.counters
    let zeroStream : StreamCounters := ⟨0, 0, 0, 0, 0⟩
    let zeroUnit : UnitCounters := ⟨0, 0, 0, 0, 0, 0⟩
    (t.p1 0 = 0 → exec .countersRead s = .next
      (State.answered { s with counters :=
        { c with streams := Vector.replicate 16 zeroStream, units := Four.all zeroUnit, link := ⟨0, 0, 0, 0, 0⟩ } } t .done
        ((c.streams.toList.flatMap StreamCounters.bytes) ++ (c.units.toList.flatMap UnitCounters.bytes) ++ c.link.bytes
          ++ (c.lifetime.toList.flatMap le4)))) ∧
    (∀ i : Fin 16, t.p1 0 = 1 → t.p1 1 = i.val → exec .countersRead s = .next
      (State.answered { s with counters := { c with streams := c.streams.set i zeroStream } } t .done c.streams[i].bytes)) ∧
    (∀ u : Fin 4, t.p1 0 = 2 → t.p1 1 = u.val → exec .countersRead s = .next
      (State.answered { s with counters := { c with units := c.units.set u zeroUnit } } t .done
        ((c.units.get u).bytes ++ le4 (c.lifetime.get u)))) ∧
    (t.p1 0 = 3 → exec .countersRead s = .next
      (State.answered { s with counters := { c with link := ⟨0, 0, 0, 0, 0⟩ } } t .done c.link.bytes)) ∧
    (3 < t.p1 0 ∨ (t.p1 0 = 1 ∧ 15 < t.p1 1) ∨ (t.p1 0 = 2 ∧ 3 < t.p1 1) →
      exec .countersRead s = .next (s.answered t .invalidParameter []))

/-! ### Parameters, streams, modes -/

/-- SET_PARAMS (R138, R139): a list whose values all lie in their ranges is applied item by item, a difference marks the store DIRTY and a
changed aging period sets the aging timer; a list with a value out of its range changes nothing and names the lowest such parameter; failing
that, the first number that names none (log entry 18). SET_STREAMS (R140): a set without the command's own stream ends INVALID_PARAMETER;
any other becomes the management stream set, is answered, and marks the store DIRTY where it differs. -/
def Obligations.ParametersAndStreamsAreReplaced : Prop :=
  ∀ (s : State) (t : Taken),
    (s.Awaits .setParams t →
      let l := changesOf t.payload (t.payloadLength / 8)
      let p := l.foldl (fun p c => p.withValue c.number c.value) s.mgmt.params
      let bad (n : Nat) : Prop := ∃ c ∈ l, c.number = n ∧ paramInRange c.number c.value = false
      ((∀ n, ¬ bad n) → ∃ x, exec .setParams s = .next x ∧ s.Answers x t .done p.bytes ∧ x.mgmt.params = p ∧
        x.store = (if p = s.mgmt.params then s.store else s.store.dirtied) ∧
        x.health.aging = (if p.agingPeriod = s.mgmt.params.agingPeriod then s.health.aging
          else if p.agingPeriod = 0 then .stopped else .running s.ms (p.agingPeriod * 60000)) ∧
        x.map = s.map ∧ x.ports = s.ports ∧ x.engine = s.engine ∧ x.guard = s.guard ∧ x.log = s.log ∧ x.scan = s.scan ∧
        x.modes.mode = s.modes.mode ∧ x.mgmt.streams = s.mgmt.streams ∧ x.health.slot0 = s.health.slot0 ∧
        x.health.slot1 = s.health.slot1) ∧
      (∀ n, 1 ≤ n → n ≤ 12 → bad n → (∀ m, 1 ≤ m → m < n → ¬ bad m) →
        exec .setParams s = .next (s.answered t .invalidParameter (le1 n))) ∧
      (∀ c, (∀ m, 1 ≤ m → m ≤ 12 → ¬ bad m) → (l.find? fun c => decide (c.number = 0 ∨ 12 < c.number)) = some c →
        exec .setParams s = .next (s.answered t .invalidParameter (le1 c.number)))) ∧
    (s.Awaits .setStreams t →
      let mask : Half := BitVec.ofNat 16 (t.p2 0)
      (mask.getLsbD t.stream.val = false → exec .setStreams s = .next (s.answered t .invalidParameter [])) ∧
      (mask.getLsbD t.stream.val = true → exec .setStreams s = .next (State.refreshIdle
        (State.answered { s with
          mgmt := { s.mgmt with streams := mask }
          store := if mask = s.mgmt.streams then s.store else s.store.dirtied } t .done (le2 mask.toNat)))))

/-- SET_MODE CONFIG (R165, R167), decided on the part mode at the command's own step (log entry 23): with the guard LOCKED or
ERASE_INCOMPLETE it ends LOCKED in CONFIG and in SERVICE; otherwise it ends DONE in CONFIG, and in SERVICE drains: the mode is DRAINING
toward CONFIG and the command waits, decided, with no answer yet. In the standby modes it ends WRONG_MODE. The admission list and the tables
stay. -/
def Obligations.SetModeConfigDrains : Prop :=
  ∀ (s : State) (t : Taken), s.Awaits .setMode t → t.p1 0 = PartMode.config.code →
    let barred := s.guard.state = .locked ∨ s.guard.state = .eraseIncomplete
    (barred ∧ (s.modes.mode = .config ∨ s.modes.mode = .service) →
      exec .setMode s = .next (s.answered t .locked (le1 s.modes.mode.code))) ∧
    (¬ barred ∧ s.modes.mode = .config → exec .setMode s = .next (s.answered t .done (le1 PartMode.config.code))) ∧
    (s.modes.mode.resting = true → exec .setMode s = .next (s.answered t .wrongMode (le1 s.modes.mode.code))) ∧
    (¬ barred ∧ s.modes.mode = .service → ∃ x, exec .setMode s = .next x ∧ x.modes.mode = .draining ∧ x.modes.drain = .config ∧
      x.modes.waiting = some .config ∧ x.mgmt.state = s.mgmt.state ∧ x.mgmt.taken = some { t with decided := true } ∧
      x.link = s.link ∧ x.engine = s.engine ∧ x.map = s.map ∧ x.guard = s.guard ∧
      (x.scan.state = .idle ∨ s.scan.context = none))

/-- SET_MODE SERVICE and STANDBY (R165, R166, R170 to R173), decided on the part mode at the command's own step (log entry 23; the bytes of
the report are log entry 17). SERVICE in CONFIG: where the full validation fails it ends CONFLICT with the mode and the report, and nothing
else changes; where it passes the mode is SERVICE and the command ends DONE, with the tables as they were. In the saving phase of standby
entry it abandons standby entry; in the powering-down phase it sets wake requested and waits, in WAKING it waits; in STANDBY it starts the
wake, with POWER_UP sent at the sleeping ports, and waits. STANDBY ends WRONG_MODE in CONFIG, in WAKING, and in SERVICE while standby is
disabled; in SERVICE it enters standby and ends DONE when no item is admitted and no save runs, and drains toward STANDBY and waits
otherwise. A target already reached ends DONE; a target of another mode ends INVALID_PARAMETER. -/
def Obligations.SetModeServesOrRests : Prop :=
  ∀ (s : State) (t : Taken), s.Awaits .setMode t →
    let mode := s.modes.mode
    let data := le1 mode.code
    let waits : ManagementEngine := { s.mgmt with taken := some { t with decided := true } }
    let entered : State := { s with modes := { s.modes with mode := .service, phase := .none, drain := .none } }
    (t.p1 0 ≠ PartMode.config.code ∧ t.p1 0 ≠ PartMode.service.code ∧ t.p1 0 ≠ PartMode.standby.code →
      exec .setMode s = .next (s.answered t .invalidParameter data)) ∧
    (t.p1 0 = PartMode.service.code →
      (∀ v, mode = .config → s.validate = some v → exec .setMode s = .next (s.answered t .conflict
        (le1 PartMode.config.code ++ le1 v.table.code ++ le2 v.index ++ v.report.bytes))) ∧
      ((mode = .config ∧ s.validate = none) ∨ (mode = .enteringStandby ∧ s.modes.phase = .saving) →
        s.scan.context = none → s.mgmt.params.autoPatrol = false →
        exec .setMode s = .next (State.refreshIdle (entered.answered t .done (le1 PartMode.service.code)))) ∧
      (mode = .service → exec .setMode s = .next (s.answered t .done data)) ∧
      (mode = .enteringStandby → s.modes.phase = .poweringDown → exec .setMode s = .next
        { s with mgmt := waits, modes := { s.modes with wakeRequested := true, waiting := some .service } }) ∧
      (mode = .waking → exec .setMode s = .next { s with mgmt := waits, modes := { s.modes with waiting := some .service } }) ∧
      (mode = .standby → (∀ c, s.scan.context = some c → c.kind = .patrol) → s.store.save = none →
        (∀ u, (s.port u).state = .sleeping → (s.port u).desired ≠ .offline ∧ (s.port u).Rests) →
        ∃ x, exec .setMode s = .next x ∧ x.modes.mode = .waking ∧ x.modes.waiting = some .service ∧ x.modes.wakeRequested = false ∧
          x.mgmt = { waits with events := s.mgmt.events ||| Event.modeChange.bit } ∧ x.link = s.link ∧ x.engine = s.engine ∧
          x.map = s.map ∧ x.guard = s.guard ∧ x.store = s.store ∧
          ∀ u, ((s.port u).state ≠ .sleeping → x.port u = s.port u) ∧
            ((s.port u).state = .sleeping → ∃ n, x.port u = s.attachBegun (s.port u) true n))) ∧
    (t.p1 0 = PartMode.standby.code →
      (mode = .config ∨ mode = .waking ∨ (mode = .service ∧ s.mgmt.params.standbyDisabled = true) →
        exec .setMode s = .next (s.answered t .wrongMode data)) ∧
      (mode = .enteringStandby ∨ mode = .standby → exec .setMode s = .next (s.answered t .done data)) ∧
      (mode = .service → s.mgmt.params.standbyDisabled = false → s.scan.context = none →
        (s.engine.items = [] → s.store.save = none → ∃ x, exec .setMode s = .next x ∧ s.EntersStandby x ∧
          s.Answers x t .done (le1 PartMode.enteringStandby.code) ∧ x.mgmt.events = s.mgmt.events) ∧
        (s.engine.items ≠ [] ∨ s.store.save ≠ none → exec .setMode s = .next { s with
          mgmt := waits
          modes := { s.modes with
            mode := .draining, phase := .none, drain := .standby, waiting := some .standby, idle := .stopped } })))

/-- RESET_PART (R141, R169), decided on the part mode at the command's own step (log entry 23). In CONFIG and SERVICE, and in the saving
phase of standby entry, which it abandons without a MODE_CHANGE, the mode becomes DRAINING toward RESET. In the powering-down phase, in
STANDBY and in WAKING the mode stays: with a DIRTY store and a READY port 0 its save runs; otherwise it answers at once that no save was
made (the bytes are log entry 17), the engine stays EXECUTING and the part reset is due (log entry 24). -/
def Obligations.ResetPartDrainsOrAnswers : Prop :=
  ∀ (s : State) (t : Taken), s.Awaits .resetPart t →
    let mode := s.modes.mode
    let rests := (mode = .enteringStandby ∧ s.modes.phase = .poweringDown) ∨ mode = .standby ∨ mode = .waking
    let saves := s.store.state = .dirty ∧ (s.port 0).state = .ready
    (mode = .config ∨ mode = .service ∨
        (mode = .enteringStandby ∧ s.modes.phase = .saving ∧ s.scan.context = none ∧ s.mgmt.params.autoPatrol = false) →
      ∃ x, exec .resetPart s = .next x ∧ x.modes.mode = .draining ∧ x.modes.drain = .reset ∧ x.mgmt.resetStage = .drain ∧
        x.mgmt.taken = some { t with decided := true } ∧ x.link = s.link ∧ x.engine = s.engine ∧ x.map = s.map ∧ x.guard = s.guard ∧
        (s.scan.context = none → x.mgmt.events = s.mgmt.events)) ∧
    (rests → ¬ saves → ∃ x, exec .resetPart s = .next x ∧ x.mgmt.resetStage = .due ∧ x.mgmt.state = s.mgmt.state ∧
      x.mgmt.taken = none ∧
      x.mgmt.response = { seq := t.seq, code := t.code, result := .done,
                          data := flag false ++ flag false ++ le1 s.store.state.code ++ le4 s.store.generation.toNat } ∧
      x.link = (s.answered t .done []).link ∧ x.modes.mode = mode ∧ x.ports = s.ports ∧ x.engine = s.engine ∧ x.map = s.map ∧
      x.store = s.store) ∧
    (rests → saves → ∃ x r, exec .resetPart s = .next x ∧ x.mgmt.resetStage = .save ∧ x.mgmt.state = s.mgmt.state ∧
      x.mgmt.taken = some { t with decided := true } ∧ x.store.state = .saving ∧ x.store.save = some r ∧ r.step = .first ∧
      r.command = some t.record ∧ x.modes.mode = mode ∧ x.link = s.link ∧ x.engine = s.engine ∧ x.map = s.map)

/-! ### SAVE and the scans -/

/-- SAVE (R185): WRONG_MODE outside CONFIG and SERVICE, then STORE_UNAVAILABLE for an ABSENT store, then UNIT_UNAVAILABLE for a port 0 that
is not READY; with a save running, save asked is set and the command ends DONE; otherwise a save starts: the store is SAVING with the image
of the saved items under the next generation, and the command ends DONE. Every accepted SAVE clears the retry hold. The bytes of the answer
are log entry 17. -/
def Obligations.SaveStartsOrAsksForASave : Prop :=
  ∀ (s : State) (t : Taken), s.Awaits .save t →
    let allowed := t.mode = .config ∨ t.mode = .service
    let accepted := allowed ∧ s.store.state ≠ .absent ∧ (s.port 0).state = .ready
    (¬ allowed → exec .save s = .next (s.answered t .wrongMode [])) ∧
    (allowed ∧ s.store.state = .absent → exec .save s = .next (s.answered t .storeUnavailable [])) ∧
    (allowed ∧ s.store.state ≠ .absent ∧ (s.port 0).state ≠ .ready → exec .save s = .next (s.answered t .unitUnavailable [])) ∧
    (∀ r, accepted ∧ s.store.save = some r →
      exec .save s = .next (State.answered { s with store := { s.store with retryHold := false, saveAsked := true } } t .done
        (flag false ++ le1 s.store.state.code ++ le4 s.store.generation.toNat))) ∧
    (accepted ∧ s.store.save = none → ∃ x r, exec .save s = .next x ∧
      s.Answers x t .done (flag true ++ le1 StoreState.saving.code ++ le4 s.store.generation.toNat) ∧
      x.store.state = .saving ∧ x.store.save = some r ∧ x.store.retryHold = false ∧ x.store.saveAsked = false ∧
      x.store.generation = s.store.generation ∧ r.step = .first ∧
      r.image = imageBlocks (nextGeneration s.store.generation) s.savedItems.length s.savedItems.stream ∧
      x.map = s.map ∧ x.guard = s.guard ∧ x.engine = s.engine ∧ x.health = s.health ∧ x.log = s.log)

/-- SCAN_START (R110, R112, R124): WRONG_MODE outside CONFIG and SERVICE; INVALID_PARAMETER for another kind, or a CHECK of a unit above 3;
UNIT_UNAVAILABLE for a CHECK of a port that does not serve; a refused one changes nothing else. A PATROL while the quiet flag is clear is
accepted: a scan under way ends ABORTED_BY_COMMAND with its log entry, the new one starts SUSPENDED with a fresh context at region 0, offset
0, pass 1, and the command ends DONE. A CHECK, and a PATROL while the quiet flag is set, start RUNNING: with a unit at rest the first VERIFY
of the coverage is cut and sent at once, and a scan with no coverage ends NO_COVERAGE at once. SCAN_ABORT (R125): an IDLE engine answers
DONE with empty data and nothing is written; a scan under way ends ABORTED_BY_COMMAND, and the answer is its log entry; the auto-patrol
parameter stays. The bytes of the answers, with the optional unit, are log entry 17. -/
def Obligations.ScanCommandsStartAndEndScans : Prop :=
  ∀ (s : State) (t : Taken),
    let allowed := t.mode = .config ∨ t.mode = .service
    let check := t.p1 0 = ScanKind.checkShort.code ∨ t.p1 0 = ScanKind.checkFull.code
    let fresh (kind : ScanKind) (unit : Option (Fin 4)) : ScanContext := {
      kind := kind, unit := unit, phase := if kind ≠ .patrol ∧ unit = some 0 then .store else .regions, index := 0, offset := 0,
      learnedPart := false, pass := if kind = .patrol then 1 else 0, verified := 0, failures := 0, firstFailing := none,
      current := none, suspendRequested := false }
    let ended (c : ScanContext) : ScanLogEntry :=
      { kind := c.kind, unit := c.unit, result := .abortedByCommand, verified := c.verified, firstFailing := c.firstFailing,
        stamp := s.now }
    (s.Awaits .scanStart t →
      (¬ allowed → exec .scanStart s = .next (s.answered t .wrongMode [])) ∧
      (allowed → (t.p1 0 ≠ ScanKind.patrol.code ∧ ¬ check) ∨ (check ∧ 4 ≤ t.p1 1) →
        exec .scanStart s = .next (s.answered t .invalidParameter [])) ∧
      (∀ u : Fin 4, allowed → check → t.p1 1 = u.val → (s.port u).state.serves = false →
        exec .scanStart s = .next (s.answered t .unitUnavailable [])) ∧
      (allowed → t.p1 0 = ScanKind.patrol.code → s.scan.quiet = false → ∃ x, exec .scanStart s = .next x ∧
        s.Answers x t .done (le1 ScanKind.patrol.code ++ zeros 2 ++ le1 ScanState.suspended.code) ∧ x.scan.state = .suspended ∧
        x.scan.context = some (fresh .patrol none) ∧
        x.map = s.map ∧ x.engine = s.engine ∧ x.guard = s.guard ∧ x.modes.mode = s.modes.mode ∧
        (s.scan.state ≠ .idle → ∀ c, s.scan.context = some c → x.scan.log = pushBounded 16 s.scan.log (ended c))) ∧
      (∀ (kind : ScanKind) (unit : Option (Fin 4)),
        (kind = .patrol ∧ unit = none ∧ s.scan.quiet = true) ∨
          (kind ≠ .patrol ∧ ∃ u : Fin 4, unit = some u ∧ t.p1 1 = u.val ∧ (s.port u).state.serves = true) →
        allowed → s.modes.mode = .config ∨ s.modes.mode = .service → t.p1 0 = kind.code → s.scan.state = .idle → s.scanBusy = false →
        let data := le1 kind.code ++ (match unit with | some u => le1 1 ++ le1 u.val | none => zeros 2) ++ le1 ScanState.running.code
        (∀ c y, s.scanFind scanFuel (fresh kind unit) = (c, some y) → (s.port y.unit).state.serves = true → (s.port y.unit).Rests →
          (s.port y.unit).attachPlace = none → ∃ x, exec .scanStart s = .next x ∧ s.Answers x t .done data ∧
            x.scan.state = .running ∧
            x.scan.context = some { c with current := some { extent := y, retried := false, stamp := some s.nextId } } ∧
            x.ports = s.ports.set y.unit
              (s.sendsFirst (s.port y.unit) (mkOp .verify y.first y.count .scan s.nextId [])) ∧
            x.scan.log = s.scan.log ∧ x.map = s.map ∧ x.engine = s.engine ∧ x.guard = s.guard ∧ x.modes.mode = s.modes.mode) ∧
        (∀ c, s.scanFind scanFuel (fresh kind unit) = (c, none) → ∃ x, exec .scanStart s = .next x ∧ s.Answers x t .done data ∧
          x.scan.state = .idle ∧ x.scan.context = none ∧ x.ports = s.ports ∧
          x.scan.log = pushBounded 16 s.scan.log { ended (fresh kind unit) with result := .noCoverage } ∧
          x.mgmt.events = s.mgmt.events ||| Event.scanEnded.bit ∧ x.map = s.map ∧ x.engine = s.engine ∧ x.guard = s.guard))) ∧
    (s.Awaits .scanAbort t →
      (s.scan.state = .idle → exec .scanAbort s = .next (s.answered t .done [])) ∧
      (∀ c, s.scan.state ≠ .idle → s.scan.context = some c →
        ∃ x, exec .scanAbort s = .next x ∧ s.Answers x t .done (ended c).bytes ∧ x.scan.state = .idle ∧ x.scan.context = none ∧
          x.scan.log = pushBounded 16 s.scan.log (ended c) ∧ x.store = s.store.dirtied ∧ x.mgmt.params = s.mgmt.params ∧
          x.mgmt.events = s.mgmt.events ||| Event.scanEnded.bit ∧ x.map = s.map ∧ x.engine = s.engine ∧ x.guard = s.guard))

/-! ### Tables -/

/-- The stages of REGION_WRITE, REGION_CLEAR, PIN_WRITE, PIN_CLEAR, REMAP_DELETE and SPARE_LOAD before the tables themselves are met (R5,
R8, R22, R25, R31, R36, R136, R148): outside CONFIG they end WRONG_MODE; in CONFIG with the guard LOCKED, ERASING or ERASE_INCOMPLETE they
end LOCKED; then parameters out of range end INVALID_PARAMETER: an index, a position, a unit above 3, a region or an extent without a block
or beyond the last block, a pin between two units, more than 8 extents, more than 65 535 spares. A refused command changes nothing else. A
payload length that no rule bounds is not tested (log entry 18). -/
def Obligations.TableCommandsPassTheirStages : Prop :=
  ∀ (s : State) (t : Taken),
    let l := extentsOf t.payload (t.payloadLength / 8)
    ∀ p : Instr × Command × Prop,
      p ∈ [(.regionWrite, .regionWrite, 16 ≤ t.p2 0 ∨ regionEntryOf t.payload = none ∨ ∃ e, regionEntryOf t.payload = some e ∧
             (e.count = 0 ∨ 4294967292 < e.logical + e.count ∨ 4294967296 < e.physical + e.count)),
           (.regionClear, .regionClear, 16 ≤ t.p2 0),
           (.pinWrite, .pinWrite, 32 ≤ t.p2 0 ∨ 4 ≤ t.p1 2 ∨ t.p1 7 ≠ t.p1 2),
           (.pinClear, .pinClear, 32 ≤ t.p2 0),
           (.remapDelete, .remapDelete, 512 ≤ t.p2 0),
           (.spareLoad, .spareLoad, 4 ≤ t.p1 0 ∨ 8 < l.length ∨ (∃ x ∈ l, x.count = 0 ∨ 4294967296 < x.first + x.count) ∨
             65535 < (l.map fun x => x.count).sum)] →
      s.Awaits p.2.1 t →
      (t.mode ≠ .config → exec p.1 s = .next (s.answered t .wrongMode [])) ∧
      (t.mode = .config → s.guard.state = .locked ∨ s.guard.state = .erasing ∨ s.guard.state = .eraseIncomplete →
        exec p.1 s = .next (s.answered t .locked [])) ∧
      (t.mode = .config → s.guard.state = .disabled ∨ s.guard.state = .opened → p.2.2 →
        exec p.1 s = .next (s.answered t .invalidParameter []))

/-- REGION_WRITE and REGION_CLEAR in CONFIG with an open guard, past their parameter stage (R5 to R8): a conflict is reported and nothing
else changes; a proposed entry without one stands at its index, valid, and is the answer as written. An entry that is cleared keeps its
other fields and is the answer as it stood; an empty one ends EMPTY_ENTRY. The store is DIRTY where the entry differs from the one that
stood there (R181, log entry 16). The bytes that the payload has beside the entry are not read (log entry 18). -/
def Obligations.RegionsAreWrittenAndCleared : Prop :=
  ∀ (s : State) (t : Taken) (i : Fin 16), t.mode = .config → s.guard.state = .disabled ∨ s.guard.state = .opened → t.p2 0 = i.val →
    let old := s.map.regions[i]
    let set (e : RegionEntry) : State := { s with
      map := { s.map with regions := s.map.regions.set i e }, store := if e = old then s.store else s.store.dirtied }
    (s.Awaits .regionWrite t → ∀ e, regionEntryOf t.payload = some e → 1 ≤ e.count → e.logical + e.count ≤ 4294967292 →
      e.physical + e.count ≤ 4294967296 →
      (∀ c, s.regionConflict i e = some c → exec .regionWrite s = .next (s.answered t .conflict c.bytes)) ∧
      (s.regionConflict i e = none → exec .regionWrite s = .next (State.refreshIdle ((set e).answered t .done (e.bytes i.val))))) ∧
    (s.Awaits .regionClear t → exec .regionClear s = .next (
      if old.valid then State.refreshIdle ((set { old with valid := false }).answered t .done (old.bytes i.val))
      else s.answered t .emptyEntry []))

/-- PIN_WRITE and PIN_CLEAR in CONFIG with an open guard, past their parameter stage (R22, R23, R25): an unmapped source or another conflict
is reported and nothing else changes; a pin without one stands at its index and is the answer. A pin that is cleared is the answer as it
stood; an empty entry ends EMPTY_ENTRY. The store is DIRTY where the pin differs from the one that stood there (R181, log entry 16). -/
def Obligations.PinsAreWrittenAndCleared : Prop :=
  ∀ (s : State) (t : Taken) (i : Fin 32), t.mode = .config → s.guard.state = .disabled ∨ s.guard.state = .opened → t.p2 0 = i.val →
    let old := s.map.pins[i]
    let set (e : PinEntry) : State := { s with
      map := { s.map with pins := s.map.pins.set i e }, store := if e = old then s.store else s.store.dirtied }
    (∀ u : Fin 4, s.Awaits .pinWrite t → t.p1 2 = u.val → t.p1 7 = u.val →
      let e : PinEntry := { valid := true, unit := u, source := t.p4 3, target := t.p4 8 }
      let conflict := firstConflict [s.pinUnmapped e, s.pinConflict i e]
      (∀ c, conflict = some c → exec .pinWrite s = .next (s.answered t .conflict c.bytes)) ∧
      (conflict = none → exec .pinWrite s = .next (State.refreshIdle ((set e).answered t .done e.bytes)))) ∧
    (s.Awaits .pinClear t → exec .pinClear s = .next (
      if old.valid then State.refreshIdle ((set { old with valid := false }).answered t .done old.bytes)
      else s.answered t .emptyEntry []))

/-- REMAP_DELETE in CONFIG with an open guard, of a position in range (R31, R108): beyond the entries it ends EMPTY_ENTRY, with another
source CONFLICT, SOURCE_MISMATCH, naming the block held there as the other party (log entry 45); otherwise the entry leaves, later positions
close up, the table-full hold clears, the store is DIRTY, and the answer is the entry. -/
def Obligations.RemapDeleteRemovesTheEntry : Prop :=
  ∀ (s : State) (t : Taken), s.Awaits .remapDelete t → t.mode = .config →
    s.guard.state = .disabled ∨ s.guard.state = .opened → t.p2 0 < 512 →
    exec .remapDelete s = .next (
      match s.map.learned[t.p2 0]? with
      | none => s.answered t .emptyEntry []
      | some e =>
        if e.unit.val = t.p1 2 ∧ e.source = t.p4 3 then State.refreshIdle (State.answered
          { s with map := { s.map with learned := s.map.learned.eraseIdx (t.p2 0) },
                   health := { s.health with tableFull := false }, store := s.store.dirtied } t .done e.bytes)
        else s.answered t .conflict
          (le1 ConflictCheck.sourceMismatch.code ++ le1 ConflictParty.block.code ++ le2 65535 ++ le1 e.unit.val ++ zeros 3
            ++ le4 e.source))

/-- SPARE_LOAD in CONFIG with an open guard, past its parameter stage (R36, R37): spares outstanding, or a conflict of the extents, are
reported and nothing else changes; otherwise the pool holds the extents in their order, with loaded their sum and the other counts 0, and
the store is DIRTY where the pool differs from the one that stood there (R181, log entry 16). The number of extents is the payload length
over 8, a rest is not read (log entry 18); a conflict names the lowest place (log entry 35). -/
def Obligations.SpareLoadReplacesThePool : Prop :=
  ∀ (s : State) (t : Taken) (u : Fin 4), s.Awaits .spareLoad t → t.mode = .config →
    s.guard.state = .disabled ∨ s.guard.state = .opened → t.p1 0 = u.val →
    let l := extentsOf t.payload (t.payloadLength / 8)
    let pool : Pool := { s.map.pools.get u with
      extents := l, returned := [], loaded := (l.map fun x => x.count).sum, consumed := 0, discarded := 0 }
    l.length ≤ 8 → (∀ x ∈ l, 1 ≤ x.count ∧ x.first + x.count ≤ 4294967296) → (l.map fun x => x.count).sum ≤ 65535 →
      (∀ c, firstConflict [s.map.spareOutstanding u, s.extentConflict u (checkedExtents 0 l)] = some c →
        exec .spareLoad s = .next (s.answered t .conflict c.bytes)) ∧
      (firstConflict [s.map.spareOutstanding u, s.extentConflict u (checkedExtents 0 l)] = none →
        ∃ x, exec .spareLoad s = .next x ∧ s.Answers x t .done pool.bytes ∧ x.map.pools.get u = pool ∧
          (∀ v, v ≠ u → x.map.pools.get v = s.map.pools.get v) ∧ x.map.regions = s.map.regions ∧ x.map.pins = s.map.pins ∧
          x.map.learned = s.map.learned ∧ x.store = (if pool = s.map.pools.get u then s.store else s.store.dirtied) ∧
          x.health = s.health ∧ x.engine = s.engine ∧ x.ports = s.ports ∧ x.guard = s.guard)

/-- WATCH_CLEAR (R97): of ALL, the entries neither pending nor in relocation leave, and the answer is how many; of one position, a position
out of range or another selector ends INVALID_PARAMETER, one beyond the entries EMPTY_ENTRY, another block or a block in relocation
CONFLICT; an entry of the expected block that is not in relocation leaves and is the answer. The list keeps its order; a change marks the
store DIRTY. -/
def Obligations.WatchClearRemovesEntries : Prop :=
  ∀ (s : State) (t : Taken), s.Awaits .watchClear t →
    let kept := s.health.watch.filter fun e => e.pending || s.health.inRelocation e.block
    let without (l : List WatchEntry) (data : List Byte) : State := State.refreshIdle (State.answered
      { s with health := { s.health with watch := l }, store := if l = s.health.watch then s.store else s.store.dirtied } t .done data)
    (1 < t.p1 0 ∨ (t.p1 0 = 0 ∧ 64 ≤ t.p2 1) → exec .watchClear s = .next (s.answered t .invalidParameter [])) ∧
    (t.p1 0 = 1 → exec .watchClear s = .next (without kept (le1 (s.health.watch.length - kept.length)))) ∧
    (t.p1 0 = 0 → t.p2 1 < 64 →
      (s.health.watch[t.p2 1]? = none → exec .watchClear s = .next (s.answered t .emptyEntry [])) ∧
      (∀ e, s.health.watch[t.p2 1]? = some e →
        (e.block.unit.val ≠ t.p1 3 ∨ e.block.block ≠ t.p4 4 → exec .watchClear s = .next (s.answered t .conflict
          (le1 ConflictCheck.blockMismatch.code ++ le1 ConflictParty.block.code ++ le2 65535 ++ le1 e.block.unit.val ++ zeros 3
            ++ le4 e.block.block))) ∧
        (e.block.unit.val = t.p1 3 → e.block.block = t.p4 4 →
          (s.health.inRelocation e.block = true → exec .watchClear s = .next (s.answered t .conflict
            (le1 ConflictCheck.inRelocation.code ++ le1 ConflictParty.none.code ++ le2 65535 ++ le1 255 ++ zeros 3 ++ le4 0))) ∧
          (s.health.inRelocation e.block = false →
            exec .watchClear s = .next (without (s.health.watch.eraseIdx (t.p2 1)) e.bytes)))))

/-- The look-ups and checks of the tables. A range of LBAs belongs to the valid region that holds its first block, where it holds the last
one too (R12); a physical block that a valid region maps serves the LBA at the same distance from its start, another block serves none
(R11): where no two valid regions share a block, those are all the answers. A home block is accessed at the target of its pin, else of its
learned entry, else directly; of several the lowest, or the oldest (R20). The checks of a region (R6), of a pin (R23), of the extents of a
load (R36) and of the full validation (R19, R40, R166) are made in the order of their tables, and the answer is the report of the first one
that fails. Which place of a pool is named is log entry 48, which of several parties of an extent log entry 35, the name of the check of a
pool's accounts log entry 12. -/
def Obligations.TablesAreLookedUpAndChecked : Prop :=
  ∀ s : State,
    let m := s.map
    ((∀ i j : Fin 16, i ≠ j → m.regions[i].valid = true → m.regions[j].valid = true →
        ¬ Meet m.regions[i].logical m.regions[i].count m.regions[j].logical m.regions[j].count) →
      ∀ (lba n : Nat) (i : Fin 16), m.regionLookup lba n = some i ↔
        m.regions[i].valid = true ∧ m.regions[i].logical ≤ lba ∧ lba < m.regions[i].logical + m.regions[i].count ∧
          lba + n ≤ m.regions[i].logical + m.regions[i].count) ∧
    ((∀ i j : Fin 16, i ≠ j → m.regions[i].valid = true → m.regions[j].valid = true → m.regions[i].unit = m.regions[j].unit →
        ¬ Meet m.regions[i].physical m.regions[i].count m.regions[j].physical m.regions[j].count) →
      ∀ (u : Fin 4) (b x : Nat), m.lbaOf u b = some x ↔
        ∃ i, m.MapsAt i u b ∧ x = m.regions[i].logical + (b - m.regions[i].physical)) ∧
    (∀ (u : Fin 4) (h : Nat), FirstOf (some (m.lookup u h))
      ((pinIndices.map fun j => ((m.pins[j].target, Route.pin),
          m.pins[j].valid = true ∧ m.pins[j].unit = u ∧ m.pins[j].source = h)) ++
        (m.learned.map fun e => ((e.target, Route.learned), e.unit = u ∧ e.source = h)) ++ [((h, Route.direct), True)])) ∧
    (∀ (i : Fin 16) (e : RegionEntry), 1 ≤ e.count → FirstOf (s.regionConflict i e) (s.regionChecks i e)) ∧
    (∀ (i : Fin 32) (e : PinEntry), FirstOf (firstConflict [s.pinUnmapped e, s.pinConflict i e])
      ((Conflict.bare .sourceUnmapped, ∀ j, ¬ m.MapsAt j e.unit e.source) :: s.pinTests i e)) ∧
    (∀ (u : Fin 4) (l : List SpareExtent), (∀ x ∈ l, 1 ≤ x.count) →
      FirstOf (firstConflict [m.spareOutstanding u, s.extentConflict u (checkedExtents 0 l)])
        (((m.pools.get u).issued.head?.toList.map fun c =>
            ((⟨.spareOutstanding, .block, none, some ⟨u, c.source⟩⟩ : Conflict), True)) ++
          s.extentChecks u (checkedExtents 0 l))) ∧
    (s.Counted → FirstOf s.validate s.validations)

/-- The region law and the remap law (R6, R23). They hold after reset; the six commands that change the tables keep them, and so do a claim,
a return, a discard, and the install of an issued spare for a home block that is itself neither a spare nor a target. -/
def Obligations.TheTableLawsAreKept : Prop :=
  State.reset.map.Lawful ∧
  (∀ (s t : State) (c : Instr), c ∈ [.regionWrite, .regionClear, .pinWrite, .pinClear, .remapDelete, .spareLoad] → s.Running →
    s.map.Lawful → exec c s = .next t → t.map.Lawful) ∧
  ∀ (s : State) (u : Fin 4) (h b : Nat) (k : LearnedCause), s.map.Lawful →
    ((∀ x ∈ (s.map.pools.get u).extents, 1 ≤ x.count) → (s.claim u h).2.map.Lawful) ∧
    (s.returnSpare u b).map.Lawful ∧ (s.discardSpare u b).map.Lawful ∧
    ((s.map.pools.get u).isIssued b = true → s.map.sparesAt u h + s.map.targetsAt u h = 0 → (s.install u h b k).map.Lawful)

/-- A spare claim for a home block (R27, R33). A pinned block is refused PINNED and an empty pool EXHAUSTED, and nothing changes; a block
that is no learned source is refused TABLE_FULL with SPARE_EXHAUSTED raised where learned entries and reserved places are 512. Otherwise the
spare is the front of the return list, else the first block of the first extent, which shrinks; it is issued with the claim and, for a block
that is no learned source, a reserved place; it is consumed, the store is DIRTY, and the unit's health is evaluated (R38, R39). -/
def Obligations.SpareClaimsIssueInListOrder : Prop :=
  ∀ (s : State) (u : Fin 4) (h : Nat),
    let p := s.map.pools.get u
    let learned := ∃ e ∈ s.map.learned, e.unit = u ∧ e.source = h
    let pinned := ∃ j : Fin 32, s.map.pins[j].valid = true ∧ s.map.pins[j].unit = u ∧ s.map.pins[j].source = h
    let full := ¬ learned ∧ 512 ≤ s.map.learned.length + s.map.reserved
    let issues (b : Nat) (q : Pool) : Prop := ∃ place : Bool, (place = true ↔ ¬ learned) ∧
      s.claim u h = (.issued b, State.evaluateHealth
        { s with
          map := { s.map with pools := s.map.pools.set u { q with
            issued := p.issued ++ [{ spare := b, source := h, place := place }], consumed := min 65535 (p.consumed + 1) } }
          store := s.store.dirtied } (s.unitHealth u) u)
    (pinned → s.claim u h = (.pinned, s)) ∧
    (¬ pinned →
      (p.returned = [] → p.extents = [] → s.claim u h = (.exhausted, s)) ∧
      (p.returned ≠ [] ∨ p.extents ≠ [] → full → s.claim u h = (.tableFull,
        { s with mgmt := { s.mgmt with events := s.mgmt.events ||| Event.spareExhausted.bit } })) ∧
      (¬ full →
        (∀ b l, p.returned = b :: l → issues b { p with returned := l }) ∧
        (∀ x l, p.returned = [] → p.extents = x :: l →
          issues x.first { p with extents := if x.count ≤ 1 then l else { first := x.first + 1, count := x.count - 1 } :: l })))

/-- What ends a claim. A return puts the issued spare at the front of its pool's return list and takes it from the consumed count; a discard
counts it discarded (R34, R35). Both clear the table-full hold where places are free again (R108). An install appends the learned entry, or
replaces the entry of its source in place; the spare stays consumed; the watch entries of the source and of a replaced target leave; both
relocation counts of the unit rise; the store is DIRTY (R28, R29). -/
def Obligations.ClaimsEndInReturnDiscardOrInstall : Prop :=
  ∀ (s : State) (u : Fin 4) (b : Nat), (s.map.pools.get u).isIssued b = true →
    let p := s.map.pools.get u
    let issued := p.issued.eraseP fun c => c.spare == b
    let holds (x : State) : State := { x with
      health := { x.health with tableFull := if x.map.learned.length + x.map.reserved < 512 then false else x.health.tableFull } }
    let pooled (q : Pool) : State := { s with map := { s.map with pools := s.map.pools.set u q }, store := s.store.dirtied }
    let returned := pooled { p with issued := issued, returned := b :: p.returned, consumed := p.consumed - 1 }
    let discarded := pooled { p with issued := issued, consumed := p.consumed - 1, discarded := min 65535 (p.discarded + 1) }
    s.returnSpare u b = holds (returned.evaluateHealth (s.unitHealth u) u) ∧
    s.discardSpare u b = holds discarded ∧
    ∀ (h : Nat) (k : LearnedCause),
      let c := s.counters
      let counted : CounterBank := { c with
        units := c.units.set u { c.units.get u with relocations := min 4294967295 ((c.units.get u).relocations + 1) }
        lifetime := c.lifetime.set u (min 4294967295 (c.lifetime.get u + 1)) }
      let entry : LearnedEntry := { unit := u, source := h, target := b, cause := k, stamp := s.now }
      let installs (learned : List LearnedEntry) (stays : WatchEntry → Bool) : Prop :=
        s.install u h b k = { s with
          map := { s.map with learned := learned, pools := s.map.pools.set u { p with issued := issued } }
          health := { s.health with watch := s.health.watch.filter stays }, store := s.store.dirtied, counters := counted }
      ((∀ e ∈ s.map.learned, ¬ (e.unit = u ∧ e.source = h)) →
        installs (s.map.learned ++ [entry]) fun w => w.block != ⟨u, h⟩) ∧
      (∀ (l r : List LearnedEntry) (e : LearnedEntry), s.map.learned = l ++ e :: r → e.unit = u → e.source = h →
        (∀ x ∈ l, ¬ (x.unit = u ∧ x.source = h)) →
        installs (l ++ entry :: r) fun w => w.block != ⟨u, e.target⟩ && w.block != ⟨u, h⟩)

/-! ### The watch list -/

/-- Reports to the health monitor (R89 to R91, R93, R94, R99). One on a learned source is ignored. On a watched block a soft error adds 2 or
1 to the score, up to 15, with age 0; a hard error makes it pending with score 15; the due flag is evaluated where the score or the pending
flag changed. On another block an entry with those values joins at the end; a full list first evicts, among the entries neither pending nor
in relocation, the one of lowest score, then highest age, then earliest, and with none of these WATCH_OVERFLOW is raised and nothing
recorded. A hard error on a pin's target, or such an entry that becomes due, raises PIN_TARGET_SUSPECT. -/
def Obligations.ReportsScoreTheWatchList : Prop :=
  ∀ (s : State) (a : Phys) (kind : WatchCause), (s.health.watch.map fun e => e.block).Nodup →
    let hard := kind = .hardRead ∨ kind = .verifyFail ∨ kind = .writeFaultNoSpare
    let weight := if hard then 15 else if kind = .softRead then 2 else 1
    let due (score : Nat) (pending : Bool) : Bool := decide (s.mgmt.params.promotion ≤ score) && !pending
    let raising (e : Event) (p : Prop) [Decidable p] : BitVec 16 := if p then s.mgmt.events ||| e.bit else s.mgmt.events
    let becomes (l : List WatchEntry) (events : BitVec 16) : State := { s with
      health := { s.health with watch := l }, store := if l = s.health.watch then s.store else s.store.dirtied
      mgmt := { s.mgmt with events := events } }
    ((s.map.learnedOf a.unit a.block).isSome = true → s.applyError a kind = s) ∧
    (s.map.learnedOf a.unit a.block = none →
      (∀ (l r : List WatchEntry) (e : WatchEntry), s.health.watch = l ++ e :: r → e.block = a →
        let score := min 15 (e.score + weight)
        let pending := e.pending || decide hard
        let d := if score = e.score ∧ pending = e.pending then e.due else due score pending
        s.applyError a kind = becomes
          (l ++ { e with score := score, age := 0, pending := pending, due := d, cause := kind, stamp := s.now } :: r)
          (raising .pinTargetSuspect ((s.map.resolve a).1 = .pinTarget ∧ (hard ∨ (e.due = false ∧ d = true))))) ∧
      ((∀ e ∈ s.health.watch, e.block ≠ a) →
        let d := due weight (decide hard)
        let fresh : WatchEntry :=
          { block := a, score := weight, age := 0, pending := decide hard, due := d, cause := kind, stamp := s.now }
        let candidate (e : WatchEntry) : Prop := e.pending = false ∧ s.health.inRelocation e.block = false
        let events := raising .pinTargetSuspect ((s.map.resolve a).1 = .pinTarget ∧ (hard ∨ d = true))
        (s.health.watch.length < 64 → s.applyError a kind = becomes (s.health.watch ++ [fresh]) events) ∧
        (64 ≤ s.health.watch.length →
          ((∀ e ∈ s.health.watch, ¬ candidate e) → s.applyError a kind = becomes s.health.watch (raising .watchOverflow True)) ∧
          (∀ (l r : List WatchEntry) (x : WatchEntry), s.health.watch = l ++ x :: r → candidate x →
            (∀ y ∈ l, candidate y → x.score < y.score ∨ (x.score = y.score ∧ y.age < x.age)) →
            (∀ y ∈ r, candidate y → x.score < y.score ∨ (x.score = y.score ∧ y.age ≤ x.age)) →
            s.applyError a kind = becomes (l ++ r ++ [fresh]) events))))

/-- A READ or VERIFY that read a run good clears the pending flag of every pending entry in it, which keeps its score and is due where that
reaches the threshold (R92, R93); a pin's target that becomes due raises PIN_TARGET_SUSPECT (R99). No other entry changes. -/
def Obligations.GoodReadsClearPendingEntries : Prop :=
  ∀ (s : State) (u : Fin 4) (first count : Nat), (s.health.watch.map fun e => e.block).Nodup →
    (∀ e ∈ s.health.watch, e.pending = true → e.due = false) →
    let clears (e : WatchEntry) : Prop := e.pending = true ∧ e.block.unit = u ∧ first ≤ e.block.block ∧ e.block.block < first + count
    let cleared (e : WatchEntry) : WatchEntry := { e with pending := false, due := decide (s.mgmt.params.promotion ≤ e.score) }
    ∃ l events, s.readGood u first count = { s with
        health := { s.health with watch := l }, store := if l = s.health.watch then s.store else s.store.dirtied
        mgmt := { s.mgmt with events := events } } ∧
      List.Forall₂ (fun e x => (clears e → x = cleared e) ∧ (¬ clears e → x = e)) s.health.watch l ∧
      ((∃ e ∈ s.health.watch, clears e ∧ s.mgmt.params.promotion ≤ e.score ∧ (s.map.resolve e.block).1 = .pinTarget) →
        events = s.mgmt.events ||| Event.pinTargetSuspect.bit) ∧
      ((∀ e ∈ s.health.watch, clears e → e.score < s.mgmt.params.promotion ∨ (s.map.resolve e.block).1 ≠ .pinTarget) →
        events = s.mgmt.events)

/-! ### Guard commands -/

/-- GUARD_SET_USER and GUARD_SET_RECOVERY (R149 to R151). A payload that is no code of a kind ends INVALID_PARAMETER with no guard report,
as does a code of the other kind. A USER code with a level ends WRONG_MODE outside DISABLED and OPEN, then FROZEN; accepted, it is held,
with the level, and the state is OPEN. A RECOVERY code ends LOCKED in LOCKED, then FROZEN; accepted, it replaces the recovery code. No code
is compared. Every other answer is the guard report. The store is DIRTY where a code or the level differs from the one held (R181, log entry
16). -/
def Obligations.GuardSetCommandsSetTheirCodes : Prop :=
  ∀ (s : State) (t : Taken),
    let g := s.guard
    (t.payloadLength ≠ 32 ∨ (t.p1 0 ≠ CodeKind.user.code ∧ t.p1 0 ≠ CodeKind.recovery.code) →
      (s.Awaits .guardSetUser t → exec .guardSetUser s = .next (s.answered t .invalidParameter [])) ∧
      (s.Awaits .guardSetRecovery t → exec .guardSetRecovery s = .next (s.answered t .invalidParameter []))) ∧
    (t.payloadLength = 32 → t.p1 0 = CodeKind.recovery.code → s.Awaits .guardSetUser t →
      exec .guardSetUser s = .next (s.answered t .invalidParameter [])) ∧
    (t.payloadLength = 32 → t.p1 0 = CodeKind.user.code → s.Awaits .guardSetRecovery t →
      exec .guardSetRecovery s = .next (s.answered t .invalidParameter [])) ∧
    (∀ level : GuardLevel, s.Awaits .guardSetUser t → t.payloadLength = 32 → t.p1 0 = CodeKind.user.code → t.p1 1 = level.code →
      exec .guardSetUser s = .next (
        if g.state = .disabled ∨ g.state = .opened then
          if g.frozen then s.answered t .frozen g.report
          else
            let g' : GuardUnit := { g with userCode := some t.guardCode, level := level, state := .opened }
            let store := if g.userCode = some t.guardCode ∧ g.level = level then s.store else s.store.dirtied
            State.refreshIdle (State.answered { s with guard := g', store := store } t .done g'.report)
        else s.answered t .wrongMode g.report)) ∧
    (s.Awaits .guardSetRecovery t → t.payloadLength = 32 → t.p1 0 = CodeKind.recovery.code →
      exec .guardSetRecovery s = .next (
        if g.state = .locked then s.answered t .locked g.report
        else if g.frozen then s.answered t .frozen g.report
        else
          let g' : GuardUnit := { g with recoveryCode := t.guardCode }
          let store := if t.guardCode = g.recoveryCode then s.store else s.store.dirtied
          State.refreshIdle (State.answered { s with guard := g', store := store } t .done g'.report)))

/-- GUARD_UNLOCK and GUARD_DISABLE (R149, R152, R153). A payload that is no code of a kind ends INVALID_PARAMETER. GUARD_UNLOCK ends
WRONG_MODE outside LOCKED, GUARD_DISABLE outside OPEN and then FROZEN, with no attempt counted; then ATTEMPTS_EXCEEDED at five;
CODE_MISMATCH counts an attempt. A match unlocks: the state is OPEN, nothing is marked DIRTY, and guarded regions pass check 5; or it
disables: the user code is cleared, the level STANDARD, the state DISABLED, and the store DIRTY where a saved item differs (R181, log entry
16). -/
def Obligations.GuardUnlockAndDisableCompareCodes : Prop :=
  ∀ (s : State) (t : Taken),
    let g := s.guard
    (t.payloadLength ≠ 32 ∨ (t.p1 0 ≠ CodeKind.user.code ∧ t.p1 0 ≠ CodeKind.recovery.code) →
      (s.Awaits .guardUnlock t → exec .guardUnlock s = .next (s.answered t .invalidParameter [])) ∧
      (s.Awaits .guardDisable t → exec .guardDisable s = .next (s.answered t .invalidParameter []))) ∧
    ∀ kind : CodeKind, t.payloadLength = 32 → t.p1 0 = kind.code →
      let counted : GuardUnit := { g with failed := g.failed + 1 }
      (s.Awaits .guardUnlock t →
        (g.state ≠ .locked → exec .guardUnlock s = .next (s.answered t .wrongMode g.report)) ∧
        (g.state = .locked → 5 ≤ g.failed → exec .guardUnlock s = .next (s.answered t .attemptsExceeded g.report)) ∧
        (g.state = .locked → g.failed < 5 → ¬ g.Accepts kind t.guardCode true →
          exec .guardUnlock s = .next (State.answered { s with guard := counted } t .codeMismatch counted.report)) ∧
        (g.state = .locked → g.failed < 5 → g.Accepts kind t.guardCode true →
          let g' : GuardUnit := { g with state := .opened }
          exec .guardUnlock s = .next (State.answered { s with guard := g' } t .done g'.report) ∧ guardFailure g'.state true = none)) ∧
      (s.Awaits .guardDisable t →
        (g.state ≠ .opened → exec .guardDisable s = .next (s.answered t .wrongMode g.report)) ∧
        (g.state = .opened → g.frozen = true → exec .guardDisable s = .next (s.answered t .frozen g.report)) ∧
        (g.state = .opened → g.frozen = false → 5 ≤ g.failed →
          exec .guardDisable s = .next (s.answered t .attemptsExceeded g.report)) ∧
        (g.state = .opened → g.frozen = false → g.failed < 5 → ¬ g.Accepts kind t.guardCode true →
          exec .guardDisable s = .next (State.answered { s with guard := counted } t .codeMismatch counted.report)) ∧
        (g.state = .opened → g.frozen = false → g.failed < 5 → g.Accepts kind t.guardCode true →
          let g' : GuardUnit := { g with userCode := none, level := .standard, state := .disabled }
          let store := if g.userCode = none ∧ g.level = .standard then s.store else s.store.dirtied
          exec .guardDisable s = .next (State.refreshIdle (State.answered { s with guard := g', store := store } t .done g'.report))))

/-- FREEZE sets the frozen flag in every guard state and ends DONE, and the flag stays over every command but a part reset; ERASE_PREPARE is
WRONG_MODE in ERASING, FROZEN on a frozen part, and otherwise sets the erase-prepared flag and ends DONE; neither changes a saved item
(R154, R155). ERASE_GUARDED (R156) ends WRONG_MODE in the standby modes, then INVALID_PARAMETER without a code of a kind, SEQUENCE_BROKEN,
UNIT_UNAVAILABLE, STORE_UNAVAILABLE, ATTEMPTS_EXCEEDED and CODE_MISMATCH in that order; an accepted one sets the state ERASING with a fresh
erase record in phase SAVING_START, asks for a save and ends DONE; the store is DIRTY where the stored state was not ERASE_INCOMPLETE before
(R181, log entry 16). -/
def Obligations.EraseIsPreparedAndStarted : Prop :=
  (∀ (s : State) (t : Taken),
    let g := s.guard
    (s.Awaits .freeze t →
      let g' : GuardUnit := { g with frozen := true }
      exec .freeze s = .next (State.answered { s with guard := g' } t .done g'.report)) ∧
    (s.Awaits .erasePrepare t → exec .erasePrepare s = .next (
      if g.state = .erasing then s.answered t .wrongMode g.report
      else if g.frozen then s.answered t .frozen g.report
      else
        let g' : GuardUnit := { g with prepared := true }
        State.answered { s with guard := g' } t .done g'.report))) ∧
  (∀ (c : Instr) (s t : State), (∀ e, c ≠ .partReset e) → s.guard.frozen = true → exec c s = .next t → t.guard.frozen = true) ∧
  ∀ (s : State) (t : Taken), s.Awaits .eraseGuarded t →
    let g := s.guard
    let storable := s.store.state = .clean ∨ s.store.state = .dirty ∨ s.store.state = .saving
    (t.mode.resting = true → exec .eraseGuarded s = .next (s.answered t .wrongMode g.report)) ∧
    (t.mode.resting = false → t.payloadLength ≠ 32 ∨ (t.p1 0 ≠ CodeKind.user.code ∧ t.p1 0 ≠ CodeKind.recovery.code) →
      exec .eraseGuarded s = .next (s.answered t .invalidParameter [])) ∧
    ∀ kind : CodeKind, t.mode.resting = false → t.payloadLength = 32 → t.p1 0 = kind.code →
      (t.prepared = false → exec .eraseGuarded s = .next (s.answered t .sequenceBroken g.report)) ∧
      (t.prepared = true → (s.port 0).state ≠ .ready → exec .eraseGuarded s = .next (s.answered t .unitUnavailable g.report)) ∧
      (t.prepared = true → (s.port 0).state = .ready → ¬ storable →
        exec .eraseGuarded s = .next (s.answered t .storeUnavailable g.report)) ∧
      (t.prepared = true → (s.port 0).state = .ready → storable →
        (5 ≤ g.failed → exec .eraseGuarded s = .next (s.answered t .attemptsExceeded g.report)) ∧
        (g.failed < 5 → ¬ g.Accepts kind t.guardCode false →
          let g' : GuardUnit := { g with failed := g.failed + 1 }
          exec .eraseGuarded s = .next (State.answered { s with guard := g' } t .codeMismatch g'.report)) ∧
        (g.failed < 5 → g.Accepts kind t.guardCode false →
          let g' : GuardUnit := { g with
            state := .erasing
            erase := some { phase := .savingStart, index := 0, offset := 0, write := none, tried := 0, erased := 0, unerased := 0,
                            firstUnerased := none } }
          let store := if g.state = .erasing ∨ g.state = .eraseIncomplete then s.store else s.store.dirtied
          exec .eraseGuarded s = .next (State.refreshIdle (State.answered
            { s with guard := g', store := { store with saveAsked := true } } t .done g'.report))))

/-- The walk of an erase (R158 to R160). In phase WRITING with no write under way the cursor passes over regions that are empty, not guarded
or covered; of a region on an OFFLINE, FAILED or ABSENT port it leaves the rest unerased, with one report; else a write of zero blocks is
cut as a run of the remap lookup and offered. Behind index 15 the walk is over: with nothing unerased the guard is DISABLED without a user
code, and otherwise ERASE_INCOMPLETE with ERASE_FAILED; a save is asked for. A write that ends DONE counts its blocks; a write fault counts
those before the block and claims a spare for it; a first TIMEOUT holds the write; every other end leaves the blocks unerased. A spare write
that ends DONE installs its spare and counts the block; one that faults discards it and claims again, up to three in all; a first TIMEOUT or
NOT_READY is retried; a block given up is unerased, reported, and entered pending. The store is DIRTY at the walk's end where a saved item
of the guard differs (R181, log entry 16). -/
def Obligations.TheEraseWalksTheGuardedRegions : Prop :=
  ∀ (s : State) (e : EraseRecord), s.guard.erase = some e →
    let put (x : State) (e : EraseRecord) : State := { x with guard := { x.guard with erase := some e } }
    let left (e : EraseRecord) (u : Fin 4) (b n : Nat) : EraseRecord :=
      { e with unerased := e.unerased + n, firstUnerased := some (e.firstUnerased.getD ⟨u, b⟩) }
    let reported (x : State) (u : Fin 4) (b : Nat) : State :=
      x.report { kind := .eraseBlockFailed, unit := u, block := some b, logical := none, item := none, ofSave := false }
    let moved (x : State) (e : EraseRecord) (n : Nat) : State := (put x { e with write := none, offset := e.offset + n }).eraseCut
    let givenUp (x : State) (e : EraseRecord) (w : EraseWrite) : State :=
      let e' := left e w.unit w.first 1
      moved ((reported (put x e') w.unit w.first).applyError ⟨w.unit, w.first⟩ .writeFaultNoSpare) e' 0
    (e.phase = .writing → e.write = none →
      (16 ≤ e.index → e.unerased = 0 →
        let g : GuardUnit := { s.guard with
          state := .disabled, level := .standard, userCode := none, erase := some { e with phase := .savingEnd } }
        let store := if s.guard.stored = .disabled ∧ s.guard.level = .standard ∧ s.guard.userCode = none then s.store else s.store.dirtied
        s.eraseCut = { s with guard := g, store := { store with saveAsked := true, eraseDoneAsked := true } }) ∧
      (16 ≤ e.index → e.unerased ≠ 0 →
        s.eraseCut = { s with
          guard := { s.guard with state := .eraseIncomplete, erase := some { e with phase := .savingEnd } }
          mgmt := { s.mgmt with events := s.mgmt.events ||| Event.eraseFailed.bit }, store := { s.store with saveAsked := true } }) ∧
      ∀ i : Fin 16, e.index = i.val →
        let r := s.map.regions[i]
        let next (e : EraseRecord) : EraseRecord := { e with index := e.index + 1, offset := 0 }
        (r.valid = false ∨ r.guarded = false ∨ r.count ≤ e.offset → s.eraseCut = (put s (next e)).eraseCut) ∧
        ∀ first count, r.valid = true → r.guarded = true → e.offset < r.count →
          s.map.Cuts r.unit (fun _ => true) (r.physical + e.offset) (r.count - e.offset) first count →
          let port := (s.port r.unit).state
          let e' := left e r.unit first (r.count - e.offset)
          (port = .offline ∨ port = .failed ∨ port = .absent →
            s.eraseCut = (put (reported (put s e') r.unit first) (next e')).eraseCut) ∧
          (port = .ready ∨ port = .readOnly ∨ port = .attaching ∨ port = .sleeping →
            let w : EraseWrite :=
              { unit := r.unit, home := r.physical + e.offset, first := first, count := count, retried := false, wait := .port, repair :=
                none }
            s.eraseCut = State.offerErase (put s { e with write := some w, tried := 0 }))) ∧
    (∀ w : EraseWrite, e.write = some w → w.repair = none →
      let e' := left e w.unit w.first w.count
      let gone := moved (reported (put s e') w.unit w.first) e' w.count
      let counted (n : Nat) : EraseRecord := { e with erased := e.erased + n }
      (∀ l c m, s.eraseEnded (.done l c m) = moved s (counted w.count) w.count) ∧
      (∀ b, w.first ≤ b →
        let n := b - w.first
        s.eraseEnded (.writeFault b) =
          State.eraseClaims (put s { counted n with offset := e.offset + n + 1 }) { w with home := w.home + n, first := b, count := 1 } 0) ∧
      s.eraseEnded .timeout = (if w.retried then gone else put s { e with write := some { w with retried := true, wait := .retry } }) ∧
      s.eraseEnded .notReady = gone ∧ s.eraseEnded .unavailable = gone) ∧
    (∀ (w : EraseWrite) (tried : Nat),
      let asked := s.claim w.unit w.home
      (∀ b, asked.1 = .issued b → s.eraseClaims w tried = State.offerErase (put asked.2
        { e with write := some { w with repair := some { spare := b, marked := false } }, tried := tried + 1 })) ∧
      (asked.1 = .pinned → s.eraseClaims w tried = givenUp (asked.2.raise .pinTargetSuspect) e w) ∧
      (asked.1 = .exhausted ∨ asked.1 = .tableFull → s.eraseClaims w tried = givenUp asked.2 e w)) ∧
    ∀ (w : EraseWrite) (p : EraseRepair), e.write = some w → w.repair = some p →
      let freed := s.discardSpare w.unit p.spare
      let again := put s { e with write := some { w with repair := some { p with marked := true }, wait := .retry } }
      (∀ l c m, s.eraseEnded (.done l c m) = moved (s.install w.unit w.home p.spare .writeFault) { e with erased := e.erased + 1 } 0) ∧
      (∀ b, s.eraseEnded (.writeFault b) = if e.tried < 3 then freed.eraseClaims w e.tried else givenUp freed e w) ∧
      s.eraseEnded .timeout = (if p.marked then givenUp freed e w else again) ∧
      s.eraseEnded .notReady = (if p.marked then givenUp freed e w else again.offerErase) ∧
      s.eraseEnded .unavailable = givenUp freed e w

/-! ### UNIT_MODE -/

/-- UNIT_MODE (R70, R72, R74): a unit above 3 or another mode ends INVALID_PARAMETER; otherwise the desired mode is recorded, with the
write-fault count at 0 for ACTIVE, and write inhibit cleared then while the fault line is released, and the answer is the port's record.
That is all on an ABSENT, ATTACHING or SLEEPING port, on an OFFLINE port for OFFLINE, and on a FAILED port but for ACTIVE. A READY or
READ_ONLY port takes its state from the table of R72, with UNIT_CHANGE where it is another; its queue, its places and what is outstanding
stay, and the store follows port 0 (R186). For OFFLINE it enters OFFLINE; what is outstanding stays. An OFFLINE port for ACTIVE or READ_ONLY
and a FAILED port for ACTIVE begin an attach. -/
def Obligations.UnitModeSetsTheDesiredMode : Prop :=
  ∀ (s : State) (t : Taken), s.Awaits .unitMode t →
    (4 ≤ t.p1 0 ∨ (∀ m : DesiredMode, t.p1 1 ≠ m.code) → exec .unitMode s = .next (s.answered t .invalidParameter [])) ∧
    (∀ (u : Fin 4) (m : DesiredMode), t.p1 0 = u.val → t.p1 1 = m.code →
      let p := s.port u
      let q : Port := { p with
        desired := m
        writeFaults := if m = .active then 0 else p.writeFaults
        writeInhibit := if m = .active then p.writeInhibit && p.fault else p.writeInhibit }
      let serves := p.state = .ready ∨ p.state = .readOnly
      let ends (s : State) (r : Port) (changed : Bool) (store : StoreController) : State :=
        let events := if changed then s.mgmt.events ||| Event.unitChange.bit else s.mgmt.events
        State.refreshIdle (State.answered
          { s with ports := s.ports.set u r, mgmt := { s.mgmt with events := events }, store := if u = 0 then store else s.store }
          t .done r.record)
      (p.state = .absent ∨ p.state = .attaching ∨ p.state = .sleeping ∨ (p.state = .offline ∧ m = .offline) ∨
          (p.state = .failed ∧ m ≠ .active) →
        exec .unitMode s = .next (ends s q false s.store)) ∧
      (serves → m ≠ .offline → (u = 0 → s.store.save = none) →
        let st : PortState := if m = .readOnly ∨ p.fault = true then .readOnly else .ready
        let store : StoreController := { s.store with
          state := if s.store.load = none ∧ s.store.state = .absent then .invalid else s.store.state
          retryHold := if st = .ready then false else s.store.retryHold }
        exec .unitMode s = .next (if st = p.state then ends s q false s.store else ends s { q with state := st } true store)) ∧
      (serves → m = .offline → p.waiting = [] → s.engine.items = [] → s.scan.context = none → s.guard.erase = none →
        (u = 0 → s.store.save = none) →
        exec .unitMode s = .next (ends s
          { q with state := .offline, powerDownAttempts := 0, sleepRecord := none, waking := false, identified := false } true
          { s.store with state := .absent })) ∧
      ((p.state = .offline ∧ m ≠ .offline) ∨ (p.state = .failed ∧ m = .active) → p.slots = Four.all none → p.storePlace = none →
        (∀ c, s.scan.context = some c → c.kind = .patrol) → (u = 0 → s.store.save = none) →
        ∃ c, exec .unitMode s = .next (ends { s with nextId := s.nextId + 1, counters :=
          c } (s.attachBegun q false s.nextId) false s.store) ∧
          c.streams = s.counters.streams ∧ c.link = s.counters.link))

/-! ### Requests (R41 to R50, R127 to R131) -/

/-- A frame that the storage link discards counts once in frames discarded and does nothing else, whatever it was meant to be (R41, R201). A
REQUEST of no kind, or over 1 048 576 bytes, is answered REJECT MALFORMED, whatever its tag; else one whose tag is in use REJECT TAG_IN_USE;
either counts in rejects and leaves no other trace. An admitted READ, WRITE or VERIFY of no window block that fails one of checks 2 to 7
ends at once with the first one's status and its byte length as residual; it is recorded in the history ring and counts in requests refused,
and nothing else changes (R42, R44, R45). -/
def Obligations.RequestsAreRejectedOrRefused : Prop :=
  ∀ (s : State) (frame : List Byte),
    (s.inReset = false → LinkFrame.parse frame = none →
      let t := { s with counters := { s.counters with link :=
        { s.counters.link with framesDiscarded := min 4294967295 (s.counters.link.framesDiscarded + 1) } } }
      exec (.request frame) s = .next t ∧ exec (.writeData frame) s = .next t ∧ exec (.cancel frame) s = .next t ∧
      exec (.linkReset frame) s = .next t) ∧
    ∀ r : RequestFields,
      let rejected (reason : RejectReason) : State := { s with
        link := { s.link with sent := s.link.sent ++ [.reject r.tag reason] }
        counters := { s.counters with link := { s.counters.link with rejects := min 4294967295 (s.counters.link.rejects + 1) } } }
      let malformed := (∀ k : ReqKind, r.kind.toNat ≠ k.code) ∨ 1048576 < r.len.toNat
      (s.Running → LinkFrame.parse frame = some (.request r) →
        (malformed → exec (.request frame) s = .next (rejected .malformed)) ∧
        (¬ malformed → s.link.tags[r.tag] ≠ .free → exec (.request frame) s = .next (rejected .tagInUse))) ∧
      (∀ (k : ReqKind) (status : Status), s.Arrives frame r k → k ≠ .sync →
        let count := (r.len.toNat + 511) / 512
        r.lba.toNat < 4294967292 → r.lba.toNat + count ≤ 4294967292 →
        s.failedCheck k r.stream r.lba.toNat count = some status →
        exec (.request frame) s = .next (State.refreshIdle (s.passedThrough r k
          [.completion r.tag status r.len.toNat none false (s.mgmt.events != 0)] StreamCounters.refusedOne)))

/-- A request that passes all its checks (R42, R46 to R49, R51, R111, R171, R173). Host traffic begins: the quiet flag is clear. In the
saving phase of standby entry it abandons the entry, and the mode is SERVICE; in STANDBY it starts a wake, the mode is WAKING, and each
SLEEPING port begins its wake; either raises MODE_CHANGE. A request of length 0 completes OK at once. One whose home extent overlaps that of
an item in the list, one of the two writing, or whose tag an orphan had, or that meets the powering-down phase, joins the end of the list
HELD and issues nothing. Any other is RUNNING: a READ or a WRITE has cut its first segment at its first block, which claims its buffers; a
VERIFY of one segment has offered it, and a port with nothing else to do has sent it. -/
def Obligations.RequestsThatPassRunOrAreHeld : Prop :=
  ∀ (s : State) (frame : List Byte) (r : RequestFields) (k : ReqKind) (i : Fin 16), s.Arrives frame r k → k ≠ .sync →
    let count := (r.len.toNat + 511) / 512
    let e := s.map.regions[i]
    let home : Extent := { unit := e.unit, first := e.physical + r.lba.toNat - e.logical, count := count }
    let mode := s.modes.mode
    let saving := mode = .enteringStandby ∧ s.modes.phase = .saving
    let poweringDown := mode = .enteringStandby ∧ s.modes.phase = .poweringDown
    let blocked := (∃ b ∈ s.engine.items, ∃ y, b.home = some y ∧ (b.writing = true ∨ k = .write) ∧ y.overlaps home = true) ∨
      s.orphanOf r.tag = true ∨ poweringDown
    let events := if saving ∨ mode = .standby then s.mgmt.events ||| Event.modeChange.bit else s.mgmt.events
    r.lba.toNat < 4294967292 → r.lba.toNat + count ≤ 4294967292 →
    s.map.regionLookup r.lba.toNat count = some i → s.failedCheck k r.stream r.lba.toNat count = none →
    mode = .service ∨ mode = .waking ∨ poweringDown ∨ (saving ∧ s.scan.context = none ∧ s.mgmt.params.autoPatrol = false) ∨
      (mode = .standby ∧ s.scan.context = none ∧ s.store.save = none ∧
        (∀ u, (s.port u).state = .sleeping → (s.port u).desired ≠ .offline ∧ (s.port u).Rests)) →
    (count = 0 ∨ blocked ∨ k = .read ∨ k = .write → ∃ x, exec (.request frame) s = .next x ∧
      x.modes.mode = (if saving then .service else if mode = .standby then .waking else mode) ∧
      x.mgmt = { s.mgmt with events := events } ∧ x.log = s.log.recorded s.nextId (.host k r.stream r.tag r.lba.toNat r.len.toNat s.now) ∧
      x.scan.quiet = false ∧ x.map = s.map ∧ x.guard = s.guard ∧ x.store = s.store ∧ x.health = s.health ∧
      (mode = .standby → ∀ u, ((s.port u).state ≠ .sleeping → x.port u = s.port u) ∧
        ((s.port u).state = .sleeping → ∃ n, x.port u = s.attachBegun (s.port u) true n)) ∧
      (count = 0 → x.engine = s.engine ∧ x.link.tags = s.link.tags ∧
        x.link.sent = s.link.sent ++ [.completion r.tag .ok 0 none false (events != 0)] ∧
        x.counters.streams = s.counters.streams.set r.stream s.counters.streams[r.stream].completedOne) ∧
      (count ≠ 0 →
        ∃ q : Request, x.engine = { s.engine with items := s.engine.items ++ [.host q] } ∧
          q.tag = r.tag ∧ q.stream = r.stream ∧ q.kind = k ∧ q.lba = r.lba.toNat ∧ q.len = r.len.toNat ∧ q.region = some i ∧
          q.home = some home ∧ q.passed = true ∧ q.verifyAfter = (decide (k = .write) && e.verifyAfter) ∧
          x.link = { s.link with tags := s.link.tags.set r.tag .request } ∧ x.counters.streams = s.counters.streams ∧
          (blocked → q.state = .held ∧ q.segs = []) ∧
          (¬ blocked → q.state = .running ∧ ∃ g l, q.segs = g :: l ∧ g.unit = e.unit ∧ g.off = 0 ∧ g.home = home.first ∧
            g.phase = .claim ∧ s.map.Cuts e.unit (fun b => !(decide (k = .write) && s.pendingBlock e.unit b)) home.first count
              g.first g.count))) ∧
    (∀ first, count ≠ 0 → ¬ blocked → k = .verify → mode = .service → s.scan.context = none →
      s.map.Cuts e.unit (fun _ => true) home.first count first count →
      (s.port e.unit).state.serves = true → (s.port e.unit).Rests → (s.port e.unit).attachPlace = none →
      ∃ (x : State) (q : Request) (g : Segment) (n : Nat), exec (.request frame) s = .next x ∧
        x.engine = { s.engine with items := s.engine.items ++ [.host q] } ∧ q.tag = r.tag ∧ q.stream = r.stream ∧ q.kind = .verify ∧
        q.home = some home ∧ q.state = .running ∧ q.segs = [g] ∧ g.unit = e.unit ∧ g.off = 0 ∧ g.first = first ∧ g.count = count ∧
        g.phase = .issued ∧ x.link = { s.link with tags := s.link.tags.set r.tag .request } ∧
        x.ports = s.ports.set e.unit (s.sendsFirst (s.port e.unit) (mkOp .verify first count (.segment q.id g.id) n [])) ∧
        x.modes.mode = .service ∧ x.mgmt = s.mgmt ∧ x.map = s.map ∧ x.health = s.health ∧ x.store = s.store ∧ x.guard = s.guard)

/-- A window access, by the stages of R127: NOT_SERVICING in STARTUP; WINDOW_MISUSE for a VERIFY, for another length than 512, or a range
that begins below the window; ACCESS_DENIED for a stream outside the management stream set; WINDOW_MISUSE for a read of W0 or a write of W1
to W3. A read of W1 is answered with the response block, one of W2 or W3 with the status block, and W3 clears the event flags it shows. Once
the frame has been sent its COMPLETION follows, with ATTENTION where a flag has risen since, and its tag is free; until then the tag stays
in use, and WRITE DATA for it is discarded (log entry 28). A write of W0 ends MGMT_BUSY while the engine is EXECUTING; otherwise its DATA
REQUEST is sent, its data timer started, and its tag stays in use (R127, R129 to R131, R143, R144). -/
def Obligations.WindowAccessesAreServed : Prop :=
  (∀ (s : State) (frame : List Byte) (r : RequestFields) (k : ReqKind), s.Arrives frame r k → k ≠ .sync →
    4294967292 < r.lba.toNat + (r.len.toNat + 511) / 512 ∨ 4294967292 ≤ r.lba.toNat →
    let w0 : Nat := 4294967292
    let lba := r.lba.toNat
    let failure : Option Status :=
      if s.modes.mode = .startup then some .notServicing
      else if k = .verify ∨ r.len.toNat ≠ 512 ∨ lba < w0 then some .windowMisuse
      else if s.mgmt.streams.getLsbD r.stream.val = false then some .accessDenied
      else if (k = .read ∧ lba = w0) ∨ (k = .write ∧ lba ≠ w0) then some .windowMisuse
      else none
    let ends (frames : List HostFrame) (f : StreamCounters → StreamCounters) : State := s.passedThrough r k frames f
    let reads (block : List Byte) (events : BitVec 16) : State := { ends [] id with
      link := { tags := s.link.tags.set r.tag .window, sent := s.link.sent ++ [.readData r.tag 0 block] }
      mgmt := { s.mgmt with reads := s.mgmt.reads ++ [{ tag := r.tag, stream := r.stream }], events := events } }
    (∀ status, failure = some status → exec (.request frame) s = .next (State.refreshIdle (ends
      [.completion r.tag status r.len.toNat none false (s.mgmt.events != 0)] StreamCounters.refusedOne))) ∧
    (failure = none → k = .read → lba = w0 + 1 → exec (.request frame) s = .next (State.refreshIdle (reads
      (match s.mgmt.taken with
        | none => s.mgmt.response.block
        | some t => Response.block { seq := t.seq, code := t.code, result := .pending, data := [] }) s.mgmt.events))) ∧
    (failure = none → k = .read → lba = w0 + 2 → exec (.request frame) s = .next (State.refreshIdle (reads s.statusBlock s.mgmt.events))) ∧
    (failure = none → k = .read → lba = w0 + 3 → exec (.request frame) s = .next (State.refreshIdle (reads s.statusBlock 0))) ∧
    (failure = none → k = .write → s.mgmt.state = .executing → exec (.request frame) s = .next (State.refreshIdle (ends
      [.completion r.tag .mgmtBusy 512 none false (s.mgmt.events != 0)] StreamCounters.refusedOne))) ∧
    (failure = none → k = .write → s.mgmt.state = .idle → exec (.request frame) s = .next (State.refreshIdle
      { ends [.dataRequest r.tag 0 1] id with
        link := { tags := s.link.tags.set r.tag .window, sent := s.link.sent ++ [.dataRequest r.tag 0 1] }
        mgmt := { s.mgmt with
          windows := s.mgmt.windows ++ [{ tag := r.tag, stream := r.stream, timer := .running s.ms s.mgmt.params.dataTimeout }] } }))) ∧
  ∀ (s : State) (tag : Fin 32) (x : WindowRead), s.Running → (s.mgmt.reads.find? fun x => x.tag == tag) = some x →
    exec (.readDataSent tag 0) s = .next { s with
      link := { tags := s.link.tags.set tag .free, sent := s.link.sent ++ [.completion tag .ok 0 none false (s.mgmt.events != 0)] }
      mgmt := { s.mgmt with reads := s.mgmt.reads.filter fun y => y.tag != tag }
      counters := { s.counters with streams := s.counters.streams.set x.stream s.counters.streams[x.stream].completedOne } } ∧
    (∀ n, n ≠ 0 → exec (.readDataSent tag n) s = .next s) ∧
    (∀ (frame : List Byte) (f : WriteFields), s.Lawful → LinkFrame.parse frame = some (.writeData f) → f.tag = tag →
      exec (.writeData frame) s = .next (State.refreshIdle (State.onLinkCounters s fun c =>
        { c with discardedData := min 4294967295 (c.discardedData + 1) })))

/-- The 512 bytes of a W0 write that waits for its data: with the engine EXECUTING the write ends MGMT_BUSY; with the engine IDLE the
command is taken: the engine is EXECUTING, the sequence recorded, a command record joins the history ring, the erase-prepared flag is noted
and cleared. A code of no command is then answered INVALID_COMMAND and a payload over 480 bytes INVALID_PARAMETER; any other is decided by
its own step (log entry 4). A frame of another length is discarded and counted. A block index above 0 ends the W0 write that holds the tag
BAD_REQUEST, and a command already taken from it runs on. The data timer of a W0 write ends it DATA_LATE; of a tag without one it does
nothing (R130, R132, R133, R135, R155). -/
def Obligations.CommandsAreTakenFromW0 : Prop :=
  ∀ (s : State) (tag : Fin 32), s.Running →
    let found := s.mgmt.windows.find? fun x => x.tag == tag
    let windows := s.mgmt.windows.filter fun x => x.tag != tag
    let ended (status : Status) (stream : Fin 16) (m : ManagementEngine) : State := { s with
      link := { tags := s.link.tags.set tag .free,
                sent := s.link.sent ++ [.completion tag status 512 none false (s.mgmt.events != 0)] }
      mgmt := m
      counters := { s.counters with streams := s.counters.streams.set stream s.counters.streams[stream].refusedOne } }
    let gone : ManagementEngine := { s.mgmt with windows := windows }
    (found = none → exec (.windowDataTimeout tag) s = .next s) ∧
    (∀ w, found = some w → exec (.windowDataTimeout tag) s = .next (State.onLinkCounters (ended .dataLate w.stream gone) fun c =>
        { c with dataLate := min 4294967295 (c.dataLate + 1) })) ∧
    (∀ (frame : List Byte) (f : WriteFields), LinkFrame.parse frame = some (.writeData f) → f.tag = tag → s.link.tags[tag] = .window →
      (∀ w, found = some w → s.mgmt.taken.bind (fun t => t.tag) ≠ some tag → f.index ≠ 0 →
        exec (.writeData frame) s = .next (State.refreshIdle (ended .badRequest w.stream gone))) ∧
      (∀ t, found = none → s.mgmt.taken = some t → t.tag = some tag → f.index ≠ 0 →
        exec (.writeData frame) s = .next (State.refreshIdle (ended .badRequest t.stream
          { s.mgmt with taken := some { t with tag := none } }))) ∧
      (∀ w, found = some w → f.index = 0 → f.data.length ≠ 512 →
        exec (.writeData frame) s = .next (State.refreshIdle (State.onLinkCounters s fun c =>
          { c with discardedData := min 4294967295 (c.discardedData + 1) }))) ∧
      (∀ w, found = some w → f.index = 0 → f.data.length = 512 → s.mgmt.state = .executing →
        exec (.writeData frame) s = .next (State.refreshIdle (ended .mgmtBusy w.stream gone))) ∧
      (∀ w, found = some w → f.index = 0 → f.data.length = 512 → s.mgmt.state = .idle →
        let record : RingRec := ⟨s.nextId, .command (u2 f.data 0) (BitVec.ofNat 16 (u2 f.data 2)) s.now⟩
        let t : Taken :=
          { code := u2 f.data 0, seq := BitVec.ofNat 16 (u2 f.data 2), stream := w.stream, tag := some w.tag, block := f.data,
            mode := s.modes.mode, prepared := s.guard.prepared, record := record, decided := false }
        let x : State := { s with
          mgmt := { gone with state := .executing, taken := some t, lastSeq := t.seq }
          guard := { s.guard with prepared := false }
          log := s.log.recorded s.nextId record.record
          nextId := s.nextId + 1 }
        exec (.writeData frame) s = .next (State.refreshIdle (
          if t.code = 0 ∨ 32 < t.code then x.answered t .invalidCommand []
          else if 480 < t.payloadLength then x.answered t .invalidParameter []
          else x))))

/-! ### Data, grants, holds and link resets (R48 to R69, R80) -/

/-- WRITE DATA for a request (R59, R60, R66). A frame for a free tag, for a block that is not requested, or of a wrong size is discarded and
counted. A block beyond the request is discarded too and fails it BAD_REQUEST at its first block: it drains, or completes when it held
nothing that runs on. A requested block is padded to 512 bytes and kept in its segment; the last of a segment stops its data timer and
offers the segment's write, which a port with nothing else to do sends at once, or makes a block that is still pending wait for its
redirect. A data timer that expires fails the request DATA_LATE at the first block not delivered: a segment with no block before it ends,
and a request left with nothing completes; the blocks before it are written, and the buffers behind them released. -/
def Obligations.WriteDataIsStoredOrLate : Prop :=
  ∀ (s : State), s.Running → s.Lawful →
    let offered (x : State) (id : Nat) (g : Segment) : State := { x with
      nextId := x.nextId + 1
      counters := { x.counters with
        units := x.counters.units.set g.unit
          { x.counters.units.get g.unit with operations := min 4294967295 ((x.counters.units.get g.unit).operations + 1) } }
      ports := x.ports.set g.unit
        (x.sendsFirst (x.port g.unit) (mkOp .write g.first g.count (.segment id g.id) x.nextId g.blocks)) }
    let rests (u : Fin 4) : Prop := (s.port u).state.serves = true ∧ (s.port u).Rests ∧ (s.port u).attachPlace = none
    let late (x : State) : State := State.onLinkCounters x fun c => { c with dataLate := min 4294967295 (c.dataLate + 1) }
    (∀ (frame : List Byte) (f : WriteFields), LinkFrame.parse frame = some (.writeData f) →
      let discarded : State := State.onLinkCounters s fun c => { c with discardedData := min 4294967295 (c.discardedData + 1) }
      let index := f.index.toNat
      (s.link.tags[f.tag] = .free → exec (.writeData frame) s = .next (State.refreshIdle discarded)) ∧
      ∀ r, s.link.tags[f.tag] = .request → s.liveRequest? f.tag = some r →
        let size := if index + 1 = r.count then r.len - 512 * (r.count - 1) else 512
        (index < r.count → r.requesting index = none ∨ f.data.length ≠ size →
          exec (.writeData frame) s = .next (State.refreshIdle discarded)) ∧
        (r.count ≤ index → r.first = none → r.cancelled = false → r.segs ≠ [] → (∀ g ∈ r.segs, g.droppable = true → g.off = 0) →
          exec (.writeData frame) s = .next (State.refreshIdle { discarded with
            engine := (s.onRequest r.id fun q => { q with first := some ⟨0, .badRequest⟩, state := .draining }).engine })) ∧
        (r.count ≤ index → r.first = none → r.cancelled = false → r.segs = [] →
          ∃ x, exec (.writeData frame) s = .next x ∧
            x.link = { tags := s.link.tags.set r.tag .free,
                       sent := s.link.sent ++ [.completion r.tag .badRequest r.len none r.recovered (s.mgmt.events != 0)] } ∧
            x.engine = { s.engine with items := s.engine.items.filter fun i => i.id != r.id } ∧
            x.counters = { State.counters discarded with
              streams := s.counters.streams.set r.stream s.counters.streams[r.stream].completedOne } ∧
            x.map = s.map ∧ x.ports = s.ports ∧ x.guard = s.guard ∧ x.mgmt = s.mgmt ∧ x.health = s.health ∧ x.log = s.log) ∧
        ∀ g, index < r.count → r.requesting index = some g → r.segment? g.id = some g → f.data.length = size →
          let keep (x : Segment) : Segment :=
            { x with data := x.data ++ [(index, f.data ++ List.replicate (512 - f.data.length) 0)] }
          let delivered (i : Nat) : Prop := g.off + i = index ∨ ∃ d ∈ g.data, d.1 = g.off + i
          ((∃ i < g.count, ¬ delivered i) → exec (.writeData frame) s = .next (State.refreshIdle (s.onSegment r.id g.id keep))) ∧
          ((∀ i < g.count, delivered i) → g.pendingBlock = true → s.pendingBlock g.unit g.first = true →
            exec (.writeData frame) s = .next (State.refreshIdle (s.onSegment r.id g.id fun x =>
              { keep x with timer := .stopped, phase := .redirect 0 }))) ∧
          ((∀ i < g.count, delivered i) → g.pendingBlock = false ∨ s.pendingBlock g.unit g.first = false → r.kind = .write →
            rests g.unit →
            exec (.writeData frame) s = .next (State.refreshIdle (offered (s.onSegment r.id g.id fun x =>
              { keep x with timer := .stopped, phase := .issued }) r.id (keep g))))) ∧
    (∀ (r : Request) (g : Segment), s.liveRequest? r.tag = some r → r.segs = [g] → g.phase = .filling → r.cancelled = false →
      r.first = none →
      (1 ≤ g.count → (∀ d ∈ g.data, d.1 ≠ g.off) → r.state = .running →
        ∃ x, exec (.dataTimeout r.tag g.off) s = .next x ∧
          x.link = { tags := s.link.tags.set r.tag .free,
                     sent := s.link.sent ++
                       [.completion r.tag .dataLate (r.len - 512 * g.off) none r.recovered (s.mgmt.events != 0)] } ∧
          x.engine = { items := s.engine.items.filter fun i => i.id != r.id, freeBuffers := s.engine.freeBuffers + g.buffers } ∧
          x.counters = { State.counters (late s) with
            streams := s.counters.streams.set r.stream s.counters.streams[r.stream].completedOne } ∧
          x.map = s.map ∧ x.ports = s.ports ∧ x.guard = s.guard ∧ x.mgmt = s.mgmt ∧ x.health = s.health ∧ x.log = s.log) ∧
      (∀ k, 0 < k → k < g.count → (∀ i < k, ∃ d ∈ g.data, d.1 = g.off + i) → (∀ d ∈ g.data, d.1 ≠ g.off + k) →
        g.pendingBlock = false → r.kind = .write → rests g.unit →
        let kept := g.keepFront k
        exec (.dataTimeout r.tag g.off) s = .next (State.refreshIdle (offered
          { late s with engine :=
            { items := (s.onRequest r.id fun q => { q with
                first := some ⟨g.off + k, .dataLate⟩, state := .draining
                segs := [{ kept with timer := .stopped, phase := .issued }] }).engine.items
              freeBuffers := s.engine.freeBuffers + g.buffers - min k g.buffers } } r.id kept))))

/-- The next READ DATA frame of a segment that is being sent carries the segment's first block, short only at the end of the request; its
buffer is released, the block counts as read and is completed. After the last frame of the last segment the COMPLETION follows, OK where no
failure was taken (R55, R56, R65, R66). -/
def Obligations.ReadDataFramesAreSent : Prop :=
  ∀ (s : State) (r : Request) (g : Segment) (pre post : List Segment) (block : Block) (rest : List Block), s.Running → s.Lawful →
    s.liveRequest? r.tag = some r → r.sendingAt g.off = some g → r.segs = pre ++ g :: post → (∀ h ∈ pre ++ post, h.id ≠ g.id) →
    g.blocks = block :: rest → (∀ x ∈ s.mgmt.reads, x.tag ≠ r.tag) →
    let frame : HostFrame := .readData r.tag g.off
      (block.take (if g.off + 1 = r.count then r.len - 512 * (r.count - 1) else 512))
    let read (c : StreamCounters) : StreamCounters := { c with blocksRead := min 4294967295 (c.blocksRead + 1) }
    (2 ≤ g.count → ∃ x, exec (.readDataSent r.tag g.off) s = .next x ∧
      x.link = { s.link with sent := s.link.sent ++ [frame] } ∧
      x.engine.freeBuffers = s.engine.freeBuffers + min 1 g.buffers ∧
      x.engine.items = (s.onRequest r.id fun q => { q with
        segs := pre ++ g.dropFront 1 :: post, completed := addRun g.off 1 q.completed }).engine.items ∧
      x.counters = { s.counters with streams := s.counters.streams.set r.stream (read s.counters.streams[r.stream]) } ∧
      x.map = s.map ∧ x.ports = s.ports ∧ x.guard = s.guard ∧ x.mgmt = s.mgmt ∧ x.health = s.health ∧ x.log = s.log) ∧
    (g.count = 1 → pre = [] → post = [] → r.first = none → r.cancelled = false → r.state = .running → r.count ≤ r.cursor →
      ∃ x, exec (.readDataSent r.tag g.off) s = .next x ∧
        x.link = { tags := s.link.tags.set r.tag .free,
                   sent := s.link.sent ++ [frame, .completion r.tag .ok 0 none r.recovered (s.mgmt.events != 0)] } ∧
        x.engine = { items := s.engine.items.filter fun i => i.id != r.id, freeBuffers := s.engine.freeBuffers + g.buffers } ∧
        x.counters = { s.counters with
          streams := s.counters.streams.set r.stream (read s.counters.streams[r.stream]).completedOne } ∧
        x.map = s.map ∧ x.ports = s.ports ∧ x.guard = s.guard ∧ x.mgmt = s.mgmt ∧ x.health = s.health ∧ x.log = s.log)

/-- CANCEL of a free tag counts in unknown cancels and does nothing else; of a window access, or of a request already cancelled, it does
nothing; a request that holds no segment completes at once, CANCELLED, with its byte length from the lowest block not completed as residual,
and leaves the list; one whose only segment is at its port is marked and runs on (R66, R131). -/
def Obligations.CancelEndsRequests : Prop :=
  ∀ (s : State) (frame : List Byte) (tag : Fin 32), s.Running → LinkFrame.parse frame = some (.cancel tag) →
    (s.link.tags[tag] = .free → exec (.cancel frame) s = .next (s.onLinkCounters fun c =>
      { c with unknownCancels := min 4294967295 (c.unknownCancels + 1) })) ∧
    (s.link.tags[tag] = .window → exec (.cancel frame) s = .next s) ∧
    (∀ r, s.Lawful → s.link.tags[tag] = .request → s.liveRequest? tag = some r →
      (r.cancelled = true → exec (.cancel frame) s = .next s.refreshIdle) ∧
      (r.cancelled = false → (∀ g ∈ r.segs, g.droppable = false) → r.segs ≠ [] →
        exec (.cancel frame) s = .next (State.refreshIdle (s.onRequest r.id fun q => { q with cancelled := true }))) ∧
      (r.cancelled = false → r.segs = [] → r.first = none →
        ∃ x, exec (.cancel frame) s = .next x ∧
          x.link = { tags := s.link.tags.set tag .free,
                     sent := s.link.sent ++ [.completion tag .cancelled (r.len - 512 * r.lowestIncomplete) none r.recovered
                       (s.mgmt.events != 0)] } ∧
          x.engine = { s.engine with items := s.engine.items.filter fun i => i.id != r.id } ∧
          x.counters = { s.counters with streams := s.counters.streams.set r.stream s.counters.streams[r.stream].completedOne } ∧
          x.map = s.map ∧ x.ports = s.ports ∧ x.guard = s.guard ∧ x.mgmt = s.mgmt ∧ x.health = s.health ∧ x.log = s.log))

/-- LINK RESET frees every tag and sends nothing. No live request is left: each becomes an orphan that keeps just its segments with an
operation at the port, or leaves; relocation items stay. The W0 writes that wait and the window reads whose COMPLETION is owed are gone, a
command that was taken goes on without its tag, and no port, no guard state and no part mode changes (R67, R131). -/
def Obligations.LinkResetLeavesOrphans : Prop :=
  ∀ (s : State) (frame : List Byte), s.Running → s.Lawful → LinkFrame.parse frame = some .linkReset →
    ∃ x, exec (.linkReset frame) s = .next x ∧ x.link = { tags := Vector.replicate 32 .free, sent := s.link.sent } ∧
      x.engine.items = (s.engine.items.filterMap fun i =>
        match i with
        | .reloc q => some (.reloc q)
        | .host r =>
          if r.orphan then some (.host r)
          else if r.segs.any Segment.atPort then some (.host { r with segs := r.segs.filter Segment.atPort, orphan := true })
          else none) ∧
      x.mgmt.windows = [] ∧ x.mgmt.reads = [] ∧ x.mgmt.state = s.mgmt.state ∧
      x.mgmt.taken = (s.mgmt.taken.map fun t => { t with tag := none }) ∧
      x.ports = s.ports ∧ x.guard = s.guard ∧ x.modes.mode = s.modes.mode ∧ x.counters = s.counters ∧ x.log = s.log

/-- The claim at the front of the order is granted in full, or none is: a WRITE's makes its segment FILLING, with the data timer started and
the DATA REQUEST sent; a READ's or a relocation's takes its buffers and offers its READ, which a port with nothing else to do sends at once;
with too few free buffers nothing happens, whatever waits behind it (R52, R54, R58, R101). Where a port's issue queue has no free place, a
free place does nothing; where it has one, the first READ or VERIFY segment that waits for a place is offered: it is queued last where no
slot is free, and sent where the port has nothing else to do. At a port that is not available what is offered ends UNIT_UNAVAILABLE, and a
request whose last segment it was completes with that status (R52, R61, R70, R80). -/
def Obligations.ClaimsAndPlacesAreGrantedInOrder : Prop :=
  ∀ (s : State), s.Running → s.Lawful →
    let counted (u : Fin 4) : CounterBank := { s.counters with
      units := s.counters.units.set u
        { s.counters.units.get u with operations := min 4294967295 ((s.counters.units.get u).operations + 1) } }
    let rests (u : Fin 4) : Prop := (s.port u).state.serves = true ∧ (s.port u).Rests ∧ (s.port u).attachPlace = none
    let sends (u : Fin 4) (kind : OpKind) (first count : Nat) (owner : Owner) : Four Port :=
      s.ports.set u (s.sendsFirst (s.port u) (mkOp kind first count owner s.nextId []))
    (s.bufferClaims = [] → exec .bufferClaimGrant s = .next s) ∧
    (∀ c l, s.bufferClaims = c :: l → s.engine.freeBuffers < c.size → exec .bufferClaimGrant s = .next s) ∧
    (∀ (r : Request) (g : Segment) (l : List BufferClaim) (pre post : List Segment),
      s.bufferClaims = .segment r.id g.id g.count :: l → g.count ≤ s.engine.freeBuffers → s.request? r.id = some r →
      r.segs = pre ++ g :: post → (∀ h ∈ pre ++ post, h.id ≠ g.id) → g.buffers = 0 →
      let granted (h : Segment) : RequestEngine :=
        { items := (s.onRequest r.id fun q => { q with segs := pre ++ { h with buffers := g.count } :: post }).engine.items
          freeBuffers := s.engine.freeBuffers - g.count }
      (r.kind = .write → exec .bufferClaimGrant s = .next (State.refreshIdle { s with
        link := { s.link with sent := s.link.sent ++ [.dataRequest r.tag g.off g.count] }
        engine := granted { g with phase := .filling, timer := .running s.ms s.mgmt.params.dataTimeout } })) ∧
      (r.kind = .read → rests g.unit → exec .bufferClaimGrant s = .next (State.refreshIdle { s with
        nextId := s.nextId + 1, counters := counted g.unit
        ports := sends g.unit .read g.first g.count (.segment r.id g.id)
        engine := granted { g with phase := .issued } }))) ∧
    (∀ (k : Fin 2) (x : Relocation) (l : List BufferClaim), s.bufferClaims = .reloc k :: l → 1 ≤ s.engine.freeBuffers →
      s.health.slot k = some x → x.step = .buffer → rests x.unit →
      exec .bufferClaimGrant s = .next (State.refreshIdle { s with
        nextId := s.nextId + 1, counters := counted x.unit, ports := sends x.unit .read x.block 1 (.reloc k)
        health := s.health.withSlot (some { x with step := .read, wait := .port }) k
        engine := { s.engine with freeBuffers := s.engine.freeBuffers - 1 } })) ∧
    (∀ u : Fin 4,
      (64 ≤ (s.port u).queue.length → exec (.queuePlaceFree u) s = .next s) ∧
      (∀ (r : Request) (g : Segment) (l : List WaitingOp), (s.port u).queue.length < 64 →
        (s.waitingOps u fun w => decide (w = .place)) = .segment r.id g.id :: l → s.request? r.id = some r →
        r.segment? g.id = some g → g.phase = .place → g.unit = u →
        let kind : OpKind := if r.kind = .read then .read else .verify
        let issued : RequestEngine := (s.onSegment r.id g.id fun g => { g with phase := .issued }).engine
        (r.kind ≠ .write → (s.port u).state.serves = true → (s.port u).slots.toList.all (fun o => o.isSome) = true →
          exec (.queuePlaceFree u) s = .next (State.refreshIdle { s with
            nextId := s.nextId + 1, engine := issued
            ports := s.ports.set u { s.port u with
              queue := (s.port u).queue ++ [mkOp kind g.first g.count (.segment r.id g.id) s.nextId []] } })) ∧
        (r.kind ≠ .write → rests u →
          exec (.queuePlaceFree u) s = .next (State.refreshIdle { s with
            nextId := s.nextId + 1, counters := counted u, engine := issued
            ports := sends u kind g.first g.count (.segment r.id g.id) })) ∧
        (r.kind ≠ .sync → (s.port u).state.unavailable = true → l = [] → s.guard.eraseWantsPlace u = false → r.segs = [g] →
          r.orphan = false → r.cancelled = false → r.first = none →
          ∃ x, exec (.queuePlaceFree u) s = .next x ∧
            x.link = { tags := s.link.tags.set r.tag .free,
                       sent := s.link.sent ++ [.completion r.tag .unitUnavailable (r.len - 512 * g.off) none r.recovered
                         (s.mgmt.events != 0)] } ∧
            x.engine = { items := s.engine.items.filter fun i => i.id != r.id, freeBuffers := s.engine.freeBuffers + g.buffers } ∧
            x.ports = s.ports ∧ x.map = s.map ∧ x.health = s.health ∧ x.log = s.log)))

/-- With no HELD item whose holds have all cleared, HOLD_CLEARED does nothing; the first such READ or WRITE, on a port that takes it,
becomes RUNNING and cuts its first segment at its first block; a VERIFY of one segment becomes RUNNING and offers it, and a port with
nothing else to do sends it; items before and after it and the link stay (R48, R49, R51). A SYNC with a length ends BAD_REQUEST as it
arrives; one of length 0 completes at once on an empty list and is HELD otherwise; a SYNC at the head of the list completes OK, and behind
another item nothing happens (R50). -/
def Obligations.HeldItemsAndSyncsGoOn : Prop :=
  ∀ (s : State),
    (s.Running →
      ((∀ pre i post, s.engine.items = pre ++ i :: post → i.held = true → s.holds pre i = true) →
        exec .holdCleared s = .next s) ∧
      (∀ (pre post : List Item) (r : Request) (y : Extent), s.Lawful → s.engine.items = pre ++ .host r :: post →
        (∀ before i after, pre = before ++ i :: after → i.held = true → s.holds before i = true) →
        (Item.host r).held = true → s.holds pre (.host r) = false → r.home = some y → y.count = r.count → r.cursor = 0 → 0 < r.count →
        r.segs = [] → r.cancelled = false → r.orphan = false →
        (r.kind = .read ∨ r.kind = .write →
          (s.port y.unit).state = .ready ∨ (s.port y.unit).state = .attaching ∨ (s.port y.unit).state = .sleeping ∨
            ((s.port y.unit).state = .readOnly ∧ r.kind = .read) →
          ∃ x q, exec .holdCleared s = .next x ∧ x.engine = { s.engine with items := pre ++ .host q :: post } ∧ q.id = r.id ∧
            q.tag = r.tag ∧ q.state = .running ∧ (∃ g l, q.segs = g :: l ∧ g.off = 0 ∧ g.home = y.first ∧ g.phase = .claim) ∧
            x.link = s.link ∧ x.ports = s.ports ∧ x.map = s.map ∧ x.guard = s.guard ∧ x.mgmt = s.mgmt ∧ x.health = s.health ∧
            x.log = s.log ∧ x.counters = s.counters) ∧
        (∀ first, r.kind = .verify → s.map.Cuts y.unit (fun _ => true) y.first y.count first y.count →
          (s.port y.unit).state.serves = true → (s.port y.unit).Rests → (s.port y.unit).attachPlace = none →
          ∃ x q g n, exec .holdCleared s = .next x ∧ x.engine = { s.engine with items := pre ++ .host q :: post } ∧ q.id = r.id ∧
            q.tag = r.tag ∧ q.state = .running ∧ q.segs = [g] ∧ g.off = 0 ∧ g.first = first ∧ g.count = y.count ∧ g.phase = .issued ∧
            x.ports = s.ports.set y.unit
              (s.sendsFirst (s.port y.unit) (mkOp .verify first y.count (.segment q.id g.id) n [])) ∧
            x.link = s.link ∧ x.map = s.map ∧ x.guard = s.guard ∧ x.mgmt = s.mgmt ∧ x.health = s.health ∧ x.log = s.log)) ∧
      (∀ (r : Request) (l : List Item), s.Lawful → s.engine.items = .host r :: l → r.kind = .sync → r.orphan = false → r.segs = [] →
        r.first = none → r.cancelled = false → ∃ x, exec .syncComplete s = .next x ∧ x.engine = { s.engine with items := l } ∧
          x.link = { tags := s.link.tags.set r.tag .free,
                     sent := s.link.sent ++ [.completion r.tag .ok 0 none r.recovered (s.mgmt.events != 0)] } ∧
          x.counters = { s.counters with streams := s.counters.streams.set r.stream s.counters.streams[r.stream].completedOne } ∧
          x.map = s.map ∧ x.ports = s.ports ∧ x.guard = s.guard ∧ x.mgmt = s.mgmt ∧ x.health = s.health ∧ x.log = s.log) ∧
      ((∀ r l, s.engine.items = .host r :: l → r.kind ≠ .sync) → exec .syncComplete s = .next s)) ∧
    (∀ (frame : List Byte) (r : RequestFields), s.Arrives frame r .sync →
      (r.len ≠ 0 → exec (.request frame) s = .next (State.refreshIdle (s.passedThrough r .sync
        [.completion r.tag .badRequest r.len.toNat none false (s.mgmt.events != 0)] StreamCounters.refusedOne))) ∧
      (r.len = 0 → s.engine.items = [] → exec (.request frame) s = .next (State.refreshIdle (s.passedThrough r .sync
        [.completion r.tag .ok 0 none false (s.mgmt.events != 0)] StreamCounters.completedOne))) ∧
      (r.len = 0 → s.engine.items ≠ [] → ∃ x q, exec (.request frame) s = .next x ∧
        x.engine = { s.engine with items := s.engine.items ++ [.host q] } ∧ q.kind = .sync ∧ q.tag = r.tag ∧ q.state = .held ∧
        q.segs = [] ∧ x.link = { s.link with tags := s.link.tags.set r.tag .request } ∧ x.counters = s.counters ∧ x.map = s.map ∧
        x.ports = s.ports ∧ x.guard = s.guard ∧ x.mgmt = s.mgmt))

/-- What a RESULT does with the last segment of a live request (R55 to R57, R61, R63, R65, R78, R82, R202). A READ that is DONE, all its
data there, has its segment SENDING with the blocks; soft errors set the recovered flag. A READ or a VERIFY that ends HARD at a block takes
MEDIA_ERROR there, and MEDIA_HARD is logged: a READ with good blocks before it keeps those and sends them, and the request drains; any other
completes MEDIA_ERROR with the failing LBA. A VERIFY that is DONE completes OK; so does a WRITE with its blocks counted as written, or one
with verify-after-write once its VERIFY is DONE, which the DONE of its WRITE has sent. NOT_READY, or a DONE READ without all its data,
completes UNIT_UNAVAILABLE. Of an orphan's segment no frame is sent: the orphan leaves with its buffers (R68). The slot is free again, the
per-unit counters count the outcome, and the watch list takes what the health monitor makes of it (R82, R89, R92). -/
def Obligations.HostOperationsEnd : Prop :=
  ∀ (s : State) (u : Fin 4) (frame : List Byte) (f : ResultFields) (o : Outstanding) (r : Request) (g : Segment), s.Ends u frame f o →
    o.op.owner = .segment r.id g.id → g.unit = u →
    let rested : Four Port := s.ports.set u { s.port u with slots := Four.all none }
    let soft (c : UnitCounters) : UnitCounters := { c with softErrors := min 4294967295 (c.softErrors + f.soft.length) }
    let hard (c : UnitCounters) : UnitCounters := { c with hardErrors := min 4294967295 (c.hardErrors + 1) }
    let kept (x : State) : Prop := x.map = s.map ∧ x.guard = s.guard ∧ x.modes.mode = s.modes.mode ∧ x.mgmt.state = s.mgmt.state
    let stream (x : State) (c : StreamCounters → StreamCounters) : Prop :=
      x.counters.streams = s.counters.streams.set r.stream (c s.counters.streams[r.stream])
    let scored (x : State) (units : Four UnitCounters) (out : OpOutcome) : Prop := x.counters.units = units ∧
      x.health = (State.healthTakes { s with
        nextFree := s.nextFree + 1, ports := rested, counters := { s.counters with units := units } } u o.op out).health
    let recovered := r.recovered || !f.soft.isEmpty
    let written (c : StreamCounters) : StreamCounters := { c with blocksWritten := min 4294967295 (c.blocksWritten + g.count) }
    (s.LastAt r g o.op → o.op.kind = r.kind.op → r.kind ≠ .sync →
      (∀ block : Nat → Block, r.kind = .read → f.outcome = 0 →
        (∀ i < g.count, (o.arrived.find? fun d => d.1 == i) = some (i, block i)) →
        ∃ x, exec (.result u frame) s = .next x ∧ x.link = s.link ∧ x.ports = rested ∧ kept x ∧ x.log = s.log ∧
          x.counters.streams = s.counters.streams ∧ scored x (s.countedAt u soft) (.done f.soft ((List.range g.count).map fun i => (i,
            block i)) 0) ∧
          x.engine = (s.onRequest r.id fun q => { q with recovered := recovered, segs := [{ g with
            phase := .sending, data := (List.range g.count).map fun i => (g.off + i, block i) }] }).engine) ∧
      (∀ k, r.kind = .read ∨ r.kind = .verify → f.outcome = 1 → f.stop.toNat = g.first + k → k < g.count →
        ∃ x, exec (.result u frame) s = .next x ∧ x.ports = rested ∧ kept x ∧ x.counters.units = s.countedAt u hard ∧
          (∃ e : LogEntry, e.kind = .mediaHard ∧ e.unit = u ∧ e.block = some ⟨u, g.first + k⟩ ∧ e.logical = some (r.lba + (g.off + k)) ∧
              e.item = some r.record.record ∧ e.mode = s.modes.mode ∧
            x.log = s.log.write e) ∧
          (0 < k ∧ r.kind = .read → x.link = s.link ∧ x.counters.streams = s.counters.streams ∧
            x.engine.freeBuffers = s.engine.freeBuffers + (g.buffers - min k g.buffers) ∧
            ∃ data, x.engine.items = (s.onRequest r.id fun q => { q with
              first := some ⟨g.off + k, .mediaError⟩, state := .draining,
              segs := [{ g with phase := .sending, count := k, buffers := min k g.buffers, data := data }] }).engine.items) ∧
          (k = 0 ∨ r.kind = .verify → s.Completes x r g .mediaError (r.len - 512 * (g.off + k)) (some (r.lba + (g.off + k))) r.recovered ∧
            stream x fun c => { c.completedOne with mediaErrors := min 4294967295 (c.mediaErrors + 1) })) ∧
      (r.kind = .verify → f.outcome = 0 → ∃ x, exec (.result u frame) s = .next x ∧ x.ports = rested ∧ kept x ∧ x.log = s.log ∧
        scored x (s.countedAt u soft) (.done f.soft [] f.capacity) ∧ s.Completes x r g .ok 0 none recovered ∧
        stream x StreamCounters.completedOne) ∧
      (r.kind = .write → f.outcome = 0 → g.fallback = false → r.verifyAfter = false → ∃ x, exec (.result u frame) s = .next x ∧
        x.ports = rested ∧ kept x ∧ x.log = s.log ∧ x.counters.units = s.countedAt u soft ∧ x.health = s.health ∧
        s.Completes x r g .ok 0 none recovered ∧ stream x fun c => (written c).completedOne) ∧
      (r.kind = .write → f.outcome = 0 → r.verifyAfter = true → ∃ x, exec (.result u frame) s = .next x ∧
        x.link = s.link ∧ kept x ∧ x.log = s.log ∧ x.health = s.health ∧ stream x written ∧
        x.ports = s.ports.set u (s.sendsFirst { s.port u with slots := Four.all none }
          (mkOp .verify g.first g.count (.segment r.id g.id) s.nextId [])) ∧
        x.engine = (s.onRequest r.id fun q => { q with recovered := recovered, segs := [{ g with phase := .verifying }] }).engine)) ∧
    (s.LastAt r g o.op → r.kind = .write → o.op.kind = .verify → f.outcome = 0 → g.fallback = false →
      ∃ x, exec (.result u frame) s = .next x ∧ x.ports = rested ∧ kept x ∧ x.log = s.log ∧
        scored x (s.countedAt u soft) (.done f.soft [] f.capacity) ∧
        s.Completes x r g .ok 0 none recovered ∧ stream x StreamCounters.completedOne) ∧
    (s.LastAt r g o.op → r.kind ≠ .sync → o.op.kind = r.kind.op ∨ (r.kind = .write ∧ o.op.kind = .verify) →
      f.outcome = 3 ∨ (f.outcome = 0 ∧ r.kind = .read ∧ ∃ i < g.count, ∀ d ∈ o.arrived, d.1 ≠ i) →
      ∃ x, exec (.result u frame) s = .next x ∧ x.ports = rested ∧ kept x ∧ x.log = s.log ∧ x.counters.units = s.counters.units ∧
        x.health = s.health ∧ s.Completes x r g .unitUnavailable (r.len - 512 * g.off) none r.recovered ∧
        stream x StreamCounters.completedOne) ∧
    (s.request? r.id = some r → r.orphan = true → r.segs = [g] → g.fallback = false → f.outcome = 0 ∨ f.outcome = 3 →
      ∃ x, exec (.result u frame) s = .next x ∧ x.link = s.link ∧ x.ports = rested ∧ kept x ∧ x.log = s.log ∧
        x.engine = { items := s.engine.items.filter fun i => i.id != r.id, freeBuffers := s.engine.freeBuffers + g.buffers })

/-- How a write fault and a block found bad by verify-after-write are repaired, at the last segment of a live WRITE, where the port's limit
of write faults is not reached (R62, R63, R104 to R106). A WRITE that ends WRITE_FAULT at a block, or its VERIFY that ends HARD there, keeps
the blocks before it as completed, claims a spare for its home block and sends the spare write. That write DONE, the spare is installed and
a segment of one block completes OK. WRITE_FAULT discards the spare; below three spares the next one is claimed and sent, and with no spare
left or none to be had the block is reported to the watch list, logged, and the request completes MEDIA_ERROR. A first NOT_READY sends the
spare write again, a second discards the spare and completes UNIT_UNAVAILABLE. A fallback write that ends DONE completes OK and leaves the
entry of its block not pending, one below the promotion threshold. -/
def Obligations.WriteFaultsAreRepaired : Prop :=
  ∀ (s : State) (u : Fin 4) (frame : List Byte) (f : ResultFields) (o : Outstanding) (r : Request) (g : Segment), s.Ends u frame f o →
    g.unit = u → r.kind = .write → s.Last r g → (s.port u).writeFaults + 1 < s.mgmt.params.writeFaultLimit →
    let rested (faults : Nat) : Port := { s.port u with slots := Four.all none, writeFaults := (s.port u).writeFaults + faults }
    let kept (x : State) : Prop := x.guard = s.guard ∧ x.modes.mode = s.modes.mode ∧ x.mgmt.state = s.mgmt.state
    let stream (x : State) (c : StreamCounters → StreamCounters) : Prop :=
      x.counters.streams = s.counters.streams.set r.stream (c s.counters.streams[r.stream])
    let written (c : StreamCounters) : StreamCounters := { c with blocksWritten := min 4294967295 (c.blocksWritten + 1) }
    let failed (c : StreamCounters) : StreamCounters := { c.completedOne with mediaErrors := min 4294967295 (c.mediaErrors + 1) }
    let sends (x : State) (faults spare : Nat) (block : List Block) : Prop := x.link = s.link ∧ x.log = s.log ∧
      x.ports = s.ports.set u (s.sendsFirst (rested faults) (mkOp .write spare 1 (.repair r.id g.id) s.nextId block))
    let engine (completed : List (Nat × Nat)) (h : Segment) : RequestEngine :=
      { items := (s.onRequest r.id fun q => { q with completed := completed, segs := [h] }).engine.items
        freeBuffers := s.engine.freeBuffers + (g.buffers - h.buffers) }
    let ended (x : State) (faults : Nat) : Prop := kept x ∧ x.ports = s.ports.set u (rested faults)
    (o.op.owner = .segment r.id g.id → o.op.first = g.first ∧ o.op.count = g.count → g.fallback = false →
      ∀ k b, f.stop.toNat = g.first + k → k < g.count → (s.claim u (g.home + k)).1 = .issued b →
        let repaired (kind : RepairKind) : Segment := { g.dropFront k with
          phase := .repairing, repair := some { kind := kind, spare := b, tried := 1, marked := false, wait := .port } }
        (f.outcome = 2 → o.op.kind = .write → ∃ x, exec (.result u frame) s = .next x ∧ kept x ∧
          sends x 1 b ((g.dropFront k).blocks.take 1) ∧ x.map = (s.claim u (g.home + k)).2.map ∧ x.health = s.health ∧
          x.engine = engine (if r.verifyAfter = true ∨ k = 0 then r.completed else addRun g.off k r.completed) (repaired .inlineFault)) ∧
        (f.outcome = 1 → o.op.kind = .verify → ∃ x, exec (.result u frame) s = .next x ∧ kept x ∧
          sends x 0 b ((g.dropFront k).blocks.take 1) ∧ x.map = (s.claim u (g.home + k)).2.map ∧
          x.engine = engine (if k = 0 then r.completed else addRun g.off k r.completed) (repaired .verifyRepair))) ∧
    (∀ p : Repair, o.op.owner = .repair r.id g.id → g.repair = some p → o.op.kind = .write → o.op.count = 1 → o.op.first = p.spare →
      let gone : State := s.discardSpare u p.spare
      let again (p : Repair) : Segment := { g with phase := .repairing, repair := some p }
      (f.outcome = 0 → g.count = 1 → ∃ x, exec (.result u frame) s = .next x ∧ ended x 0 ∧ x.log = s.log ∧
        x.map = (s.install u g.home p.spare p.kind.cause).map ∧
        x.health = (s.install u g.home p.spare p.kind.cause).health ∧ s.Completes x r g .ok 0 none r.recovered ∧
        stream x fun c => (if p.kind = .verifyRepair then c else written c).completedOne) ∧
      (f.outcome = 2 → f.stop.toNat = p.spare → p.kind ≠ .redirect →
        (∀ b, p.tried < 3 → (gone.claim u g.home).1 = .issued b → ∃ x, exec (.result u frame) s = .next x ∧ kept x ∧
          sends x 1 b (g.blocks.take 1) ∧ x.map = (gone.claim u g.home).2.map ∧
          x.engine = engine r.completed (again { kind := p.kind, spare := b, tried := p.tried + 1, marked := false, wait := .port })) ∧
        (3 ≤ p.tried ∨ (∀ b, (gone.claim u g.home).1 ≠ .issued b) → s.store.load = none → g.count = 1 →
          ∃ x, exec (.result u frame) s = .next x ∧ ended x 1 ∧ x.map = gone.map ∧
            x.health.watch = (gone.applyError ⟨u, g.first⟩ p.kind.watchCause).health.watch ∧
            (∃ e : LogEntry, e.kind = (if p.kind = .inlineFault then .writeFault else .verifyFailed) ∧ e.unit = u ∧
              e.block = some ⟨u, g.first⟩ ∧ e.logical = some (r.lba + g.off) ∧ e.item = some r.record.record ∧ x.log = s.log.write e) ∧
            s.Completes x r g .mediaError (r.len - 512 * g.off) (some (r.lba + g.off)) r.recovered ∧ stream x failed)) ∧
      (f.outcome = 3 → p.marked = false → ∃ x, exec (.result u frame) s = .next x ∧ kept x ∧ x.map = s.map ∧ x.health = s.health ∧
        sends x 0 p.spare (g.blocks.take 1) ∧
        x.engine = engine r.completed { g with repair := some { p with marked := true, wait := .port } }) ∧
      (f.outcome = 3 → p.marked = true → g.count = 1 → ∃ x, exec (.result u frame) s = .next x ∧ ended x 0 ∧ x.map = gone.map ∧
        x.log = s.log ∧ s.Completes x r g .unitUnavailable (r.len - 512 * g.off) none r.recovered ∧
        stream x StreamCounters.completedOne)) ∧
    (o.op.owner = .segment r.id g.id → o.op.kind = .write → g.fallback = true → r.verifyAfter = false → g.count = 1 → f.outcome = 0 →
      ∃ x, exec (.result u frame) s = .next x ∧ ended x 0 ∧ x.map = s.map ∧ x.log = s.log ∧
        (∀ e ∈ x.health.watch, e.block = ⟨u, g.first⟩ → e.pending = false ∧ e.score = s.mgmt.params.promotion - 1 ∧ e.age = 0) ∧
        s.Completes x r g .ok 0 none (r.recovered || !f.soft.isEmpty) ∧ stream x fun c => (written c).completedOne)

/-! ### Unit lines, unit frames, timeouts (R71, R72, R76, R81, R83, R85) -/

/-- In reset a line only changes its level (the model's choice, log entry 5). An asserted unit-present line takes an ABSENT port to
ATTACHING: the attempts are 0, the failure cause none, and UNIT_RESET is sent in slot 0; in any other state only the level changes. A
released line takes the port to ABSENT: the capacity is unknown, the desired mode and the write faults stay, UNIT_CHANGE is raised. The
unit-fault line takes a READY port whose desired mode is ACTIVE to READ_ONLY, with UNIT_CHANGE; where the table of R72 gives the state the
port is in, only the level changes (R70, R71, R72, R76, R85). -/
def Obligations.UnitLinesMoveThePort : Prop :=
  ∀ (s : State) (u : Fin 4) (level : Bool),
    let set (p : Port) : State := { s with ports := s.ports.set u p }
    (s.inReset = true →
      exec (.unitPresentAsserted u) s = .next (set { s.port u with present := true }) ∧
      exec (.unitPresentReleased u) s = .next (set { s.port u with present := false }) ∧
      exec (.unitFaultLineChange u level) s = .next (set { s.port u with fault := level })) ∧
    (s.Running →
      ((s.port u).state = .absent → (s.port u).slots = Four.all none → (s.port u).storePlace = none →
        (∀ c, s.scan.context = some c → c.kind = .patrol) → (u = 0 → s.store.save = none) →
        ∃ x, exec (.unitPresentAsserted u) s = .next x ∧
          x.ports = s.ports.set u { s.port u with
            present := true, state := .attaching, attempts := 0, cause := .none, waking := false, identified := false,
            attachPlace := none,
            slots := (Four.all none).set 0 (some (s.sentNow (mkOp .unitReset 0 0 .port s.nextId []))),
            sent := (s.port u).sent ++ [⟨0, .unitReset, 0, 0, []⟩] } ∧
          x.link = s.link ∧ x.engine = s.engine ∧ x.map = s.map ∧ x.health = s.health ∧ x.scan = s.scan ∧ x.log = s.log ∧
          x.mgmt = s.mgmt ∧ x.guard = s.guard ∧ x.store = s.store ∧ x.modes.mode = s.modes.mode) ∧
      ((s.port u).state ≠ .absent →
        exec (.unitPresentAsserted u) s = .next (State.refreshIdle (set { s.port u with present := true }))) ∧
      ((s.port u).state = .absent →
        exec (.unitPresentReleased u) s = .next (State.refreshIdle (set { s.port u with present := false }))) ∧
      ((s.port u).state ≠ .absent → u ≠ 0 → (s.port u).slots = Four.all none → (s.port u).waiting = [] → s.engine.items = [] →
        s.scan.context = none → s.health.slot0 = none → s.health.slot1 = none → s.guard.erase = none →
        ∃ x, exec (.unitPresentReleased u) s = .next x ∧
          x.ports = s.ports.set u { s.port u with
            present := false, state := .absent, capacity := none, cause := .none, powerDownAttempts := 0, sleepRecord := none,
            waking := false, identified := false } ∧
          x.mgmt = { s.mgmt with events := s.mgmt.events ||| Event.unitChange.bit } ∧
          x.link = s.link ∧ x.engine = s.engine ∧ x.map = s.map ∧ x.health = s.health ∧ x.scan = s.scan ∧ x.log = s.log ∧
          x.guard = s.guard ∧ x.store = s.store ∧ x.counters = s.counters ∧ x.modes.mode = s.modes.mode) ∧
      ((s.port u).state = .ready → (s.port u).desired = .active → (s.port u).writeInhibit = false →
        (level = false → exec (.unitFaultLineChange u level) s = .next (State.refreshIdle (set { s.port u with fault := false }))) ∧
        (level = true → u ≠ 0 → ∃ x, exec (.unitFaultLineChange u level) s = .next x ∧
          x.ports = s.ports.set u { s.port u with fault := true, state := .readOnly } ∧
          x.mgmt = { s.mgmt with events := s.mgmt.events ||| Event.unitChange.bit } ∧
          x.link = s.link ∧ x.engine = s.engine ∧ x.map = s.map ∧ x.health = s.health ∧ x.scan = s.scan ∧ x.log = s.log ∧
          x.guard = s.guard ∧ x.store = s.store ∧ x.counters = s.counters ∧ x.modes.mode = s.modes.mode)))

/-- A unit frame that the part discards changes nothing; nor does one for a slot that is empty. DATA of a READ that is outstanding in its
slot is kept for its block. A DONE of the UNIT_RESET of an attach sends IDENTIFY; the timeout of that UNIT_RESET raises the attach attempts,
counts and logs a UNIT_TIMEOUT and, below three attempts, sends UNIT_RESET again. The timeout of a request segment's operation at a port
that serves logs and counts a UNIT_TIMEOUT, and the port begins an attach: UNIT_RESET is sent, what waits in its queue stays. The segment
goes back to PENDING, marked retried, its buffers kept (R61, R76, R81, R83, R195, R202). -/
def Obligations.UnitFramesAndTimeoutsEndOperations : Prop :=
  ∀ (s : State) (u : Fin 4), s.Running →
    let sends (p : Port) (kind : OpKind) (id : Nat) : Port := { p with
      attachPlace := none,
      slots := (Four.all none).set 0 (some (s.sentNow (mkOp kind 0 0 .port id []))),
      sent := p.sent ++ [⟨0, kind, 0, 0, []⟩] }
    (∀ frame, UnitFrame.parse frame = none → exec (.unitData u frame) s = .next s ∧ exec (.result u frame) s = .next s) ∧
    (∀ (frame : List Byte) (slot : Fin 4) (offset : Nat) (block : Block),
      UnitFrame.parse frame = some (.data slot offset block) →
      ((s.port u).slots.get slot = none → exec (.unitData u frame) s = .next s) ∧
      (∀ o, (s.port u).slots.get slot = some o → o.op.kind = .read → offset < o.op.count →
        exec (.unitData u frame) s = .next { s with ports := s.ports.set u { s.port u with
          slots := (s.port u).slots.set slot
            (some { o with arrived := (offset, block) :: o.arrived.filter fun d => d.1 != offset }) } })) ∧
    (∀ (frame : List Byte) (r : ResultFields), UnitFrame.parse frame = some (.result r) →
      ((s.port u).slots.get r.slot = none → exec (.result u frame) s = .next s) ∧
      (∀ (o : Outstanding), (s.port u).state = .attaching → (s.port u).attachPlace = none → (s.port u).storePlace = none →
        (s.port u).slots = (Four.all none).set r.slot (some o) → o.op.kind = .unitReset → o.op.owner = .port → r.kind = 7 →
        r.outcome = 0 → r.soft = [] →
        ∃ x, exec (.result u frame) s = .next x ∧ x.ports = s.ports.set u (sends (s.port u) .identify s.nextId) ∧
          x.link = s.link ∧ x.engine = s.engine ∧ x.map = s.map ∧ x.health = s.health ∧ x.scan = s.scan ∧ x.log = s.log ∧
          x.mgmt = s.mgmt ∧ x.guard = s.guard ∧ x.store = s.store ∧ x.modes.mode = s.modes.mode)) ∧
    (∀ slot : Fin 4,
      ((s.port u).slots.get slot = none → exec (.unitTimeout u slot) s = .next s) ∧
      (∀ (o : Outstanding), u ≠ 0 → s.store.load = none → (s.port u).state = .attaching → (s.port u).attachPlace = none →
        (s.port u).storePlace = none → (s.port u).slots = (Four.all none).set slot (some o) → o.op.kind = .unitReset →
          o.op.owner = .port → o.op.count = 0 →
        (s.port u).attempts < 2 →
        ∃ x, exec (.unitTimeout u slot) s = .next x ∧
          x.ports = s.ports.set u (sends { s.port u with attempts := (s.port u).attempts + 1, identified := false }
            .unitReset s.nextId) ∧
          (∃ e : LogEntry, e.kind = .unitTimeout ∧ e.unit = u ∧ e.block = none ∧ e.item = none ∧ e.mode = s.modes.mode ∧
            x.log = s.log.write e) ∧
          (x.counters.units.get u).timeouts = min 4294967295 ((s.counters.units.get u).timeouts + 1) ∧
          x.mgmt = { s.mgmt with events := s.mgmt.events ||| Event.errorLogged.bit } ∧ x.store = s.store.dirtied ∧
          x.link = s.link ∧ x.engine = s.engine ∧ x.map = s.map ∧ x.health = s.health ∧ x.scan = s.scan ∧
          x.guard = s.guard ∧ x.modes.mode = s.modes.mode) ∧
      (∀ (o : Outstanding) (r : Request) (g : Segment), u ≠ 0 → s.Lawful → s.store.load = none → (s.port u).state.serves = true →
        (s.port u).slots = (Four.all none).set slot (some o) → (s.port u).storePlace = none →
        (∀ c, s.scan.context = some c → c.kind = .patrol) → o.op.owner = .segment r.id g.id → o.op.kind = r.kind.op → o.op.count ≠ 0 →
        r.kind ≠ .sync → s.request? r.id = some r → r.segment? g.id = some g → r.orphan = false → r.cancelled = false → g.retried = false →
        ∃ x, exec (.unitTimeout u slot) s = .next x ∧
          x.ports = s.ports.set u (s.attachBegun (s.port u) false s.nextId) ∧
          x.engine = (s.onSegment r.id g.id fun g => { g with phase := .retry, retried := true }).engine ∧
          (∃ e : LogEntry, e.kind = .unitTimeout ∧ e.unit = u ∧ e.block = some ⟨u, o.op.first⟩ ∧ e.logical = some (r.lba + g.off) ∧
            e.item = some r.record.record ∧ x.log = s.log.write e) ∧
          (x.counters.units.get u).timeouts = min 4294967295 ((s.counters.units.get u).timeouts + 1) ∧
          x.mgmt = { s.mgmt with events := s.mgmt.events ||| Event.errorLogged.bit } ∧ x.store = s.store.dirtied ∧
          x.link = s.link ∧ x.map = s.map ∧ x.health = s.health ∧ x.guard = s.guard ∧ x.modes.mode = s.modes.mode))

/-- An attach ends by the coverage of its capacity, which the port records. Covered, the port enters the state of the table of R72: READY or
READ_ONLY, with UNIT_CHANGE unless a wake ends in the state of its sleep record, or OFFLINE. Not covered, it enters FAILED with cause
CAPACITY, UNIT_CHANGE is raised, and UNIT_FAILED is logged for the unit (R17, R18, R70, R72, R77, R84, R87, R195). -/
def Obligations.AttachesEndByCoverage : Prop :=
  ∀ (s : State) (u : Fin 4) (frame : List Byte) (f : ResultFields) (o : Outstanding), s.Identifies u frame f o →
    let p := s.port u
    let attached : Port :=
      { p with slots := Four.all none, capacity := some f.capacity, waking := false, identified := false, sleepRecord := none }
    let raised := s.mgmt.events ||| Event.unitChange.bit
    let kept (x : State) : Prop := x.link = s.link ∧ x.engine = s.engine ∧ x.map = s.map ∧ x.health = s.health ∧ x.scan = s.scan ∧
      x.guard = s.guard ∧ x.counters.streams = s.counters.streams ∧ x.modes.mode = s.modes.mode
    (s.map.Covers u f.capacity →
      (∀ state : PortState,
        (p.desired = .active ∧ p.fault = false ∧ p.writeInhibit = false ∧ state = .ready) ∨
          (p.desired = .active ∧ (p.fault = true ∨ p.writeInhibit = true) ∧ state = .readOnly) ∨ (p.desired = .readOnly ∧
            state = .readOnly) →
        ∃ x, exec (.result u frame) s = .next x ∧ kept x ∧ x.log = s.log ∧ x.store = s.store ∧
          x.ports = s.ports.set u { attached with state := state } ∧
          x.mgmt = { s.mgmt with events := if p.waking = true ∧ p.sleepRecord = some state then s.mgmt.events else raised }) ∧
      (p.desired = .offline → ∃ x, exec (.result u frame) s = .next x ∧ kept x ∧ x.log = s.log ∧ x.store = s.store ∧
        x.ports = s.ports.set u { attached with state := .offline, powerDownAttempts := 0 } ∧
        x.mgmt = { s.mgmt with events := raised })) ∧
    (¬ s.map.Covers u f.capacity → ∃ x, exec (.result u frame) s = .next x ∧ kept x ∧
      x.ports = s.ports.set u { attached with state := .failed, cause := .capacity, powerDownAttempts := 0 } ∧
      x.mgmt = { s.mgmt with events := raised ||| Event.errorLogged.bit } ∧ x.store = s.store.dirtied ∧
      ∃ e : LogEntry, e.kind = .unitFailed ∧ e.unit = u ∧ e.block = none ∧ e.logical = none ∧ e.item = none ∧ x.log = s.log.write e)

/-! ### Resets (R71, R164, R187 to R190) -/

/-- A reset by the line gives every block its reset values and records its cause; the levels of the unit lines stay, and so do the model's
records of frames sent and its serial numbers (log entries 6, 7). A part that is in reset already stays as it is, a RESET_PART that is not
due does nothing, and a power-on with the line released is that reset followed by its release (log entries 5, 24). The release of the line
does nothing to a part that is up. With no unit fitted it ends the load at once: the store is ABSENT, the guard DISABLED, the start count 1,
the mode CONFIG, and STARTED is raised. With unit 0 alone fitted, port 0 attaches and the mode stays STARTUP. -/
def Obligations.ResetsAndStartUp : Prop :=
  (∀ s : State, let at0 (cause : StartCause) : State :=
      (State.atReset cause s.lines s.link.sent ⟨(s.port 0).sent, (s.port 1).sent, (s.port 2).sent, (s.port 3).sent⟩
        s.nextId s.nextFree s.pending)
    (s.inReset = false → exec (.partReset .resetLine) s = .next (at0 .resetLine) ∧ exec .resetLineReleased s = .next s) ∧
    (s.inReset = true → exec (.partReset .resetLine) s = .next s) ∧
    exec (.partReset (.power true)) s = .next (at0 .powerOn) ∧
    exec (.partReset (.power false)) s = exec .resetLineReleased (at0 .powerOn) ∧
    (s.mgmt.resetStage ≠ .due → exec (.partReset .resetPart) s = .next s) ∧
    (s.inReset = false → s.mgmt.resetStage = .due →
      exec (.partReset .resetPart) s = exec .resetLineReleased (at0 .resetCommand))) ∧
  (∀ (cause : StartCause) (faults : Four Bool) (frames : List HostFrame) (sent : Four (List SentOp)) (id free : Nat)
      (pending : List Instr) (unit0 : Bool),
    let s := State.atReset cause ⟨(unit0, faults.a), (false, faults.b), (false, faults.c), (false, faults.d)⟩ frames sent id free
      pending
    s.modes.mode = .startup ∧ s.guard.state = .locked ∧ s.store.cause = cause ∧
    ∃ x, exec .resetLineReleased s = .next x ∧ x.inReset = false ∧ x.link = s.link ∧ x.engine = s.engine ∧ x.map = s.map ∧
      x.health.watch = [] ∧ x.store.cause = cause ∧
      (unit0 = false → x.modes.mode = .config ∧ x.store.state = .absent ∧ x.store.startCount = 1 ∧ x.store.load = none ∧
        x.guard.state = .disabled ∧ x.mgmt.events = Event.started.bit ∧
        (∀ u, (x.port u).state = .absent) ∧ x.log.ring = [⟨id, .startup cause ⟨some 1, 0⟩⟩]) ∧
      (unit0 = true → x.modes.mode = .startup ∧ x.store = s.store ∧ x.guard = s.guard ∧ x.mgmt = s.mgmt ∧ x.log = s.log ∧
        (x.port 0).state = .attaching ∧ (x.port 0).sent = sent.a ++ [⟨0, .unitReset, 0, 0, []⟩] ∧
        ∀ u, u ≠ 0 → x.port u = s.port u))

/-- What ends a write of the running save at port 0, and how the load ends. A write that is DONE offers the next one, blocks 33 to L after
blocks 1 to 32 where there are more than 32, then the header; the header's ends the save: the generation rises by one (log entry 10 has the
step past the top), SAVE_DONE is raised, and the store is CLEAN, or DIRTY where it is dirty again. WRITE_FAULT or NOT_READY fails the save:
SAVE_FAILED, DIRTY, the retry hold; a fault is logged STORE_WRITE_FAULT (R183, R184). The store's header block is read back for every image
length (log entry 9). A load read that is DONE is followed by the next, or the store is tested; one that ends HARD, or a header of a wrong
mark or length, ends the load not valid. At its end a load sets the saved items, the store's state and its start count, and the guard state;
the part leaves STARTUP for SERVICE where the start mode and the full validation say so, and for CONFIG otherwise (R147, R164, R178, R188,
R189). -/
def Obligations.LoadsAndSavesEnd : Prop :=
  (∀ h : Header, 1 ≤ h.length → h.length ≤ 63 → h.block.length = 512 ∧ readHeader h.block = some h) ∧
  (∀ (s : State) (frame : List Byte) (f : ResultFields) (o : Outstanding) (r : SaveRecord), s.Ends 0 frame f o → o.op.owner = .store →
    o.op.kind = .write → s.store.save = some r → r.stamp = some o.op.stamp → (s.port 0).writeFaults + 1 < s.mgmt.params.writeFaultLimit →
    s.mgmt.resetStage ≠ .save → s.modes.mode ≠ .enteringStandby → r.firstOfErase = false → r.lastOfErase = false → r.eraseDone = false →
    let rested (faults : Nat) : Port := { s.port 0 with slots := Four.all none, writeFaults := (s.port 0).writeFaults + faults }
    let kept (x : State) : Prop := x.link = s.link ∧ x.engine = s.engine ∧ x.map = s.map ∧ x.health = s.health ∧ x.scan = s.scan ∧
      x.guard = s.guard ∧ x.modes.mode = s.modes.mode ∧ x.counters.streams = s.counters.streams
    let goes (x : State) (step : SaveStep) (first : Nat) (blocks : List Block) : Prop := kept x ∧ x.log = s.log ∧ x.mgmt = s.mgmt ∧
      x.store = { s.store with save := some { r with step := step, stamp := some s.nextId } } ∧
      x.ports = s.ports.set 0 (s.sendsFirst (rested 0) (mkOp .write first blocks.length .store s.nextId blocks))
    let failed : StoreController := { s.store with state := .dirty, dirtyAgain := false, retryHold := true, save := none }
    (f.outcome = 0 → r.step = .first → 32 < r.image.length →
      ∃ x, exec (.result 0 frame) s = .next x ∧ goes x .second 33 (r.image.drop 32)) ∧
    (f.outcome = 0 → (r.step = .first ∧ r.image.length ≤ 32) ∨ r.step = .second →
      ∃ x, exec (.result 0 frame) s = .next x ∧ goes x .header 0 [r.header]) ∧
    (f.outcome = 0 → r.step = .header → s.store.generation.toNat < 4294967295 →
      ∃ x, exec (.result 0 frame) s = .next x ∧ kept x ∧ x.log = s.log ∧ x.ports = s.ports.set 0 (rested 0) ∧
        x.mgmt = { s.mgmt with events := s.mgmt.events ||| Event.saveDone.bit } ∧
        x.store = { s.store with
          state := if s.store.dirtyAgain = true then .dirty else .clean
          dirtyAgain := false
          generation := s.store.generation + 1
          retryHold := false
          save := none }) ∧
    (f.outcome = 3 → ∃ x, exec (.result 0 frame) s = .next x ∧ kept x ∧ x.log = s.log ∧ x.ports = s.ports.set 0 (rested 0) ∧
      x.mgmt = { s.mgmt with events := s.mgmt.events ||| Event.saveFailed.bit } ∧ x.store = failed) ∧
    (f.outcome = 2 → o.op.first ≤ f.stop.toNat → f.stop.toNat < o.op.first + o.op.count →
      ∃ x, exec (.result 0 frame) s = .next x ∧ kept x ∧ x.ports = s.ports.set 0 (rested 1) ∧ x.store = failed ∧
        x.mgmt = { s.mgmt with events := s.mgmt.events ||| Event.saveFailed.bit ||| Event.errorLogged.bit } ∧
        ∃ e : LogEntry, e.kind = .storeWriteFault ∧ e.unit = 0 ∧ e.block = some ⟨0, f.stop.toNat⟩ ∧ e.logical = none ∧
          x.log = s.log.write e)) ∧
  (∀ (s : State) (l : Load) (o : Op) (data : List (Nat × Block)), s.store.load = some l → l.stamp = some o.stamp →
    let blocks : List Block := data.map fun d => d.2
    let ends (outcome : LoadOutcome) : State := { s with todo := s.todo ++ [.loadEnds outcome] }
    let reads (l : Load) (first count : Nat) : Prop := (s.port 0).state = .attaching → (s.port 0).Rests → (s.port 0).attachPlace = none →
      ∃ c, s.loadReadEnded o (.done [] data 0) = { s with
        nextId := s.nextId + 1, counters := c
        ports := s.ports.set 0 (s.sendsFirst (s.port 0) (mkOp .read first count .store s.nextId []))
        store := { s.store with load := some { l with stamp := some s.nextId } } }
    (∀ stop d, s.loadReadEnded o (.hardRead stop d) = ends .notValid) ∧
    (l.step = .header → readHeader blocks.flatten = none → s.loadReadEnded o (.done [] data 0) = ends .notValid) ∧
    (∀ h, l.step = .header → readHeader blocks.flatten = some h → reads { l with step := .first, header := some h } 1 (min 32 h.length)) ∧
    (∀ h, l.header = some h →
      (l.step = .first → 32 < h.length → reads { l with step := .second, image := blocks } 33 (h.length - 32)) ∧
      (∀ image, (l.step = .first ∧ h.length ≤ 32 ∧ image = blocks) ∨ (l.step = .second ∧ image = l.image ++ blocks) →
        (∀ v, readImage h image = some v → s.loadReadEnded o (.done [] data 0) = ends (.valid h v)) ∧
        (readImage h image = none → s.loadReadEnded o (.done [] data 0) = ends .notValid)))) ∧
  (∀ (s : State) (outcome : LoadOutcome), s.loadEnded = false → s.log.held = [] →
    (∀ u, (s.port u).state ≠ .attaching ∨ (s.port u).identified = false) →
    let x := s.loadEnds outcome
    let sets (v : Saved) (g : GuardState) : Prop :=
      x.map = { regions := v.regions, pins := v.pins, learned := v.learned, pools := v.pools } ∧
      x.mgmt = { s.mgmt with params := v.params, streams := v.streams } ∧
      x.guard = { s.guard with state := g, level := v.level, userCode := v.userCode, recoveryCode := v.recoveryCode } ∧
      x.log = { s.log with
        slots := v.slots
        latest := v.latest
        lifetime := v.lifetimeErrors
        ring := s.log.ring.map (RingRec.close x.store.startCount) } ∧
      x.health = { s.health with watch := v.watch } ∧ x.scan = { s.scan with log := v.scanLog } ∧
      x.counters = { s.counters with lifetime := v.relocations } ∧ x.ports = s.ports ∧ x.link = s.link ∧ x.modes = s.modes
    let store (state : StoreState) (generation start : Word) : Prop :=
      x.store = { s.store with state := state, generation := generation, startCount := start, load := none }
    (∀ h v, outcome = .valid h v → h.startCount.toNat < 4294967295 →
      sets v (match v.stored with | .eraseIncomplete => .eraseIncomplete | .set => .locked | .disabled => .disabled) ∧
      store .clean h.generation (h.startCount + 1) ∧ x.todo = s.todo ++ [.leaveStartup true false]) ∧
    (outcome = .notValid → sets .fresh .disabled ∧ store .invalid 0 1 ∧ x.todo = s.todo ++ [.leaveStartup false true]) ∧
    (outcome = .absent → sets .fresh .disabled ∧ store .absent 0 1 ∧ x.todo = s.todo ++ [.leaveStartup false false])) ∧
  (∀ (s : State) (valid invalid : Bool), s.scan.context = none → s.mgmt.params.autoPatrol = false →
    let x := s.leaveStartup valid invalid
    let wanted : Prop := valid = true ∧ s.mgmt.params.startService = true
    x.modes.mode = (if wanted ∧ s.validate = none then .service else .config) ∧
    x.mgmt = { s.mgmt with events := s.mgmt.events ||| Event.started.bit ||| (if invalid = true then Event.storeInvalid.bit else 0) |||
      (if wanted ∧ s.validate ≠ none then Event.modeChange.bit else 0) } ∧
    x.scan = { s.scan with quietTimer := .running s.ms s.mgmt.params.quietTime } ∧
    x.health = { s.health with
      aging := if s.mgmt.params.agingPeriod = 0 then .stopped else .running s.ms (s.mgmt.params.agingPeriod * 60000) } ∧
    x.map = s.map ∧ x.ports = s.ports ∧ x.log = s.log ∧ x.guard = s.guard ∧ x.store = s.store ∧ x.link = s.link)

/-! ### Timers (R86, R95, R111, R119, R120, R170, R176, R177) -/

/-- An expiry of a timer that does not run does nothing (the model's choice, log entry 3). The aging timer ages every watch entry that is
neither pending nor in relocation, one step of age or, at age 3, one of score, and out at score 1; the due flags follow the scores, and the
timer starts again. The quiet timer sets the quiet flag: a running scan's suspend request is withdrawn, a SUSPENDED PATROL without a VERIFY
runs on and cuts. The idle timer enters standby: MODE_CHANGE, and ENTERING_STANDBY, saving first where the store is DIRTY, autosave is on
and port 0 READY, with every serving port asked to power down otherwise; with standby disabled it is spent. After every step the idle timer
runs where its condition holds: it starts for the full period of the idle code, goes on, or stays spent; where the condition fails it stops
(R95, R111, R112, R170, R171, R177). -/
def Obligations.TimersExpire : Prop :=
  ∀ s : State, s.Running →
    (s.health.aging = .stopped → exec .agingExpiry s = .next s) ∧
    (s.scan.quietTimer = .stopped → exec .quietTimerExpiry s = .next s) ∧
    ((∀ a b, s.modes.idle ≠ .running a b) → exec .idleTimerExpiry s = .next s) ∧
    (∀ a b, s.health.aging = .running a b → s.mgmt.params.agingPeriod ≠ 0 →
      ∃ x, exec .agingExpiry s = .next x ∧
        x.health.watch = ((s.health.watch.filterMap fun e =>
          if e.pending = true ∨ s.health.inRelocation e.block = true then some e
          else if e.age < 3 then some { e with age := e.age + 1 }
          else if 2 ≤ e.score then some { e with score := e.score - 1 } else none).map fun e =>
            { e with due := decide (s.mgmt.params.promotion ≤ e.score) && !e.pending }) ∧
        x.health.aging = .running s.ms (s.mgmt.params.agingPeriod * 60000) ∧
        x.store = (if x.health.watch = s.health.watch then s.store else s.store.dirtied) ∧
        x.link = s.link ∧ x.engine = s.engine ∧ x.map = s.map ∧ x.ports = s.ports ∧ x.scan = s.scan ∧ x.log = s.log ∧
        x.guard = s.guard ∧ x.counters = s.counters ∧ x.mgmt.params = s.mgmt.params ∧ x.mgmt.response = s.mgmt.response) ∧
    (∀ a b, s.scan.quietTimer = .running a b →
      let quiet (state : ScanState) (c : Option ScanContext) : ScanEngine := { s.scan with
        quiet := true, quietTimer := .stopped, state := state, context := c }
      (s.scan.context = none → exec .quietTimerExpiry s = .next (State.refreshIdle { s with scan := quiet s.scan.state none })) ∧
      (∀ c, s.scan.context = some c → s.modes.mode = .service ∨ s.modes.mode = .config →
        (s.scan.state = .running → exec .quietTimerExpiry s = .next (State.refreshIdle
          { s with scan := quiet .running (some { c with suspendRequested := false }) })) ∧
        (s.scan.state = .suspended → c.current = none → exec .quietTimerExpiry s = .next (State.finish (State.scanCut { s with
          scan := quiet .running (some { c with suspendRequested := false }), modes := { s.modes with idle := .stopped } }))))) ∧
    (∀ a b, s.modes.idle = .running a b →
      (s.mgmt.params.standbyDisabled = true →
        exec .idleTimerExpiry s = .next { s with modes := { s.modes with idle := .spent } }) ∧
      (s.mgmt.params.standbyDisabled = false → s.scan.context = none →
        ∃ x, exec .idleTimerExpiry s = .next x ∧ s.EntersStandby x ∧ x.modes.idle = .stopped ∧
          x.mgmt = { s.mgmt with events := s.mgmt.events ||| Event.modeChange.bit } ∧ x.link = s.link ∧ x.guard = s.guard)) ∧
    (let holds := s.modes.mode = .service ∧ s.engine.items = [] ∧ s.scan.state ≠ .running ∧ s.store.save = none ∧
        s.health.slot0 = none ∧ s.health.slot1 = none ∧ s.nextEligible = none ∧ s.guard.state ≠ .erasing ∧ s.mgmt.params.idleCode ≠ 0
      let code := s.mgmt.params.idleCode
      (¬ holds → s.refreshIdle = { s with modes := { s.modes with idle := .stopped } }) ∧
      (holds → s.modes.idle = .stopped → s.refreshIdle = { s with modes := { s.modes with
        idle := .running s.ms (if code ≤ 200 then code * 2000 else (code - 200) * 60000) } }) ∧
      (holds → s.modes.idle ≠ .stopped → s.refreshIdle = s))

/-! ### Modes (R86, R87, R141, R168 to R170, R172, R174) -/

/-- A drain ends when the admission list is empty and no save runs. Toward CONFIG, the mode becomes CONFIG; toward STANDBY, standby entry
begins; the waiting SET_MODE ends DONE with the mode reached. Toward RESET, the save step of RESET_PART follows: with a DIRTY store and a
READY port 0 a save starts, otherwise the command is answered and the part reset is due (the bytes are log entry 17). A POWER_DOWN placed at
a port with nothing outstanding and nothing waiting is sent. When every port is down, the powering-down phase ends in STANDBY with
MODE_CHANGE, or, where a wake was requested or erase work remains, in WAKING, with POWER_UP sent at each sleeping port. When every port is
settled, WAKING ends in SERVICE with MODE_CHANGE and the waiting SET_MODE ends DONE. Where its condition does not hold, none of the four
does anything (R86, R87, R168, R172, R174; log entry 2). -/
def Obligations.ModeStepsMoveTheMode : Prop :=
  ∀ s : State, s.Running →
    let changed : ManagementEngine := { s.mgmt with events := s.mgmt.events ||| Event.modeChange.bit }
    (s.modes.mode ≠ .draining ∨ s.engine.items ≠ [] ∨ s.store.save ≠ none → exec .drainEnd s = .next s) ∧
    (∀ (t : Taken) (w : Bool), s.modes.mode = .draining → s.modes.drain = .config → s.engine.items = [] → s.store.save = none →
      s.scan.context = none → s.mgmt.taken = some t → s.modes.waiting.isSome = w →
      ∃ idle, exec .drainEnd s = .next
        (if w then ({ s with modes := { s.modes with mode := .config, phase := .none, drain := .none, waiting := none, idle :=
          idle } }).answered
            t .done [BitVec.ofNat 8 PartMode.config.code]
          else { s with modes := { s.modes with mode := .config, phase := .none, drain := .none, idle := idle } })) ∧
    (s.modes.mode = .draining → s.modes.drain = .standby → s.engine.items = [] → s.store.save = none → s.scan.context = none →
      (s.modes.waiting = none → ∃ x, exec .drainEnd s = .next x ∧ s.EntersStandby x ∧ x.mgmt = s.mgmt ∧ x.link = s.link) ∧
      (∀ (m : PartMode) (t : Taken), s.modes.waiting = some m → s.mgmt.taken = some t → ∃ x, exec .drainEnd s = .next x ∧
        s.EntersStandby x ∧ s.Answers x t .done (le1 PartMode.enteringStandby.code) ∧ x.modes.waiting = none ∧
        x.mgmt.events = s.mgmt.events)) ∧
    (∀ t, s.modes.mode = .draining → s.modes.drain = .reset → s.engine.items = [] → s.store.save = none → s.mgmt.taken = some t →
      let saves := s.store.state = .dirty ∧ (s.port 0).state = .ready
      (¬ saves → ∃ x, exec .drainEnd s = .next x ∧ x.mgmt.resetStage = .due ∧ x.mgmt.taken = none ∧
        x.mgmt.response = { seq := t.seq, code := t.code, result := .done,
                            data := flag false ++ flag false ++ le1 s.store.state.code ++ le4 s.store.generation.toNat } ∧
        x.link = (s.answered t .done []).link ∧ x.modes.mode = .draining ∧ x.modes.drain = .none ∧ x.store = s.store ∧
        x.ports = s.ports ∧ x.map = s.map) ∧
      (saves → ∃ x r, exec .drainEnd s = .next x ∧ x.mgmt.resetStage = .save ∧ x.mgmt.taken = some t ∧ x.store.state = .saving ∧
        x.store.save = some r ∧ r.step = .first ∧ r.command = some t.record ∧ x.modes.mode = .draining ∧ x.link = s.link ∧
        x.map = s.map)) ∧
    (∀ u : Fin 4, ((s.port u).attachPlace = none → exec (.powerDown u) s = .next s) ∧
      ((s.port u).slots ≠ Four.all none → exec (.powerDown u) s = .next s) ∧
      (∀ o, (s.port u).attachPlace = some o → o.kind = .powerDown → (s.port u).state.serves = true →
        (s.port u).slots = Four.all none → (s.port u).queue = [] → (s.port u).scanPlace = none → (s.port u).storePlace = none →
        ∃ x, exec (.powerDown u) s = .next x ∧
          x.ports = s.ports.set u { s.port u with
            attachPlace := none
            slots := (Four.all none).set 0 (some (s.sentNow o))
            sent := (s.port u).sent ++ [⟨0, .powerDown, o.first, o.count, o.data⟩] } ∧
          x.link = s.link ∧ x.engine = s.engine ∧ x.map = s.map ∧ x.health = s.health ∧ x.scan = s.scan ∧ x.log = s.log ∧
          x.mgmt = s.mgmt ∧ x.guard = s.guard ∧ x.modes = s.modes ∧ x.store = s.store)) ∧
    (s.modes.mode ≠ .enteringStandby ∨ s.modes.phase ≠ .poweringDown ∨
      (∃ u, (s.port u).state = .ready ∨ (s.port u).state = .readOnly ∨ (s.port u).state = .attaching) →
      exec .poweringDownComplete s = .next s) ∧
    (s.modes.mode = .enteringStandby → s.modes.phase = .poweringDown → s.engine.items = [] →
      (s.modes.wakeRequested = false → s.guard.state ≠ .erasing →
        (∀ u, (s.port u).state = .absent ∨ (s.port u).state = .offline ∨ (s.port u).state = .sleeping ∨ (s.port u).state = .failed) →
        exec .poweringDownComplete s = .next { s with
          mgmt := changed, modes := { s.modes with mode := .standby, phase := .none, idle := .stopped } }) ∧
      (s.modes.wakeRequested = true ∨ s.guard.state = .erasing → s.store.save = none →
        (∀ c, s.scan.context = some c → c.kind = .patrol) →
        (∀ u, (s.port u).state = .absent ∨ (s.port u).state = .offline ∨ (s.port u).state = .failed ∨
          ((s.port u).state = .sleeping ∧ (s.port u).desired ≠ .offline ∧ (s.port u).Rests)) →
        ∃ x, exec .poweringDownComplete s = .next x ∧
          x.modes = { s.modes with mode := .waking, phase := .none, wakeRequested := false, idle := .stopped } ∧ x.mgmt = changed ∧
          x.link = s.link ∧ x.engine = s.engine ∧ x.map = s.map ∧ x.health = s.health ∧ x.scan = s.scan ∧ x.log = s.log ∧
          x.guard = s.guard ∧ x.store = s.store ∧
          ∀ u, ((s.port u).state ≠ .sleeping → x.port u = s.port u) ∧
            ((s.port u).state = .sleeping → ∃ n, x.port u = s.attachBegun (s.port u) true n))) ∧
    (s.modes.mode ≠ .waking ∨ (∃ u, (s.port u).state = .sleeping ∨ (s.port u).state = .attaching) →
      exec .wakeSettled s = .next s) ∧
    (s.modes.mode = .waking → (∀ u, (s.port u).state ≠ .sleeping ∧ (s.port u).state ≠ .attaching) → s.scan.context = none →
      s.mgmt.params.autoPatrol = false →
      let serves (idle : IdleTimer) : State := { s with
        mgmt := changed, modes := { s.modes with mode := .service, phase := .none, drain := .none, waiting := none, idle := idle } }
      (s.modes.waiting = none → ∃ idle, exec .wakeSettled s = .next (serves idle)) ∧
      (∀ (m : PartMode) (t : Taken), s.modes.waiting = some m → s.mgmt.taken = some t →
        ∃ idle, exec .wakeSettled s = .next ((serves idle).answered t .done (le1 PartMode.service.code))))

/-! ### Work that starts (R101, R105, R157, R158, R182, R183) -/

/-- A save is taken only when it is asked for, or autosave finds the store DIRTY without a retry hold; then the store is SAVING, its image
is formed with the next generation, and its first write is under way. The wait of an erase ends when no item works on a guarded region: its
first WRITE of zeros is queued. A relocation starts for the earliest eligible entry in an empty slot: HELD where the list holds it, and
otherwise with the spare that its claim issues, waiting for a buffer; where the claim is refused EXHAUSTED or TABLE_FULL it ends at once,
TABLE_FULL with the table-full hold. A redirect claims a spare and queues the block's WRITE to it, or sends it where the port has nothing
else to do; where the claim is refused the block is written where it lies, as the fallback. Where its condition does not hold, none of the
four does anything (R54, R99, R101, R105, R106, R157, R158, R182, R183; log entry 2). -/
def Obligations.WorkStartsWhenItMay : Prop :=
  ∀ s : State, s.Running →
    (s.store.state = .absent ∨ s.store.state = .saving ∨ (s.port 0).state ≠ .ready ∨ s.modes.mode = .startup ∨
      (s.store.saveAsked = false ∧ (s.mgmt.params.autosave = false ∨ s.store.state ≠ .dirty ∨ s.store.retryHold = true)) →
      exec .takeSave s = .next s) ∧
    (s.store.state = .clean ∨ s.store.state = .dirty ∨ s.store.state = .invalid → (s.port 0).state = .ready →
      s.modes.mode = .config ∨ s.modes.mode = .service ∨ s.modes.mode = .draining →
      s.store.saveAsked = true ∨ (s.mgmt.params.autosave = true ∧ s.store.state = .dirty ∧ s.store.retryHold = false) →
      ∃ x, exec .takeSave s = .next x ∧ x.store.state = .saving ∧ x.store.saveAsked = false ∧ x.store.dirtyAgain = false ∧
        x.store.generation = s.store.generation ∧
        (∃ r, x.store.save = some r ∧ r.step = .first ∧
          r.image = imageBlocks (nextGeneration s.store.generation) s.savedItems.length s.savedItems.stream) ∧
        x.link = s.link ∧ x.engine = s.engine ∧ x.map = s.map ∧ x.health = s.health ∧ x.scan = s.scan ∧ x.log = s.log ∧
        x.mgmt = s.mgmt ∧ x.guard = s.guard ∧ x.modes.mode = s.modes.mode) ∧
    (s.guard.inPhase .waiting = false ∨ s.guardedWork = true → exec .eraseWaitEnd s = .next s) ∧
    (∀ e, s.guard.erase = some e → e.phase = .waiting → e.write = none → e.index = 0 → e.offset = 0 → s.guardedWork = false →
      s.map.regions[0].valid = true → s.map.regions[0].guarded = true → 0 < s.map.regions[0].count →
      let r := s.map.regions[0]
      let found := s.map.cut r.unit (fun _ => true) r.physical r.count
      (s.port r.unit).state.unavailable = false → (s.port r.unit).queue.length < 64 →
      (s.port r.unit).slots.toList.all (fun o => o.isSome) = true →
      exec .eraseWaitEnd s = .next (State.refreshIdle { s with
        nextId := s.nextId + 1
        guard := { s.guard with erase := some { e with phase := .writing, tried := 0, write := some {
          unit := r.unit, home := r.physical, first := found.1, count := found.2, retried := false, wait := .port, repair := none } } }
        ports := s.ports.set r.unit { s.port r.unit with queue := (s.port r.unit).queue ++
          [mkOp .write found.1 found.2 .erase s.nextId (List.replicate found.2 (List.replicate 512 0))] } })) ∧
    (s.health.slot0 ≠ none → s.health.slot1 ≠ none → exec .relocationStart s = .next s) ∧
    (s.nextEligible = none → exec .relocationStart s = .next s) ∧
    (∀ e h r, s.nextEligible = some (e, h, r) → s.health.slot0 = none →
      let item (held : Bool) : RelocItem := { id := s.nextId, slot := 0, home := ⟨e.block.unit, h, 1⟩, held := held }
      let held : State := { s with
        nextId := s.nextId + 1
        engine := { s.engine with items := s.engine.items ++ [.reloc (item true)] }
        health := { s.health with slot0 := some {
          item := s.nextId, block := e.block.block, home := h, unit := e.block.unit, resolution := r, spare := none, tried := 0,
          retried := false, step := .held, wait := .port, data := [] } }
        modes := { s.modes with idle := .stopped } }
      (s.holds s.engine.items (.reloc (item true)) = true → exec .relocationStart s = .next held.refreshIdle) ∧
      (s.Lawful → s.holds s.engine.items (.reloc (item true)) = false →
        let claimed := s.claim e.block.unit h
        let rest (x : State) : Prop := x.map = claimed.2.map ∧ x.link = s.link ∧ x.ports = s.ports ∧ x.guard = s.guard ∧
          x.counters = s.counters ∧ x.log = s.log
        (∀ b, claimed.1 = .issued b → ∃ x, exec .relocationStart s = .next x ∧ rest x ∧
          x.engine = { s.engine with items := s.engine.items ++ [.reloc (item false)] } ∧
          x.health = { s.health with slot0 := some {
            item := s.nextId, block := e.block.block, home := h, unit := e.block.unit, resolution := r, spare := some b, tried := 1,
            retried := false, step := .buffer, wait := .port, data := [] } }) ∧
        (claimed.1 = .exhausted → ∃ x, exec .relocationStart s = .next x ∧ rest x ∧ x.map = s.map ∧ x.engine = s.engine ∧
          x.health = s.health) ∧
        (claimed.1 = .tableFull → ∃ x, exec .relocationStart s = .next x ∧ rest x ∧ x.map = s.map ∧ x.engine = s.engine ∧
          x.health = { s.health with tableFull := true } ∧
          x.mgmt.events = s.mgmt.events ||| Event.spareExhausted.bit))) ∧
    ((∀ r, Item.host r ∈ s.engine.items → ∀ g ∈ r.segs, (∀ n, g.phase ≠ .redirect n) ∨ 64 ≤ (s.port g.unit).queue.length) →
      exec .pendingWriteRedirect s = .next s) ∧
    (∀ (r : Request) (g : Segment) (tried : Nat), s.Lawful → s.engine.items.findSome? s.redirectOf = some (r, g, tried) →
      s.request? r.id = some r → r.segment? g.id = some g → r.kind = .write → (s.port g.unit).state.serves = true →
      let claimed := s.claim g.unit g.home
      let rest (x : State) : Prop := x.map = claimed.2.map ∧ x.link = s.link ∧ x.guard = s.guard ∧ x.health = s.health ∧ x.log = s.log
      let engine (f : Segment → Segment) : RequestEngine := (s.onSegment r.id g.id f).engine
      let repairs (b : Nat) (g : Segment) : Segment := { g with
        phase := .repairing, repair := some { kind := .redirect, spare := b, tried := tried + 1, marked := false, wait := .port } }
      let spareWrite (b : Nat) : Op := mkOp .write b 1 (.repair r.id g.id) s.nextId (g.blocks.take 1)
      (∀ b, claimed.1 = .issued b →
        ((s.port g.unit).queue.length < 64 → (s.port g.unit).slots.toList.all (fun o => o.isSome) = true →
          ∃ x, exec .pendingWriteRedirect s = .next x ∧ rest x ∧ x.engine = engine (repairs b) ∧ x.counters = s.counters ∧
            x.ports = s.ports.set g.unit { s.port g.unit with queue := (s.port g.unit).queue ++ [spareWrite b] }) ∧
        ((s.port g.unit).Rests → (s.port g.unit).attachPlace = none →
          ∃ x, exec .pendingWriteRedirect s = .next x ∧ rest x ∧ x.engine = engine (repairs b) ∧
            x.ports = s.ports.set g.unit (s.sendsFirst (s.port g.unit) (spareWrite b)))) ∧
      ((∀ b, claimed.1 ≠ .issued b) → (s.port g.unit).Rests → (s.port g.unit).attachPlace = none →
        ∃ x, exec .pendingWriteRedirect s = .next x ∧ rest x ∧ x.map = s.map ∧
          x.engine = engine (fun g => { g with phase := .issued, fallback := true, repair := none }) ∧
          x.ports = s.ports.set g.unit (s.sendsFirst (s.port g.unit)
            (mkOp .write g.first g.count (.segment r.id g.id) s.nextId g.blocks)) ∧
          (claimed.1 = .pinned → x.mgmt.events = s.mgmt.events ||| Event.pinTargetSuspect.bit) ∧
          (claimed.1 = .exhausted → x.mgmt.events = s.mgmt.events) ∧
          (claimed.1 = .tableFull → x.mgmt.events = s.mgmt.events ||| Event.spareExhausted.bit)))

/-! ### Relocations and scans that go on (R102, R103, R112, R116 to R119) -/

/-- What ends an operation of the relocation in a slot (R102, R103). READ: DONE keeps the block and sends the WRITE to the spare; HARD
returns the spare, is logged RELOCATE_FAILED and ends the relocation; a first TIMEOUT waits for the port's attach, a second, NOT_READY and
UNIT_UNAVAILABLE return the spare and end it. WRITE: DONE installs the spare; a fault discards it, and below three spares the next is
claimed and written, while after three, or with the claim refused, RELOCATE_FAILED is logged and the relocation ends, TABLE_FULL with the
table-full hold; a first TIMEOUT waits, a second, NOT_READY and UNIT_UNAVAILABLE discard the spare and end it. A relocation that ends leaves
the list, empties its slot and gives its buffer back (R101). A RESULT that ends such an operation does the same to the part. -/
def Obligations.RelocationsEndByTheirOutcomes : Prop :=
  (∀ (s : State) (k : Fin 2) (r : Relocation) (b : Nat), s.health.slot k = some r → r.spare = some b →
    r.step = .read ∨ r.step = .write →
    let port := s.port r.unit
    let ended (x : State) : State := { x with
      health := x.health.withSlot none k
      engine := { items := x.engine.items.filter (fun i => i.request?.isSome || i.id != r.item), freeBuffers := x.engine.freeBuffers + 1 } }
    let logged (x : State) : State := x.report { kind := .relocateFailed, unit := r.unit, block := some r.block, logical := none,
                                                 item := none, ofSave := false }
    let waits : State := { s with health := s.health.withSlot (some { r with retried := true, wait := .retry }) k }
    let sends (x y : State) (spare tried : Nat) (block : Block) : Prop := ∃ c, y = { x with
      nextId := s.nextId + 1, counters := c
      health := x.health.withSlot
        (some { r with step := .write, data := block, retried := false, wait := .port, spare := some spare, tried := tried }) k
      ports := s.ports.set r.unit (s.sendsFirst port (mkOp .write spare 1 (.reloc k) s.nextId [block])) }
    (r.step = .read →
      (∀ soft i block capacity, port.state.serves = true → port.Rests → port.attachPlace = none →
        sends s (s.relocEnded k .read (.done soft [(i, block)] capacity)) b r.tried block) ∧
      (∀ stop data, s.relocEnded k .read (.hardRead stop data) = ended (logged (s.returnSpare r.unit b))) ∧
      (r.retried = false → s.relocEnded k .read .timeout = waits) ∧
      (r.retried = true → s.relocEnded k .read .timeout = ended (s.returnSpare r.unit b)) ∧
      s.relocEnded k .read .notReady = ended (s.returnSpare r.unit b) ∧
      s.relocEnded k .read .unavailable = ended (s.returnSpare r.unit b)) ∧
    (r.step = .write →
      let gone : State := s.discardSpare r.unit b
      let claimed := gone.claim r.unit r.home
      (∀ soft data capacity, s.relocEnded k .write (.done soft data capacity) = ended (s.install r.unit r.home b .promotion)) ∧
      (∀ stop,
        (∀ b', r.tried < 3 → claimed.1 = .issued b' → port.state.serves = true → port.Rests → port.attachPlace = none →
          sends claimed.2 (s.relocEnded k .write (.writeFault stop)) b' (r.tried + 1) r.data) ∧
        (3 ≤ r.tried → s.relocEnded k .write (.writeFault stop) = ended (logged gone)) ∧
        (r.tried < 3 → claimed.1 = .exhausted ∨ claimed.1 = .pinned →
          s.relocEnded k .write (.writeFault stop) = ended (logged gone)) ∧
        (r.tried < 3 → claimed.1 = .tableFull → s.relocEnded k .write (.writeFault stop) = ended (logged { claimed.2 with
          health := { claimed.2.health with tableFull := true } }))) ∧
      (r.retried = false → s.relocEnded k .write .timeout = waits) ∧
      (r.retried = true → s.relocEnded k .write .timeout = ended gone) ∧
      s.relocEnded k .write .notReady = ended gone ∧
      s.relocEnded k .write .unavailable = ended gone)) ∧
  (∀ (s : State) (u : Fin 4) (frame : List Byte) (f : ResultFields) (o : Outstanding) (k : Fin 2) (r : Relocation) (b : Nat),
    s.Ends u frame f o → o.op.owner = .reloc k → s.health.slot k = some r → r.unit = u → r.spare = some b → o.op.count = 1 →
    let left (x : State) : Prop := x.health.slot k = none ∧ x.link = s.link ∧ x.guard = s.guard ∧ x.modes.mode = s.modes.mode ∧
      x.engine = { items := s.engine.items.filter (fun i => i.request?.isSome || i.id != r.item),
                   freeBuffers := s.engine.freeBuffers + 1 } ∧
      x.ports = s.ports.set u { s.port u with slots := Four.all none }
    (r.step = .write → o.op.kind = .write → f.outcome = 0 → ∃ x, exec (.result u frame) s = .next x ∧ left x ∧
      x.map = (s.install u r.home b .promotion).map ∧ x.health.watch = (s.install u r.home b .promotion).health.watch ∧ x.log = s.log) ∧
    (r.step = .write → o.op.kind = .write → f.outcome = 3 → ∃ x, exec (.result u frame) s = .next x ∧ left x ∧
      x.map = (s.discardSpare u b).map ∧ x.health.watch = s.health.watch ∧ x.log = s.log) ∧
    (r.step = .read → o.op.kind = .read → f.outcome = 3 → ∃ x, exec (.result u frame) s = .next x ∧ left x ∧
      x.map = (s.returnSpare u b).map ∧ x.health.watch = s.health.watch ∧ x.log = s.log))

/-- What ends the current VERIFY of a scan, and what a scan does next. DONE and HARD move the cursor past the blocks verified and count
them; a failure is counted, the first one named; a PATROL goes on, a CHECK ends FAILED. A PATROL keeps a VERIFY that ends TIMEOUT the first
time and skips the blocks of one that ends in any other way; a CHECK ends UNIT_LOST. A PATROL asked to suspend whose pass is not over is
SUSPENDED then, while traffic lasts. A RUNNING scan without a VERIFY cuts the next one at its cursor; at the end of its coverage it ends
PASSED, FAILURES_FOUND or, with nothing verified, NO_COVERAGE, and a PATROL under auto-patrol that verified something writes its result and
begins a new pass. A port that stops serving ends the CHECK of its unit UNIT_LOST (R110, R112, R116 to R119). -/
def Obligations.ScansGoOnByTheirOutcomes : Prop :=
  ∀ (s : State) (c : ScanContext), s.scan.context = some c →
    let context (c : ScanContext) : State := { s with scan := { s.scan with context := some c } }
    let written (c : ScanContext) (result : ScanResult) (scan : ScanEngine) : State := { s with
      scan := { scan with log := pushBounded 16 s.scan.log {
        kind := c.kind, unit := c.unit, result := result, verified := c.verified, firstFailing := c.firstFailing, stamp := s.now } }
      mgmt := { s.mgmt with events := s.mgmt.events ||| Event.scanEnded.bit }, store := s.store.dirtied }
    let ended (c : ScanContext) (result : ScanResult) : State := written c result { s.scan with state := .idle, context := none }
    (∀ (v : ScanVerify) (o : Op), c.current = some v → v.stamp = some o.stamp → (s.port v.extent.unit).scanPlace = none →
      let past (n : Nat) : ScanContext := match c.phase with
        | .store => { c with index := c.index + n, current := none }
        | .regions => { c with offset := c.offset + n, current := none }
        | .targets => { c with index := c.index + 1, current := none }
      let done : ScanContext := { past v.extent.count with verified := min 4294967295 (c.verified + v.extent.count) }
      let failed (stop : Nat) : ScanContext :=
        let k := stop - v.extent.first + 1
        { past k with
          verified := min 4294967295 (c.verified + k), failures := min 65535 (c.failures + 1),
          firstFailing := if c.firstFailing.isSome = true then c.firstFailing else some ⟨v.extent.unit, stop⟩ }
      let runs := c.kind = .patrol → c.suspendRequested = false
      (∀ soft data capacity, runs → s.scanEnded o (.done soft data capacity) = (context done).scanCut) ∧
      (∀ stop data, c.kind = .patrol → c.suspendRequested = false →
        s.scanEnded o (.hardRead stop data) = (context (failed stop)).scanCut) ∧
      (∀ stop data, c.kind ≠ .patrol → s.scanEnded o (.hardRead stop data) = ended (failed stop) .failed) ∧
      (c.kind = .patrol → c.suspendRequested = false → v.retried = false →
        s.scanEnded o .timeout = context { c with current := some { v with retried := true, stamp := none } }) ∧
      (∀ out, out = .notReady ∨ out = .unavailable ∨ (out = .timeout ∧ (c.kind = .patrol → v.retried = true)) →
        (c.kind = .patrol → c.suspendRequested = false → s.scanEnded o out = (context (past v.extent.count)).scanCut) ∧
        (c.kind ≠ .patrol → s.scanEnded o out = ended c .unitLost)) ∧
      (c.kind = .patrol → c.suspendRequested = true → s.scan.state = .running → s.scan.quiet = false →
        (∀ soft data capacity y, (s.scanFind scanFuel done).2 = some y → s.scanEnded o (.done soft data capacity) =
          { s with scan := { s.scan with state := .suspended, context := some done } }) ∧
        (∀ stop data y, (s.scanFind scanFuel (failed stop)).2 = some y → s.scanEnded o (.hardRead stop data) =
          { s with scan := { s.scan with state := .suspended, context := some (failed stop) } }))) ∧
    (s.scan.state = .running → c.current = none → s.modes.mode = .service ∨ s.modes.mode = .config →
      (c.kind = .patrol → c.suspendRequested = false) → s.scanBusy = false →
      let result : ScanResult := if c.verified = 0 then .noCoverage else if c.failures = 0 then .passed else .failuresFound
      let again := c.kind = .patrol ∧ s.mgmt.params.autoPatrol = true ∧ c.verified ≠ 0
      (∀ d y, s.scanFind scanFuel c = (d, some y) → (s.port y.unit).state.serves = true → (s.port y.unit).Rests →
        (s.port y.unit).attachPlace = none → ∃ n, s.scanCut = { s with
          nextId := s.nextId + 1, counters := n
          scan := { s.scan with context := some { d with current := some { extent := y, retried := false, stamp := some s.nextId } } }
          ports := s.ports.set y.unit (s.sendsFirst (s.port y.unit) (mkOp .verify y.first y.count .scan s.nextId [])) }) ∧
      (∀ d, s.scanFind scanFuel c = (d, none) →
        (¬ again → s.scanCut = ended c result) ∧
        (again → s.scanCut = State.scanCutUpTo 2 (written c result { s.scan with context := some { c with
          phase := .regions, pass := if 4294967295 ≤ c.pass then 1 else c.pass + 1, index := 0, offset := 0, verified := 0,
          failures := 0, firstFailing := none, current := none } })))) ∧
    (∀ (u : Fin 4) (p : PortState), c.current = none → c.kind ≠ .patrol → c.unit = some u →
      (p.serves = false → s.scanPort u p = ended c .unitLost) ∧ (p.serves = true → s.scanPort u p = s))
end

