-- ==== Sys2Proof/Laws/Evolution.lean ====
section
/-!
SUPPORT. What any operation of the part may do to a state, short of a part reset: `Evolves p s t`. This file has the relation and its
rules for an update of each component.
-/

set_option Elab.async false

namespace Sys2Proof.Laws

open Sys2Proof Sys2Proof.Machine

/-- What every operation inside a step keeps, whatever the tags and buffers: the queue of commands, the time, the reset line and its
cause stay; the records of sent frames and the serial numbers only grow; a frozen guard stays frozen; bounded fields stay bounded. -/
structure Bounds (s t : State) : Prop where
  pending : t.pending = s.pending
  inReset : t.inReset = s.inReset
  ms : t.ms = s.ms
  cause : t.store.cause = s.store.cause
  sent : s.link.sent <+: t.link.sent
  unitSent : ∀ u, (s.port u).sent <+: (t.port u).sent
  frozen : s.guard.frozen = true → t.guard.frozen = true
  nextId : s.nextId ≤ t.nextId
  range : s.Bounded → t.Bounded

/-- What every operation keeps: its bounds, the buffer law, the tag law, the watch law and the spare law; and, of an operation that
neither admits a request nor takes a LINK RESET, the account of every tag (`p` says that it is such a one). -/
structure Evolves (p : Prop) (s t : State) : Prop extends Bounds s t where
  buffers : s.Bounded → t.engine.freeBuffers + t.heldBuffers = s.engine.freeBuffers + s.heldBuffers
  tags : s.Lawful → t.TagLaw
  ledger : p → s.Lawful → ∀ g, t.ledger g = s.ledger g
  sound : s.Sound → t.Sound

/-- A lawful state evolves to a lawful one. -/
theorem Evolves.lawful {p : Prop} {s t : State} (h : Evolves p s t) (k : s.Lawful) : t.Lawful :=
  { h.range k.toBounded with buffers := (h.buffers k.toBounded).trans k.buffers, tagLaw := h.tags k }

theorem Bounds.trans {a b c : State} (h : Bounds a b) (k : Bounds b c) : Bounds a c :=
  ⟨k.pending.trans h.pending, k.inReset.trans h.inReset, k.ms.trans h.ms, k.cause.trans h.cause, h.sent.trans k.sent,
   fun u => (h.unitSent u).trans (k.unitSent u), k.frozen ∘ h.frozen, h.nextId.trans k.nextId, k.range ∘ h.range⟩

theorem Bounds.refl (s : State) : Bounds s s :=
  ⟨rfl, rfl, rfl, rfl, List.prefix_refl _, fun _ => List.prefix_refl _, id, Nat.le_refl _, id⟩

@[simp] theorem Evolves.refl {p : Prop} (s : State) : Evolves p s s :=
  { Bounds.refl s with buffers := fun _ => rfl, tags := fun h => h.tagLaw, ledger := fun _ _ _ => rfl, sound := id }

theorem Evolves.trans {p : Prop} {a b c : State} (h : Evolves p a b) (k : Evolves p b c) : Evolves p a c :=
  { h.toBounds.trans k.toBounds with
    buffers := fun r => (k.buffers (h.range r)).trans (h.buffers r)
    tags := fun r => k.tags (h.lawful r)
    ledger := fun q r g => (k.ledger q (h.lawful r) g).trans (h.ledger q r g)
    sound := k.sound ∘ h.sound }

/-- An operation that evolves every state it is given evolves what led there. -/
theorem Evolves.step {p : Prop} {a s t : State} (h : Evolves p a s) (k : Evolves p s t) : Evolves p a t := h.trans k

/-- What keeps the account of every tag may be used where that is not asked. -/
theorem Evolves.weaken {p q : Prop} {s t : State} (h : Evolves p s t) (k : q → p) : Evolves q s t :=
  { h with ledger := fun x => h.ledger (k x) }

@[simp] theorem evolves_ite {p : Prop} {a x y : State} {c : Prop} [Decidable c] :
    Evolves p a (if c then x else y) = if c then Evolves p a x else Evolves p a y := by split <;> rfl

/-- An update that touches neither frames, tags, items, slots nor the records of a load; window accesses keep their tags. -/
theorem Evolves.ofBounds_perm {p : Prop} {s t : State} (h : Bounds s t) (h1 : t.link = s.link) (h2 : t.engine = s.engine)
    (h3 : s.Bounded → s.mgmt.tags.Nodup → t.mgmt.tags.Perm s.mgmt.tags) (h4 : t.health.slot0 = s.health.slot0)
    (h5 : t.health.slot1 = s.health.slot1) (h6 : s.Sound → t.Sound) : Evolves p s t :=
  { h with
    buffers := fun _ => by unfold State.heldBuffers; rw [h2, h4, h5]
    tags := fun r => by
      obtain ⟨a, b, c, d⟩ := r.tagLaw
      have k := h3 r.toBounded c
      exact ⟨by rw [h2]; exact a, by rw [h1, h2]; exact b, k.nodup_iff.mpr c, fun g => by rw [h1, d, k.mem_iff]⟩
    ledger := fun _ _ g => by unfold State.ledger; rw [h1]
    sound := h6 }

/-- An update that touches neither frames, tags, items, slots nor the records of a load. -/
theorem Evolves.ofBounds {p : Prop} {s t : State} (h : Bounds s t) (h1 : t.link = s.link) (h2 : t.engine = s.engine)
    (h3 : t.mgmt.tags = s.mgmt.tags) (h4 : t.health.slot0 = s.health.slot0) (h5 : t.health.slot1 = s.health.slot1)
    (h6 : s.Sound → t.Sound) : Evolves p s t :=
  .ofBounds_perm h h1 h2 (fun _ _ => by rw [h3]) h4 h5 h6

/-! ### Components -/

@[simp] theorem evolves_modes {p : Prop} {a s : State} (m : ModeController) (h : Evolves p a s) : Evolves p a { s with modes := m } :=
  h.step (.ofBounds { Bounds.refl s with range := fun r => { r with failed := r.failed } } rfl rfl rfl rfl rfl
    fun r => { r with loaded := r.loaded })

@[simp] theorem evolves_counters {p : Prop} {a s : State} (c : CounterBank) (h : Evolves p a s) :
    Evolves p a { s with counters := c } :=
  h.step (.ofBounds { Bounds.refl s with range := fun r => { r with failed := r.failed } } rfl rfl rfl rfl rfl
    fun r => { r with loaded := r.loaded })

@[simp] theorem evolves_nextFree {p : Prop} {a s : State} (n : Nat) (h : Evolves p a s) : Evolves p a { s with nextFree := n } :=
  h.step (.ofBounds { Bounds.refl s with range := fun r => { r with failed := r.failed } } rfl rfl rfl rfl rfl
    fun r => { r with loaded := r.loaded })

@[simp] theorem evolves_nextId {p : Prop} {a s : State} (h : Evolves p a s) : Evolves p a { s with nextId := s.nextId + 1 } :=
  h.step (.ofBounds { Bounds.refl s with
      nextId := Nat.le_succ _, range := fun r => { r with given := fun n hn => Nat.lt_succ_of_lt (r.given n hn) } } rfl rfl rfl rfl rfl
    fun r => { r with loaded := r.loaded })

/-- The map changes: no watched block becomes the source of a learned entry, and pools that are lawful stay so. -/
theorem evolves_map {p : Prop} {a s : State} (m : MapUnit)
    (hl : ∀ e ∈ s.health.watch, s.map.learnedOf e.block.unit e.block.block = none → m.learnedOf e.block.unit e.block.block = none)
    (hp : (∀ u, (s.map.pools.get u).Lawful) → ∀ u, (m.pools.get u).Lawful) (h : Evolves p a s) : Evolves p a { s with map := m } :=
  h.step (.ofBounds { Bounds.refl s with range := fun r => { r with failed := r.failed } } rfl rfl rfl rfl rfl
    fun r => { r with unlearned := fun e he => hl e he (r.unlearned e he), pools := hp r.pools })

/-- The list of work changes, to work that is lawful where it was so. -/
theorem evolves_todo {p : Prop} {a s : State} (l : List Work) (hl : (∀ w ∈ s.todo, w.Lawful) → ∀ w ∈ l, w.Lawful)
    (h : Evolves p a s) : Evolves p a { s with todo := l } :=
  h.step (.ofBounds { Bounds.refl s with range := fun r => { r with todo := hl r.todo } } rfl rfl rfl rfl rfl
    fun r => { r with loaded := r.loaded })

@[simp] theorem work_ended (u : Fin 4) (o : Op) (x : OpOutcome) : (Work.ended u o x).Lawful := trivial
@[simp] theorem work_retries (u : Fin 4) : (Work.retries u).Lawful := trivial
@[simp] theorem work_takes (u : Fin 4) : (Work.takes u).Lawful := trivial
@[simp] theorem work_unitFailed (u : Fin 4) : (Work.unitFailed u).Lawful := trivial
@[simp] theorem work_notValid : (Work.loadEnds .notValid).Lawful := trivial
@[simp] theorem work_absent : (Work.loadEnds .absent).Lawful := trivial
@[simp] theorem work_leaves (v i : Bool) : (Work.leaveStartup v i).Lawful := trivial

/-- Lawful work is left for later. -/
theorem evolves_left {p : Prop} {a s : State} (w : Work) (hw : w.Lawful) (h : Evolves p a s) : Evolves p a (s.later w) :=
  evolves_todo _ (fun r x hx => by
    rcases List.mem_append.mp hx with k | k
    · exact r x k
    · rw [List.mem_singleton.mp k]; exact hw) h

/-- The store's record changes; a load that has ended does not begin again. -/
@[simp] theorem evolves_store {p : Prop} {a s : State} (c : StoreController) (hc : c.cause = s.store.cause)
    (hl : s.store.load = none → c.load = none) (h : Evolves p a s) : Evolves p a { s with store := c } :=
  h.step (.ofBounds { Bounds.refl s with cause := hc, range := fun r => { r with failed := r.failed } } rfl rfl rfl rfl rfl
    fun r => { r with loaded := hl r.loaded })

/-- The health monitor changes, its watch list and its slots apart. -/
@[simp] theorem evolves_health {p : Prop} {a s : State} (m : HealthMonitor) (h1 : m.watch = s.health.watch)
    (h2 : m.slot0 = s.health.slot0) (h3 : m.slot1 = s.health.slot1) (h : Evolves p a s) : Evolves p a { s with health := m } :=
  h.step (.ofBounds { Bounds.refl s with range := fun r => { r with
      watch := by show m.watch.length ≤ _; rw [h1]; exact r.watch
      watchRange := by show ∀ e ∈ m.watch, _; rw [h1]; exact r.watchRange } } rfl rfl rfl h2 h3
    fun r => { r with
      distinct := by show (m.watch.map _).Nodup; rw [h1]; exact r.distinct
      unlearned := by show ∀ e ∈ m.watch, _; rw [h1]; exact r.unlearned })

/-- The scan engine changes, with its log and the scan law. -/
@[simp] theorem evolves_scan {p : Prop} {a s : State} (m : ScanEngine) (hm : s.scan.log.length ≤ 16 → m.log.length ≤ 16)
    (hs : (s.scan.state = .idle ↔ s.scan.context = none) → (m.state = .idle ↔ m.context = none)) (h : Evolves p a s) :
    Evolves p a { s with scan := m } :=
  h.step (.ofBounds { Bounds.refl s with range := fun r => { r with scanLog := hm r.scanLog, scan := hs r.scan } } rfl rfl rfl rfl rfl
    fun r => { r with loaded := r.loaded })

@[simp] theorem evolves_log {p : Prop} {a s : State} (m : LogUnit) (h1 : s.log.ring.length ≤ 5 → m.ring.length ≤ 5)
    (h2 : s.log.latest ≤ 8 → m.latest ≤ 8) (h3 : s.log.lifetime ≤ 65535 → m.lifetime ≤ 65535) (h : Evolves p a s) :
    Evolves p a { s with log := m } :=
  h.step (.ofBounds { Bounds.refl s with range := fun r => { r with ring := h1 r.ring, latest := h2 r.latest, lifetime := h3 r.lifetime } }
    rfl rfl rfl rfl rfl fun r => { r with loaded := r.loaded })

/-- The management engine changes, without a change of the tags that window accesses hold. -/
theorem evolves_mgmt_tags {p : Prop} {a s : State} (m : ManagementEngine) (h1 : s.mgmt.params.inRange → m.params.inRange)
    (h2 : s.mgmt.events &&& 0xC000 = 0 → m.events &&& 0xC000 = 0)
    (h3 : s.Bounded → s.mgmt.tags.Nodup → m.tags.Perm s.mgmt.tags) (h4 : (s.mgmt.state = .idle → s.mgmt.taken = none) → m.state = .idle → m.taken = none) (h : Evolves p a s) :
    Evolves p a { s with mgmt := m } :=
  h.step (.ofBounds_perm
    { Bounds.refl s with range := fun r => { r with params := h1 r.params, events := h2 r.events, engine := h4 r.engine } }
    rfl rfl h3 rfl rfl fun r => { r with loaded := r.loaded })

@[simp] theorem evolves_mgmt {p : Prop} {a s : State} (m : ManagementEngine) (h1 : s.mgmt.params.inRange → m.params.inRange)
    (h2 : s.mgmt.events &&& 0xC000 = 0 → m.events &&& 0xC000 = 0) (h3 : m.windows = s.mgmt.windows) (h4 : m.reads = s.mgmt.reads)
    (h5 : m.taken = s.mgmt.taken) (h6 : m.state = s.mgmt.state) (h : Evolves p a s) : Evolves p a { s with mgmt := m } :=
  evolves_mgmt_tags m h1 h2 (fun _ _ => by unfold ManagementEngine.tags; rw [h3, h4, h5]) (fun k => by rw [h5, h6]; exact k) h

@[simp] theorem evolves_guard {p : Prop} {a s : State} (g : GuardUnit) (h1 : s.guard.frozen = true → g.frozen = true)
    (h2 : s.guard.failed ≤ 5 → g.failed ≤ 5) (h : Evolves p a s) : Evolves p a { s with guard := g } :=
  h.step (.ofBounds { Bounds.refl s with frozen := h1, range := fun r => { r with failed := h2 r.failed } } rfl rfl rfl rfl rfl
    fun r => { r with loaded := r.loaded })

/-- What an update of a port keeps. -/
structure PortEvolves (p q : Port) : Prop where
  sent : p.sent <+: q.sent
  range : p.Lawful → q.Lawful

@[simp] theorem evolves_onPort {p : Prop} {a s : State} (u : Fin 4) (f : Port → Port) (hf : PortEvolves (s.port u) (f (s.port u)))
    (h : Evolves p a s) : Evolves p a (s.onPort u f) := by
  refine h.step (.ofBounds { Bounds.refl s with unitSent := fun v => ?_, range := fun r => { r with ports := fun v => ?_ } }
    rfl rfl rfl rfl rfl fun r => { r with loaded := r.loaded })
  · show _ <+: ((s.ports.set u _).get v).sent
    rw [Four.get_set]
    split
    · next e => subst e; exact hf.sent
    · exact List.prefix_refl _
  · show ((s.ports.set u _).get v).Lawful
    rw [Four.get_set]
    split
    · exact hf.range (r.ports u)
    · exact r.ports v

/-- An update of a port that touches neither its record of frames, its queue nor its write-fault count. -/
@[simp] theorem PortEvolves.same {p q : Port} (h1 : q.sent = p.sent) (h2 : q.queue = p.queue) (h3 : q.writeFaults = p.writeFaults) :
    PortEvolves p q :=
  ⟨h1 ▸ List.prefix_refl _, fun r => ⟨h3 ▸ r.1, h2 ▸ r.2⟩⟩

/-- A frame that is no COMPLETION is sent. -/
theorem evolves_sent {p : Prop} {a s : State} (f : HostFrame) (hf : ∀ g, f.completes g = false) (h : Evolves p a s) :
    Evolves p a (s.send f) :=
  h.step
    { Bounds.refl s with
      sent := List.prefix_append _ _
      range := fun r => { r with failed := r.failed }
      buffers := fun _ => rfl
      tags := fun r => { r.tagLaw with one := r.tagLaw.one }
      ledger := fun _ _ g => by
        show List.countP _ (s.link.sent ++ [f]) + _ = _
        rw [List.countP_append, List.countP_singleton, hf g]; rfl
      sound := fun r => { r with loaded := r.loaded } }

/-! ### The admission list -/

/-- The ordering law of a list: an item that an earlier one holds has begun no work (R48). -/
abbrev Orderly (l : List Item) : Prop := l.Pairwise fun e i => e.blocks i = true → i.Waits

/-- The items change in their places to others with the same serial numbers and tags; the ordering law stays, and the buffers that they
hold are accounted for. -/
theorem evolves_relist {p : Prop} {a s : State} (f : Item → Item) (n : Nat)
    (hf : s.Bounded → ∀ i ∈ s.engine.items, (f i).id = i.id ∧ (f i).liveTag = i.liveTag)
    (hw : s.Bounded → Orderly (s.engine.items.map f))
    (hb : s.Bounded → n + ((s.engine.items.map f).map Item.buffers).sum = s.engine.freeBuffers + (s.engine.items.map Item.buffers).sum)
    (h : Evolves p a s) :
    Evolves p a { s with engine := { s.engine with items := s.engine.items.map f, freeBuffers := n } } := by
  have hid (r : s.Bounded) : (s.engine.items.map f).map Item.id = s.engine.items.map Item.id := by
    rw [List.map_map]; exact List.map_congr_left fun i hi => (hf r i hi).1
  refine h.step
    { Bounds.refl s with
      range := fun r => { r with
        order := by show ((s.engine.items.map f).map Item.id).Pairwise _; rw [hid r]; exact r.order
        given := by show ∀ n ∈ (s.engine.items.map f).map Item.id, _; rw [hid r]; exact r.given
        waits := hw r }
      buffers := fun r => by
        have hb := hb r
        show n + (((s.engine.items.map f).map Item.buffers).sum + (slotBuffers s.health.slot0 + slotBuffers s.health.slot1)) =
          s.engine.freeBuffers + ((s.engine.items.map Item.buffers).sum + (slotBuffers s.health.slot0 + slotBuffers s.health.slot1))
        omega
      tags := fun r => ?_
      ledger := fun _ _ _ => rfl
      sound := fun r => { r with loaded := r.loaded } }
  obtain ⟨k1, k2, k3, k4⟩ := r.tagLaw
  have hf' := hf r.toBounded
  refine ⟨?_, fun g => ?_, k3, k4⟩
  · intro i hi j hj g
    obtain ⟨x, hx, rfl⟩ := List.mem_map.mp hi
    obtain ⟨y, hy, rfl⟩ := List.mem_map.mp hj
    rw [(hf' x hx).2, (hf' y hy).2, (hf' x hx).1, (hf' y hy).1]
    exact k1 x hx y hy g
  · refine (k2 g).trans ⟨fun ⟨i, hi, e⟩ => ⟨f i, List.mem_map_of_mem hi, by rw [(hf' i hi).2]; exact e⟩, fun ⟨j, hj, e⟩ => ?_⟩
    obtain ⟨x, hx, rfl⟩ := List.mem_map.mp hj
    exact ⟨x, hx, by rw [← (hf' x hx).2]; exact e⟩

/-- How an item may change in its place: it stays the same request or relocation with the same home extent and tag, and it stays waiting
where it waited. -/
structure ItemEvolves (i j : Item) : Prop where
  id : j.id = i.id
  home : j.home = i.home
  writing : j.writing = i.writing
  tag : j.liveTag = i.liveTag
  waits : i.Waits → j.Waits

/-- The items change in their places; the buffers that they hold are accounted for. -/
theorem evolves_items {p : Prop} {a s : State} (f : Item → Item) (n : Nat) (hf : s.Bounded → ∀ i ∈ s.engine.items, ItemEvolves i (f i))
    (hb : s.Bounded → n + ((s.engine.items.map f).map Item.buffers).sum = s.engine.freeBuffers + (s.engine.items.map Item.buffers).sum)
    (h : Evolves p a s) :
    Evolves p a { s with engine := { s.engine with items := s.engine.items.map f, freeBuffers := n } } := by
  refine evolves_relist f n (fun r i hi => ⟨(hf r i hi).id, (hf r i hi).tag⟩) (fun r => ?_) hb h
  rw [Orderly, List.pairwise_map]
  refine List.Pairwise.imp_of_mem (fun {x y} hx hy k q => (hf r y hy).waits (k ?_)) r.waits
  have ex := hf r x hx
  have ey := hf r y hy
  unfold Item.blocks at q ⊢
  rwa [ex.home, ey.home, ex.writing, ey.writing] at q

/-- Two items with one serial number are one item. -/
theorem item_one {s : State} (b : s.Bounded) {i j : Item} (hi : i ∈ s.engine.items) (hj : j ∈ s.engine.items) (h : i.id = j.id) :
    i = j := by
  have this : ∀ l : List Item, l.Pairwise (fun a b => a.id < b.id) → i ∈ l → j ∈ l → i = j := by
    intro l hl hi hj
    induction l with
    | nil => cases hi
    | cons x l ih =>
      rw [List.pairwise_cons] at hl
      rcases List.mem_cons.mp hi with a | a <;> rcases List.mem_cons.mp hj with c | c
      · rw [a, c]
      · have := hl.1 j c; rw [← a] at this; omega
      · have := hl.1 i a; rw [← c] at this; omega
      · exact ih hl.2 a c
  exact this _ (List.pairwise_map.mp b.order) hi hj

/-- One item of the list changes in its place, and no item before it holds it unless it waits. -/
theorem evolves_one {p : Prop} {a s : State} (f : Item → Item) {l1 l2 : List Item} {i : Item} (he : s.engine.items = l1 ++ i :: l2)
    (hf : ∀ x, x.id ≠ i.id → f x = x) (h1 : (f i).id = i.id) (h2 : (f i).liveTag = i.liveTag) (h3 : (f i).buffers = i.buffers)
    (hb : s.Bounded → ∀ e ∈ l1, e.blocks (f i) = true → (f i).Waits) (ha : ∀ x ∈ l2, (f i).blocks x = true → i.blocks x = true)
    (h : Evolves p a s) : Evolves p a { s with engine := { s.engine with items := s.engine.items.map f } } := by
  have hm : i ∈ s.engine.items := by rw [he]; simp
  have other (r : s.Bounded) : ∀ x ∈ s.engine.items, x ≠ i → f x = x := fun x hx k => hf x fun e => k (item_one r hx hm e)
  have apart (r : s.Bounded) : (∀ x ∈ l1, x ≠ i) ∧ ∀ x ∈ l2, x ≠ i := by
    have k := List.pairwise_map.mp r.order
    rw [he, List.pairwise_append, List.pairwise_cons] at k
    refine ⟨fun x hx e => ?_, fun x hx e => ?_⟩
    · have := k.2.2 x hx i (by simp); rw [e] at this; omega
    · have := k.2.1.1 x hx; rw [e] at this; omega
  refine evolves_relist f s.engine.freeBuffers (fun r x hx => ?_) (fun r => ?_) (fun r => ?_) h
  · by_cases k : x = i
    · rw [k]; exact ⟨h1, h2⟩
    · rw [other r x hx k]; exact ⟨rfl, rfl⟩
  · have w := r.waits
    have e1 : l1.map f = l1 := by
      conv_rhs => rw [← List.map_id l1]
      exact List.map_congr_left fun x hx => other r x (by rw [he]; simp [hx]) ((apart r).1 x hx)
    have e2 : l2.map f = l2 := by
      conv_rhs => rw [← List.map_id l2]
      exact List.map_congr_left fun x hx => other r x (by rw [he]; simp [hx]) ((apart r).2 x hx)
    rw [he, List.pairwise_append, List.pairwise_cons] at w
    rw [he, List.map_append, List.map_cons, e1, e2, Orderly, List.pairwise_append, List.pairwise_cons]
    refine ⟨w.1, ⟨fun x hx k => w.2.1.1 x hx (ha x hx k), w.2.1.2⟩, fun e he x hx => ?_⟩
    rcases List.mem_cons.mp hx with k | k
    · rw [k]; exact hb r e he
    · exact w.2.2 e he x (List.mem_cons_of_mem _ k)
  · congr 2
    rw [List.map_map]
    refine List.map_congr_left fun x hx => ?_
    by_cases k : x = i
    · rw [k]; exact h3
    · exact congrArg Item.buffers (other r x hx k)

/-- How a request may change in its place. -/
structure RequestEvolves (r q : Request) : Prop where
  id : q.id = r.id
  kind : q.kind = r.kind
  home : q.home = r.home
  tag : q.tag = r.tag
  orphan : q.orphan = r.orphan
  waits : r.segs = [] → r.state ≠ .running → q.segs = [] ∧ q.state ≠ .running

theorem RequestEvolves.item {r q : Request} (h : RequestEvolves r q) : ItemEvolves (.host r) (.host q) where
  id := h.id
  home := h.home
  writing := by show decide (q.kind = _) = decide (r.kind = _); rw [h.kind]
  tag := by show (if q.orphan then none else some q.tag) = (if r.orphan then none else some r.tag); rw [h.orphan, h.tag]
  waits := fun k => h.waits k.1 k.2

/-- An item does not change. -/
theorem ItemEvolves.refl (i : Item) : ItemEvolves i i := ⟨rfl, rfl, rfl, rfl, fun k => k⟩

/-- A request of the list changes in its place, without a change of the buffers it holds. -/
theorem evolves_request {p : Prop} {a s : State} (id : Nat) (f : Request → Request)
    (hf : s.Bounded → ∀ r, Item.host r ∈ s.engine.items → r.id = id → RequestEvolves r (f r) ∧ heldBy (f r).segs = heldBy r.segs)
    (h : Evolves p a s) : Evolves p a (s.onRequest id f) := by
  refine evolves_items _ _ (fun b i hi => ?_) (fun b => ?_) h
  · match i with
    | .host r =>
      show ItemEvolves (.host r) (if r.id == id then .host (f r) else .host r)
      split
      · next k => exact (hf b r hi (by simpa using k)).1.item
      · exact .refl _
    | .reloc r => exact .refl _
  · rw [List.map_map]
    congr 2
    refine List.map_congr_left fun i hi => ?_
    match i with
    | .host r =>
      show Item.buffers (if r.id == id then .host (f r) else .host r) = _
      split
      · next k => exact (hf b r hi (by simpa using k)).2
      · rfl
    | .reloc r => rfl

/-! ### Items that leave -/

/-- The sum of a list without the one item that has a serial number. -/
theorem sum_without {l : List Item} (h : (l.map Item.id).Pairwise (· < ·)) {i : Item} (hi : i ∈ l) :
    ((l.filter fun j => j.id != i.id).map Item.buffers).sum + i.buffers = (l.map Item.buffers).sum := by
  induction l with
  | nil => cases hi
  | cons x l ih =>
    rw [List.map_cons, List.pairwise_cons] at h
    rcases List.mem_cons.mp hi with e | e
    · subst e
      have same : l.filter (fun j => j.id != i.id) = l := List.filter_eq_self.mpr fun j hj => by
        have := h.1 _ (List.mem_map_of_mem (f := Item.id) hj)
        simp; omega
      rw [List.filter_cons, if_neg (by simp), same, List.map_cons, List.sum_cons]; omega
    · have ne : x.id < i.id := h.1 _ (List.mem_map_of_mem e)
      rw [List.filter_cons, if_pos (by simp; omega), List.map_cons, List.map_cons, List.sum_cons, List.sum_cons]
      have := ih h.2 e
      omega

/-- Traffic may end: only the quiet timer changes. -/
@[simp] theorem evolves_trafficEnds {p : Prop} {a s : State} (before : Bool) (h : Evolves p a s) :
    Evolves p a (State.trafficEnds before s) := by
  unfold State.trafficEnds
  split
  · exact evolves_scan _ id id h
  · exact h

/-- What removing an item keeps within bounds. -/
theorem bounds_without (s : State) (id : Nat) :
    Bounds s { s with engine := { s.engine with items := s.engine.items.filter fun i => i.id != id } } :=
  have sub : (s.engine.items.filter fun i => i.id != id).Sublist s.engine.items := List.filter_sublist
  { Bounds.refl s with
    range := fun r => { r with
      order := r.order.sublist (sub.map _)
      given := fun n hn => r.given n ((sub.map _).subset hn)
      waits := r.waits.sublist sub } }

/-- The buffers of a list without an item that holds none. -/
theorem buffers_without {s : State} {i : Item} (hi : i ∈ s.engine.items) (hb : i.buffers = 0) (r : s.Bounded) :
    ((s.engine.items.filter fun j => j.id != i.id).map Item.buffers).sum = (s.engine.items.map Item.buffers).sum := by
  have := sum_without r.order hi; omega

/-- An item that holds neither a tag nor a buffer leaves the list. -/
theorem evolves_leaves {p : Prop} {a s : State} (i : Item) (hi : i ∈ s.engine.items) (ht : i.liveTag = none) (hb : i.buffers = 0)
    (h : Evolves p a s) : Evolves p a (s.removeItem i.id) := by
  refine evolves_trafficEnds _ (h.step
    { bounds_without s i.id with
      buffers := fun r => ?_
      tags := fun r => ?_
      ledger := fun _ _ _ => rfl
      sound := fun r => { r with loaded := r.loaded } })
  · show s.engine.freeBuffers + (((s.engine.items.filter _).map Item.buffers).sum + _) = _
    rw [buffers_without hi hb r]; rfl
  · have sub : (s.engine.items.filter fun j => j.id != i.id).Sublist s.engine.items := List.filter_sublist
    refine ⟨fun x hx y hy => r.tagLaw.one x (sub.subset hx) y (sub.subset hy), fun g => ?_, r.tagLaw.distinct, r.tagLaw.windows⟩
    refine (r.tagLaw.requests g).trans ⟨fun ⟨x, hx, e⟩ => ⟨x, List.mem_filter.mpr ⟨hx, ?_⟩, e⟩, fun ⟨x, hx, e⟩ => ⟨x, sub.subset hx, e⟩⟩
    have : x.id ≠ i.id := fun k => by rw [item_one r.toBounded hx hi k, ht] at e; cases e
    simpa using this

/-- The tags without one, when the live request that held it leaves (R43). -/
theorem tagLaw_leaves {s t : State} (r : s.Lawful) {i : Item} (hi : i ∈ s.engine.items) {g : Fin 32} (hg : i.liveTag = some g) {u : TagUse}
    (hu : u ≠ .request) (h1 : t.engine.items = s.engine.items.filter fun j => j.id != i.id) (h2 : t.link.tags = s.link.tags.set g u)
    (h3 : t.mgmt.tags.Nodup) (h4 : ∀ k, k ∈ t.mgmt.tags ↔ (k = g ∧ u = .window) ∨ k ∈ s.mgmt.tags) : t.TagLaw := by
  have sub : (s.engine.items.filter fun j => j.id != i.id).Sublist s.engine.items := List.filter_sublist
  have held : s.link.tags[g] = .request := (r.tagLaw.requests g).mpr ⟨i, hi, hg⟩
  have out : g ∉ s.mgmt.tags := fun k => by rw [(r.tagLaw.windows g).mpr k] at held; cases held
  have get (k : Fin 32) : t.link.tags[k] = if k = g then u else s.link.tags[k] := by
    rw [h2]
    by_cases e : k = g
    · subst e; simp
    · have : g.val ≠ k.val := fun q => e (Fin.ext q.symm)
      rw [if_neg e]; exact Vector.getElem_set_ne _ _ this
  refine ⟨?_, fun k => ?_, h3, fun k => ?_⟩
  · rw [h1]; exact fun x hx y hy => r.tagLaw.one x (sub.subset hx) y (sub.subset hy)
  · rw [get, h1]
    by_cases e : k = g
    · rw [if_pos e]
      refine ⟨fun q => absurd q hu, fun ⟨x, hx, q⟩ => ?_⟩
      rw [e] at q
      have := r.tagLaw.one x (sub.subset hx) i hi g q hg
      have := (List.mem_filter.mp hx).2
      simp_all
    · rw [if_neg e]
      refine (r.tagLaw.requests k).trans ⟨fun ⟨x, hx, q⟩ => ⟨x, List.mem_filter.mpr ⟨hx, ?_⟩, q⟩, fun ⟨x, hx, q⟩ => ⟨x, sub.subset hx, q⟩⟩
      have : x.id ≠ i.id := fun w => by
        rw [item_one r.toBounded hx hi w, hg] at q
        exact e (Option.some.inj q).symm
      simpa using this
  · rw [get, h4]
    by_cases e : k = g
    · subst e; simp [out]
    · rw [if_neg e, r.tagLaw.windows]; simp [e]

/-- A live request that holds no buffer leaves the list with its COMPLETION (R65). -/
theorem evolves_completes {p : Prop} {a s : State} (r : Request) (hm : Item.host r ∈ s.engine.items) (ho : r.orphan = false)
    (hs : r.segs = []) (status : Status) (residual : Nat) (failing : Option Nat) (recovered : Bool) (h : Evolves p a s) :
    Evolves p a ((s.sendCompletion r.tag status residual failing recovered).removeItem r.id) := by
  have hg : (Item.host r).liveTag = some r.tag := by show (if r.orphan then none else some r.tag) = _; rw [ho]; rfl
  have hb : (Item.host r).buffers = 0 := by show heldBy r.segs = 0; rw [hs]; rfl
  refine evolves_trafficEnds _ (h.step
    { Bounds.refl s with
      sent := List.prefix_append _ _
      range := fun q =>
        have k := (bounds_without s r.id).range q
        { k with failed := k.failed }
      buffers := fun q => ?_
      tags := fun q => tagLaw_leaves q hm hg (u := .free) (by decide) rfl rfl q.tagLaw.distinct fun k => by
        show k ∈ s.mgmt.tags ↔ _
        simp
      ledger := fun _ q g => ?_
      sound := fun q => { q with loaded := q.loaded } })
  · show s.engine.freeBuffers + (((s.engine.items.filter _).map Item.buffers).sum + _) = _
    have := buffers_without hm hb q
    rw [show (fun i : Item => i.id != r.id) = fun i => i.id != (Item.host r).id from rfl, this]; rfl
  · have held : s.link.tags[r.tag] = .request := (q.tagLaw.requests _).mpr ⟨_, hm, hg⟩
    show List.countP _ (s.link.sent ++ [_]) + (if (s.link.tags.set r.tag .free)[g] = .free then 0 else 1) = _
    rw [List.countP_append, List.countP_singleton]
    unfold State.ledger
    by_cases e : r.tag = g
    · subst e; simp [HostFrame.completes, held]
    · have k : r.tag.val ≠ g.val := fun q => e (Fin.ext q)
      rw [show (s.link.tags.set r.tag .free)[g] = s.link.tags[g] from Vector.getElem_set_ne _ _ k]
      simp [HostFrame.completes, e]

/-! ### Window accesses that end -/

/-- A window access ends with its COMPLETION: its tag leaves the management engine and is free (R127, R134). -/
theorem evolves_windowEnds {p : Prop} {a s : State} (m : ManagementEngine) (g : Fin 32) (f : HostFrame)
    (hf : ∀ k, f.completes k = (g == k)) (h1 : s.mgmt.params.inRange → m.params.inRange)
    (h2 : s.mgmt.events &&& 0xC000 = 0 → m.events &&& 0xC000 = 0)
    (h3 : s.mgmt.tags.Nodup → g ∈ s.mgmt.tags ∧ m.tags = s.mgmt.tags.filter (· != g))
    (h4 : (s.mgmt.state = .idle → s.mgmt.taken = none) → m.state = .idle → m.taken = none) (h : Evolves p a s) :
    Evolves p a { s with mgmt := m, link := { tags := s.link.tags.set g .free, sent := s.link.sent ++ [f] } } := by
  have get (k : Fin 32) : (s.link.tags.set g TagUse.free)[k] = if k = g then .free else s.link.tags[k] := by
    by_cases e : k = g
    · subst e; simp
    · have : g.val ≠ k.val := fun q => e (Fin.ext q.symm)
      rw [if_neg e]; exact Vector.getElem_set_ne _ _ this
  refine h.step
    { Bounds.refl s with
      sent := List.prefix_append _ _
      range := fun r => { r with params := h1 r.params, events := h2 r.events, engine := h4 r.engine }
      buffers := fun _ => rfl
      tags := fun r => ?_
      ledger := fun _ r k => ?_
      sound := fun r => { r with loaded := r.loaded } }
  · obtain ⟨hg, ht⟩ := h3 r.tagLaw.distinct
    have held := (r.tagLaw.windows g).mpr hg
    refine ⟨r.tagLaw.one, fun k => ?_, by show m.tags.Nodup; rw [ht]; exact r.tagLaw.distinct.filter _, fun k => ?_⟩
    · show (s.link.tags.set g TagUse.free)[k] = _ ↔ _
      rw [get, ← r.tagLaw.requests]
      by_cases e : k = g
      · subst e; simp [held]
      · rw [if_neg e]
    · show (s.link.tags.set g TagUse.free)[k] = _ ↔ k ∈ m.tags
      rw [get, ht, List.mem_filter, ← r.tagLaw.windows]
      by_cases e : k = g
      · subst e; simp
      · simp [e]
  · obtain ⟨hg, -⟩ := h3 r.tagLaw.distinct
    have held := (r.tagLaw.windows g).mpr hg
    show List.countP _ (s.link.sent ++ [f]) + (if (s.link.tags.set g TagUse.free)[k] = .free then 0 else 1) = _
    rw [List.countP_append, List.countP_singleton, hf, get]
    unfold State.ledger
    by_cases e : k = g
    · subst e; simp [held]
    · have : g ≠ k := fun q => e q.symm
      simp [e, this]

/-! ### Folds and pairs -/

theorem evolves_foldl {β : Type} {p : Prop} {a s : State} (f : State → β → State) (hf : ∀ s b, Evolves p s (f s b)) (l : List β)
    (h : Evolves p a s) : Evolves p a (l.foldl f s) := by
  induction l generalizing s with
  | nil => exact h
  | cons b l ih => exact ih (h.step (hf s b))

/-- The state of a pair that an operation answers. -/
theorem evolves_snd {α : Type} {q : Prop} {a t : State} {x : α} {p : α × State} (h : Evolves q a p.2) (e : p = (x, t)) : Evolves q a t := by
  subst e; exact h

end Sys2Proof.Laws
end

