-- ==== Sys2Proof/Laws/EvolutionParts.lean ====
section
/-!
SUPPORT. What the operations of Machine/Ops, Map, Health and Offers keep (Laws/Evolution.lean), one lemma each.
-/

set_option linter.all false

set_option Elab.async false

namespace Sys2Proof.Laws

open Sys2Proof Sys2Proof.Machine

/-! ### Machine/Ops.lean -/

@[simp] theorem evolves_takeId {q0 : Prop} {b0 s : State} (ev : Evolves q0 b0 s) :
    Evolves q0 b0 (State.takeId s).2 := by
  unfold State.takeId
  try dsimp only
  (repeat' split) <;> simp (maxDischargeDepth := 30) [*]

theorem event_bit_named (e : Event) : e.bit &&& 0xC000 = 0 := by cases e <;> rfl

@[simp] theorem evolves_raise {q0 : Prop} {b0 s : State} (e : Event) (ev : Evolves q0 b0 s) :
    Evolves q0 b0 (State.raise s e) := by
  refine evolves_mgmt _ id (fun k => ?_) rfl rfl rfl rfl ev
  show (s.mgmt.events ||| e.bit) &&& 0xC000 = 0
  have d : (s.mgmt.events ||| e.bit) &&& 0xC000 = s.mgmt.events &&& 0xC000 ||| e.bit &&& 0xC000 := by
    ext i; simp [Bool.and_or_distrib_right]
  rw [d, k, event_bit_named]; rfl

@[simp] theorem changed_cause (c : StoreController) : c.changed.cause = c.cause := by
  unfold StoreController.changed; split <;> rfl

@[simp] theorem changed_load (c : StoreController) : c.changed.load = c.load := by
  unfold StoreController.changed; split <;> rfl

@[simp] theorem evolves_markDirty {q0 : Prop} {b0 s : State} (ev : Evolves q0 b0 s) :
    Evolves q0 b0 (State.markDirty s) := by
  unfold State.markDirty
  try dsimp only
  (repeat' split) <;> simp (maxDischargeDepth := 30) [*]

@[simp] theorem evolves_markDirtyKeepHold {q0 : Prop} {b0 s : State} (ev : Evolves q0 b0 s) :
    Evolves q0 b0 (State.markDirtyKeepHold s) := by
  unfold State.markDirtyKeepHold
  try dsimp only
  (repeat' split) <;> simp (maxDischargeDepth := 30) [*]

theorem pushBounded_length {α : Type} (n : Nat) (l : List α) (x : α) (h : l.length ≤ n) : (pushBounded n l x).length ≤ n := by
  simp only [pushBounded, List.length_drop, List.length_append, List.length_singleton]; omega

@[simp] theorem evolves_addRecord {q0 : Prop} {b0 s : State} (r : HistRec) (ev : Evolves q0 b0 s) :
    Evolves q0 b0 (State.addRecord s r).2 := by
  have k : Evolves q0 b0 { s with log := { s.log with ring := pushBounded 5 s.log.ring ⟨s.nextId, r⟩ } } :=
    evolves_log _ (pushBounded_length 5 _ _) id id ev
  exact evolves_nextId k

theorem nextIndex_le (n : Nat) : nextIndex n ≤ 8 := by unfold nextIndex; split <;> omega

theorem evolves_write {q0 : Prop} {b0 s : State} (e : LogEntry) (ev : Evolves q0 b0 s) : Evolves q0 b0 { s with log := s.log.write e } :=
  evolves_log _ id (fun _ => nextIndex_le _) (fun _ => Nat.min_le_left _ _) ev

@[simp] theorem evolves_logEntry {q0 : Prop} {b0 s : State} (e : LogEntry) (ofSave : Bool) (ev : Evolves q0 b0 s) :
    Evolves q0 b0 (State.logEntry s e ofSave) := by
  unfold State.logEntry
  have h' := evolves_raise .errorLogged (evolves_write e ev)
  cases ofSave
  · exact evolves_markDirty h'
  · exact evolves_markDirtyKeepHold h'

@[simp] theorem evolves_report {q0 : Prop} {b0 s : State} (r : LogReport) (ev : Evolves q0 b0 s) :
    Evolves q0 b0 (State.report s r) := by
  unfold State.report
  split
  · exact evolves_logEntry _ _ ev
  · exact evolves_log _ id id id ev

@[simp] theorem evolves_onStream {q0 : Prop} {b0 s : State} (i : Fin 16) (f : StreamCounters → StreamCounters) (ev : Evolves q0 b0 s) :
    Evolves q0 b0 (State.onStream s i f) := by
  unfold State.onStream
  try dsimp only
  (repeat' split) <;> simp (maxDischargeDepth := 30) [*]

@[simp] theorem evolves_onUnitCounters {q0 : Prop} {b0 s : State} (u : Fin 4) (f : UnitCounters → UnitCounters) (ev : Evolves q0 b0 s) :
    Evolves q0 b0 (State.onUnitCounters s u f) := by
  unfold State.onUnitCounters
  try dsimp only
  (repeat' split) <;> simp (maxDischargeDepth := 30) [*]

@[simp] theorem evolves_onLinkCounters {q0 : Prop} {b0 s : State} (f : LinkCounters → LinkCounters) (ev : Evolves q0 b0 s) :
    Evolves q0 b0 (State.onLinkCounters s f) := by
  unfold State.onLinkCounters
  try dsimp only
  (repeat' split) <;> simp (maxDischargeDepth := 30) [*]

@[simp] theorem evolves_countCompleted {q0 : Prop} {b0 s : State} (i : Fin 16) (ev : Evolves q0 b0 s) :
    Evolves q0 b0 (State.countCompleted s i) := by
  unfold State.countCompleted
  try dsimp only
  (repeat' split) <;> simp (maxDischargeDepth := 30) [*]

@[simp] theorem evolves_countRefused {q0 : Prop} {b0 s : State} (i : Fin 16) (ev : Evolves q0 b0 s) :
    Evolves q0 b0 (State.countRefused s i) := by
  unfold State.countRefused
  try dsimp only
  (repeat' split) <;> simp (maxDischargeDepth := 30) [*]

@[simp] theorem evolves_countBlockRead {q0 : Prop} {b0 s : State} (i : Fin 16) (ev : Evolves q0 b0 s) :
    Evolves q0 b0 (State.countBlockRead s i) := by
  unfold State.countBlockRead
  try dsimp only
  (repeat' split) <;> simp (maxDischargeDepth := 30) [*]

@[simp] theorem evolves_countBlocksWritten {q0 : Prop} {b0 s : State} (i : Fin 16) (n : Nat) (ev : Evolves q0 b0 s) :
    Evolves q0 b0 (State.countBlocksWritten s i n) := by
  unfold State.countBlocksWritten
  try dsimp only
  (repeat' split) <;> simp (maxDischargeDepth := 30) [*]

@[simp] theorem evolves_countDiscardedData {q0 : Prop} {b0 s : State} (ev : Evolves q0 b0 s) :
    Evolves q0 b0 (State.countDiscardedData s) := by
  unfold State.countDiscardedData
  try dsimp only
  (repeat' split) <;> simp (maxDischargeDepth := 30) [*]

@[simp] theorem evolves_countFrameDiscarded {q0 : Prop} {b0 s : State} (ev : Evolves q0 b0 s) :
    Evolves q0 b0 (State.countFrameDiscarded s) := by
  unfold State.countFrameDiscarded
  try dsimp only
  (repeat' split) <;> simp (maxDischargeDepth := 30) [*]

@[simp] theorem evolves_countDataLate {q0 : Prop} {b0 s : State} (ev : Evolves q0 b0 s) :
    Evolves q0 b0 (State.countDataLate s) := by
  unfold State.countDataLate
  try dsimp only
  (repeat' split) <;> simp (maxDischargeDepth := 30) [*]

@[simp] theorem completes_readData (g t : Fin 32) (i : Nat) (d : List Byte) : (HostFrame.readData t i d).completes g = false := rfl
@[simp] theorem completes_dataRequest (g t : Fin 32) (i n : Nat) : (HostFrame.dataRequest t i n).completes g = false := rfl
@[simp] theorem completes_reject (g t : Fin 32) (r : RejectReason) : (HostFrame.reject t r).completes g = false := rfl

@[simp] theorem evolves_send {q0 : Prop} {b0 s : State} (f : HostFrame) (hf : ∀ g, f.completes g = false) (ev : Evolves q0 b0 s) :
    Evolves q0 b0 (State.send s f) := evolves_sent f hf ev

@[simp] theorem evolves_onRequest {q0 : Prop} {b0 s : State} (id : Nat) (f : Request → Request) (h1 : ∀ r, (f r).id = r.id)
    (h2 : ∀ r, (f r).kind = r.kind) (h3 : ∀ r, (f r).home = r.home) (h4 : ∀ r, (f r).tag = r.tag) (h5 : ∀ r, (f r).orphan = r.orphan)
    (h6 : ∀ r, (f r).segs = r.segs) (h7 : ∀ r, r.state ≠ .running → (f r).state ≠ .running) (ev : Evolves q0 b0 s) :
    Evolves q0 b0 (State.onRequest s id f) :=
  evolves_request id f (fun _ r _ _ => ⟨⟨h1 r, h2 r, h3 r, h4 r, h5 r, fun a b => ⟨(h6 r).trans a, h7 r b⟩⟩, by rw [h6]⟩) ev

/-- A relocation item leaves the list. -/
@[simp] theorem evolves_removeReloc {q0 : Prop} {b0 s : State} (id : Nat) (ev : Evolves q0 b0 s) :
    Evolves q0 b0 (State.removeReloc s id) := by
  have sub : (s.engine.items.filter fun i => i.request?.isSome || i.id != id).Sublist s.engine.items := List.filter_sublist
  have host : ∀ i : Item, i.liveTag.isSome → i.request?.isSome := by
    intro i h
    match i with
    | .host r => rfl
    | .reloc r => cases h
  refine ev.step
    { Bounds.refl s with
      range := fun r => { r with
        order := r.order.sublist (sub.map _)
        given := fun n hn => r.given n ((sub.map _).subset hn)
        waits := r.waits.sublist sub }
      buffers := fun _ => ?_
      tags := fun r => ⟨fun i hi j hj => r.tagLaw.one i (sub.subset hi) j (sub.subset hj), fun g => ?_, r.tagLaw.distinct, r.tagLaw.windows⟩
      ledger := fun _ _ _ => rfl
      sound := fun r => { r with loaded := r.loaded } }
  · have : ((s.engine.items.filter fun i => i.request?.isSome || i.id != id).map Item.buffers).sum =
        (s.engine.items.map Item.buffers).sum := by
      induction s.engine.items with
      | nil => rfl
      | cons i l ih =>
        rw [List.filter_cons]
        split
        · simp [ih]
        · next k =>
          match i with
          | .host r => exact absurd rfl k
          | .reloc r => simp [ih, Item.buffers]
    show s.engine.freeBuffers + (((s.engine.items.filter _).map Item.buffers).sum + _) = _
    rw [this]; rfl
  · refine (r.tagLaw.requests g).trans ⟨fun ⟨i, hi, e⟩ => ⟨i, List.mem_filter.mpr ⟨hi, ?_⟩, e⟩, fun ⟨i, hi, e⟩ => ⟨i, sub.subset hi, e⟩⟩
    rw [host i (by rw [e]; rfl)]; rfl

/-- A relocation item that is HELD joins the end of the list with a serial number above all others. -/
theorem evolves_addReloc {q0 : Prop} {b0 s : State} (x : RelocItem) (hh : x.held = true)
    (hi : b0.Bounded → (∀ n ∈ s.engine.items.map Item.id, n < x.id) ∧ x.id < s.nextId) (ev : Evolves q0 b0 s) :
    Evolves q0 b0 (State.addItem s (.reloc x)) := by
  have buffers : (s.addItem (.reloc x)).heldBuffers = s.heldBuffers := by
    show ((s.engine.items ++ [Item.reloc x]).map Item.buffers).sum + _ = _
    rw [List.map_append, List.sum_append]; simp [Item.buffers, State.heldBuffers, State.addItem]
  refine
    { ev with
      range := fun r0 =>
        have r := ev.range r0
        { r with
          order := ?_
          given := ?_
          waits := List.pairwise_append.mpr ⟨r.waits, List.pairwise_singleton _ _, fun e _ i hi _ => by
            rw [List.mem_singleton.mp hi]; exact hh⟩ }
      buffers := fun r0 => by rw [buffers]; exact ev.buffers r0
      tags := fun r0 =>
        have r := ev.tags r0
        ⟨fun i hi j hj g => ?_, fun g => (r.requests g).trans ⟨?_, ?_⟩, r.distinct, r.windows⟩
      ledger := ev.ledger
      sound := fun r0 =>
        have r := ev.sound r0
        { r with loaded := r.loaded } }
  · show ((s.engine.items ++ [Item.reloc x]).map Item.id).Pairwise _
    rw [List.map_append]
    refine List.pairwise_append.mpr ⟨r.order, List.pairwise_singleton _ _, fun n hn m hm => ?_⟩
    rw [List.mem_singleton.mp hm]; exact (hi r0).1 n hn
  · show ∀ n ∈ (s.engine.items ++ [Item.reloc x]).map Item.id, _
    rw [List.map_append]
    intro n hn
    rcases List.mem_append.mp hn with q | q
    · exact r.given n q
    · rw [List.mem_singleton.mp q]; exact (hi r0).2
  · rcases List.mem_append.mp hi with a | a <;> rcases List.mem_append.mp hj with b | b
    · exact r.one i a j b g
    · rw [List.mem_singleton.mp b]; intro _ h; cases h
    · rw [List.mem_singleton.mp a]; intro h; cases h
    · rw [List.mem_singleton.mp a]; intro h; cases h
  · exact fun ⟨i, hi, e⟩ => ⟨i, List.mem_append_left _ hi, e⟩
  · intro ⟨i, hi, e⟩
    rcases List.mem_append.mp hi with a | a
    · exact ⟨i, a, e⟩
    · rw [List.mem_singleton.mp a] at e; cases e

@[simp] theorem evolves_onSegment {q0 : Prop} {b0 s : State} (id : Nat) (seg : Nat) (f : Segment → Segment)
    (hf : ∀ g, (f g).buffers = g.buffers) (ev : Evolves q0 b0 s) : Evolves q0 b0 (State.onSegment s id seg f) := by
  refine evolves_request _ _ (fun _ r _ _ => ⟨⟨rfl, rfl, rfl, rfl, rfl, fun a b => ⟨?_, b⟩⟩, ?_⟩) ev
  · show r.segs.map _ = []
    rw [a]; rfl
  · show ((r.segs.map _).map _).sum = (r.segs.map _).sum
    rw [List.map_map]
    congr 1
    refine List.map_congr_left fun g _ => ?_
    show Segment.buffers (if g.id == seg then f g else g) = _
    split
    · exact hf g
    · rfl

/-- In a list with rising serial numbers, a change of the one item with a serial number changes a sum by what that item changes. -/
theorem sum_one {l : List Item} (h : (l.map Item.id).Pairwise (· < ·)) {r : Request} (hr : Item.host r ∈ l) (f : Request → Request) :
    ((l.map (Item.onRequest r.id f)).map Item.buffers).sum + heldBy r.segs = (l.map Item.buffers).sum + heldBy (f r).segs := by
  have other (j : Item) (n : j.id ≠ r.id) : j.onRequest r.id f = j := by
    match j with
    | .host x => exact if_neg (by simpa [Item.id] using n)
    | .reloc x => rfl
  induction l with
  | nil => cases hr
  | cons i l ih =>
    rw [List.map_cons, List.pairwise_cons] at h
    rcases List.mem_cons.mp hr with e | e
    · subst e
      have same : l.map (Item.onRequest r.id f) = l := by
        conv_rhs => rw [← List.map_id l]
        exact List.map_congr_left fun j hj => other j (Nat.ne_of_gt (h.1 _ (List.mem_map_of_mem hj)))
      have one : Item.onRequest r.id f (.host r) = .host (f r) := if_pos (beq_self_eq_true _)
      simp only [List.map_cons, same, one, List.sum_cons, Item.buffers]
      omega
    · have k := ih h.2 e
      have ne : i.id < r.id := h.1 _ (List.mem_map_of_mem e)
      simp only [List.map_cons, other i (Nat.ne_of_lt ne), List.sum_cons]
      omega

/-- A request that is found by its serial number is an item of the list. -/
theorem request_mem {s : State} {id : Nat} {r : Request} (h : s.request? id = some r) : Item.host r ∈ s.engine.items ∧ r.id = id := by
  unfold State.request? at h
  obtain ⟨i, hi, e⟩ := Option.bind_eq_some_iff.mp h
  match i with
  | .host x =>
    cases e
    exact ⟨List.mem_of_find?_eq_some hi, by simpa [Item.id] using List.find?_some hi⟩
  | .reloc x => cases e

/-- Segments that change with their buffers keep the buffer law. -/
@[simp] theorem evolves_resegment {q0 : Prop} {b0 s : State} (id : Nat) (f : List Segment → List Segment) (hf : f [] = [])
    (ev : Evolves q0 b0 s) : Evolves q0 b0 (State.resegment s id f) := by
  unfold State.resegment
  split
  · exact ev
  · next r e =>
    obtain ⟨hm, rfl⟩ := request_mem e
    dsimp only
    split
    · next k =>
      refine evolves_items (Item.onRequest r.id fun x => { x with segs := f r.segs }) _ (fun b i hi => ?_) (fun b => ?_) ev
      · match i with
        | .host x =>
          show ItemEvolves (.host x) (if x.id == r.id then .host { x with segs := f r.segs } else .host x)
          split
          · next h =>
            cases item_one b hi hm (by simpa [Item.id] using h)
            exact ⟨rfl, rfl, rfl, rfl, fun q => ⟨by show f r.segs = []; rw [q.1, hf], q.2⟩⟩
          · exact .refl _
        | .reloc x => exact .refl _
      · have := sum_one b.order hm fun x => { x with segs := f r.segs }
        dsimp only at this
        omega
    · exact ev





@[simp] theorem evolves_dropSegments {q0 : Prop} {b0 s : State} (id : Nat) (p : Segment → Bool) (ev : Evolves q0 b0 s) :
    Evolves q0 b0 (State.dropSegments s id p) := evolves_resegment _ _ rfl ev

@[simp] theorem evolves_later {q0 : Prop} {b0 s : State} (w : Work) (hw : w.Lawful) (ev : Evolves q0 b0 s) :
    Evolves q0 b0 (State.later s w) := evolves_left _ hw ev

/-! ### Machine/Map.lean -/

@[simp] theorem evolves_evaluateHealth {q0 : Prop} {b0 s : State} (before : SpareHealth) (u : Fin 4) (ev : Evolves q0 b0 s) :
    Evolves q0 b0 (State.evaluateHealth s before u) := by
  unfold State.evaluateHealth
  try dsimp only
  (repeat' split) <;> simp (maxDischargeDepth := 30) [*]

/-- A pool changes; one that is lawful stays so. -/
theorem evolves_onPool {q0 : Prop} {b0 s : State} (u : Fin 4) (f : Pool → Pool)
    (hf : (s.map.pools.get u).Lawful → (f (s.map.pools.get u)).Lawful) (ev : Evolves q0 b0 s) :
    Evolves q0 b0 (State.onPool s u f) := by
  refine evolves_markDirty (evolves_map _ (fun _ _ h => h) (fun r v => ?_) ev)
  show ((s.map.pools.set u _).get v).Lawful
  rw [Four.get_set]
  split
  · exact hf (r u)
  · exact r v

/-- The next spare leaves its pool; nothing else of the pool changes (R33). -/
theorem take_lawful {p q : Pool} {b : Nat} (h : p.take = some (b, q)) (hc : ∀ x ∈ p.extents, 1 ≤ x.count) :
    q.remaining + 1 = p.remaining ∧ (∀ x ∈ q.extents, 1 ≤ x.count) ∧ q.issued = p.issued ∧ q.loaded = p.loaded ∧
      q.consumed = p.consumed ∧ q.discarded = p.discarded := by
  unfold Pool.take at h
  split at h
  · next b l e =>
    cases h
    exact ⟨by simp [Pool.remaining, e]; omega, hc, rfl, rfl, rfl, rfl⟩
  · next er =>
    split at h
    · cases h
    · next x l e =>
      have hx := hc x (by rw [e]; exact List.mem_cons_self)
      have hl : ∀ y ∈ l, 1 ≤ y.count := fun y hy => hc y (by rw [e]; exact List.mem_cons_of_mem _ hy)
      split at h
      · cases h
        exact ⟨by simp [Pool.remaining, e, er]; omega, hl, rfl, rfl, rfl, rfl⟩
      · next k =>
        cases h
        refine ⟨by simp [Pool.remaining, e, er]; omega, fun y hy => ?_, rfl, rfl, rfl, rfl⟩
        rcases List.mem_cons.mp hy with a | a
        · rw [a]; show 1 ≤ x.count - 1; omega
        · exact hl y a

/-- A spare that is issued leaves the issued list alone. -/
theorem unissue_length {p : Pool} {b : Nat} (h : p.isIssued b = true) : (p.unissue b).issued.length + 1 = p.issued.length := by
  obtain ⟨c, hc, k⟩ := List.any_eq_true.mp h
  show (p.issued.eraseP _).length + 1 = _
  rw [List.length_eraseP_of_mem hc k]
  have := List.length_pos_of_mem hc
  omega

@[simp] theorem evolves_claim {q0 : Prop} {b0 s : State} (u : Fin 4) (h : Nat) (ev : Evolves q0 b0 s) :
    Evolves q0 b0 (State.claim s u h).2 := by
  unfold State.claim
  dsimp only
  split
  · exact ev
  · split
    · exact ev
    · next b p e =>
      split
      · exact evolves_raise _ ev
      · refine evolves_evaluateHealth _ _ (evolves_onPool _ _ (fun r => ?_) ev)
        obtain ⟨h1, h2, h3, h4, h5, h6⟩ := take_lawful e r.counts
        obtain ⟨a, b, c, -⟩ := r
        refine ⟨?_, by rw [← h4] at b; exact b, ?_, h2⟩
        · show p.remaining + min 65535 (p.consumed + 1) + p.discarded = p.loaded
          omega
        · show (p.issued ++ [_]).length ≤ min 65535 (p.consumed + 1)
          rw [List.length_append, List.length_singleton, h3]
          omega

@[simp] theorem evolves_clearTableFull {q0 : Prop} {b0 s : State} (ev : Evolves q0 b0 s) :
    Evolves q0 b0 (State.clearTableFull s) := by
  unfold State.clearTableFull
  split
  · exact evolves_health _ rfl rfl rfl ev
  · exact ev

@[simp] theorem evolves_returnSpare {q0 : Prop} {b0 s : State} (u : Fin 4) (spare : Nat) (ev : Evolves q0 b0 s) :
    Evolves q0 b0 (State.returnSpare s u spare) := by
  unfold State.returnSpare
  split
  · next k =>
    refine evolves_clearTableFull (evolves_evaluateHealth _ _ (evolves_onPool _ _ (fun r => ?_) ev))
    have n := unissue_length k
    obtain ⟨a, b, c, d⟩ := r
    refine ⟨?_, b, ?_, d⟩
    · simp only [Pool.remaining, Pool.unissue, List.length_cons] at a n c ⊢
      omega
    · simp only [Pool.unissue] at n ⊢
      omega
  · exact ev

@[simp] theorem evolves_discardSpare {q0 : Prop} {b0 s : State} (u : Fin 4) (spare : Nat) (ev : Evolves q0 b0 s) :
    Evolves q0 b0 (State.discardSpare s u spare) := by
  unfold State.discardSpare
  split
  · next k =>
    refine evolves_clearTableFull (evolves_onPool _ _ (fun r => ?_) ev)
    have n := unissue_length k
    obtain ⟨a, b, c, d⟩ := r
    refine ⟨?_, b, ?_, d⟩
    · simp only [Pool.remaining, Pool.unissue, satAdd] at a n c ⊢
      omega
    · simp only [Pool.unissue] at n ⊢
      omega
  · exact ev

/-! ### Machine/Health.lean -/

/-- A slot changes with the buffer it holds. -/
@[simp] theorem evolves_setReloc {q0 : Prop} {b0 s : State} (k : Fin 2) (r : Option Relocation) (ev : Evolves q0 b0 s) :
    Evolves q0 b0 (State.setReloc s k r) := by
  unfold State.setReloc
  dsimp only
  split
  · next h =>
    have hw : (s.health.withSlot r k).watch = s.health.watch := by
      match k with
      | 0 => rfl
      | 1 => rfl
    refine ev.step
      { Bounds.refl s with
        range := fun q => { q with
          watch := by show (s.health.withSlot r k).watch.length ≤ _; rw [hw]; exact q.watch
          watchRange := by show ∀ e ∈ (s.health.withSlot r k).watch, _; rw [hw]; exact q.watchRange }
        buffers := fun _ => ?_
        tags := fun q => { q.tagLaw with one := q.tagLaw.one }
        ledger := fun _ _ _ => rfl
        sound := fun q => { q with
          distinct := by show ((s.health.withSlot r k).watch.map _).Nodup; rw [hw]; exact q.distinct
          unlearned := by show ∀ e ∈ (s.health.withSlot r k).watch, _; rw [hw]; exact q.unlearned } }
    match k with
    | 0 =>
      simp only [State.heldBuffers, HealthMonitor.withSlot, HealthMonitor.slot] at h ⊢
      omega
    | 1 =>
      simp only [State.heldBuffers, HealthMonitor.withSlot, HealthMonitor.slot] at h ⊢
      omega
  · exact ev

/-- The watch list becomes one within its bounds, in which no block stands twice and no new block is a learned source. -/
theorem evolves_setWatch {q0 : Prop} {b0 s : State} (l : List WatchEntry) (hl : s.Bounded → l.length ≤ Config.watchLimit)
    (hr : s.Bounded → ∀ e ∈ l, e.InRange)
    (hd : (s.health.watch.map fun e => e.block).Nodup → (l.map fun e => e.block).Nodup)
    (hu : ∀ e ∈ l, e.block ∈ (s.health.watch.map fun e => e.block) ∨ s.map.learnedOf e.block.unit e.block.block = none)
    (ev : Evolves q0 b0 s) : Evolves q0 b0 (State.setWatch s l) := by
  unfold State.setWatch
  split
  · exact ev
  · refine evolves_markDirty (ev.step (.ofBounds
      { Bounds.refl s with range := fun r => { r with watch := hl r, watchRange := hr r } } rfl rfl rfl rfl rfl
      fun r => { r with distinct := hd r.distinct, unlearned := fun e he => ?_ }))
    rcases hu e he with k | k
    · obtain ⟨x, hx, h⟩ := List.mem_map.mp k
      rw [← h]; exact r.unlearned x hx
    · exact k

/-- The entries of the watch list change in their places, within their bounds. -/
theorem evolves_setWatch_map {q0 : Prop} {b0 s : State} (f : WatchEntry → WatchEntry) (hb : ∀ e, (f e).block = e.block)
    (hr : s.Bounded → ∀ e ∈ s.health.watch, (f e).InRange) (ev : Evolves q0 b0 s) :
    Evolves q0 b0 (State.setWatch s (s.health.watch.map f)) := by
  have same : (s.health.watch.map f).map (fun e => e.block) = s.health.watch.map fun e => e.block := by
    rw [List.map_map]; exact List.map_congr_left fun e _ => hb e
  refine evolves_setWatch _ (fun r => by rw [List.length_map]; exact r.watch) (fun r e he => ?_) (fun r => by rw [same]; exact r)
    (fun e he => .inl ?_) ev
  · obtain ⟨x, hx, rfl⟩ := List.mem_map.mp he
    exact hr r x hx
  · rw [← same]; exact List.mem_map_of_mem he

@[simp] theorem evolves_suspectDue {q0 : Prop} {b0 s : State} (before : List WatchEntry) (ev : Evolves q0 b0 s) :
    Evolves q0 b0 (State.suspectDue s before) := by
  unfold State.suspectDue
  try dsimp only
  (repeat' split) <;> simp (maxDischargeDepth := 30) [*]

theorem evolves_rewatch {q0 : Prop} {b0 s : State} (f : WatchEntry → WatchEntry) (hb : ∀ e, (f e).block = e.block)
    (hr : s.Bounded → ∀ e ∈ s.health.watch, (f e).InRange) (ev : Evolves q0 b0 s) :
    Evolves q0 b0 (State.rewatch s f) := by
  refine evolves_suspectDue _ (evolves_setWatch_map _ (fun e => ?_) (fun r e he => ?_) ev)
  · unfold WatchEntry.changedTo
    split
    · exact hb e
    · exact hb e
  · have k := hr r e he
    unfold WatchEntry.changedTo
    split
    · exact k
    · exact k

@[simp] theorem evolves_reevaluate {q0 : Prop} {b0 s : State} (ev : Evolves q0 b0 s) :
    Evolves q0 b0 (State.reevaluate s) :=
  evolves_suspectDue _ (evolves_setWatch_map _ (fun _ => rfl) (fun r => r.watchRange) ev)

theorem eviction_mem {m : HealthMonitor} {x : WatchEntry} (e : m.eviction = some x) : x ∈ m.watch := by
  have fold (l : List WatchEntry) (y : WatchEntry) : l.foldl betterEviction y = y ∨ l.foldl betterEviction y ∈ l := by
    induction l generalizing y with
    | nil => exact .inl rfl
    | cons z l ih =>
      have hz : betterEviction y z = y ∨ betterEviction y z = z := by unfold betterEviction; split <;> simp
      rcases ih (betterEviction y z) with k | k
      · rcases hz with hz | hz
        · exact .inl (k.trans hz)
        · exact .inr (by rw [List.foldl_cons, k, hz]; exact List.mem_cons_self)
      · exact .inr (List.mem_cons_of_mem _ k)
  unfold HealthMonitor.eviction at e
  split at e
  · cases e
  · next y l hl =>
    have hm : ∀ z ∈ y :: l, z ∈ m.watch := fun z hz => (List.mem_filter.mp (hl ▸ hz)).1
    injection e with e
    rcases fold l y with k | k
    · exact hm x (by rw [← e, k]; exact List.mem_cons_self)
    · exact hm x (List.mem_cons_of_mem _ (e ▸ k))

theorem filter_ne_length (l : List WatchEntry) (x : WatchEntry) (h : x ∈ l) :
    (l.filter fun y => y.block != x.block).length < l.length := by
  refine List.length_filter_lt_length_iff_exists.mpr ⟨x, h, ?_⟩
  simp

theorem map_block_filter (l : List WatchEntry) (p : WatchEntry → Bool) :
    ((l.filter p).map fun e => e.block).Sublist (l.map fun e => e.block) := List.filter_sublist.map _

/-- An entry joins the list for a block that the list does not hold and that is no learned source (R94). -/
theorem evolves_insertWatch {q0 : Prop} {b0 s : State} (e : WatchEntry) (he : e.InRange) (hn : s.watched e.block = none)
    (hu : s.map.learnedOf e.block.unit e.block.block = none) (ev : Evolves q0 b0 s) :
    Evolves q0 b0 (State.insertWatch s e).2 := by
  have fresh : e.block ∉ s.health.watch.map fun e => e.block := by
    intro h
    obtain ⟨x, hx, k⟩ := List.mem_map.mp h
    have := List.find?_eq_none.mp hn x hx
    simp [k] at this
  have add (p : WatchEntry → Bool) (hl : s.Bounded → (s.health.watch.filter p ++ [e]).length ≤ Config.watchLimit) :
      Evolves q0 b0 (State.setWatch s (s.health.watch.filter p ++ [e])) := by
    refine evolves_setWatch _ hl (fun r x hx => ?_) (fun r => ?_) (fun x hx => ?_) ev
    · rcases List.mem_append.mp hx with a | a
      · exact r.watchRange x (List.mem_filter.mp a).1
      · rw [List.mem_singleton.mp a]; exact he
    · rw [List.map_append]
      refine List.nodup_append.mpr ⟨r.sublist (map_block_filter _ _), List.nodup_singleton _, fun a ha b hb => ?_⟩
      rw [List.mem_singleton.mp hb]
      intro h
      exact fresh ((map_block_filter _ _).subset (h ▸ ha))
    · rcases List.mem_append.mp hx with a | a
      · exact .inl (List.mem_map_of_mem (List.mem_filter.mp a).1)
      · rw [List.mem_singleton.mp a]; exact .inr hu
  unfold State.insertWatch
  split
  · next k =>
    have := add (fun _ => true) (fun _ => by
      rw [List.filter_true, List.length_append, List.length_singleton]; exact k)
    rwa [List.filter_true] at this
  · split
    · exact evolves_raise _ ev
    · next x k =>
      refine add _ (fun r => ?_)
      have := filter_ne_length _ x (eviction_mem k)
      have := r.watch
      simp only [List.length_append, List.length_singleton]
      omega

@[simp] theorem evolves_applyError {q0 : Prop} {b0 s : State} (a : Phys) (kind : WatchCause) (ev : Evolves q0 b0 s) :
    Evolves q0 b0 (State.applyError s a kind) := by
  have range (e : WatchEntry) (t : TimeStamp) : (e.apply kind t).InRange := ⟨Nat.min_le_left _ _, Nat.zero_le _⟩
  unfold State.applyError
  split
  · exact ev
  · next hl =>
    dsimp only
    split
    · have k := evolves_rewatch (fun e => if e.block = a then e.apply kind s.now else e) (fun e => by split <;> rfl)
        (fun r e he => by
          split
          · exact range _ _
          · exact r.watchRange e he) ev
      split
      · exact evolves_raise _ k
      · exact k
    · next hn =>
      have k (e : WatchEntry) (hb : e.block = a) (hr : e.InRange) : Evolves q0 b0 (State.insertWatch s e).2 :=
        evolves_insertWatch e hr (by rw [hb]; exact hn) (by rw [hb]; simpa using hl) ev
      have k1 := k (WatchEntry.evaluated s.mgmt.params.promotion
        (WatchEntry.apply { block := a, score := 0, age := 0, pending := false, due := false, cause := kind, stamp := s.now } kind s.now))
        rfl (range _ s.now)
      split
      · split
        · exact evolves_raise _ (evolves_suspectDue _ k1)
        · exact evolves_suspectDue _ k1
      · exact k1

@[simp] theorem evolves_applySoft {q0 : Prop} {b0 s : State} (u : Fin 4) (kind : WatchCause) (blocks : List Nat) (ev : Evolves q0 b0 s) :
    Evolves q0 b0 (State.applySoft s u kind blocks) := evolves_foldl _ (fun s b => evolves_applyError _ _ (Evolves.refl s)) _ ev

@[simp] theorem evolves_readGood {q0 : Prop} {b0 s : State} (u : Fin 4) (first : Nat) (count : Nat) (ev : Evolves q0 b0 s) :
    Evolves q0 b0 (State.readGood s u first count) := by
  unfold State.readGood
  split
  · refine evolves_rewatch _ (fun e => by split <;> rfl) (fun r e he => ?_) ev
    have := r.watchRange e he
    split
    · exact this
    · exact this
  · exact ev

theorem promotion_le {p : Params} (h : p.inRange) : p.promotion ≤ 15 := by
  have := h 5 (by decide)
  simp [paramInRange, Params.value] at this
  omega

@[simp] theorem evolves_fallbackGood {q0 : Prop} {b0 s : State} (u : Fin 4) (b : Nat) (ev : Evolves q0 b0 s) :
    Evolves q0 b0 (State.fallbackGood s u b) := by
  unfold State.fallbackGood
  split
  · refine evolves_rewatch _ (fun e => by split <;> rfl) (fun r e he => ?_) ev
    split
    · exact ⟨(Nat.sub_le _ _).trans (promotion_le r.params), Nat.zero_le _⟩
    · exact r.watchRange e he
  · exact ev

/-- A part of the watch list stays. -/
theorem evolves_setWatch_filter {q0 : Prop} {b0 s : State} (p : WatchEntry → Bool) (ev : Evolves q0 b0 s) :
    Evolves q0 b0 (State.setWatch s (s.health.watch.filter p)) :=
  evolves_setWatch _ (fun r => (List.length_filter_le _ _).trans r.watch) (fun r e he => r.watchRange e (List.mem_filter.mp he).1)
    (fun r => r.sublist (map_block_filter _ _)) (fun e he => .inl (List.mem_map_of_mem (List.mem_filter.mp he).1)) ev

/-- The watch list loses entries. -/
theorem evolves_setWatch_sublist {q0 : Prop} {b0 s : State} {l : List WatchEntry} (h : l.Sublist s.health.watch)
    (ev : Evolves q0 b0 s) : Evolves q0 b0 (State.setWatch s l) :=
  evolves_setWatch _ (fun r => h.length_le.trans r.watch) (fun r e he => r.watchRange e (h.subset he))
    (fun r => r.sublist (h.map _)) (fun e he => .inl (List.mem_map_of_mem (h.subset he))) ev

@[simp] theorem evolves_unwatch {q0 : Prop} {b0 s : State} (u : Fin 4) (b : Nat) (ev : Evolves q0 b0 s) :
    Evolves q0 b0 (State.unwatch s u b) := evolves_setWatch_filter _ ev

theorem setWatch_watch (s : State) (l : List WatchEntry) : (s.setWatch l).health.watch = l := by
  unfold State.setWatch
  split
  · next h => exact h.symm
  · rfl

theorem setWatch_map (s : State) (l : List WatchEntry) : (s.setWatch l).map = s.map := by
  unfold State.setWatch; split <;> rfl

@[simp] theorem evolves_ageWatch {q0 : Prop} {b0 s : State} (ev : Evolves q0 b0 s) :
    Evolves q0 b0 (State.ageWatch s) := by
  unfold State.ageWatch
  have aged (e x : WatchEntry) (h : e.aged = some x) : x.block = e.block ∧ (e.InRange → x.InRange) := by
    unfold WatchEntry.aged at h
    split at h
    · next k => cases h; exact ⟨rfl, fun r => ⟨r.1, k⟩⟩
    · split at h
      · cases h; exact ⟨rfl, fun r => ⟨(Nat.sub_le _ _).trans r.1, r.2⟩⟩
      · cases h
  have step (e x : WatchEntry) (h : (if e.pending || s.health.inRelocation e.block then some e else e.aged) = some x) :
      x.block = e.block ∧ (e.InRange → x.InRange) := by
    split at h
    · cases h; exact ⟨rfl, id⟩
    · exact aged e x h
  have sub (l : List WatchEntry) (f : WatchEntry → Option WatchEntry) (hf : ∀ e x, f e = some x → x.block = e.block) :
      ((l.filterMap f).map fun e => e.block).Sublist (l.map fun e => e.block) := by
    induction l with
    | nil => exact List.Sublist.refl _
    | cons e l ih =>
      rw [List.filterMap_cons]
      split
      · exact ih.cons _
      · next x h => rw [List.map_cons, List.map_cons, hf e x h]; exact ih.cons_cons _
  have keep (l : List WatchEntry) (n : Nat) : (l.map fun e => e.evaluated n).map (fun e => e.block) = l.map fun e => e.block := by
    rw [List.map_map]; rfl
  have sub' := sub s.health.watch (fun e => if e.pending || s.health.inRelocation e.block then some e else e.aged) fun e x h => (step e x h).1
  refine evolves_suspectDue _ (evolves_setWatch _ (fun r => ?_) (fun r e he => ?_) (fun r => ?_) (fun e he => .inl ?_) ev)
  · rw [List.length_map]; exact (List.length_filterMap_le _ _).trans r.watch
  · obtain ⟨x, hx, rfl⟩ := List.mem_map.mp he
    obtain ⟨y, hy, k⟩ := List.mem_filterMap.mp hx
    exact (step y x k).2 (r.watchRange y hy)
  · rw [keep]; exact r.sublist sub'
  · have := List.mem_map_of_mem (f := fun e => e.block) he
    rw [keep] at this
    exact sub'.subset this

theorem findPos_none {α : Type} {p : α → Bool} {l : List α} {n : Nat} : findPos p l n = none ↔ ∀ x ∈ l, p x = false := by
  induction l generalizing n with
  | nil => simp [findPos]
  | cons x l ih =>
    unfold findPos
    split
    · next h => simp [h]
    · next h => rw [ih]; simp [h]

/-- A learned entry of a source joins the table or takes the place of another; no other source joins it. -/
theorem learn_none {m : MapUnit} {l : List LearnedEntry} {u : Fin 4} {h : Nat} (hl : ∀ e ∈ l, e ∈ m.learned ∨ (e.unit = u ∧ e.source = h))
    {v : Fin 4} {b : Nat} (n : ¬ (v = u ∧ b = h)) (k : m.learnedOf v b = none) : MapUnit.learnedOf { m with learned := l } v b = none := by
  refine findPos_none.mpr fun e he => ?_
  rcases hl e he with a | ⟨a, c⟩
  · exact findPos_none.mp k e a
  · rw [Bool.and_eq_false_iff, beq_eq_false_iff_ne, beq_eq_false_iff_ne, a, c]
    by_cases q : u = v
    · exact .inr fun w => n ⟨q.symm, w.symm⟩
    · exact .inl q

@[simp] theorem evolves_install {q0 : Prop} {b0 s : State} (u : Fin 4) (h : Nat) (spare : Nat) (cause : LearnedCause) (ev : Evolves q0 b0 s) :
    Evolves q0 b0 (State.install s u h spare cause) := by
  have pool : Evolves q0 b0 (State.onPool s u fun p => p.unissue spare) := evolves_onPool _ _ (fun r =>
    ⟨r.sum, r.loaded, (List.length_eraseP_le).trans r.issued, r.counts⟩) ev
  have gone := evolves_unwatch u h pool
  have learn (l : List LearnedEntry) (hl : ∀ e ∈ l, e ∈ s.map.learned ∨ (e.unit = u ∧ e.source = h)) :
      Evolves q0 b0 { ((s.onPool u fun p => p.unissue spare).unwatch u h) with
        map := { ((s.onPool u fun p => p.unissue spare).unwatch u h).map with learned := l } } := by
    have hm : ((s.onPool u fun p => p.unissue spare).unwatch u h).map = (s.onPool u fun p => p.unissue spare).map := setWatch_map _ _
    refine evolves_map _ (fun e he k => learn_none (u := u) (h := h) (fun x hx => ?_) (fun q => ?_) k) id gone
    · rw [hm]; exact hl x hx
    · have : e ∈ _ := he
      rw [State.unwatch, setWatch_watch] at this
      have := (List.mem_filter.mp this).2
      obtain ⟨q1, q2⟩ := q
      simp [← q1, ← q2] at this
  unfold State.install
  dsimp only
  refine evolves_counters _ (evolves_onUnitCounters _ _ ?_)
  split
  · refine learn _ fun e he => ?_
    rcases List.mem_append.mp he with a | a
    · exact .inl a
    · rw [List.mem_singleton.mp a]; exact .inr ⟨rfl, rfl⟩
  · refine evolves_unwatch _ _ (learn _ fun e he => ?_)
    rcases List.mem_or_eq_of_mem_set he with a | a
    · exact .inl a
    · rw [a]; exact .inr ⟨rfl, rfl⟩

/-! ### Machine/Offers.lean -/

theorem without_evolves (p : Port) (place : Place) : PortEvolves p (p.without place) := by
  cases place
  · exact .same rfl rfl rfl
  · exact .same rfl rfl rfl
  · exact .same rfl rfl rfl
  · refine ⟨List.prefix_refl _, fun r => ⟨r.1, ?_⟩⟩
    have := r.2
    show p.queue.tail.length ≤ _
    rw [List.length_tail]; omega

@[simp] theorem evolves_sendOp {q0 : Prop} {b0 s : State} (u : Fin 4) (place : Place) (slot : Fin 4) (o : Op) (ev : Evolves q0 b0 s) :
    Evolves q0 b0 (State.sendOp s u place slot o) := by
  unfold State.sendOp
  refine evolves_onUnitCounters _ _ (evolves_onPort _ _ ⟨List.prefix_append _ _, fun r => ?_⟩ ev)
  have k := (without_evolves _ place).range r
  exact ⟨k.1, k.2⟩

@[simp] theorem evolves_pumpUpTo {q0 : Prop} {b0 s : State} (u : Fin 4) (n : Nat) (ev : Evolves q0 b0 s) :
    Evolves q0 b0 (State.pumpUpTo u n s) := by
  induction n generalizing s with
  | zero => exact ev
  | succ n ih =>
    unfold State.pumpUpTo
    split
    · exact ih (evolves_sendOp _ _ _ _ ev)
    · exact ev
    · exact ev

@[simp] theorem evolves_pump {q0 : Prop} {b0 s : State} (u : Fin 4) (ev : Evolves q0 b0 s) :
    Evolves q0 b0 (State.pump s u) := by
  unfold State.pump
  try dsimp only
  (repeat' split) <;> simp (maxDischargeDepth := 30) [*]

@[simp] theorem evolves_offer {q0 : Prop} {b0 s : State} (u : Fin 4) (kind : OpKind) (first : Nat) (count : Nat) (owner : Owner) (data : List Block) (ev : Evolves q0 b0 s) :
    Evolves q0 b0 (State.offer s u kind first count owner data).2 := by
  unfold State.offer
  dsimp only
  split
  · exact evolves_later _ (work_ended _ _ _) (evolves_nextId ev)
  · split
    · exact ev
    · next k =>
      refine evolves_pump _ (evolves_onPort _ _ ⟨List.prefix_refl _, fun r => ⟨r.1, ?_⟩⟩ (evolves_nextId ev))
      have : ¬ Config.queuePlaces ≤ (s.port u).queue.length := k
      show ((s.port u).queue ++ [_]).length ≤ _
      simp only [List.length_append, List.length_singleton]
      omega

@[simp] theorem evolves_offerScan {q0 : Prop} {b0 s : State} (x : Extent) (ev : Evolves q0 b0 s) :
    Evolves q0 b0 (State.offerScan s x).2 := by
  unfold State.offerScan
  try dsimp only
  (repeat' split) <;> simp (maxDischargeDepth := 30) [*]

@[simp] theorem evolves_offerStore {q0 : Prop} {b0 s : State} (kind : OpKind) (first : Nat) (count : Nat) (data : List Block) (ev : Evolves q0 b0 s) :
    Evolves q0 b0 (State.offerStore s kind first count data).2 := by
  unfold State.offerStore
  try dsimp only
  (repeat' split) <;> simp (maxDischargeDepth := 30) [*]

@[simp] theorem evolves_placeAttach {q0 : Prop} {b0 s : State} (u : Fin 4) (kind : OpKind) (ev : Evolves q0 b0 s) :
    Evolves q0 b0 (State.placeAttach s u kind) := by
  unfold State.placeAttach
  try dsimp only
  (repeat' split) <;> simp (maxDischargeDepth := 30) [*]

end Sys2Proof.Laws
end

