-- ==== Sys2Proof/Laws/EvolutionEngines.lean ====
section
/-!
SUPPORT. What the operations of Machine/Requests, Relocation, Scan, Responses and Store keep (Laws/Evolution.lean), one lemma each.
-/

set_option linter.all false

set_option Elab.async false

namespace Sys2Proof.Laws

open Sys2Proof Sys2Proof.Machine

/-! ### Machine/Requests.lean -/

@[simp] theorem evolves_takeFailure {q0 : Prop} {b0 s : State} (id : Nat) (off : Nat) (status : Status) (ev : Evolves q0 b0 s) :
    Evolves q0 b0 (State.takeFailure s id off status) := by
  unfold State.takeFailure
  try dsimp only
  (repeat' split) <;> simp (maxDischargeDepth := 30) [*]

@[simp] theorem evolves_complete {q0 : Prop} {b0 s : State} (id : Nat) (off : Nat) (n : Nat) (ev : Evolves q0 b0 s) :
    Evolves q0 b0 (State.complete s id off n) := by
  unfold State.complete
  try dsimp only
  (repeat' split) <;> simp (maxDischargeDepth := 30) [*]

/-- A live request that holds no segment completes (R65). -/
theorem evolves_sendDone {q0 : Prop} {b0 s : State} (r : Request) (hm : Item.host r ∈ s.engine.items) (ho : r.orphan = false)
    (hs : r.segs = []) (ev : Evolves q0 b0 s) : Evolves q0 b0 (State.sendDone s r) := by
  have k := evolves_countCompleted r.stream (evolves_completes r hm ho hs r.status r.residual r.failingLba r.recovered ev)
  unfold State.sendDone
  dsimp only
  split
  · exact evolves_onStream _ _ k
  · exact k

@[simp] theorem evolves_tryComplete {q0 : Prop} {b0 s : State} (id : Nat) (ev : Evolves q0 b0 s) :
    Evolves q0 b0 (State.tryComplete s id) := by
  unfold State.tryComplete
  split
  · exact ev
  · next r e =>
    split
    · next k =>
      simp only [Request.finished, Bool.and_eq_true, Bool.not_eq_true', List.isEmpty_iff] at k
      exact evolves_sendDone r (request_mem e).1 k.1.1.1 k.1.2 ev
    · exact ev

@[simp] theorem evolves_offerSegment {q0 : Prop} {b0 s : State} (id : Nat) (seg : Nat) (ev : Evolves q0 b0 s) :
    Evolves q0 b0 (State.offerSegment s id seg) := by
  unfold State.offerSegment
  try dsimp only
  (repeat' split) <;> simp (maxDischargeDepth := 30) [*]

@[simp] theorem evolves_offerVerify {q0 : Prop} {b0 s : State} (id : Nat) (seg : Nat) (ev : Evolves q0 b0 s) :
    Evolves q0 b0 (State.offerVerify s id seg) := by
  unfold State.offerVerify
  try dsimp only
  (repeat' split) <;> simp (maxDischargeDepth := 30) [*]

@[simp] theorem evolves_offerRepair {q0 : Prop} {b0 s : State} (id : Nat) (seg : Nat) (ev : Evolves q0 b0 s) :
    Evolves q0 b0 (State.offerRepair s id seg) := by
  unfold State.offerRepair
  try dsimp only
  (repeat' split) <;> simp (maxDischargeDepth := 30) [*]

@[simp] theorem evolves_cutOnce {q0 : Prop} {b0 s : State} (id : Nat) (ev : Evolves q0 b0 s) :
    Evolves q0 b0 (State.cutOnce s id).2 := by
  unfold State.cutOnce
  split
  · exact ev
  · next r e =>
    split
    · exact ev
    · next x _ =>
      split
      · next c =>
        split
        · exact evolves_takeFailure _ _ _ ev
        · obtain ⟨hm, hi⟩ := request_mem e
          have run : r.state = .running := by
            simp only [Request.cuts, Bool.and_eq_true, decide_eq_true_eq] at c; exact c.1.1.1.1
          have add : Evolves q0 b0 ({ s with nextId := s.nextId + 1 }.onRequest id fun q =>
              { q with segs := q.segs ++ [s.nextSegment r x], cursor := q.cursor + (s.nextSegment r x).count }) := by
            refine evolves_request _ _ (fun b q hq hk => ⟨⟨rfl, rfl, rfl, rfl, rfl, fun _ n => ?_⟩, ?_⟩) (evolves_nextId ev)
            · have : Item.host q = .host r := item_one b hq hm (hk.trans hi.symm)
              cases this
              exact absurd run n
            · simp [heldBy, State.nextSegment]
          dsimp only
          split
          · exact evolves_offerSegment _ _ add
          · exact add
      · exact ev

@[simp] theorem evolves_cutUpTo {q0 : Prop} {b0 s : State} (id : Nat) (n : Nat) (ev : Evolves q0 b0 s) :
    Evolves q0 b0 (State.cutUpTo id n s) := by
  induction n generalizing s with
  | zero => exact ev
  | succ n ih =>
    unfold State.cutUpTo
    dsimp only
    split
    · exact ih (evolves_cutOnce _ ev)
    · exact evolves_cutOnce _ ev

@[simp] theorem evolves_cut {q0 : Prop} {b0 s : State} (id : Nat) (ev : Evolves q0 b0 s) :
    Evolves q0 b0 (State.cut s id) := by
  unfold State.cut
  try dsimp only
  (repeat' split) <;> simp (maxDischargeDepth := 30) [*]

@[simp] theorem evolves_releaseSegment {q0 : Prop} {b0 s : State} (id : Nat) (seg : Nat) (ev : Evolves q0 b0 s) :
    Evolves q0 b0 (State.releaseSegment s id seg) := evolves_resegment _ _ rfl ev

@[simp] theorem evolves_segmentEnds {q0 : Prop} {b0 s : State} (id : Nat) (seg : Nat) (ev : Evolves q0 b0 s) :
    Evolves q0 b0 (State.segmentEnds s id seg) := by
  unfold State.segmentEnds
  try dsimp only
  (repeat' split) <;> simp (maxDischargeDepth := 30) [*]

@[simp] theorem evolves_segmentFails {q0 : Prop} {b0 s : State} (id : Nat) (seg : Nat) (off : Nat) (status : Status) (ev : Evolves q0 b0 s) :
    Evolves q0 b0 (State.segmentFails s id seg off status) := by
  unfold State.segmentFails
  try dsimp only
  (repeat' split) <;> simp (maxDischargeDepth := 30) [*]

@[simp] theorem evolves_trimFront {q0 : Prop} {b0 s : State} (id : Nat) (g : Segment) (k : Nat) (ev : Evolves q0 b0 s) :
    Evolves q0 b0 (State.trimFront s id g k) := by
  unfold State.trimFront
  try dsimp only
  (repeat' split) <;> simp (maxDischargeDepth := 30) [*]

@[simp] theorem evolves_trimBack {q0 : Prop} {b0 s : State} (id : Nat) (g : Segment) (k : Nat) (ev : Evolves q0 b0 s) :
    Evolves q0 b0 (State.trimBack s id g k) := by
  unfold State.trimBack
  try dsimp only
  (repeat' split) <;> simp (maxDischargeDepth := 30) [*]

@[simp] theorem evolves_logRequest {q0 : Prop} {b0 s : State} (r : Request) (kind : LogKind) (unit : Fin 4) (block : Nat) (off : Nat) (ev : Evolves q0 b0 s) :
    Evolves q0 b0 (State.logRequest s r kind unit block off) := by
  unfold State.logRequest
  try dsimp only
  (repeat' split) <;> simp (maxDischargeDepth := 30) [*]

@[simp] theorem evolves_markRecovered {q0 : Prop} {b0 s : State} (id : Nat) (soft : List Nat) (ev : Evolves q0 b0 s) :
    Evolves q0 b0 (State.markRecovered s id soft) := by
  unfold State.markRecovered
  try dsimp only
  (repeat' split) <;> simp (maxDischargeDepth := 30) [*]

@[simp] theorem evolves_remainder {q0 : Prop} {b0 s : State} (r : Request) (g : Segment) (ev : Evolves q0 b0 s) :
    Evolves q0 b0 (State.remainder s r g) := by
  unfold State.remainder
  try dsimp only
  (repeat' split) <;> simp (maxDischargeDepth := 30) [*]

@[simp] theorem evolves_verifyRest {q0 : Prop} {b0 s : State} (r : Request) (g : Segment) (ev : Evolves q0 b0 s) :
    Evolves q0 b0 (State.verifyRest s r g) := by
  unfold State.verifyRest
  try dsimp only
  (repeat' split) <;> simp (maxDischargeDepth := 30) [*]

@[simp] theorem evolves_fallbackWrite {q0 : Prop} {b0 s : State} (r : Request) (g : Segment) (ev : Evolves q0 b0 s) :
    Evolves q0 b0 (State.fallbackWrite s r g) := by
  unfold State.fallbackWrite
  try dsimp only
  (repeat' split) <;> simp (maxDischargeDepth := 30) [*]

@[simp] theorem evolves_noSpare {q0 : Prop} {b0 s : State} (r : Request) (g : Segment) (kind : RepairKind) (ev : Evolves q0 b0 s) :
    Evolves q0 b0 (State.noSpare s r g kind) := by
  unfold State.noSpare
  try dsimp only
  (repeat' split) <;> simp (maxDischargeDepth := 30) [*]

@[simp] theorem evolves_repairClaim {q0 : Prop} {b0 s : State} (r : Request) (g : Segment) (kind : RepairKind) (tried : Nat) (ev : Evolves q0 b0 s) :
    Evolves q0 b0 (State.repairClaim s r g kind tried) := by
  unfold State.repairClaim
  split <;> (next e => have k := evolves_snd (evolves_claim _ _ ev) e; simp (maxDischargeDepth := 30) [k])

@[simp] theorem evolves_giveUp {q0 : Prop} {b0 s : State} (r : Request) (g : Segment) (kind : RepairKind) (ev : Evolves q0 b0 s) :
    Evolves q0 b0 (State.giveUp s r g kind) := by
  unfold State.giveUp
  try dsimp only
  (repeat' split) <;> simp (maxDischargeDepth := 30) [*]

@[simp] theorem evolves_repairRetry {q0 : Prop} {b0 s : State} (r : Request) (g : Segment) (p : Repair) (atOnce : Bool) (ev : Evolves q0 b0 s) :
    Evolves q0 b0 (State.repairRetry s r g p atOnce) := by
  unfold State.repairRetry
  try dsimp only
  (repeat' split) <;> simp (maxDischargeDepth := 30) [*]

@[simp] theorem evolves_repairDone {q0 : Prop} {b0 s : State} (r : Request) (g : Segment) (p : Repair) (ev : Evolves q0 b0 s) :
    Evolves q0 b0 (State.repairDone s r g p) := by
  unfold State.repairDone
  try dsimp only
  (repeat' split) <;> simp (maxDischargeDepth := 30) [*]

@[simp] theorem evolves_nextSpare {q0 : Prop} {b0 s : State} (r : Request) (g : Segment) (kind : RepairKind) (tried : Nat) (ev : Evolves q0 b0 s) :
    Evolves q0 b0 (State.nextSpare s r g kind tried) := by
  unfold State.nextSpare
  try dsimp only
  (repeat' split) <;> simp (maxDischargeDepth := 30) [*]

@[simp] theorem evolves_repairEnded {q0 : Prop} {b0 s : State} (r : Request) (g : Segment) (p : Repair) (out : OpOutcome) (ev : Evolves q0 b0 s) :
    Evolves q0 b0 (State.repairEnded s r g p out) := by
  unfold State.repairEnded
  try dsimp only
  (repeat' split) <;> simp (maxDischargeDepth := 30) [*]

@[simp] theorem evolves_segmentTimeout {q0 : Prop} {b0 s : State} (r : Request) (g : Segment) (verifying : Bool) (ev : Evolves q0 b0 s) :
    Evolves q0 b0 (State.segmentTimeout s r g verifying) := by
  unfold State.segmentTimeout
  try dsimp only
  (repeat' split) <;> simp (maxDischargeDepth := 30) [*]

@[simp] theorem evolves_readEnded {q0 : Prop} {b0 s : State} (r : Request) (g : Segment) (out : OpOutcome) (ev : Evolves q0 b0 s) :
    Evolves q0 b0 (State.readEnded s r g out) := by
  unfold State.readEnded
  try dsimp only
  (repeat' split) <;> simp (maxDischargeDepth := 30) [*]

@[simp] theorem evolves_verifyEnded {q0 : Prop} {b0 s : State} (r : Request) (g : Segment) (out : OpOutcome) (ev : Evolves q0 b0 s) :
    Evolves q0 b0 (State.verifyEnded s r g out) := by
  unfold State.verifyEnded
  try dsimp only
  (repeat' split) <;> simp (maxDischargeDepth := 30) [*]

@[simp] theorem evolves_writeFaulted {q0 : Prop} {b0 s : State} (r : Request) (g : Segment) (stop : Nat) (ev : Evolves q0 b0 s) :
    Evolves q0 b0 (State.writeFaulted s r g stop) := by
  unfold State.writeFaulted
  try dsimp only
  (repeat' split) <;> simp (maxDischargeDepth := 30) [*]

@[simp] theorem evolves_writeEnded {q0 : Prop} {b0 s : State} (r : Request) (g : Segment) (out : OpOutcome) (ev : Evolves q0 b0 s) :
    Evolves q0 b0 (State.writeEnded s r g out) := by
  unfold State.writeEnded
  try dsimp only
  (repeat' split) <;> simp (maxDischargeDepth := 30) [*]

@[simp] theorem evolves_afterWriteEnded {q0 : Prop} {b0 s : State} (r : Request) (g : Segment) (out : OpOutcome) (ev : Evolves q0 b0 s) :
    Evolves q0 b0 (State.afterWriteEnded s r g out) := by
  unfold State.afterWriteEnded
  try dsimp only
  (repeat' split) <;> simp (maxDischargeDepth := 30) [*]

@[simp] theorem evolves_orphanSegmentEnds {q0 : Prop} {b0 s : State} (id : Nat) (seg : Nat) (ev : Evolves q0 b0 s) :
    Evolves q0 b0 (State.orphanSegmentEnds s id seg) := by
  have k := evolves_releaseSegment id seg ev
  unfold State.orphanSegmentEnds
  dsimp only
  split
  · exact k
  · next r e =>
    obtain ⟨hm, hi⟩ := request_mem e
    split
    · next c =>
      simp only [Bool.and_eq_true, List.isEmpty_iff] at c
      subst hi
      refine evolves_leaves (.host r) hm ?_ ?_ k
      · show (if r.orphan then none else some r.tag) = none
        rw [c.1]; rfl
      · show heldBy r.segs = 0
        rw [c.2]; rfl
    · exact k

@[simp] theorem evolves_orphanDone {q0 : Prop} {b0 s : State} (r : Request) (g : Segment) (kind : OpKind) (ev : Evolves q0 b0 s) :
    Evolves q0 b0 (State.orphanDone s r g kind) := by
  unfold State.orphanDone
  try dsimp only
  (repeat' split) <;> simp (maxDischargeDepth := 30) [*]

@[simp] theorem evolves_orphanEnded {q0 : Prop} {b0 s : State} (r : Request) (g : Segment) (kind : OpKind) (out : OpOutcome) (ev : Evolves q0 b0 s) :
    Evolves q0 b0 (State.orphanEnded s r g kind out) := by
  unfold State.orphanEnded
  try dsimp only
  (repeat' split) <;> simp (maxDischargeDepth := 30) [*]

@[simp] theorem evolves_orphanDiscards {q0 : Prop} {b0 s : State} (g : Segment) (p : Repair) (ev : Evolves q0 b0 s) :
    Evolves q0 b0 (State.orphanDiscards s g p) := by
  unfold State.orphanDiscards
  try dsimp only
  (repeat' split) <;> simp (maxDischargeDepth := 30) [*]

@[simp] theorem evolves_orphanRepairEnded {q0 : Prop} {b0 s : State} (r : Request) (g : Segment) (p : Repair) (out : OpOutcome) (ev : Evolves q0 b0 s) :
    Evolves q0 b0 (State.orphanRepairEnded s r g p out) := by
  unfold State.orphanRepairEnded
  try dsimp only
  (repeat' split) <;> simp (maxDischargeDepth := 30) [*]

@[simp] theorem evolves_segmentEnded {q0 : Prop} {b0 s : State} (id : Nat) (seg : Nat) (kind : OpKind) (out : OpOutcome) (ev : Evolves q0 b0 s) :
    Evolves q0 b0 (State.segmentEnded s id seg kind out) := by
  unfold State.segmentEnded
  try dsimp only
  (repeat' split) <;> simp (maxDischargeDepth := 30) [*]

@[simp] theorem evolves_repairWriteEnded {q0 : Prop} {b0 s : State} (id : Nat) (seg : Nat) (out : OpOutcome) (ev : Evolves q0 b0 s) :
    Evolves q0 b0 (State.repairWriteEnded s id seg out) := by
  unfold State.repairWriteEnded
  try dsimp only
  (repeat' split) <;> simp (maxDischargeDepth := 30) [*]

@[simp] theorem evolves_dataComplete {q0 : Prop} {b0 s : State} (id : Nat) (seg : Nat) (ev : Evolves q0 b0 s) :
    Evolves q0 b0 (State.dataComplete s id seg) := by
  unfold State.dataComplete
  try dsimp only
  (repeat' split) <;> simp (maxDischargeDepth := 30) [*]

@[simp] theorem evolves_offerAgain {q0 : Prop} {b0 s : State} (id : Nat) (seg : Nat) (ev : Evolves q0 b0 s) :
    Evolves q0 b0 (State.offerAgain s id seg) := by
  unfold State.offerAgain
  try dsimp only
  (repeat' split) <;> simp (maxDischargeDepth := 30) [*]

/-! ### Machine/Relocation.lean -/

@[simp] theorem evolves_relocEnds {q0 : Prop} {b0 s : State} (k : Fin 2) (ev : Evolves q0 b0 s) :
    Evolves q0 b0 (State.relocEnds s k) := by
  unfold State.relocEnds
  try dsimp only
  (repeat' split) <;> simp (maxDischargeDepth := 30) [*]

@[simp] theorem evolves_relocReturns {q0 : Prop} {b0 s : State} (r : Relocation) (ev : Evolves q0 b0 s) :
    Evolves q0 b0 (State.relocReturns s r) := by
  unfold State.relocReturns
  try dsimp only
  (repeat' split) <;> simp (maxDischargeDepth := 30) [*]

@[simp] theorem evolves_relocDiscards {q0 : Prop} {b0 s : State} (r : Relocation) (ev : Evolves q0 b0 s) :
    Evolves q0 b0 (State.relocDiscards s r) := by
  unfold State.relocDiscards
  try dsimp only
  (repeat' split) <;> simp (maxDischargeDepth := 30) [*]

@[simp] theorem evolves_offerReloc {q0 : Prop} {b0 s : State} (k : Fin 2) (ev : Evolves q0 b0 s) :
    Evolves q0 b0 (State.offerReloc s k) := by
  unfold State.offerReloc
  try dsimp only
  (repeat' split) <;> simp (maxDischargeDepth := 30) [*]

@[simp] theorem evolves_logReloc {q0 : Prop} {b0 s : State} (r : Relocation) (ev : Evolves q0 b0 s) :
    Evolves q0 b0 (State.logReloc s r) := by
  unfold State.logReloc
  try dsimp only
  (repeat' split) <;> simp (maxDischargeDepth := 30) [*]

@[simp] theorem evolves_holdTable {q0 : Prop} {b0 s : State} (ev : Evolves q0 b0 s) :
    Evolves q0 b0 (State.holdTable s) := by
  unfold State.holdTable
  try dsimp only
  (repeat' split) <;> simp (maxDischargeDepth := 30) [*]

@[simp] theorem evolves_relocClaims {q0 : Prop} {b0 s : State} (k : Fin 2) (ev : Evolves q0 b0 s) :
    Evolves q0 b0 (State.relocClaims s k) := by
  unfold State.relocClaims
  split
  · exact ev
  · split <;> (next e => have k := evolves_snd (evolves_claim _ _ ev) e; simp (maxDischargeDepth := 30) [k])

/-- A relocation item that no item before it holds becomes RUNNING and claims its spare. -/
theorem evolves_relocRuns {q0 : Prop} {b0 s : State} (k : Fin 2) {l1 l2 : List Item} {x : RelocItem}
    (he : s.engine.items = l1 ++ Item.reloc x :: l2) (hb : ∀ e ∈ l1, e.blocks (.reloc x) = false) (ev : Evolves q0 b0 s) :
    Evolves q0 b0 (State.relocRuns s x.id k) := by
  refine evolves_relocClaims _ (evolves_one _ he (fun y hy => ?_) ?_ ?_ ?_ (fun _ e hl h => ?_) (fun y _ h => ?_) ev)
  · match y with
    | .host r => rfl
    | .reloc r => exact if_neg (by simpa [Item.id] using hy)
  all_goals simp only [beq_self_eq_true, if_true] at *
  · rfl
  · rfl
  · rfl
  · rw [show e.blocks (.reloc { x with held := false }) = e.blocks (.reloc x) from rfl, hb e hl] at h; cases h
  · exact h

theorem setReloc_items (s : State) (k : Fin 2) (r : Option Relocation) : (s.setReloc k r).engine.items = s.engine.items := by
  unfold State.setReloc; dsimp only; split <;> rfl

theorem setReloc_nextId (s : State) (k : Fin 2) (r : Option Relocation) : (s.setReloc k r).nextId = s.nextId := by
  unfold State.setReloc; dsimp only; split <;> rfl

@[simp] theorem evolves_startReloc {q0 : Prop} {b0 s : State} (k : Fin 2) (e : WatchEntry) (home : Nat) (r : Resolution) (ev : Evolves q0 b0 s) :
    Evolves q0 b0 (State.startReloc s k e home r) := by
  have items (q : Option Relocation) : (s.takeId.2.setReloc k q).engine.items = s.engine.items := setReloc_items _ _ _
  have add (q : Option Relocation) (x : RelocItem) (hx : x.held = true) (hi : x.id = s.nextId) :
      Evolves q0 b0 ((s.takeId.2.setReloc k q).addItem (.reloc x)) := by
    refine ev.step (evolves_addReloc x hx (fun b => ⟨?_, ?_⟩) (evolves_setReloc _ _ (evolves_takeId (.refl s))))
    · rw [items, hi]; exact b.given
    · rw [setReloc_nextId, hi]; exact Nat.lt_succ_self _
  have run (q : Option Relocation) (x : RelocItem) (hx : x.held = true) (hi : x.id = s.nextId)
      (hb : ∀ e ∈ s.engine.items, e.blocks (.reloc x) = false) :
      Evolves q0 b0 (((s.takeId.2.setReloc k q).addItem (.reloc x)).relocRuns x.id k) :=
    evolves_relocRuns k (l1 := s.engine.items) (l2 := []) (by
      show (State.setReloc _ _ _).engine.items ++ [_] = _
      rw [items]) hb (add _ _ hx hi)
  unfold State.startReloc
  dsimp only
  split
  · exact add _ _ rfl rfl
  · next h => exact run _ _ rfl rfl (by simpa [State.holds, State.takeId] using h)

@[simp] theorem evolves_relocReadEnded {q0 : Prop} {b0 s : State} (k : Fin 2) (r : Relocation) (out : OpOutcome) (ev : Evolves q0 b0 s) :
    Evolves q0 b0 (State.relocReadEnded s k r out) := by
  unfold State.relocReadEnded
  try dsimp only
  (repeat' split) <;> simp (maxDischargeDepth := 30) [*]

@[simp] theorem evolves_relocFaulted {q0 : Prop} {b0 s : State} (k : Fin 2) (r : Relocation) (ev : Evolves q0 b0 s) :
    Evolves q0 b0 (State.relocFaulted s k r) := by
  unfold State.relocFaulted
  dsimp only
  split
  · split <;> (next e => have k := evolves_snd (evolves_claim _ _ (evolves_relocDiscards _ ev)) e
                         simp (maxDischargeDepth := 30) [k])
  · simp (maxDischargeDepth := 30) [ev]

@[simp] theorem evolves_relocWriteEnded {q0 : Prop} {b0 s : State} (k : Fin 2) (r : Relocation) (out : OpOutcome) (ev : Evolves q0 b0 s) :
    Evolves q0 b0 (State.relocWriteEnded s k r out) := by
  unfold State.relocWriteEnded
  try dsimp only
  (repeat' split) <;> simp (maxDischargeDepth := 30) [*]

@[simp] theorem evolves_relocEnded {q0 : Prop} {b0 s : State} (k : Fin 2) (kind : OpKind) (out : OpOutcome) (ev : Evolves q0 b0 s) :
    Evolves q0 b0 (State.relocEnded s k kind out) := by
  unfold State.relocEnded
  try dsimp only
  (repeat' split) <;> simp (maxDischargeDepth := 30) [*]

@[simp] theorem evolves_relocLost {q0 : Prop} {b0 s : State} (u : Fin 4) (k : Fin 2) (ev : Evolves q0 b0 s) :
    Evolves q0 b0 (State.relocLost s u k) := by
  unfold State.relocLost
  try dsimp only
  (repeat' split) <;> simp (maxDischargeDepth := 30) [*]

@[simp] theorem evolves_grantSegment {q0 : Prop} {b0 s : State} (id : Nat) (seg : Nat) (count : Nat) (ev : Evolves q0 b0 s) :
    Evolves q0 b0 (State.grantSegment s id seg count) := by
  unfold State.grantSegment
  split
  · exact ev
  · split
    · exact ev
    · have k := evolves_resegment id (fun l => l.map fun g => if g.id == seg then { g with buffers := count } else g) rfl ev
      dsimp only
      split
      · exact evolves_send _ (fun _ => rfl) (evolves_onSegment _ _ _ (fun _ => rfl) k)
      · exact evolves_offerSegment _ _ k

@[simp] theorem evolves_grant {q0 : Prop} {b0 s : State} (c : BufferClaim) (ev : Evolves q0 b0 s) :
    Evolves q0 b0 (State.grant s c) := by
  unfold State.grant
  try dsimp only
  (repeat' split) <;> simp (maxDischargeDepth := 30) [*]

/-! ### Machine/Scan.lean -/

@[simp] theorem evolves_writeScanLog {q0 : Prop} {b0 s : State} (c : ScanContext) (result : ScanResult) (ev : Evolves q0 b0 s) :
    Evolves q0 b0 (State.writeScanLog s c result) :=
  evolves_markDirty (evolves_raise _ (evolves_scan _ (pushBounded_length 16 _ _) id ev))

@[simp] theorem evolves_withdrawScan {q0 : Prop} {b0 s : State} (v : Option ScanVerify) (ev : Evolves q0 b0 s) :
    Evolves q0 b0 (State.withdrawScan s v) := by
  unfold State.withdrawScan
  try dsimp only
  (repeat' split) <;> simp (maxDischargeDepth := 30) [*]

@[simp] theorem evolves_endScan {q0 : Prop} {b0 s : State} (result : ScanResult) (ev : Evolves q0 b0 s) :
    Evolves q0 b0 (State.endScan s result) := by
  unfold State.endScan
  try dsimp only
  (repeat' split) <;> simp (maxDischargeDepth := 30) [*]

@[simp] theorem evolves_setScan {q0 : Prop} {b0 s : State} (c : ScanContext) (ev : Evolves q0 b0 s) :
    Evolves q0 b0 (State.setScan s c) := evolves_scan _ id (fun h => by simpa using h) ev

@[simp] theorem evolves_stopIdle {q0 : Prop} {b0 s : State} (ev : Evolves q0 b0 s) : Evolves q0 b0 (State.stopIdle s) := evolves_modes _ ev

@[simp] theorem evolves_scanCutUpTo {q0 : Prop} {b0 s : State} (n : Nat) (ev : Evolves q0 b0 s) :
    Evolves q0 b0 (State.scanCutUpTo n s) := by
  induction n generalizing s with
  | zero => exact ev
  | succ n ih =>
    unfold State.scanCutUpTo
    dsimp only
    (repeat' split) <;> simp (maxDischargeDepth := 30) [ev, ih]

@[simp] theorem evolves_scanCut {q0 : Prop} {b0 s : State} (ev : Evolves q0 b0 s) :
    Evolves q0 b0 (State.scanCut s) := by
  unfold State.scanCut
  try dsimp only
  (repeat' split) <;> simp (maxDischargeDepth := 30) [*]

@[simp] theorem evolves_scanResume {q0 : Prop} {b0 s : State} (ev : Evolves q0 b0 s) :
    Evolves q0 b0 (State.scanResume s) := by
  unfold State.scanResume
  split
  · exact ev
  · next c _ =>
    split
    · have k : Evolves q0 b0 (State.stopIdle
          { s with scan := { s.scan with state := .running, context := some { c with suspendRequested := false } } }) :=
        evolves_stopIdle (evolves_scan _ id (fun _ => by simp) ev)
      dsimp only
      split
      · split
        · exact evolves_setScan _ (evolves_offerScan _ k)
        · exact evolves_scanCut (evolves_setScan _ k)
      · exact evolves_scanCut k
    · exact ev

@[simp] theorem evolves_scanSuspends {q0 : Prop} {b0 s : State} (ev : Evolves q0 b0 s) :
    Evolves q0 b0 (State.scanSuspends s) := by
  unfold State.scanSuspends
  split
  · exact ev
  · next c e => exact evolves_scanResume (evolves_scan _ id (fun _ => by simp [e]) ev)

@[simp] theorem evolves_suspendPatrol {q0 : Prop} {b0 s : State} (ev : Evolves q0 b0 s) :
    Evolves q0 b0 (State.suspendPatrol s) := by
  unfold State.suspendPatrol
  try dsimp only
  (repeat' split) <;> simp (maxDischargeDepth := 30) [*]

@[simp] theorem evolves_becomeQuiet {q0 : Prop} {b0 s : State} (ev : Evolves q0 b0 s) :
    Evolves q0 b0 (State.becomeQuiet s) := by
  unfold State.becomeQuiet
  try dsimp only
  (repeat' split) <;> simp (maxDischargeDepth := 30) [*]

@[simp] theorem evolves_trafficBegins {q0 : Prop} {b0 s : State} (ev : Evolves q0 b0 s) :
    Evolves q0 b0 (State.trafficBegins s) := by
  unfold State.trafficBegins
  try dsimp only
  (repeat' split) <;> simp (maxDischargeDepth := 30) [*]

@[simp] theorem evolves_patrolPauses {q0 : Prop} {b0 s : State} (c : ScanContext) (ev : Evolves q0 b0 s) :
    Evolves q0 b0 (State.patrolPauses s c) := by
  unfold State.patrolPauses
  try dsimp only
  (repeat' split) <;> simp (maxDischargeDepth := 30) [*]

@[simp] theorem evolves_scanGoesOn {q0 : Prop} {b0 s : State} (ev : Evolves q0 b0 s) :
    Evolves q0 b0 (State.scanGoesOn s) := by
  unfold State.scanGoesOn
  try dsimp only
  (repeat' split) <;> simp (maxDischargeDepth := 30) [*]

@[simp] theorem evolves_scanSkips {q0 : Prop} {b0 s : State} (c : ScanContext) (v : ScanVerify) (ev : Evolves q0 b0 s) :
    Evolves q0 b0 (State.scanSkips s c v) := by
  unfold State.scanSkips
  try dsimp only
  (repeat' split) <;> simp (maxDischargeDepth := 30) [*]

@[simp] theorem evolves_scanOutcome {q0 : Prop} {b0 s : State} (c : ScanContext) (v : ScanVerify) (out : OpOutcome) (ev : Evolves q0 b0 s) :
    Evolves q0 b0 (State.scanOutcome s c v out) := by
  unfold State.scanOutcome
  try dsimp only
  (repeat' split) <;> simp (maxDischargeDepth := 30) [*]

@[simp] theorem evolves_scanEnded {q0 : Prop} {b0 s : State} (o : Op) (out : OpOutcome) (ev : Evolves q0 b0 s) :
    Evolves q0 b0 (State.scanEnded s o out) := by
  unfold State.scanEnded
  try dsimp only
  (repeat' split) <;> simp (maxDischargeDepth := 30) [*]

@[simp] theorem evolves_scanRetry {q0 : Prop} {b0 s : State} (u : Fin 4) (ev : Evolves q0 b0 s) :
    Evolves q0 b0 (State.scanRetry s u) := by
  unfold State.scanRetry
  try dsimp only
  (repeat' split) <;> simp (maxDischargeDepth := 30) [*]

@[simp] theorem evolves_scanPort {q0 : Prop} {b0 s : State} (u : Fin 4) (p : PortState) (ev : Evolves q0 b0 s) :
    Evolves q0 b0 (State.scanPort s u p) := by
  unfold State.scanPort
  try dsimp only
  (repeat' split) <;> simp (maxDischargeDepth := 30) [*]

@[simp] theorem evolves_startScan {q0 : Prop} {b0 s : State} (kind : ScanKind) (unit : Option (Fin 4)) (ev : Evolves q0 b0 s) :
    Evolves q0 b0 (State.startScan s kind unit) := by
  have k (m : ScanState) (hm : m ≠ .idle) :
      Evolves q0 b0 { s with scan := { s.scan with state := m, context := some (ScanContext.fresh kind unit) } } :=
    evolves_scan _ id (fun _ => by simp [hm]) ev
  refine evolves_scanCut ?_
  dsimp only
  (repeat' split) <;> first
    | exact evolves_stopIdle (k _ (by decide))
    | exact k _ (by decide)

@[simp] theorem evolves_scanServes {q0 : Prop} {b0 s : State} (ev : Evolves q0 b0 s) :
    Evolves q0 b0 (State.scanServes s) := by
  unfold State.scanServes
  try dsimp only
  (repeat' split) <;> simp (maxDischargeDepth := 30) [*]

@[simp] theorem evolves_scanAborts {q0 : Prop} {b0 s : State} (ev : Evolves q0 b0 s) :
    Evolves q0 b0 (State.scanAborts s) := by
  unfold State.scanAborts
  try dsimp only
  (repeat' split) <;> simp (maxDischargeDepth := 30) [*]

@[simp] theorem evolves_scanStandsBy {q0 : Prop} {b0 s : State} (ev : Evolves q0 b0 s) :
    Evolves q0 b0 (State.scanStandsBy s) := by
  unfold State.scanStandsBy
  try dsimp only
  (repeat' split) <;> simp (maxDischargeDepth := 30) [*]

/-! ### Machine/Responses.lean -/

/-- The taken command ends, with the COMPLETION of its W0 write where that still holds its tag (R134). -/
theorem evolves_answers {q0 : Prop} {b0 s : State} (t : Taken) (ht : s.mgmt.taken = some t) (m : ManagementEngine)
    (h1 : m.params = s.mgmt.params) (h2 : m.events = s.mgmt.events) (h3 : m.windows = s.mgmt.windows) (h4 : m.reads = s.mgmt.reads)
    (h5 : m.taken = none) (ev : Evolves q0 b0 s) : Evolves q0 b0 (State.completeW0 { s with mgmt := m } t) := by
  unfold State.completeW0
  split
  · next g e =>
    refine evolves_countCompleted _ (evolves_windowEnds m g (.completion g .ok 0 none false _) (fun _ => rfl) (fun r => h1 ▸ r)
      (fun r => h2 ▸ r) (fun n => ?_) (fun _ _ => h5) ev)
    have before : s.mgmt.tags = (s.mgmt.windows.map (fun x => x.tag) ++ s.mgmt.reads.map (fun x => x.tag)) ++ [g] := by
      unfold ManagementEngine.tags; rw [ht]; simp [e]
    have after : m.tags = s.mgmt.windows.map (fun x => x.tag) ++ s.mgmt.reads.map (fun x => x.tag) := by
      unfold ManagementEngine.tags; rw [h3, h4, h5]; simp
    rw [before] at n ⊢
    rw [after]
    refine ⟨by simp, ?_⟩
    have out := (List.nodup_append.mp n).2.2
    rw [List.filter_append, List.filter_eq_self.mpr fun x hx => ?_]
    · simp
    · simpa using out x hx g (by simp)
  · next e =>
    refine evolves_mgmt_tags m (fun r => h1 ▸ r) (fun r => h2 ▸ r) (fun _ _ => ?_) (fun _ _ => h5) ev
    unfold ManagementEngine.tags
    rw [ht, h3, h4, h5]; simp [e]

@[simp] theorem evolves_respond {q0 : Prop} {b0 s : State} (result : CmdResult) (data : List Byte) (ev : Evolves q0 b0 s) :
    Evolves q0 b0 (State.respond s result data) := by
  unfold State.respond
  split
  · exact ev
  · next t e => exact evolves_answers t e _ rfl rfl rfl rfl rfl ev

@[simp] theorem evolves_respondReset {q0 : Prop} {b0 s : State} (data : List Byte) (ev : Evolves q0 b0 s) :
    Evolves q0 b0 (State.respondReset s data) := by
  unfold State.respondReset
  split
  · exact evolves_mgmt _ id id rfl rfl rfl rfl ev
  · next t e => exact evolves_answers t e _ rfl rfl rfl rfl rfl ev

/-! ### Machine/Store.lean -/

@[simp] theorem evolves_onStore {q0 : Prop} {b0 s : State} (f : StoreController → StoreController) (hf : (f s.store).cause = s.store.cause)
    (hl : s.store.load = none → (f s.store).load = none) (ev : Evolves q0 b0 s) : Evolves q0 b0 (State.onStore s f) :=
  evolves_store _ hf hl ev

@[simp] theorem evolves_askPowerDown {q0 : Prop} {b0 s : State} (u : Fin 4) (ev : Evolves q0 b0 s) :
    Evolves q0 b0 (State.askPowerDown s u) := by
  unfold State.askPowerDown
  try dsimp only
  (repeat' split) <;> simp (maxDischargeDepth := 30) [*]

@[simp] theorem evolves_beginPoweringDown {q0 : Prop} {b0 s : State} (ev : Evolves q0 b0 s) :
    Evolves q0 b0 (State.beginPoweringDown s) := evolves_foldl _ (fun s b => evolves_askPowerDown _ (Evolves.refl s)) _ (evolves_modes _ ev)

@[simp] theorem evolves_offerSave {q0 : Prop} {b0 s : State} (ev : Evolves q0 b0 s) :
    Evolves q0 b0 (State.offerSave s) := by
  unfold State.offerSave
  try dsimp only
  (repeat' split) <;> simp (maxDischargeDepth := 30) [*]

@[simp] theorem evolves_startSave {q0 : Prop} {b0 s : State} (command : Option RingRec) (ev : Evolves q0 b0 s) :
    Evolves q0 b0 (State.startSave s command) := by
  unfold State.startSave
  try dsimp only
  (repeat' split) <;> simp (maxDischargeDepth := 30) [*]

@[simp] theorem evolves_askSave {q0 : Prop} {b0 s : State} (ev : Evolves q0 b0 s) :
    Evolves q0 b0 (State.askSave s) := by
  unfold State.askSave
  try dsimp only
  (repeat' split) <;> simp (maxDischargeDepth := 30) [*]

@[simp] theorem evolves_onErase {q0 : Prop} {b0 s : State} (f : EraseRecord → EraseRecord) (ev : Evolves q0 b0 s) :
    Evolves q0 b0 (State.onErase s f) := by
  unfold State.onErase
  try dsimp only
  (repeat' split) <;> simp (maxDischargeDepth := 30) [*]

@[simp] theorem evolves_eraseSaveEnded {q0 : Prop} {b0 s : State} (r : SaveRecord) (ok : Bool) (ev : Evolves q0 b0 s) :
    Evolves q0 b0 (State.eraseSaveEnded s r ok) := by
  unfold State.eraseSaveEnded
  try dsimp only
  (repeat' split) <;> simp (maxDischargeDepth := 30) [*]

@[simp] theorem evolves_saveEnded {q0 : Prop} {b0 s : State} (r : SaveRecord) (ok : Bool) (ev : Evolves q0 b0 s) :
    Evolves q0 b0 (State.saveEnded s r ok) := by
  unfold State.saveEnded
  try dsimp only
  (repeat' split) <;> simp (maxDischargeDepth := 30) [*]

@[simp] theorem evolves_saveCompletes {q0 : Prop} {b0 s : State} (r : SaveRecord) (ev : Evolves q0 b0 s) :
    Evolves q0 b0 (State.saveCompletes s r) := by
  unfold State.saveCompletes
  try dsimp only
  (repeat' split) <;> simp (maxDischargeDepth := 30) [*]

@[simp] theorem evolves_withdrawSave {q0 : Prop} {b0 s : State} (r : SaveRecord) (ev : Evolves q0 b0 s) :
    Evolves q0 b0 (State.withdrawSave s r) := by
  unfold State.withdrawSave
  try dsimp only
  (repeat' split) <;> simp (maxDischargeDepth := 30) [*]

@[simp] theorem evolves_saveFails {q0 : Prop} {b0 s : State} (after : StoreState) (faultAt : Option Nat) (ev : Evolves q0 b0 s) :
    Evolves q0 b0 (State.saveFails s after faultAt) := by
  unfold State.saveFails
  try dsimp only
  (repeat' split) <;> simp (maxDischargeDepth := 30) [*]

@[simp] theorem evolves_saveStepDone {q0 : Prop} {b0 s : State} (r : SaveRecord) (ev : Evolves q0 b0 s) :
    Evolves q0 b0 (State.saveStepDone s r) := by
  unfold State.saveStepDone
  try dsimp only
  (repeat' split) <;> simp (maxDischargeDepth := 30) [*]

@[simp] theorem evolves_saveWriteEnded {q0 : Prop} {b0 s : State} (o : Op) (out : OpOutcome) (ev : Evolves q0 b0 s) :
    Evolves q0 b0 (State.saveWriteEnded s o out) := by
  unfold State.saveWriteEnded
  try dsimp only
  (repeat' split) <;> simp (maxDischargeDepth := 30) [*]

@[simp] theorem evolves_storePort {q0 : Prop} {b0 s : State} (p : PortState) (ev : Evolves q0 b0 s) :
    Evolves q0 b0 (State.storePort s p) := by
  unfold State.storePort
  try dsimp only
  (repeat' split) <;> simp (maxDischargeDepth := 30) [*]

end Sys2Proof.Laws
end

