-- ==== Sys2Proof/Laws/EvolutionPorts.lean ====
section
/-!
SUPPORT. What the operations of Machine/Guard, Modes, Ports and Settle keep (Laws/Evolution.lean), one lemma each.
-/

set_option linter.all false

set_option Elab.async false

namespace Sys2Proof.Laws

open Sys2Proof Sys2Proof.Machine

/-! ### Machine/Guard.lean -/

@[simp] theorem evolves_logErase {q0 : Prop} {b0 s : State} (u : Fin 4) (b : Nat) (ev : Evolves q0 b0 s) :
    Evolves q0 b0 (State.logErase s u b) := by
  unfold State.logErase
  try dsimp only
  (repeat' split) <;> simp (maxDischargeDepth := 30) [*]

@[simp] theorem evolves_leaveUnerased {q0 : Prop} {b0 s : State} (u : Fin 4) (b : Nat) (n : Nat) (ev : Evolves q0 b0 s) :
    Evolves q0 b0 (State.leaveUnerased s u b n) := by
  unfold State.leaveUnerased
  try dsimp only
  (repeat' split) <;> simp (maxDischargeDepth := 30) [*]

@[simp] theorem evolves_offerErase {q0 : Prop} {b0 s : State} (ev : Evolves q0 b0 s) :
    Evolves q0 b0 (State.offerErase s) := by
  unfold State.offerErase
  try dsimp only
  (repeat' split) <;> simp (maxDischargeDepth := 30) [*]

@[simp] theorem evolves_changeGuard {q0 : Prop} {b0 s : State} (f : GuardUnit → GuardUnit)
    (h1 : s.guard.frozen = true → (f s.guard).frozen = true) (h2 : s.guard.failed ≤ 5 → (f s.guard).failed ≤ 5) (ev : Evolves q0 b0 s) :
    Evolves q0 b0 (State.changeGuard s f) := by
  have k : Evolves q0 b0 (s.onGuard f) := evolves_guard _ h1 h2 ev
  unfold State.changeGuard
  split
  · exact k
  · exact evolves_markDirty k

@[simp] theorem evolves_eraseWalkEnds {q0 : Prop} {b0 s : State} (ev : Evolves q0 b0 s) :
    Evolves q0 b0 (State.eraseWalkEnds s) := by
  have k := evolves_onErase (fun e => { e with phase := .savingEnd }) ev
  unfold State.eraseWalkEnds
  dsimp only
  refine evolves_askSave ?_
  split
  · exact evolves_onStore _ rfl id (evolves_changeGuard _ id id k)
  · exact evolves_raise _ (evolves_guard _ id id k)

@[simp] theorem evolves_eraseCutUpTo {q0 : Prop} {b0 s : State} (n : Nat) (ev : Evolves q0 b0 s) :
    Evolves q0 b0 (State.eraseCutUpTo n s) := by
  induction n generalizing s with
  | zero => exact ev
  | succ n ih =>
    unfold State.eraseCutUpTo
    dsimp only
    (repeat' split) <;> simp (maxDischargeDepth := 30) [ev, ih]

@[simp] theorem evolves_eraseCut {q0 : Prop} {b0 s : State} (ev : Evolves q0 b0 s) :
    Evolves q0 b0 (State.eraseCut s) := by
  unfold State.eraseCut
  try dsimp only
  (repeat' split) <;> simp (maxDischargeDepth := 30) [*]

@[simp] theorem evolves_eraseMoves {q0 : Prop} {b0 s : State} (n : Nat) (ev : Evolves q0 b0 s) :
    Evolves q0 b0 (State.eraseMoves s n) := by
  unfold State.eraseMoves
  try dsimp only
  (repeat' split) <;> simp (maxDischargeDepth := 30) [*]

@[simp] theorem evolves_countErased {q0 : Prop} {b0 s : State} (n : Nat) (ev : Evolves q0 b0 s) :
    Evolves q0 b0 (State.countErased s n) := by
  unfold State.countErased
  try dsimp only
  (repeat' split) <;> simp (maxDischargeDepth := 30) [*]

@[simp] theorem evolves_eraseGivesUp {q0 : Prop} {b0 s : State} (w : EraseWrite) (ev : Evolves q0 b0 s) :
    Evolves q0 b0 (State.eraseGivesUp s w) := by
  unfold State.eraseGivesUp
  try dsimp only
  (repeat' split) <;> simp (maxDischargeDepth := 30) [*]

@[simp] theorem evolves_eraseClaims {q0 : Prop} {b0 s : State} (w : EraseWrite) (tried : Nat) (ev : Evolves q0 b0 s) :
    Evolves q0 b0 (State.eraseClaims s w tried) := by
  unfold State.eraseClaims
  split <;> (next e => have k := evolves_snd (evolves_claim _ _ ev) e; simp (maxDischargeDepth := 30) [k])

@[simp] theorem evolves_eraseUnwritten {q0 : Prop} {b0 s : State} (w : EraseWrite) (ev : Evolves q0 b0 s) :
    Evolves q0 b0 (State.eraseUnwritten s w) := by
  unfold State.eraseUnwritten
  try dsimp only
  (repeat' split) <;> simp (maxDischargeDepth := 30) [*]

@[simp] theorem evolves_eraseWriteEnded {q0 : Prop} {b0 s : State} (w : EraseWrite) (out : OpOutcome) (ev : Evolves q0 b0 s) :
    Evolves q0 b0 (State.eraseWriteEnded s w out) := by
  unfold State.eraseWriteEnded
  try dsimp only
  (repeat' split) <;> simp (maxDischargeDepth := 30) [*]

@[simp] theorem evolves_eraseRetries {q0 : Prop} {b0 s : State} (w : EraseWrite) (p : EraseRepair) (atOnce : Bool) (ev : Evolves q0 b0 s) :
    Evolves q0 b0 (State.eraseRetries s w p atOnce) := by
  unfold State.eraseRetries
  try dsimp only
  (repeat' split) <;> simp (maxDischargeDepth := 30) [*]

@[simp] theorem evolves_eraseSpareEnded {q0 : Prop} {b0 s : State} (w : EraseWrite) (p : EraseRepair) (tried : Nat) (out : OpOutcome) (ev : Evolves q0 b0 s) :
    Evolves q0 b0 (State.eraseSpareEnded s w p tried out) := by
  unfold State.eraseSpareEnded
  try dsimp only
  (repeat' split) <;> simp (maxDischargeDepth := 30) [*]

@[simp] theorem evolves_eraseEnded {q0 : Prop} {b0 s : State} (out : OpOutcome) (ev : Evolves q0 b0 s) :
    Evolves q0 b0 (State.eraseEnded s out) := by
  unfold State.eraseEnded
  try dsimp only
  (repeat' split) <;> simp (maxDischargeDepth := 30) [*]

@[simp] theorem evolves_countMismatch {q0 : Prop} {b0 s : State} (ev : Evolves q0 b0 s) :
    Evolves q0 b0 (State.countMismatch s) := evolves_guard _ id (fun _ => Nat.min_le_left _ _) ev

@[simp] theorem evolves_guardEnds {q0 : Prop} {b0 s : State} (result : CmdResult) (ev : Evolves q0 b0 s) :
    Evolves q0 b0 (State.guardEnds s result) := by
  unfold State.guardEnds
  try dsimp only
  (repeat' split) <;> simp (maxDischargeDepth := 30) [*]

@[simp] theorem evolves_withCode {q0 : Prop} {b0 s : State} (kind : CodeKind) (code : List Byte) (limited : Bool) (accepted : State → State) (hf : Evolves q0 b0 (accepted s)) (ev : Evolves q0 b0 s) :
    Evolves q0 b0 (State.withCode s kind code limited accepted) := by
  unfold State.withCode
  split
  · exact evolves_guardEnds _ ev
  · split
    · exact hf
    · exact evolves_guardEnds _ (evolves_countMismatch ev)

/-! ### Machine/Modes.lean -/

@[simp] theorem evolves_onModes {q0 : Prop} {b0 s : State} (f : ModeController → ModeController) (ev : Evolves q0 b0 s) :
    Evolves q0 b0 (State.onModes s f) := by
  unfold State.onModes
  try dsimp only
  (repeat' split) <;> simp (maxDischargeDepth := 30) [*]

@[simp] theorem evolves_enterService {q0 : Prop} {b0 s : State} (ev : Evolves q0 b0 s) :
    Evolves q0 b0 (State.enterService s) := by
  unfold State.enterService
  try dsimp only
  (repeat' split) <;> simp (maxDischargeDepth := 30) [*]

@[simp] theorem evolves_enterConfig {q0 : Prop} {b0 s : State} (ev : Evolves q0 b0 s) :
    Evolves q0 b0 (State.enterConfig s) := by
  unfold State.enterConfig
  try dsimp only
  (repeat' split) <;> simp (maxDischargeDepth := 30) [*]

@[simp] theorem evolves_enterDraining {q0 : Prop} {b0 s : State} (target : DrainTarget) (ev : Evolves q0 b0 s) :
    Evolves q0 b0 (State.enterDraining s target) := by
  unfold State.enterDraining
  try dsimp only
  (repeat' split) <;> simp (maxDischargeDepth := 30) [*]

@[simp] theorem evolves_enterStandby {q0 : Prop} {b0 s : State} (ev : Evolves q0 b0 s) :
    Evolves q0 b0 (State.enterStandby s) := by
  unfold State.enterStandby
  try dsimp only
  (repeat' split) <;> simp (maxDischargeDepth := 30) [*]

@[simp] theorem evolves_abandonStandby {q0 : Prop} {b0 s : State} (ev : Evolves q0 b0 s) :
    Evolves q0 b0 (State.abandonStandby s) := by
  unfold State.abandonStandby
  try dsimp only
  (repeat' split) <;> simp (maxDischargeDepth := 30) [*]

@[simp] theorem evolves_endWaiting {q0 : Prop} {b0 s : State} (ev : Evolves q0 b0 s) :
    Evolves q0 b0 (State.endWaiting s) := by
  unfold State.endWaiting
  try dsimp only
  (repeat' split) <;> simp (maxDischargeDepth := 30) [*]

@[simp] theorem evolves_resetSave {q0 : Prop} {b0 s : State} (ev : Evolves q0 b0 s) :
    Evolves q0 b0 (State.resetSave s) := by
  unfold State.resetSave
  try dsimp only
  (repeat' split) <;> simp (maxDischargeDepth := 30) [*]

@[simp] theorem evolves_drainEnds {q0 : Prop} {b0 s : State} (ev : Evolves q0 b0 s) :
    Evolves q0 b0 (State.drainEnds s) := by
  unfold State.drainEnds
  try dsimp only
  (repeat' split) <;> simp (maxDischargeDepth := 30) [*]

@[simp] theorem evolves_refreshIdle {q0 : Prop} {b0 s : State} (ev : Evolves q0 b0 s) :
    Evolves q0 b0 (State.refreshIdle s) := by
  unfold State.refreshIdle
  try dsimp only
  (repeat' split) <;> simp (maxDischargeDepth := 30) [*]

@[simp] theorem evolves_restartIdle {q0 : Prop} {b0 s : State} (ev : Evolves q0 b0 s) :
    Evolves q0 b0 (State.restartIdle s) := by
  unfold State.restartIdle
  try dsimp only
  (repeat' split) <;> simp (maxDischargeDepth := 30) [*]

/-! ### Machine/Ports.lean -/

@[simp] theorem evolves_portReports {q0 : Prop} {b0 s : State} (u : Fin 4) (p : PortState) (ev : Evolves q0 b0 s) :
    Evolves q0 b0 (State.portReports s u p) := by
  have h1 := evolves_scanPort u p ev
  have h2 : Evolves q0 b0 (if p = .failed ∨ p = .absent then
      slotIndices.foldl (fun s k => s.relocLost u k) (s.scanPort u p) else s.scanPort u p) := by
    split
    · exact evolves_foldl _ (fun s k => evolves_relocLost u k (Evolves.refl s)) _ h1
    · exact h1
  unfold State.portReports
  dsimp only
  split
  · exact evolves_storePort _ h2
  · exact h2

@[simp] theorem evolves_portEnters {q0 : Prop} {b0 s : State} (u : Fin 4) (p : PortState) (raises : Bool) (ev : Evolves q0 b0 s) :
    Evolves q0 b0 (State.portEnters s u p raises) := by
  unfold State.portEnters
  try dsimp only
  (repeat' split) <;> simp (maxDischargeDepth := 30) [*]

@[simp] theorem evolves_endAll {q0 : Prop} {b0 s : State} (u : Fin 4) (l : List Op) (ev : Evolves q0 b0 s) :
    Evolves q0 b0 (State.endAll s u l) := evolves_foldl _ (fun s b => evolves_later _ (work_ended _ _ _) (Evolves.refl s)) _ ev

@[simp] theorem evolves_endWaitingOps {q0 : Prop} {b0 s : State} (u : Fin 4) (ev : Evolves q0 b0 s) :
    Evolves q0 b0 (State.endWaitingOps s u) := evolves_endAll _ _ (evolves_onPort _ _ ⟨List.prefix_refl _, fun r => ⟨r.1, Nat.zero_le _⟩⟩ ev)

@[simp] theorem evolves_enterOffline {q0 : Prop} {b0 s : State} (u : Fin 4) (ev : Evolves q0 b0 s) :
    Evolves q0 b0 (State.enterOffline s u) := by
  unfold State.enterOffline
  try dsimp only
  (repeat' split) <;> simp (maxDischargeDepth := 30) [*]

@[simp] theorem evolves_portFails {q0 : Prop} {b0 s : State} (u : Fin 4) (cause : FailCause) (ev : Evolves q0 b0 s) :
    Evolves q0 b0 (State.portFails s u cause) := by
  unfold State.portFails
  try dsimp only
  (repeat' split) <;> simp (maxDischargeDepth := 30) [*]

@[simp] theorem evolves_takeState {q0 : Prop} {b0 s : State} (u : Fin 4) (ev : Evolves q0 b0 s) :
    Evolves q0 b0 (State.takeState s u) := by
  unfold State.takeState
  try dsimp only
  (repeat' split) <;> simp (maxDischargeDepth := 30) [*]

@[simp] theorem evolves_beginAttach {q0 : Prop} {b0 s : State} (u : Fin 4) (wake : Bool) (ev : Evolves q0 b0 s) :
    Evolves q0 b0 (State.beginAttach s u wake) := by
  unfold State.beginAttach
  try dsimp only
  (repeat' split) <;> simp (maxDischargeDepth := 30) [*]

@[simp] theorem evolves_loadRestarts {q0 : Prop} {b0 s : State} (ev : Evolves q0 b0 s) :
    Evolves q0 b0 (State.loadRestarts s) := by
  unfold State.loadRestarts
  try dsimp only
  (repeat' split) <;> simp (maxDischargeDepth := 30) [*]

@[simp] theorem evolves_attemptFails {q0 : Prop} {b0 s : State} (u : Fin 4) (ev : Evolves q0 b0 s) :
    Evolves q0 b0 (State.attemptFails s u) := by
  unfold State.attemptFails
  try dsimp only
  (repeat' split) <;> simp (maxDischargeDepth := 30) [*]

@[simp] theorem evolves_attachEnds {q0 : Prop} {b0 s : State} (u : Fin 4) (ev : Evolves q0 b0 s) :
    Evolves q0 b0 (State.attachEnds s u) := by
  unfold State.attachEnds
  try dsimp only
  (repeat' split) <;> simp (maxDischargeDepth := 30) [*]

@[simp] theorem evolves_checkCoverage {q0 : Prop} {b0 s : State} (u : Fin 4) (ev : Evolves q0 b0 s) :
    Evolves q0 b0 (State.checkCoverage s u) := by
  unfold State.checkCoverage
  try dsimp only
  (repeat' split) <;> simp (maxDischargeDepth := 30) [*]

@[simp] theorem evolves_offerLoad {q0 : Prop} {b0 s : State} (step : LoadStep) (first : Nat) (count : Nat) (ev : Evolves q0 b0 s) :
    Evolves q0 b0 (State.offerLoad s step first count) := by
  unfold State.offerLoad
  try dsimp only
  (repeat' split) <;> simp (maxDischargeDepth := 30) [*]

@[simp] theorem evolves_identified {q0 : Prop} {b0 s : State} (u : Fin 4) (capacity : Nat) (ev : Evolves q0 b0 s) :
    Evolves q0 b0 (State.identified s u capacity) := by
  unfold State.identified
  try dsimp only
  (repeat' split) <;> simp (maxDischargeDepth := 30) [*]

@[simp] theorem evolves_powerDownFails {q0 : Prop} {b0 s : State} (u : Fin 4) (ev : Evolves q0 b0 s) :
    Evolves q0 b0 (State.powerDownFails s u) := by
  unfold State.powerDownFails
  try dsimp only
  (repeat' split) <;> simp (maxDischargeDepth := 30) [*]

@[simp] theorem evolves_powerDownEnded {q0 : Prop} {b0 s : State} (u : Fin 4) (out : OpOutcome) (ev : Evolves q0 b0 s) :
    Evolves q0 b0 (State.powerDownEnded s u out) := by
  unfold State.powerDownEnded
  try dsimp only
  (repeat' split) <;> simp (maxDischargeDepth := 30) [*]

@[simp] theorem evolves_portOpEnded {q0 : Prop} {b0 s : State} (u : Fin 4) (kind : OpKind) (out : OpOutcome) (ev : Evolves q0 b0 s) :
    Evolves q0 b0 (State.portOpEnded s u kind out) := by
  unfold State.portOpEnded
  try dsimp only
  (repeat' split) <;> simp (maxDischargeDepth := 30) [*]

@[simp] theorem evolves_healthTakes {q0 : Prop} {b0 s : State} (u : Fin 4) (o : Op) (out : OpOutcome) (ev : Evolves q0 b0 s) :
    Evolves q0 b0 (State.healthTakes s u o out) := by
  unfold State.healthTakes
  try dsimp only
  (repeat' split) <;> simp (maxDischargeDepth := 30) [*]

@[simp] theorem evolves_countWriteFault {q0 : Prop} {b0 s : State} (u : Fin 4) (ev : Evolves q0 b0 s) :
    Evolves q0 b0 (State.countWriteFault s u) := evolves_onPort _ _ ⟨List.prefix_refl _, fun r => ⟨Nat.min_le_left _ _, r.2⟩⟩ ev

@[simp] theorem evolves_countOutcome {q0 : Prop} {b0 s : State} (u : Fin 4) (out : OpOutcome) (ev : Evolves q0 b0 s) :
    Evolves q0 b0 (State.countOutcome s u out) := by
  unfold State.countOutcome
  try dsimp only
  (repeat' split) <;> simp (maxDischargeDepth := 30) [*]

@[simp] theorem evolves_resultTaken {q0 : Prop} {b0 s : State} (u : Fin 4) (slot : Fin 4) (x : Outstanding) (r : ResultFields) (ev : Evolves q0 b0 s) :
    Evolves q0 b0 (State.resultTaken s u slot x r) := by
  unfold State.resultTaken
  try dsimp only
  (repeat' split) <;> simp (maxDischargeDepth := 30) [*]

@[simp] theorem evolves_takeData {q0 : Prop} {b0 s : State} (u : Fin 4) (slot : Fin 4) (offset : Nat) (block : Block) (ev : Evolves q0 b0 s) :
    Evolves q0 b0 (State.takeData s u slot offset block) := by
  unfold State.takeData
  try dsimp only
  (repeat' split) <;> simp (maxDischargeDepth := 30) [*]

@[simp] theorem evolves_timeOut {q0 : Prop} {b0 s : State} (u : Fin 4) (o : Op) (ev : Evolves q0 b0 s) :
    Evolves q0 b0 (State.timeOut u s o) := by
  unfold State.timeOut
  try dsimp only
  (repeat' split) <;> simp (maxDischargeDepth := 30) [*]

@[simp] theorem evolves_afterTimeout {q0 : Prop} {b0 s : State} (u : Fin 4) (ended : List Op) (ev : Evolves q0 b0 s) :
    Evolves q0 b0 (State.afterTimeout s u ended) := by
  unfold State.afterTimeout
  try dsimp only
  (repeat' split) <;> simp (maxDischargeDepth := 30) [*]

@[simp] theorem evolves_unitTimesOut {q0 : Prop} {b0 s : State} (u : Fin 4) (ev : Evolves q0 b0 s) :
    Evolves q0 b0 (State.unitTimesOut s u) := evolves_afterTimeout _ _
    (evolves_foldl _ (fun s o => evolves_timeOut _ _ (Evolves.refl s)) _ (evolves_onPort _ _ (.same rfl rfl rfl) ev))

@[simp] theorem evolves_presentReleased {q0 : Prop} {b0 s : State} (u : Fin 4) (ev : Evolves q0 b0 s) :
    Evolves q0 b0 (State.presentReleased s u) := by
  unfold State.presentReleased
  try dsimp only
  (repeat' split) <;> simp (maxDischargeDepth := 30) [*]

@[simp] theorem evolves_presentAsserted {q0 : Prop} {b0 s : State} (u : Fin 4) (ev : Evolves q0 b0 s) :
    Evolves q0 b0 (State.presentAsserted s u) := by
  unfold State.presentAsserted
  try dsimp only
  (repeat' split) <;> simp (maxDischargeDepth := 30) [*]

@[simp] theorem evolves_wakePort {q0 : Prop} {b0 s : State} (u : Fin 4) (ev : Evolves q0 b0 s) :
    Evolves q0 b0 (State.wakePort s u) := by
  unfold State.wakePort
  try dsimp only
  (repeat' split) <;> simp (maxDischargeDepth := 30) [*]

@[simp] theorem evolves_enterWaking {q0 : Prop} {b0 s : State} (ev : Evolves q0 b0 s) :
    Evolves q0 b0 (State.enterWaking s) := evolves_foldl _ (fun s u => evolves_wakePort u (Evolves.refl s)) _ (evolves_raise _ (evolves_onModes _ ev))

/-- Setting a parameter to a value in its range keeps every parameter in its range (R138). -/
theorem inRange_withValue {p : Params} {n v : Nat} (hp : p.inRange) (hv : paramInRange n v = true) : (p.withValue n v).inRange := by
  unfold Params.inRange at *
  simp only [paramNumbers, List.forall_mem_cons, List.not_mem_nil, false_imp_iff, implies_true, and_true] at hp ⊢
  obtain ⟨h1, h2, h3, h4, h5, h6, h7, h8, h9, h10, h11, h12⟩ := hp
  unfold paramInRange at hv
  split at hv <;> first | cases hv | skip
  · exact ⟨hv, h2, h3, h4, h5, h6, h7, h8, h9, h10, h11, h12⟩
  · exact ⟨h1, hv, h3, h4, h5, h6, h7, h8, h9, h10, h11, h12⟩
  · exact ⟨h1, h2, hv, h4, h5, h6, h7, h8, h9, h10, h11, h12⟩
  · exact ⟨h1, h2, h3, hv, h5, h6, h7, h8, h9, h10, h11, h12⟩
  · exact ⟨h1, h2, h3, h4, hv, h6, h7, h8, h9, h10, h11, h12⟩
  · exact ⟨h1, h2, h3, h4, h5, hv, h7, h8, h9, h10, h11, h12⟩
  · exact ⟨h1, h2, h3, h4, h5, h6, hv, h8, h9, h10, h11, h12⟩
  · exact ⟨h1, h2, h3, h4, h5, h6, h7, hv, h9, h10, h11, h12⟩
  · exact ⟨h1, h2, h3, h4, h5, h6, h7, h8, by cases h : v == 1 <;> simp [paramInRange, Params.withValue, Params.value, h],
      h10, h11, h12⟩
  · exact ⟨h1, h2, h3, h4, h5, h6, h7, h8, h9,
      by cases h : v == 1 <;> simp [paramInRange, Params.withValue, Params.value, h], h11, h12⟩
  · exact ⟨h1, h2, h3, h4, h5, h6, h7, h8, h9, h10,
      by cases h : v == 1 <;> simp [paramInRange, Params.withValue, Params.value, h], h12⟩
  · exact ⟨h1, h2, h3, h4, h5, h6, h7, h8, h9, h10, h11,
      by cases h : v == 2 <;> simp [paramInRange, Params.withValue, Params.value, h]⟩

theorem inRange_fold (value : Nat → Nat) (l : List Nat) {p : Params} (hp : p.inRange)
    (hl : ∀ n ∈ l, paramInRange n (value n) = true) : (l.foldl (fun p n => p.withValue n (value n)) p).inRange := by
  induction l generalizing p with
  | nil => exact hp
  | cons n l ih =>
    exact ih (inRange_withValue hp (hl n List.mem_cons_self)) (fun m hm => hl m (List.mem_cons_of_mem _ hm))

/-- The parameters that a stream decodes to lie in their ranges (R178, test 5). -/
theorem readParams_lawful {l : List Byte} {p : Params} (e : readParams l = some p) : p.inRange := by
  unfold readParams guardOpt at e
  dsimp only at e
  split at e
  · next t =>
    injection e with e
    subst e
    exact inRange_fold _ _ (by unfold Params.inRange; decide) (List.all_eq_true.mp t)
  · cases e

theorem allOf_length {α : Type} {l : List (Option α)} {m : List α} (e : allOf l = some m) : m.length = l.length := by
  induction l generalizing m with
  | nil => cases e; rfl
  | cons x l ih =>
    unfold allOf at e
    obtain ⟨a, -, e⟩ := Option.bind_eq_some_iff.mp e
    obtain ⟨k, hk, e⟩ := Option.map_eq_some_iff.mp e
    subst e
    simp [ih hk]

theorem readMany_length {α : Type} {read : List Byte → Option α} {l : List Byte} {off size n : Nat} {m : List α}
    (e : readMany read l off size n = some m) : m.length = n := by
  have := allOf_length e
  simpa using this

theorem u2_le (l : List Byte) (off : Nat) : u2 l off ≤ 65535 := by
  unfold u2 u1
  have h1 := (l.getD off 0).isLt
  have h2 := (l.getD (off + 1) 0).isLt
  omega

theorem allOf_mem {α : Type} {l : List (Option α)} {m : List α} (e : allOf l = some m) {a : α} (ha : a ∈ m) : some a ∈ l := by
  induction l generalizing m with
  | nil => cases e; cases ha
  | cons x l ih =>
    unfold allOf at e
    obtain ⟨b, hb, e⟩ := Option.bind_eq_some_iff.mp e
    obtain ⟨k, hk, e⟩ := Option.map_eq_some_iff.mp e
    subst e
    rcases List.mem_cons.mp ha with c | c
    · rw [c, ← hb]; exact List.mem_cons_self
    · exact List.mem_cons_of_mem _ (ih hk c)

/-- A watch entry that a stream decodes to lies within its bounds (R178, test 5). -/
theorem readWatch_range {l : List Byte} {e : WatchEntry} (h : readWatch l = some e) : e.InRange := by
  unfold readWatch at h
  obtain ⟨unit, -, h⟩ := Option.bind_eq_some_iff.mp h
  obtain ⟨cause, -, h⟩ := Option.bind_eq_some_iff.mp h
  unfold guardOpt at h
  split at h
  · next t =>
    cases h
    simpa [WatchEntry.InRange] using t
  · cases h

/-- The saved items that a stream decodes to are lawful (R178, test 5). -/
theorem readSaved_lawful {l : List Byte} {n : Nat} {v : Saved} (e : readSaved l n = some v) : v.Lawful := by
  unfold readSaved at e
  dsimp only at e
  obtain ⟨h, e⟩ := Option.ite_none_right_eq_some.mp e
  obtain ⟨params, hp, e⟩ := Option.bind_eq_some_iff.mp e
  obtain ⟨stored, -, e⟩ := Option.bind_eq_some_iff.mp e
  obtain ⟨level, -, e⟩ := Option.bind_eq_some_iff.mp e
  obtain ⟨regions, -, e⟩ := Option.bind_eq_some_iff.mp e
  obtain ⟨pins, -, e⟩ := Option.bind_eq_some_iff.mp e
  obtain ⟨pools, -, e⟩ := Option.bind_eq_some_iff.mp e
  obtain ⟨slots, -, e⟩ := Option.bind_eq_some_iff.mp e
  obtain ⟨scanLog, hs, e⟩ := Option.bind_eq_some_iff.mp e
  obtain ⟨watch, hw, e⟩ := Option.bind_eq_some_iff.mp e
  obtain ⟨entries, -, e⟩ := Option.map_eq_some_iff.mp e
  subst e
  refine ⟨readParams_lawful hp, h.2.2.2.1, u2_le _ _, (readMany_length hs).trans_le h.1, (readMany_length hw).trans_le h.2.2.1,
    fun e he => ?_⟩
  obtain ⟨i, -, k⟩ := List.mem_map.mp (allOf_mem hw he)
  exact readWatch_range k

@[simp] theorem work_tested (h : Header) (image : List Block) : (Work.loadEnds (testImage h image)).Lawful := by
  unfold testImage
  split
  · next v e =>
    unfold readImage at e
    split at e
    · exact readSaved_lawful e
    · cases e
  · trivial

@[simp] theorem evolves_loadReadDone {q0 : Prop} {b0 s : State} (l : Load) (data : List Block) (ev : Evolves q0 b0 s) :
    Evolves q0 b0 (State.loadReadDone s l data) := by
  unfold State.loadReadDone
  split
  · exact ev
  · split
    · exact evolves_later _ (work_notValid) ev
    · exact evolves_offerLoad _ _ _ (evolves_onStore _ rfl (fun h => by rw [h]; rfl) ev)
  · split
    · exact evolves_later _ (work_notValid) ev
    · split
      · exact evolves_offerLoad _ _ _ (evolves_onStore _ rfl (fun h => by rw [h]; rfl) ev)
      · exact evolves_later _ (work_tested _ _) ev
  · split
    · exact evolves_later _ (work_notValid) ev
    · exact evolves_later _ (work_tested _ _) ev

@[simp] theorem evolves_loadReadEnded {q0 : Prop} {b0 s : State} (o : Op) (out : OpOutcome) (ev : Evolves q0 b0 s) :
    Evolves q0 b0 (State.loadReadEnded s o out) := by
  unfold State.loadReadEnded
  try dsimp only
  (repeat' split) <;> simp (maxDischargeDepth := 30) [*]

@[simp] theorem evolves_closeStamps {q0 : Prop} {b0 s : State} (ev : Evolves q0 b0 s) :
    Evolves q0 b0 (State.closeStamps s) := by
  have h1 : Evolves q0 b0 { s with log := s.closeStamps.log } :=
    evolves_log _ (fun r => by show (List.map _ _).length ≤ 5; rw [List.length_map]; exact r) id id ev
  refine evolves_items _ s.engine.freeBuffers (fun _ i _ => ?_) (fun _ => ?_) h1
  · match i with
    | .host r => exact ⟨rfl, rfl, rfl, rfl, id⟩
    | .reloc r => exact .refl _
  · congr 2
    rw [List.map_map]
    refine List.map_congr_left fun i _ => ?_
    match i with
    | .host r => rfl
    | .reloc r => rfl

theorem fresh_lawful : Saved.fresh.Lawful :=
  ⟨by unfold Params.inRange; decide, by decide, by decide, by decide, by decide, by intro e he; cases he⟩

/-- The saved items are set while the load has not ended. -/
theorem evolves_setSaved {q0 : Prop} {b0 s : State} (v : Saved) (hv : b0.Bounded → v.Lawful) (hl : s.store.load ≠ none)
    (ev : Evolves q0 b0 s) : Evolves q0 b0 (State.setSaved s v) :=
  { ev with
    range := fun r0 =>
      have r := ev.range r0
      have q := hv r0
      { r with
        latest := q.latest, lifetime := q.lifetime, scanLog := q.scanLog, watch := q.watch, params := q.params, watchRange := q.watchRange }
    tags := fun r0 =>
      have r := ev.tags r0
      { r with one := r.one }
    sound := fun r0 => absurd (ev.sound r0).loaded hl }

@[simp] theorem evolves_logHeld {q0 : Prop} {b0 s : State} (ev : Evolves q0 b0 s) :
    Evolves q0 b0 (State.logHeld s) := evolves_foldl _ (fun s e => evolves_logEntry e false (Evolves.refl s)) _ (evolves_log _ id id id ev)

theorem evolves_setLoaded {q0 : Prop} {b0 s : State} (outcome : LoadOutcome) (hw : b0.Bounded → (Work.loadEnds outcome).Lawful)
    (hl : s.store.load ≠ none) (ev : Evolves q0 b0 s) : Evolves q0 b0 (State.setLoaded s outcome) := by
  unfold State.setLoaded
  cases outcome
  · exact evolves_onStore _ rfl (fun _ => rfl) (evolves_setSaved _ hw hl ev)
  · exact evolves_onStore _ rfl (fun _ => rfl) (evolves_setSaved _ (fun _ => fresh_lawful) hl ev)
  · exact evolves_onStore _ rfl (fun _ => rfl) (evolves_setSaved _ (fun _ => fresh_lawful) hl ev)

@[simp] theorem evolves_checkWaiting {q0 : Prop} {b0 s : State} (u : Fin 4) (ev : Evolves q0 b0 s) :
    Evolves q0 b0 (State.checkWaiting s u) := by
  unfold State.checkWaiting
  try dsimp only
  (repeat' split) <;> simp (maxDischargeDepth := 30) [*]

theorem evolves_loadEnds {q0 : Prop} {b0 s : State} (outcome : LoadOutcome) (hw : b0.Bounded → (Work.loadEnds outcome).Lawful) (ev : Evolves q0 b0 s) :
    Evolves q0 b0 (State.loadEnds s outcome) := by
  unfold State.loadEnds
  split
  · exact ev
  · next hl =>
    dsimp only
    have h1 := evolves_logHeld (evolves_closeStamps (evolves_setLoaded outcome hw (by simpa [State.loadEnded] using hl) ev))
    have h2 := evolves_foldl State.checkWaiting (fun s u => evolves_checkWaiting u (Evolves.refl s)) units
      (evolves_guard { (State.closeStamps (s.setLoaded outcome)).logHeld.guard with state := outcome.stored.start } id id h1)
    cases outcome
    · exact evolves_later _ (work_leaves _ _) h2
    · exact evolves_later _ (work_leaves _ _) h2
    · exact evolves_later _ (work_leaves _ _) h2

@[simp] theorem evolves_leaveStartup {q0 : Prop} {b0 s : State} (valid : Bool) (invalid : Bool) (ev : Evolves q0 b0 s) :
    Evolves q0 b0 (State.leaveStartup s valid invalid) := by
  unfold State.leaveStartup
  dsimp only
  have k1 (t : State) (a : Timer) (q : Timer) (h : Evolves q0 b0 t) : Evolves q0 b0
      { t with health := { t.health with aging := a }, scan := { t.scan with quietTimer := q } } := by
    have h1 : Evolves q0 b0 { t with health := { t.health with aging := a } } := evolves_health _ rfl rfl rfl h
    exact evolves_scan (s := { t with health := { t.health with aging := a } }) { t.scan with quietTimer := q } id id h1
  refine k1 _ _ _ ?_
  have mode (c : Prop) [Decidable c] : Evolves q0 b0 (if c then s.enterService else s.enterConfig) := by
    split
    · exact evolves_enterService ev
    · exact evolves_enterConfig ev
  have flagged (c : Prop) [Decidable c] (e : Event) (t : State) (h : Evolves q0 b0 t) : Evolves q0 b0 (if c then t.raise e else t) := by
    split
    · exact evolves_raise _ h
    · exact h
  exact flagged _ _ _ (flagged _ _ _ (evolves_raise _ (mode _)))

/-! ### Machine/Settle.lean -/

@[simp] theorem evolves_handBack {q0 : Prop} {b0 s : State} (o : Op) (out : OpOutcome) (ev : Evolves q0 b0 s) :
    Evolves q0 b0 (State.handBack s o out) := by
  unfold State.handBack
  try dsimp only
  (repeat' split) <;> simp (maxDischargeDepth := 30) [*]

@[simp] theorem evolves_offerWaiting {q0 : Prop} {b0 s : State} (w : WaitingOp) (ev : Evolves q0 b0 s) :
    Evolves q0 b0 (State.offerWaiting s w) := by
  unfold State.offerWaiting
  try dsimp only
  (repeat' split) <;> simp (maxDischargeDepth := 30) [*]

@[simp] theorem evolves_eraseRetry {q0 : Prop} {b0 s : State} (u : Fin 4) (ev : Evolves q0 b0 s) :
    Evolves q0 b0 (State.eraseRetry s u) := by
  unfold State.eraseRetry
  try dsimp only
  (repeat' split) <;> simp (maxDischargeDepth := 30) [*]

@[simp] theorem evolves_powersDownAgain {q0 : Prop} {b0 s : State} (u : Fin 4) (ev : Evolves q0 b0 s) :
    Evolves q0 b0 (State.powersDownAgain s u) := by
  unfold State.powersDownAgain
  try dsimp only
  (repeat' split) <;> simp (maxDischargeDepth := 30) [*]

@[simp] theorem evolves_retriesDue {q0 : Prop} {b0 s : State} (u : Fin 4) (ev : Evolves q0 b0 s) :
    Evolves q0 b0 (State.retriesDue s u) := evolves_powersDownAgain _ (evolves_eraseRetry _ (evolves_scanRetry _
    (evolves_foldl State.offerWaiting (fun s w => evolves_offerWaiting w (Evolves.refl s)) _ ev)))

@[simp] theorem evolves_logUnitFailed {q0 : Prop} {b0 s : State} (u : Fin 4) (ev : Evolves q0 b0 s) :
    Evolves q0 b0 (State.logUnitFailed s u) := by
  unfold State.logUnitFailed
  try dsimp only
  (repeat' split) <;> simp (maxDischargeDepth := 30) [*]

theorem evolves_doWork {q0 : Prop} {b0 s : State} (w : Work) (hw : b0.Bounded → w.Lawful) (ev : Evolves q0 b0 s) :
    Evolves q0 b0 (State.doWork s w) := by
  unfold State.doWork
  cases w
  · exact evolves_handBack _ _ ev
  · exact evolves_retriesDue _ ev
  · exact evolves_takeState _ ev
  · exact evolves_logUnitFailed _ ev
  · exact evolves_loadEnds _ hw ev
  · exact evolves_leaveStartup _ _ ev

@[simp] theorem evolves_settleUpTo {q0 : Prop} {b0 s : State} (n : Nat) (ev : Evolves q0 b0 s) :
    Evolves q0 b0 (State.settleUpTo n s) := by
  induction n generalizing s with
  | zero => exact ev
  | succ n ih =>
    unfold State.settleUpTo
    split
    · exact ev
    · next w l e =>
      refine ih (evolves_doWork _ (fun r => (ev.range r).todo w (e ▸ List.mem_cons_self)) (evolves_todo _ (fun k x hx => ?_) ev))
      exact k x (e ▸ List.mem_cons_of_mem _ hx)

@[simp] theorem evolves_settle {q0 : Prop} {b0 s : State} (ev : Evolves q0 b0 s) :
    Evolves q0 b0 (State.settle s) := evolves_todo _ (fun _ _ h => absurd h List.not_mem_nil) (evolves_settleUpTo _ ev)

@[simp] theorem evolves_finish {q0 : Prop} {b0 s : State} (ev : Evolves q0 b0 s) :
    Evolves q0 b0 (State.finish s) := by
  unfold State.finish
  try dsimp only
  (repeat' split) <;> simp (maxDischargeDepth := 30) [*]

end Sys2Proof.Laws
end

