-- ==== Sys2Proof/Laws/EvolutionCommands.lean ====
section
/-!
SUPPORT. What the commands keep (Laws/Evolution.lean), one lemma each; and what a reset and start-up keep.
-/

set_option linter.all false

set_option Elab.async false

namespace Sys2Proof.Laws

open Sys2Proof Sys2Proof.Machine

/-! ### Machine/Checks.lean -/

@[simp] theorem evolves_reject {q0 : Prop} {b0 s : State} (tag : Fin 32) (reason : RejectReason) (ev : Evolves q0 b0 s) :
    Evolves q0 b0 (State.reject s tag reason) := evolves_onLinkCounters _ (evolves_send _ (fun _ => rfl) ev)

/-- A request just admitted: the last item of the list, live, without a segment and without a home extent. -/
structure Fresh (s : State) (q : Request) : Prop where
  last : ∃ l, s.engine.items = l ++ [Item.host q]
  live : q.orphan = false
  segs : q.segs = []
  home : q.home = none

theorem Fresh.mem {s : State} {q : Request} (h : Fresh s q) : Item.host q ∈ s.engine.items := by
  obtain ⟨l, e⟩ := h.last; rw [e]; simp

theorem takeIn_fresh (s : State) (kind : ReqKind) (r : RequestFields) : Fresh (s.takeIn kind r).2 (s.takeIn kind r).1 :=
  ⟨⟨s.engine.items, rfl⟩, rfl, rfl, rfl⟩

theorem tag_set (v : Vector TagUse 32) (g k : Fin 32) (u : TagUse) : (v.set g u)[k] = if k = g then u else v[k] := by
  by_cases e : k = g
  · subst e; simp
  · have : g.val ≠ k.val := fun q => e (Fin.ext q.symm)
    rw [if_neg e]; exact Vector.getElem_set_ne _ _ this

/-- A request takes a free tag and joins the list (R42). It is no operation that keeps the account of its tag. -/
theorem evolves_takeIn {q0 : Prop} {b0 s : State} (kind : ReqKind) (r : RequestFields) (hq : ¬q0) (hf : s.link.tags[r.tag] = .free)
    (ev : Evolves q0 b0 s) : Evolves q0 b0 (State.takeIn s kind r).2 := by
  have k : Evolves q0 s (s.addRecord (.host kind r.stream r.tag r.lba.toNat r.len.toNat s.now)).2 := evolves_addRecord _ (.refl s)
  refine ev.step
    { k with
      nextId := by show s.nextId ≤ s.nextId + 2; omega
      range := fun b =>
        have b' := k.range b
        { b' with
          order := ?_
          given := ?_
          waits := List.pairwise_append.mpr ⟨b.waits, List.pairwise_singleton _ _, fun e _ i hi h => ?_⟩ }
      buffers := fun _ => ?_
      tags := fun l => ⟨fun i hi j hj g => ?_, fun g => ?_, l.tagLaw.distinct, fun g => ?_⟩
      ledger := fun p => absurd p hq
      sound := fun b => { b with loaded := b.loaded } }
  · show ((s.engine.items ++ [_]).map Item.id).Pairwise _
    rw [List.map_append]
    refine List.pairwise_append.mpr ⟨b.order, List.pairwise_singleton _ _, fun n hn m hm => ?_⟩
    rw [List.mem_singleton.mp hm]
    exact Nat.lt_succ_of_lt (b.given n hn)
  · intro n hn
    have hn : n ∈ (s.engine.items ++ [_]).map Item.id := hn
    show n < s.nextId + 1 + 1
    rw [List.map_append] at hn
    rcases List.mem_append.mp hn with q | q
    · have := b.given n q; omega
    · rw [List.mem_singleton.mp q]; exact Nat.lt_succ_self _
  · rw [List.mem_singleton.mp hi] at h
    unfold Item.blocks at h
    simp only [Item.home, Request.admitted, Bool.and_eq_true] at h
    split at h <;> simp_all
  · show s.engine.freeBuffers + (((s.engine.items ++ [_]).map Item.buffers).sum + _) = _
    rw [List.map_append, List.sum_append]; simp [Item.buffers, heldBy, State.heldBuffers, Request.admitted, State.takeIn, State.addItem,
      State.setTag, State.takeId, State.addRecord]
  · have none (x : Item) (hx : x ∈ s.engine.items) : x.liveTag ≠ some r.tag := fun e => by
      rw [(l.tagLaw.requests r.tag).mpr ⟨x, hx, e⟩] at hf; cases hf
    rcases List.mem_append.mp hi with a | a <;> rcases List.mem_append.mp hj with c | c
    · exact l.tagLaw.one i a j c g
    · rw [List.mem_singleton.mp c]
      intro h1 h2
      cases h2
      exact absurd h1 (none i a)
    · rw [List.mem_singleton.mp a]
      intro h1 h2
      cases h1
      exact absurd h2 (none j c)
    · rw [List.mem_singleton.mp a, List.mem_singleton.mp c]; exact fun _ _ => rfl
  · show (s.link.tags.set r.tag TagUse.request)[g] = _ ↔ ∃ i ∈ s.engine.items ++ [_], _
    rw [tag_set]
    by_cases e : g = r.tag
    · subst e
      exact ⟨fun _ => ⟨_, List.mem_append_right _ (List.mem_singleton.mpr rfl), rfl⟩, fun _ => if_pos rfl⟩
    · rw [if_neg e]
      refine (l.tagLaw.requests g).trans ⟨fun ⟨i, hi, h⟩ => ⟨i, List.mem_append_left _ hi, h⟩, fun ⟨i, hi, h⟩ => ?_⟩
      rcases List.mem_append.mp hi with a | a
      · exact ⟨i, a, h⟩
      · rw [List.mem_singleton.mp a] at h
        cases h
        exact absurd rfl e
  · show (s.link.tags.set r.tag TagUse.request)[g] = _ ↔ g ∈ s.mgmt.tags
    rw [tag_set]
    by_cases e : g = r.tag
    · subst e
      refine ⟨fun h => absurd h (by simp), fun h => ?_⟩
      rw [(l.tagLaw.windows _).mpr h] at hf; cases hf
    · rw [if_neg e]; exact l.tagLaw.windows g

/-- The account of a tag when a request takes it (R42, R65). -/
theorem ledger_takeIn {s : State} (kind : ReqKind) (r : RequestFields) (hf : s.link.tags[r.tag] = .free) (g : Fin 32) :
    (s.takeIn kind r).2.ledger g = s.ledger g + (if g = r.tag then 1 else 0) := by
  show List.countP _ s.link.sent + (if (s.link.tags.set r.tag TagUse.request)[g] = .free then 0 else 1) = _
  unfold State.ledger
  rw [tag_set]
  by_cases e : g = r.tag
  · subst e; simp [hf]
  · simp [e]

theorem evolves_refuse {q0 : Prop} {b0 s : State} (q : Request) (status : Status) (hf : Fresh s q) (ev : Evolves q0 b0 s) :
    Evolves q0 b0 (State.refuse s q status) :=
  evolves_countRefused _ (evolves_completes q hf.mem hf.live hf.segs _ _ _ _ ev)

theorem evolves_syncAdmitted {q0 : Prop} {b0 s : State} (q : Request) (hf : Fresh s q) (ev : Evolves q0 b0 s) :
    Evolves q0 b0 (State.syncAdmitted s q) := by
  unfold State.syncAdmitted
  split
  · exact evolves_refuse _ _ hf ev
  · split
    · exact evolves_sendDone q hf.mem hf.live hf.segs ev
    · exact evolves_onRequest _ _ (fun _ => rfl) (fun _ => rfl) (fun _ => rfl) (fun _ => rfl) (fun _ => rfl) (fun _ => rfl)
        (fun _ _ => by simp) ev

/-- What is left of the quiet timer when an item leaves (R111). -/
theorem removeItem_left (s : State) (id : Nat) :
    s.removeItem id =
      { s with
        engine := { s.engine with items := s.engine.items.filter fun i => i.id != id }
        scan := if s.traffic && !((s.engine.items.filter fun i => i.id != id).any Item.traffic) then
          { s.scan with quietTimer := s.startTimer s.mgmt.params.quietTime } else s.scan } := by
  show (if (s.traffic && !((s.engine.items.filter fun i => i.id != id).any Item.traffic)) = true then _ else _) = _
  cases s.traffic && !((s.engine.items.filter fun i => i.id != id).any Item.traffic) <;> rfl

theorem windowRefuse_removed (s : State) (id : Nat) (tag : Fin 32) (stream : Fin 16) (status : Status) (residual : Nat) :
    ((s.removeItem id).setTag tag .window).windowRefuse tag stream status residual =
      ((s.sendCompletion tag status residual none false).removeItem id).countRefused stream := by
  unfold State.windowRefuse
  rw [removeItem_left, removeItem_left]
  simp only [State.sendCompletion, State.setTag, State.send]
  rw [Vector.set_set]
  rfl

/-- A request leaves the list as a window access that keeps its tag (R127). -/
theorem evolves_toWindow {q0 : Prop} {b0 s : State} (q : Request) (hf : Fresh s q) (m : ManagementEngine)
    (h1 : m.params = s.mgmt.params) (h2 : s.mgmt.events &&& 0xC000 = 0 → m.events &&& 0xC000 = 0)
    (h3 : m.state = s.mgmt.state) (h4 : m.taken = s.mgmt.taken)
    (h5 : m.tags.Perm (q.tag :: s.mgmt.tags)) (ev : Evolves q0 b0 s) :
    Evolves q0 b0 { (s.removeItem q.id).setTag q.tag .window with mgmt := m } := by
  have hg : (Item.host q).liveTag = some q.tag := by show (if q.orphan then none else some q.tag) = _; rw [hf.live]; rfl
  have hb : (Item.host q).buffers = 0 := by show heldBy q.segs = 0; rw [hf.segs]; rfl
  have core : Evolves q0 b0
      { s with
        mgmt := m, link := { s.link with tags := s.link.tags.set q.tag .window }
        engine := { s.engine with items := s.engine.items.filter fun i => i.id != q.id } } := by
    refine ev.step
      { Bounds.refl s with
        range := fun b =>
          have k := (bounds_without s q.id).range b
          { k with params := h1 ▸ b.params, events := h2 b.events, engine := fun e => by rw [h4]; exact b.engine (h3 ▸ e) }
        buffers := fun b => ?_
        tags := fun l => ?_
        ledger := fun _ l g => ?_
        sound := fun l => { l with loaded := l.loaded } }
    · show s.engine.freeBuffers + (((s.engine.items.filter _).map Item.buffers).sum + _) = _
      rw [show (fun i : Item => i.id != q.id) = fun i => i.id != (Item.host q).id from rfl, buffers_without hf.mem hb b]; rfl
    · have held : s.link.tags[q.tag] = .request := (l.tagLaw.requests _).mpr ⟨_, hf.mem, hg⟩
      have out : q.tag ∉ s.mgmt.tags := fun k => by rw [(l.tagLaw.windows _).mpr k] at held; cases held
      exact tagLaw_leaves l hf.mem hg (u := .window) (by decide) rfl rfl
        (h5.nodup_iff.mpr (List.nodup_cons.mpr ⟨out, l.tagLaw.distinct⟩)) fun k => by
          show k ∈ m.tags ↔ _
          rw [h5.mem_iff, List.mem_cons]; simp
    · have held : s.link.tags[q.tag] = .request := (l.tagLaw.requests _).mpr ⟨_, hf.mem, hg⟩
      show List.countP _ s.link.sent + (if (s.link.tags.set q.tag TagUse.window)[g] = .free then 0 else 1) = _
      unfold State.ledger
      rw [tag_set]
      by_cases e : g = q.tag
      · subst e; simp [held]
      · simp [e]
  rw [removeItem_left]
  exact evolves_scan (if s.traffic && !((s.engine.items.filter fun i => i.id != q.id).any Item.traffic) then
    { s.scan with quietTimer := s.startTimer s.mgmt.params.quietTime } else s.scan) (by split <;> exact id) (by split <;> exact id) core

@[simp] theorem evolves_clearEvents {q0 : Prop} {b0 s : State} (ev : Evolves q0 b0 s) :
    Evolves q0 b0 (State.clearEvents s) := by
  unfold State.clearEvents
  try dsimp only
  (repeat' split) <;> simp (maxDischargeDepth := 30) [*]

theorem tags_read (m : ManagementEngine) (x : WindowRead) :
    ManagementEngine.tags { m with reads := m.reads ++ [x] } |>.Perm (x.tag :: m.tags) := by
  unfold ManagementEngine.tags
  simp only [List.map_append, List.map_cons, List.map_nil, List.append_assoc, List.singleton_append]
  exact (List.perm_middle.append_left _).trans List.perm_middle

theorem tags_window (m : ManagementEngine) (x : WindowWrite) :
    ManagementEngine.tags { m with windows := m.windows ++ [x] } |>.Perm (x.tag :: m.tags) := by
  unfold ManagementEngine.tags
  simp only [List.map_append, List.map_cons, List.map_nil, List.append_assoc, List.singleton_append]
  exact List.perm_middle

theorem evolves_windowRead {q0 : Prop} {b0 s : State} (q : Request) (hf : Fresh s q) (ev : Evolves q0 b0 s) :
    Evolves q0 b0 (State.windowRead ((s.removeItem q.id).setTag q.tag .window) q) := by
  have k1 := evolves_toWindow (q0 := q0) q hf { s.mgmt with reads := s.mgmt.reads ++ [{ tag := q.tag, stream := q.stream }] }
    rfl id rfl rfl (tags_read _ _) ev
  have k2 := evolves_toWindow (q0 := q0) q hf
    { s.mgmt with events := 0, reads := s.mgmt.reads ++ [{ tag := q.tag, stream := q.stream }] }
    rfl (fun _ => (by decide : (0 : Half) &&& 0xC000 = 0)) rfl rfl (tags_read { s.mgmt with events := 0 } _) ev
  rw [removeItem_left] at k1 k2 ⊢
  unfold State.windowRead
  dsimp only
  generalize State.windowBlock _ _ = data
  split
  · exact evolves_send (.readData q.tag 0 data) (fun _ => rfl) k2
  · exact evolves_send (.readData q.tag 0 data) (fun _ => rfl) k1

theorem evolves_windowWrite {q0 : Prop} {b0 s : State} (q : Request) (hf : Fresh s q) (ev : Evolves q0 b0 s) :
    Evolves q0 b0 (State.windowWrite ((s.removeItem q.id).setTag q.tag .window) q) := by
  have hm : ((s.removeItem q.id).setTag q.tag .window).mgmt = s.mgmt := by rw [removeItem_left]; rfl
  unfold State.windowWrite
  split
  · rw [windowRefuse_removed]
    exact evolves_countRefused _ (evolves_completes q hf.mem hf.live hf.segs _ _ _ _ ev)
  · dsimp only
    rw [hm]
    exact evolves_send _ (fun _ => rfl) (evolves_toWindow q hf _ rfl id rfl rfl (tags_window _ _) ev)

theorem evolves_windowAccess {q0 : Prop} {b0 s : State} (q : Request) (hf : Fresh s q) (ev : Evolves q0 b0 s) :
    Evolves q0 b0 (State.windowAccess s q) := by
  unfold State.windowAccess
  dsimp only
  split
  · rw [windowRefuse_removed]
    exact evolves_countRefused _ (evolves_completes q hf.mem hf.live hf.segs _ _ _ _ ev)
  · split
    · exact evolves_windowRead q hf ev
    · exact evolves_windowWrite q hf ev

/-- A request that no item before it holds becomes RUNNING. -/
theorem evolves_runRequest {q0 : Prop} {b0 s : State} {l1 l2 : List Item} {r : Request} (he : s.engine.items = l1 ++ Item.host r :: l2)
    (hb : s.Bounded → ∀ e ∈ l1, e.blocks (.host r) = false) (ev : Evolves q0 b0 s) : Evolves q0 b0 (State.runRequest s r.id) := by
  have one : Item.onRequest r.id (fun r => { r with state := .running }) (.host r) = .host { r with state := .running } :=
    if_pos (beq_self_eq_true _)
  refine evolves_tryComplete _ (evolves_cut _ (evolves_one _ he (fun x hx => ?_) ?_ ?_ ?_ (fun b e hl h => ?_) (fun x _ h => ?_) ev))
  · match x with
    | .host x => exact if_neg (by simpa [Item.id] using hx)
    | .reloc x => rfl
  all_goals rw [one] at *
  · rfl
  · rfl
  · rfl
  · rw [show e.blocks (.host { r with state := .running }) = e.blocks (.host r) from rfl, hb b e hl] at h; cases h
  · exact h

@[simp] theorem evolves_runUnlessHeld {q0 : Prop} {b0 s : State} (id : Nat) (ev : Evolves q0 b0 s) :
    Evolves q0 b0 (State.runUnlessHeld s id) := by
  unfold State.runUnlessHeld
  split
  · exact ev
  · next r e =>
    split
    · exact ev
    · next h =>
      obtain ⟨hm, rfl⟩ := request_mem e
      obtain ⟨l1, l2, he⟩ := List.append_of_mem hm
      refine evolves_runRequest he (fun b x hx => ?_) ev
      have k := List.pairwise_map.mp b.order
      rw [he, List.pairwise_append] at k
      have lt : x.id < (Item.host r).id := k.2.2 x hx _ List.mem_cons_self
      have mem : x ∈ s.engine.items.filter fun i => i.id != r.id :=
        List.mem_filter.mpr ⟨by rw [he]; simp [hx], by simp [Item.id] at lt ⊢; omega⟩
      simp only [State.holds, Bool.or_eq_true, not_or, List.any_eq_true, not_exists, not_and, Bool.not_eq_true] at h
      exact h.1 x mem

@[simp] theorem evolves_standbyMeetsRequest {q0 : Prop} {b0 s : State} (ev : Evolves q0 b0 s) :
    Evolves q0 b0 (State.standbyMeetsRequest s) := by
  unfold State.standbyMeetsRequest
  try dsimp only
  (repeat' split) <;> simp (maxDischargeDepth := 30) [*]

theorem evolves_passed {q0 : Prop} {b0 s : State} (q : Request) (i : Fin 16) (hf : Fresh s q) (ev : Evolves q0 b0 s) :
    Evolves q0 b0 (State.passed s q i) := by
  obtain ⟨l, he⟩ := hf.last
  have one (f : Request → Request) : Item.onRequest q.id f (.host q) = .host (f q) := if_pos (beq_self_eq_true _)
  have home (f : Request → Request) (h1 : (f q).id = q.id) (h2 : (f q).tag = q.tag) (h3 : (f q).orphan = q.orphan) (h4 : (f q).segs = q.segs)
      (h5 : (f q).state ≠ .running) : Evolves q0 b0 (s.onRequest q.id f) := by
    refine evolves_one _ (l1 := l) (l2 := []) he (fun x hx => ?_) ?_ ?_ ?_ (fun _ _ _ _ => ?_) (fun x hx => by cases hx) ev
    · match x with
      | .host x => exact if_neg (by simpa [Item.id] using hx)
      | .reloc x => rfl
    all_goals rw [one]
    · exact h1
    · show (if (f q).orphan then none else some (f q).tag) = (if q.orphan then none else some q.tag)
      rw [h2, h3]
    · show heldBy (f q).segs = heldBy q.segs
      rw [h4]
    · exact ⟨h4.trans hf.segs, h5⟩
  exact evolves_runUnlessHeld _ (evolves_standbyMeetsRequest (evolves_trafficBegins (home _ rfl rfl rfl rfl (by simp))))

theorem evolves_checkRequest {q0 : Prop} {b0 s : State} (q : Request) (hf : Fresh s q) (ev : Evolves q0 b0 s) :
    Evolves q0 b0 (State.checkRequest s q) := by
  unfold State.checkRequest
  split
  · exact evolves_windowAccess q hf ev
  · split
    · exact evolves_refuse q _ hf ev
    · exact evolves_passed q _ hf ev

/-- What follows the admission of a request keeps the account of every tag. -/
theorem evolves_admitted {q0 : Prop} {b0 s : State} (kind : ReqKind) (q : Request) (hf : Fresh s q) (ev : Evolves q0 b0 s) :
    Evolves q0 b0 (if kind = .sync then s.syncAdmitted q else s.checkRequest q).finish := by
  refine evolves_finish ?_
  split
  · exact evolves_syncAdmitted q hf ev
  · exact evolves_checkRequest q hf ev

theorem evolves_takeRequest {q0 : Prop} {b0 s : State} (r : RequestFields) (hq : ¬q0) (ev : Evolves q0 b0 s) :
    Evolves q0 b0 (State.takeRequest s r) := by
  unfold State.takeRequest
  split
  · exact evolves_reject _ _ ev
  · split
    · exact evolves_reject _ _ ev
    · split
      · exact evolves_reject _ _ ev
      · next kind _ _ h =>
        have free : s.link.tags[r.tag] = .free := by simpa [State.tagUse] using h
        exact evolves_admitted kind _ (takeIn_fresh s kind r) (evolves_takeIn kind r hq free ev)

/-- The account of a tag after a REQUEST that takes it (R42, R65). -/
theorem ledger_takeRequest {s : State} (l : s.Lawful) (r : RequestFields) {kind : ReqKind} (hk : ReqKind.ofCode r.kind.toNat = some kind)
    (hl : r.len.toNat ≤ Config.largestRequest) (hf : s.link.tags[r.tag] = .free) (g : Fin 32) :
    (s.takeRequest r).ledger g = s.ledger g + (if g = r.tag then 1 else 0) := by
  rw [← ledger_takeIn kind r hf g]
  have e : s.takeRequest r = (if kind = .sync then (s.takeIn kind r).2.syncAdmitted (s.takeIn kind r).1
      else (s.takeIn kind r).2.checkRequest (s.takeIn kind r).1).finish := by
    unfold State.takeRequest
    rw [hk]
    simp only [State.tagUse, hf]
    rw [if_neg (by omega)]
    simp
  rw [e]
  exact (evolves_admitted (q0 := True) kind _ (takeIn_fresh s kind r) (.refl _)).ledger trivial
    ((evolves_takeIn (q0 := False) kind r id hf (.refl s)).lawful l) g

/-! ### Machine/Link.lean -/

theorem evolves_requestFrame {q0 : Prop} {b0 s : State} (frame : List Byte) (hq : ¬q0) (ev : Evolves q0 b0 s) :
    Evolves q0 b0 (State.requestFrame s frame) := by
  unfold State.requestFrame
  split
  · exact evolves_countFrameDiscarded ev
  · exact evolves_takeRequest _ hq ev
  · exact ev
  · exact ev
  · exact ev

@[simp] theorem evolves_deliver {q0 : Prop} {b0 s : State} (r : Request) (g : Segment) (w : WriteFields) (ev : Evolves q0 b0 s) :
    Evolves q0 b0 (State.deliver s r g w) := by
  unfold State.deliver
  try dsimp only
  (repeat' split) <;> simp (maxDischargeDepth := 30) [*]

@[simp] theorem evolves_writeRequest {q0 : Prop} {b0 s : State} (r : Request) (w : WriteFields) (ev : Evolves q0 b0 s) :
    Evolves q0 b0 (State.writeRequest s r w) := by
  unfold State.writeRequest
  try dsimp only
  (repeat' split) <;> simp (maxDischargeDepth := 30) [*]

/-- The tags of window accesses without one of them. -/
theorem filter_front {A B : List (Fin 32)} {g : Fin 32} (n : (A ++ B).Nodup) (h : g ∈ A) :
    (A ++ B).filter (· != g) = A.filter (· != g) ++ B := by
  rw [List.filter_append, List.filter_eq_self (l := B) |>.mpr fun x hx => ?_]
  simpa using fun e => (List.nodup_append.mp n).2.2 g h x hx e.symm

theorem filter_back {A B : List (Fin 32)} {g : Fin 32} (n : (A ++ B).Nodup) (h : g ∈ B) :
    (A ++ B).filter (· != g) = A ++ B.filter (· != g) := by
  rw [List.filter_append, List.filter_eq_self (l := A) |>.mpr fun x hx => ?_]
  simpa using (List.nodup_append.mp n).2.2 x hx g h

theorem perm_filter {A : List (Fin 32)} {g : Fin 32} (n : A.Nodup) (h : g ∈ A) : A.Perm (g :: A.filter (· != g)) := by
  rw [← n.erase_eq_filter]; exact List.perm_cons_erase h

theorem windows_without (m : ManagementEngine) (g : Fin 32) :
    (m.windows.filter fun x => x.tag != g).map (fun x => x.tag) = (m.windows.map fun x => x.tag).filter (· != g) := by
  rw [List.filter_map]; rfl

theorem reads_without (m : ManagementEngine) (g : Fin 32) :
    (m.reads.filter fun x => x.tag != g).map (fun x => x.tag) = (m.reads.map fun x => x.tag).filter (· != g) := by
  rw [List.filter_map]; rfl

/-- A W0 write waits no longer. -/
theorem tags_endWindow {s : State} {x : WindowWrite} (hx : x ∈ s.mgmt.windows) (n : s.mgmt.tags.Nodup) :
    x.tag ∈ s.mgmt.tags ∧ (s.endWindow x.tag).mgmt.tags = s.mgmt.tags.filter (· != x.tag) := by
  have h : x.tag ∈ s.mgmt.windows.map fun x => x.tag := List.mem_map_of_mem hx
  refine ⟨List.mem_append_left _ h, ?_⟩
  unfold ManagementEngine.tags at n ⊢
  rw [filter_front n h, ← windows_without]; rfl

/-- A W0 write becomes the taken command: its tag goes with it (R133). -/
theorem evolves_taken {q0 : Prop} {b0 s : State} {x : WindowWrite} (hx : x ∈ s.mgmt.windows) (hs : s.mgmt.state = .idle) (block : Block)
    (ev : Evolves q0 b0 s) : Evolves q0 b0 ((s.endWindow x.tag).beginCommand x block) := by
  have k : Evolves q0 b0 (s.addRecord (.command (u2 block 0) (BitVec.ofNat 16 (u2 block 2)) s.now)).2 := evolves_addRecord _ ev
  have m := evolves_mgmt_tags (s := (s.addRecord (.command (u2 block 0) (BitVec.ofNat 16 (u2 block 2)) s.now)).2)
    ((s.endWindow x.tag).beginCommand x block).mgmt id id (fun b n => ?_) (fun _ h => by cases h) k
  · exact evolves_guard (s := { (s.addRecord (.command (u2 block 0) (BitVec.ofNat 16 (u2 block 2)) s.now)).2 with
      mgmt := ((s.endWindow x.tag).beginCommand x block).mgmt }) ((s.endWindow x.tag).beginCommand x block).guard id id m
  · have none : s.mgmt.taken = none := b.engine hs
    have hw : s.mgmt.tags.Nodup := n
    show List.Perm _ s.mgmt.tags
    have h := (perm_filter hw (tags_endWindow hx hw).1).symm
    refine List.Perm.trans ?_ h
    rw [← (tags_endWindow hx hw).2]
    unfold ManagementEngine.tags
    show ((_ : List (Fin 32)) ++ (_ ++ [x.tag])).Perm (x.tag :: (_ ++ (_ ++ (s.mgmt.taken.bind _).toList)))
    rw [none]
    simp only [Option.bind_none, Option.toList_none, List.append_nil]
    rw [← List.append_assoc]
    exact List.perm_append_singleton _ _

theorem evolves_commandTaken {q0 : Prop} {b0 s : State} {x : WindowWrite} (hx : x ∈ s.mgmt.windows) (hs : s.mgmt.state = .idle)
    (block : Block) (ev : Evolves q0 b0 s) : Evolves q0 b0 ((s.endWindow x.tag).commandTaken x block) := by
  have k := evolves_taken hx hs block ev
  unfold State.commandTaken
  dsimp only
  split
  · exact evolves_respond _ _ k
  · split
    · exact evolves_respond _ _ k
    · exact k

/-- A W0 write ends with its COMPLETION (R130). -/
theorem evolves_windowGone {q0 : Prop} {b0 s : State} {x : WindowWrite} (hx : x ∈ s.mgmt.windows) (status : Status) (residual : Nat)
    (ev : Evolves q0 b0 s) : Evolves q0 b0 ((s.endWindow x.tag).windowRefuse x.tag x.stream status residual) :=
  evolves_countRefused _ (evolves_windowEnds (s := s) (s.endWindow x.tag).mgmt x.tag (.completion x.tag status residual none false _) (fun _ => rfl) id id
    (fun n => tags_endWindow hx n) id ev)

/-- A W0 write whose data names a wrong block ends, waiting or taken (R130). -/
theorem evolves_windowFails {q0 : Prop} {b0 s : State} {g : Fin 32} {stream : Fin 16} (hs : s.mgmt.windowStream g = some stream)
    (status : Status) (residual : Nat) (ev : Evolves q0 b0 s) :
    Evolves q0 b0 (((s.endWindow g).releaseTaken g).windowRefuse g stream status residual) := by
  refine evolves_countRefused _ (evolves_windowEnds (s := s) ((s.endWindow g).releaseTaken g).mgmt g (.completion g status residual none false _) (fun _ => rfl) id id (fun n => ?_)
    (fun k h => by
      show Option.map _ s.mgmt.taken = none
      rw [k h]; rfl) ev)
  have taken : (((s.mgmt.taken.map fun t => if t.tag = some g then { t with tag := none } else t).bind fun t => t.tag).toList) =
      (s.mgmt.taken.bind fun t => t.tag).toList.filter (· != g) := by
    cases s.mgmt.taken with
    | none => rfl
    | some t =>
      by_cases h : t.tag = some g
      · simp [h]
      · cases e : t.tag with
        | none => simp [h, e]
        | some k =>
          have : k ≠ g := fun q => h (by rw [e, q])
          simp [e, this]
  have held : g ∈ s.mgmt.windows.map (fun x => x.tag) ∨ g ∈ (s.mgmt.taken.bind fun t => t.tag).toList := by
    unfold ManagementEngine.windowStream at hs
    split at hs
    · next x h =>
      have : x.tag = g := by simpa using List.find?_some h
      exact .inl (this ▸ List.mem_map_of_mem (List.mem_of_find?_eq_some h))
    · obtain ⟨t, ht, h⟩ := Option.bind_eq_some_iff.mp hs
      split at h
      · next k => exact .inr (by rw [ht]; simp [k])
      · cases h
  unfold ManagementEngine.tags at n ⊢
  show _ ∧ ((s.mgmt.windows.filter fun x => x.tag != g).map fun x => x.tag) ++ (_ ++ (Option.bind (Option.map _ s.mgmt.taken) _).toList) = _
  rw [windows_without, taken]
  rcases held with h | h
  · have out := List.nodup_append.mp n
    refine ⟨List.mem_append_left _ h, ?_⟩
    have same : (s.mgmt.taken.bind fun t => t.tag).toList.filter (· != g) = (s.mgmt.taken.bind fun t => t.tag).toList :=
      List.filter_eq_self.mpr fun x hx => by simpa using fun e => out.2.2 g h x (List.mem_append_right _ hx) e.symm
    rw [filter_front n h, same]
    rfl
  · have h' : g ∈ s.mgmt.reads.map (fun x => x.tag) ++ (s.mgmt.taken.bind fun t => t.tag).toList := List.mem_append_right _ h
    have out := List.nodup_append.mp n
    refine ⟨List.mem_append_right _ h', ?_⟩
    have same : (s.mgmt.windows.map fun x => x.tag).filter (· != g) = s.mgmt.windows.map fun x => x.tag :=
      List.filter_eq_self.mpr fun x hx => by simpa using out.2.2 x hx g h'
    rw [filter_back n h', filter_back out.2.1 h, same]
    rfl

theorem evolves_writeWindow {q0 : Prop} {b0 s : State} (w : WriteFields) (ev : Evolves q0 b0 s) :
    Evolves q0 b0 (State.writeWindow s w) := by
  unfold State.writeWindow
  split
  · split
    · exact evolves_countDiscardedData ev
    · next e => exact evolves_windowFails e _ _ ev
  · split
    · exact evolves_countDiscardedData ev
    · next x e =>
      have hx := List.mem_of_find?_eq_some e
      have ht : x.tag = w.tag := by simpa using List.find?_some e
      rw [← ht]
      split
      · exact evolves_countDiscardedData ev
      · split
        · exact evolves_windowGone hx _ _ ev
        · next h => exact evolves_commandTaken hx h _ ev

@[simp] theorem evolves_takeWriteData {q0 : Prop} {b0 s : State} (w : WriteFields) (ev : Evolves q0 b0 s) :
    Evolves q0 b0 (State.takeWriteData s w) := by
  unfold State.takeWriteData
  split
  · exact evolves_countDiscardedData ev
  · exact evolves_writeWindow w ev
  · split
    · exact evolves_countDiscardedData ev
    · exact evolves_writeRequest _ w ev

@[simp] theorem evolves_writeDataFrame {q0 : Prop} {b0 s : State} (frame : List Byte) (ev : Evolves q0 b0 s) :
    Evolves q0 b0 (State.writeDataFrame s frame) := by
  unfold State.writeDataFrame
  try dsimp only
  (repeat' split) <;> simp (maxDischargeDepth := 30) [*]

@[simp] theorem evolves_cancelRequest {q0 : Prop} {b0 s : State} (r : Request) (ev : Evolves q0 b0 s) :
    Evolves q0 b0 (State.cancelRequest s r) := by
  unfold State.cancelRequest
  try dsimp only
  (repeat' split) <;> simp (maxDischargeDepth := 30) [*]

@[simp] theorem evolves_takeCancel {q0 : Prop} {b0 s : State} (tag : Fin 32) (ev : Evolves q0 b0 s) :
    Evolves q0 b0 (State.takeCancel s tag) := by
  unfold State.takeCancel
  try dsimp only
  (repeat' split) <;> simp (maxDischargeDepth := 30) [*]

@[simp] theorem evolves_cancelFrame {q0 : Prop} {b0 s : State} (frame : List Byte) (ev : Evolves q0 b0 s) :
    Evolves q0 b0 (State.cancelFrame s frame) := by
  unfold State.cancelFrame
  try dsimp only
  (repeat' split) <;> simp (maxDischargeDepth := 30) [*]

@[simp] theorem evolves_discardHeld {q0 : Prop} {b0 s : State} (g : Segment) (ev : Evolves q0 b0 s) :
    Evolves q0 b0 (State.discardHeld s g) := by
  unfold State.discardHeld
  try dsimp only
  (repeat' split) <;> simp (maxDischargeDepth := 30) [*]

/-- Every request of the list is an orphan. -/
def Orphaned (s : State) : Prop := ∀ i ∈ s.engine.items, i.liveTag = none

theorem orphans_id (l : List Item) : (l.map Item.orphaned).map Item.id = l.map Item.id := by
  rw [List.map_map]
  refine List.map_congr_left fun i _ => ?_
  match i with
  | .host r => rfl
  | .reloc r => rfl

theorem freeTags_orphaned (s : State) : Orphaned s.freeTags := by
  intro i hi
  obtain ⟨x, -, rfl⟩ := List.mem_map.mp hi
  match x with
  | .host r => rfl
  | .reloc r => rfl
theorem evolves_freeTags {q0 : Prop} {b0 s : State} (hq : ¬q0) (ev : Evolves q0 b0 s) : Evolves q0 b0 s.freeTags := by
  have free (g : Fin 32) : s.freeTags.link.tags[g] = .free := by simp [State.freeTags]
  have tags : s.freeTags.mgmt.tags = [] := by
    unfold ManagementEngine.tags State.freeTags
    cases s.mgmt.taken <;> rfl
  refine ev.step
    { Bounds.refl s with
      range := fun b => { b with
        order := ?_
        given := ?_
        engine := fun h => by show Option.map _ s.mgmt.taken = none; rw [b.engine h]; rfl
        waits := ?_ }
      buffers := fun _ => ?_
      tags := fun l => ⟨fun i hi j hj g h => ?_, fun g => ⟨fun h => ?_, fun ⟨i, hi, h⟩ => ?_⟩, ?_, fun g => ⟨fun h => ?_, fun h => ?_⟩⟩
      ledger := fun p => absurd p hq
      sound := fun r => { r with loaded := r.loaded } }
  · show ((s.engine.items.map Item.orphaned).map Item.id).Pairwise _
    rw [orphans_id]; exact b.order
  · show ∀ n ∈ (s.engine.items.map Item.orphaned).map Item.id, _
    rw [orphans_id]; exact b.given
  · show Orderly (s.engine.items.map Item.orphaned)
    rw [Orderly, List.pairwise_map]
    refine b.waits.imp fun {x y} k h => ?_
    match x, y with
    | .host x, .host y => exact k h
    | .host x, .reloc y => exact k h
    | .reloc x, .host y => exact k h
    | .reloc x, .reloc y => exact k h
  · show s.engine.freeBuffers + (((s.engine.items.map Item.orphaned).map Item.buffers).sum + _) = _
    rw [List.map_map, List.map_congr_left (g := Item.buffers) fun i _ => ?_]
    · rfl
    · match i with
      | .host r => rfl
      | .reloc r => rfl
  · rw [freeTags_orphaned s i hi] at h; cases h
  · rw [free] at h; cases h
  · rw [freeTags_orphaned s i hi] at h; cases h
  · rw [tags]; exact List.nodup_nil
  · rw [free] at h; cases h
  · rw [tags] at h; cases h

theorem discardSpare_engine (s : State) (u : Fin 4) (b : Nat) : (s.discardSpare u b).engine = s.engine := by
  unfold State.discardSpare State.clearTableFull State.onPool State.markDirty
  dsimp only
  (repeat' split) <;> rfl

theorem setWatch_engine (s : State) (l : List WatchEntry) : (s.setWatch l).engine = s.engine := by
  unfold State.setWatch State.markDirty; split <;> rfl

theorem suspectDue_engine (s : State) (l : List WatchEntry) : (s.suspectDue l).engine = s.engine := by
  unfold State.suspectDue; split <;> rfl

theorem insertWatch_engine (s : State) (e : WatchEntry) : (s.insertWatch e).2.engine = s.engine := by
  unfold State.insertWatch
  split
  · exact setWatch_engine _ _
  · split
    · rfl
    · exact setWatch_engine _ _

theorem applyError_engine (s : State) (a : Phys) (k : WatchCause) : (s.applyError a k).engine = s.engine := by
  have rewatch (f : WatchEntry → WatchEntry) : (s.rewatch f).engine = s.engine := (suspectDue_engine _ _).trans (setWatch_engine _ _)
  unfold State.applyError
  split
  · rfl
  · dsimp only
    split
    · split
      · exact rewatch _
      · exact rewatch _
    · split
      · split
        · exact (suspectDue_engine _ _).trans (insertWatch_engine _ _)
        · exact (suspectDue_engine _ _).trans (insertWatch_engine _ _)
      · exact insertWatch_engine _ _

theorem discardHeld_engine (s : State) (g : Segment) : (s.discardHeld g).engine = s.engine := by
  unfold State.discardHeld
  split
  · split
    · rfl
    · exact (applyError_engine _ _ _).trans (discardSpare_engine _ _ _)
  · rfl

/-- An orphan loses its segments without an operation at a port, and leaves when it holds no other (R67). -/
theorem evolves_resetRequest {q0 : Prop} {b0 s : State} (id : Nat) (ho : Orphaned s) (ev : Evolves q0 b0 s) :
    Evolves q0 b0 (State.resetRequest s id) ∧ Orphaned (s.resetRequest id) := by
  unfold State.resetRequest
  split
  · exact ⟨ev, ho⟩
  · next r e =>
    obtain ⟨hm, hi⟩ := request_mem e
    have fold (l : List Segment) (t : State) : (l.foldl State.discardHeld t).engine = t.engine := by
      induction l generalizing t with
      | nil => rfl
      | cons g l ih => exact (ih _).trans (discardHeld_engine _ _)
    have le (l : List Segment) (p : Segment → Bool) : heldBy (l.filter p) ≤ heldBy l := by
      induction l with
      | nil => exact Nat.le_refl _
      | cons g l ih =>
        rw [List.filter_cons]
        unfold heldBy at ih ⊢
        split <;> simp only [List.map_cons, List.sum_cons] <;> omega
    have items : (s.resegment id fun l => l.filter Segment.atPort).engine.items =
        s.engine.items.map (Item.onRequest id fun x => { x with segs := r.segs.filter Segment.atPort }) := by
      unfold State.resegment
      rw [e]
      dsimp only
      rw [if_pos ((le _ _).trans (Nat.le_add_left _ _))]
      rfl
    have gone : Evolves q0 b0 ((r.segs.filter fun g => !g.atPort).foldl State.discardHeld
        (s.resegment id fun l => l.filter Segment.atPort)) :=
      evolves_foldl _ (fun s g => evolves_discardHeld g (Evolves.refl s)) _ (evolves_resegment _ _ rfl ev)
    have orphaned : Orphaned ((r.segs.filter fun g => !g.atPort).foldl State.discardHeld
        (s.resegment id fun l => l.filter Segment.atPort)) := by
      intro i h
      rw [fold, items] at h
      obtain ⟨x, hx, rfl⟩ := List.mem_map.mp h
      have := ho x hx
      match x with
      | .host x =>
        show Item.liveTag (if x.id == id then _ else _) = none
        split
        · exact this
        · exact this
      | .reloc x => rfl
    dsimp only
    split
    · exact ⟨gone, orphaned⟩
    · next h =>
      have none : r.segs.filter Segment.atPort = [] := List.filter_eq_nil_iff.mpr fun g hg k => h (List.any_eq_true.mpr ⟨g, hg, k⟩)
      have mem : Item.host { r with segs := r.segs.filter Segment.atPort } ∈ ((r.segs.filter fun g => !g.atPort).foldl State.discardHeld
          (s.resegment id fun l => l.filter Segment.atPort)).engine.items := by
        rw [fold, items]
        refine List.mem_map.mpr ⟨_, hm, ?_⟩
        exact if_pos (by simpa using hi)
      subst hi
      refine ⟨evolves_leaves (.host { r with segs := r.segs.filter Segment.atPort }) mem (orphaned _ mem) ?_ gone, fun i h => ?_⟩
      · show heldBy (r.segs.filter Segment.atPort) = 0
        rw [none]; rfl
      · rw [removeItem_left] at h
        exact orphaned i (List.mem_filter.mp h).1

theorem evolves_takeLinkReset {q0 : Prop} {b0 s : State} (hq : ¬q0) (ev : Evolves q0 b0 s) :
    Evolves q0 b0 (State.takeLinkReset s) := by
  have fold (l : List Nat) (t : State) (ho : Orphaned t) (h : Evolves q0 b0 t) : Evolves q0 b0 (l.foldl State.resetRequest t) := by
    induction l generalizing t with
    | nil => exact h
    | cons n l ih => exact ih _ (evolves_resetRequest n ho h).2 (evolves_resetRequest n ho h).1
  exact fold _ _ (freeTags_orphaned s) (evolves_freeTags hq ev)

theorem evolves_linkResetFrame {q0 : Prop} {b0 s : State} (frame : List Byte) (hq : ¬q0) (ev : Evolves q0 b0 s) :
    Evolves q0 b0 (State.linkResetFrame s frame) := by
  unfold State.linkResetFrame
  split
  · exact evolves_countFrameDiscarded ev
  · exact evolves_finish (evolves_takeLinkReset hq ev)
  · exact ev
  · exact ev
  · exact ev

@[simp] theorem evolves_windowTimesOut {q0 : Prop} {b0 s : State} (tag : Fin 32) (ev : Evolves q0 b0 s) :
    Evolves q0 b0 (State.windowTimesOut s tag) := by
  unfold State.windowTimesOut
  split
  · exact ev
  · next x e =>
    have ht : x.tag = tag := by simpa using List.find?_some e
    rw [← ht]
    exact evolves_windowGone (s := s.countDataLate) (List.mem_of_find?_eq_some e) _ _ (evolves_countDataLate ev)

@[simp] theorem evolves_dataLate {q0 : Prop} {b0 s : State} (r : Request) (g : Segment) (ev : Evolves q0 b0 s) :
    Evolves q0 b0 (State.dataLate s r g) := by
  unfold State.dataLate
  try dsimp only
  (repeat' split) <;> simp (maxDischargeDepth := 30) [*]

@[simp] theorem evolves_dataTimesOut {q0 : Prop} {b0 s : State} (tag : Fin 32) (index : Nat) (ev : Evolves q0 b0 s) :
    Evolves q0 b0 (State.dataTimesOut s tag index) := by
  unfold State.dataTimesOut
  try dsimp only
  (repeat' split) <;> simp (maxDischargeDepth := 30) [*]

@[simp] theorem evolves_frameSent {q0 : Prop} {b0 s : State} (r : Request) (g : Segment) (ev : Evolves q0 b0 s) :
    Evolves q0 b0 (State.frameSent s r g) := by
  have k (d : List Byte) := evolves_complete r.id g.off 1 (evolves_countBlockRead r.stream
    (evolves_trimFront r.id g 1 (evolves_send (.readData r.tag g.off d) (fun _ => rfl) ev)))
  unfold State.frameSent
  dsimp only
  split
  · exact evolves_segmentEnds _ _ (k _)
  · exact k _

theorem evolves_windowReadEnds {q0 : Prop} {b0 s : State} {x : WindowRead} (hx : x ∈ s.mgmt.reads) (ev : Evolves q0 b0 s) :
    Evolves q0 b0 (State.windowReadEnds s x) := by
  refine evolves_countCompleted _ (evolves_windowEnds (s := s) { s.mgmt with reads := s.mgmt.reads.filter fun y => y.tag != x.tag } x.tag
    (.completion x.tag .ok 0 none false _) (fun _ => rfl) id id (fun n => ?_) id ev)
  have h : x.tag ∈ s.mgmt.reads.map fun x => x.tag := List.mem_map_of_mem hx
  refine ⟨List.mem_append_right _ (List.mem_append_left _ h), ?_⟩
  unfold ManagementEngine.tags at n ⊢
  rw [filter_back n (List.mem_append_left _ h), filter_front (List.nodup_append.mp n).2.1 h, ← reads_without]

@[simp] theorem evolves_readDataSent {q0 : Prop} {b0 s : State} (tag : Fin 32) (index : Nat) (ev : Evolves q0 b0 s) :
    Evolves q0 b0 (State.readDataSent s tag index) := by
  unfold State.readDataSent
  split
  · next x e =>
    split
    · exact evolves_windowReadEnds (List.mem_of_find?_eq_some e) ev
    · exact ev
  · split
    · exact ev
    · split
      · exact ev
      · exact evolves_finish (evolves_frameSent _ _ ev)

/-! ### Machine/Events.lean: claims and holds -/

@[simp] theorem evolves_grantFront {q0 : Prop} {b0 s : State} (ev : Evolves q0 b0 s) :
    Evolves q0 b0 (State.grantFront s) := by
  unfold State.grantFront
  try dsimp only
  (repeat' split) <;> simp (maxDischargeDepth := 30) [*]

/-- The first HELD item whose holds have cleared stands behind items of which none holds it. -/
theorem firstCleared_spec {s : State} {before l : List Item} {i : Item} (h : s.firstCleared before l = some i) :
    ∃ l1 l2, l = l1 ++ i :: l2 ∧ ∀ e ∈ before ++ l1, e.blocks i = false := by
  induction l generalizing before with
  | nil => cases h
  | cons x l ih =>
    unfold State.firstCleared at h
    split at h
    · next k =>
      cases h
      refine ⟨[], l, rfl, fun e he => ?_⟩
      simp only [Bool.and_eq_true, Bool.not_eq_true', State.holds, Bool.or_eq_false_iff, List.any_eq_false] at k
      simpa using k.2.1 e (by simpa using he)
    · obtain ⟨l1, l2, e, k⟩ := ih h
      exact ⟨x :: l1, l2, by rw [e]; rfl, fun y hy => k y (by simpa using hy)⟩

/-- An item that no item before it holds becomes RUNNING. -/
theorem evolves_runItem {q0 : Prop} {b0 s : State} {i : Item} {l1 l2 : List Item} (he : s.engine.items = l1 ++ i :: l2)
    (hb : ∀ e ∈ l1, e.blocks i = false) (ev : Evolves q0 b0 s) : Evolves q0 b0 (State.runItem s i) := by
  match i with
  | .host r => exact evolves_runRequest he (fun _ => hb) ev
  | .reloc r => exact evolves_relocRuns _ he hb ev

@[simp] theorem evolves_runCleared {q0 : Prop} {b0 s : State} (ev : Evolves q0 b0 s) :
    Evolves q0 b0 (State.runCleared s) := by
  unfold State.runCleared
  split
  · exact ev
  · next i e =>
    obtain ⟨l1, l2, he, hb⟩ := firstCleared_spec e
    exact evolves_finish (evolves_runItem he hb ev)

@[simp] theorem evolves_completeSync {q0 : Prop} {b0 s : State} (ev : Evolves q0 b0 s) :
    Evolves q0 b0 (State.completeSync s) := by
  unfold State.completeSync
  split
  · next r _ e =>
    split
    · next h => exact evolves_finish (evolves_sendDone r (by rw [e]; exact List.mem_cons_self) h.2.1 h.2.2 ev)
    · exact ev
  · exact ev

@[simp] theorem evolves_age {q0 : Prop} {b0 s : State} (ev : Evolves q0 b0 s) :
    Evolves q0 b0 (State.age s) := by
  unfold State.age
  split
  · exact evolves_finish (evolves_health _ rfl rfl rfl (evolves_ageWatch ev))
  · exact ev

@[simp] theorem evolves_runAllCleared {q0 : Prop} {b0 s : State} (n : Nat) (ev : Evolves q0 b0 s) :
    Evolves q0 b0 (State.runAllCleared n s) := by
  induction n generalizing s with
  | zero => exact ev
  | succ n ih =>
    unfold State.runAllCleared
    split
    · exact ev
    · next i e =>
      obtain ⟨l1, l2, he, hb⟩ := firstCleared_spec e
      exact ih (evolves_runItem he hb ev)

@[simp] theorem evolves_markDecided {q0 : Prop} {b0 s : State} (ev : Evolves q0 b0 s) :
    Evolves q0 b0 (State.markDecided s) := by
  refine evolves_mgmt_tags { s.mgmt with taken := s.mgmt.taken.map fun t => { t with decided := true } } id id (fun _ _ => ?_)
    (fun k h => by show Option.map _ s.mgmt.taken = none; rw [k h]; rfl) ev
  unfold ManagementEngine.tags
  cases s.mgmt.taken <;> exact .refl _

theorem evolves_params {q0 : Prop} {b0 s : State} (p : Params) (hp : b0.Bounded → p.inRange) (ev : Evolves q0 b0 s) :
    Evolves q0 b0 { s with mgmt := { s.mgmt with params := p } } :=
  { ev with
    range := fun r0 =>
      have r := ev.range r0
      { r with params := hp r0 }
    tags := fun r0 =>
      have r := ev.tags r0
      { r with one := r.one }
    sound := fun r0 =>
      have r := ev.sound r0
      { r with loaded := r.loaded } }

/-! ### Machine/Events.lean: the other events -/

@[simp] theorem evolves_offerPlaces {q0 : Prop} {b0 s : State} (u : Fin 4) (ev : Evolves q0 b0 s) :
    Evolves q0 b0 (State.offerPlaces s u) := by
  unfold State.offerPlaces
  dsimp only
  split
  · have h1 := evolves_foldl State.offerWaiting (fun s w => evolves_offerWaiting w (Evolves.refl s))
      (s.waitingOps u fun w => decide (w = .place)) ev
    split
    · exact evolves_offerErase h1
    · exact h1
  · split
    · exact evolves_offerWaiting _ ev
    · split
      · exact evolves_offerErase ev
      · exact ev

@[simp] theorem evolves_placeFree {q0 : Prop} {b0 s : State} (u : Fin 4) (ev : Evolves q0 b0 s) :
    Evolves q0 b0 (State.placeFree s u) := by
  unfold State.placeFree
  try dsimp only
  (repeat' split) <;> simp (maxDischargeDepth := 30) [*]

@[simp] theorem evolves_redirect {q0 : Prop} {b0 s : State} (ev : Evolves q0 b0 s) :
    Evolves q0 b0 (State.redirect s) := by
  unfold State.redirect
  try dsimp only
  (repeat' split) <;> simp (maxDischargeDepth := 30) [*]

@[simp] theorem evolves_startRelocation {q0 : Prop} {b0 s : State} (ev : Evolves q0 b0 s) :
    Evolves q0 b0 (State.startRelocation s) := by
  unfold State.startRelocation
  try dsimp only
  (repeat' split) <;> simp (maxDischargeDepth := 30) [*]

@[simp] theorem evolves_quietExpires {q0 : Prop} {b0 s : State} (ev : Evolves q0 b0 s) :
    Evolves q0 b0 (State.quietExpires s) := by
  unfold State.quietExpires
  try dsimp only
  (repeat' split) <;> simp (maxDischargeDepth := 30) [*]

@[simp] theorem evolves_takeASave {q0 : Prop} {b0 s : State} (ev : Evolves q0 b0 s) :
    Evolves q0 b0 (State.takeASave s) := by
  unfold State.takeASave
  try dsimp only
  (repeat' split) <;> simp (maxDischargeDepth := 30) [*]

@[simp] theorem evolves_endEraseWait {q0 : Prop} {b0 s : State} (ev : Evolves q0 b0 s) :
    Evolves q0 b0 (State.endEraseWait s) := by
  unfold State.endEraseWait
  try dsimp only
  (repeat' split) <;> simp (maxDischargeDepth := 30) [*]

@[simp] theorem evolves_endDrain {q0 : Prop} {b0 s : State} (ev : Evolves q0 b0 s) :
    Evolves q0 b0 (State.endDrain s) := by
  unfold State.endDrain
  try dsimp only
  (repeat' split) <;> simp (maxDischargeDepth := 30) [*]

@[simp] theorem evolves_sendPowerDown {q0 : Prop} {b0 s : State} (u : Fin 4) (ev : Evolves q0 b0 s) :
    Evolves q0 b0 (State.sendPowerDown s u) := by
  unfold State.sendPowerDown
  try dsimp only
  (repeat' split) <;> simp (maxDischargeDepth := 30) [*]

@[simp] theorem evolves_enterRest {q0 : Prop} {b0 s : State} (ev : Evolves q0 b0 s) :
    Evolves q0 b0 (State.enterRest s) := by
  unfold State.enterRest
  try dsimp only
  (repeat' split) <;> simp (maxDischargeDepth := 30) [*]

@[simp] theorem evolves_completePowerDown {q0 : Prop} {b0 s : State} (ev : Evolves q0 b0 s) :
    Evolves q0 b0 (State.completePowerDown s) := by
  unfold State.completePowerDown
  try dsimp only
  (repeat' split) <;> simp (maxDischargeDepth := 30) [*]

@[simp] theorem evolves_wakeEnds {q0 : Prop} {b0 s : State} (ev : Evolves q0 b0 s) :
    Evolves q0 b0 (State.wakeEnds s) := by
  unfold State.wakeEnds
  try dsimp only
  (repeat' split) <;> simp (maxDischargeDepth := 30) [*]

@[simp] theorem evolves_idleExpires {q0 : Prop} {b0 s : State} (ev : Evolves q0 b0 s) :
    Evolves q0 b0 (State.idleExpires s) := by
  unfold State.idleExpires
  try dsimp only
  (repeat' split) <;> simp (maxDischargeDepth := 30) [*]

/-! ### Machine/Lines.lean -/

@[simp] theorem evolves_unitDataFrame {q0 : Prop} {b0 s : State} (u : Fin 4) (frame : List Byte) (ev : Evolves q0 b0 s) :
    Evolves q0 b0 (State.unitDataFrame s u frame) := by
  unfold State.unitDataFrame
  try dsimp only
  (repeat' split) <;> simp (maxDischargeDepth := 30) [*]

@[simp] theorem evolves_takeResult {q0 : Prop} {b0 s : State} (u : Fin 4) (r : ResultFields) (ev : Evolves q0 b0 s) :
    Evolves q0 b0 (State.takeResult s u r) := by
  unfold State.takeResult
  try dsimp only
  (repeat' split) <;> simp (maxDischargeDepth := 30) [*]

@[simp] theorem evolves_resultFrame {q0 : Prop} {b0 s : State} (u : Fin 4) (frame : List Byte) (ev : Evolves q0 b0 s) :
    Evolves q0 b0 (State.resultFrame s u frame) := by
  unfold State.resultFrame
  try dsimp only
  (repeat' split) <;> simp (maxDischargeDepth := 30) [*]

@[simp] theorem evolves_slotTimesOut {q0 : Prop} {b0 s : State} (u : Fin 4) (slot : Fin 4) (ev : Evolves q0 b0 s) :
    Evolves q0 b0 (State.slotTimesOut s u slot) := by
  unfold State.slotTimesOut
  try dsimp only
  (repeat' split) <;> simp (maxDischargeDepth := 30) [*]

@[simp] theorem evolves_presentLevel {q0 : Prop} {b0 s : State} (u : Fin 4) (level : Bool) (ev : Evolves q0 b0 s) :
    Evolves q0 b0 (State.presentLevel s u level) := by
  unfold State.presentLevel
  try dsimp only
  (repeat' split) <;> simp (maxDischargeDepth := 30) [*]

@[simp] theorem evolves_faultLevel {q0 : Prop} {b0 s : State} (u : Fin 4) (level : Bool) (ev : Evolves q0 b0 s) :
    Evolves q0 b0 (State.faultLevel s u level) := by
  unfold State.faultLevel
  try dsimp only
  (repeat' split) <;> simp (maxDischargeDepth := 30) [*]

@[simp] theorem evolves_attachFitted {q0 : Prop} {b0 s : State} (u : Fin 4) (ev : Evolves q0 b0 s) :
    Evolves q0 b0 (State.attachFitted s u) := by
  unfold State.attachFitted
  try dsimp only
  (repeat' split) <;> simp (maxDischargeDepth := 30) [*]

/-! ### Machine/Management.lean -/

@[simp] theorem evolves_carry {q0 : Prop} {b0 s : State} (c : Command) (f : State → Taken → State) (hf : ∀ t, Evolves q0 b0 (f s t)) (ev : Evolves q0 b0 s) :
    Evolves q0 b0 (State.carry s c f) := by
  unfold State.carry
  split
  · exact ev
  · split
    · exact hf _
    · exact ev

@[simp] theorem evolves_paramEffects {q0 : Prop} {b0 s : State} (old : Params) (health : Four SpareHealth) (ev : Evolves q0 b0 s) :
    Evolves q0 b0 (State.paramEffects s old health) := by
  unfold State.paramEffects
  dsimp only
  have h1 : Evolves q0 b0 (if s.mgmt.params.agingPeriod = old.agingPeriod then s
      else { s with health := { s.health with aging := s.agingTimer } }) := by
    split
    · exact ev
    · exact evolves_health _ rfl rfl rfl ev
  have h2 := (fun t (h : Evolves q0 b0 t) => show Evolves q0 b0 (if s.mgmt.params.promotion = old.promotion then t else t.reevaluate) by
    split
    · exact h
    · exact evolves_reevaluate h) _ h1
  have h3 := (fun t (h : Evolves q0 b0 t) => show Evolves q0 b0 (if s.mgmt.params.lowSpare = old.lowSpare then t
      else units.foldl (fun s u => s.evaluateHealth (health.get u) u) t) by
    split
    · exact h
    · exact evolves_foldl _ (fun s u => evolves_evaluateHealth _ _ (Evolves.refl s)) _ h) _ h2
  split
  · exact h3
  · exact evolves_restartIdle h3

@[simp] theorem evolves_setParams {q0 : Prop} {b0 s : State} (p : Params) (hp : b0.Bounded → p.inRange) (ev : Evolves q0 b0 s) :
    Evolves q0 b0 (State.setParams s p) := by
  unfold State.setParams
  dsimp only
  split
  · exact ev
  · exact evolves_paramEffects _ _ (evolves_markDirty (evolves_params _ hp ev))

/-- A change list in range keeps every parameter in its range (R138). -/
theorem inRange_changed {p : Params} (l : List Change) (hp : p.inRange) (hl : firstOutOfRange l = none) :
    (p.changed l).inRange := by
  have ok : ∀ c ∈ l, paramInRange c.number c.value = true := by
    unfold firstOutOfRange at hl
    split at hl
    · cases hl
    · next h1 =>
      have h2 : (l.find? fun c => !paramNumbers.contains c.number) = none := by simpa using hl
      intro c hc
      have hn : c.number ∈ paramNumbers := by simpa using List.find?_eq_none.mp h2 c hc
      have hx := List.find?_eq_none.mp h1 c.number hn
      simp only [List.any_eq_true, Bool.and_eq_true, beq_iff_eq, Bool.not_eq_true', not_exists, not_and, Bool.not_eq_false] at hx
      exact hx c hc rfl
  unfold Params.changed
  clear hl
  induction l generalizing p with
  | nil => exact hp
  | cons c l ih =>
    exact ih (inRange_withValue hp (ok c List.mem_cons_self)) (fun d hd => ok d (List.mem_cons_of_mem _ hd))

@[simp] theorem evolves_changeParams {q0 : Prop} {b0 s : State} (l : List Change) (ev : Evolves q0 b0 s) :
    Evolves q0 b0 (State.changeParams s l) := by
  unfold State.changeParams
  split
  · exact evolves_respond _ _ ev
  · next e => exact evolves_finish (evolves_respond _ _ (evolves_setParams _ (fun r => inRange_changed l (ev.range r).params e) ev))

@[simp] theorem evolves_setStreams {q0 : Prop} {b0 s : State} (mask : Half) (ev : Evolves q0 b0 s) :
    Evolves q0 b0 (State.setStreams s mask) := by
  unfold State.setStreams
  try dsimp only
  (repeat' split) <;> simp (maxDischargeDepth := 30) [*]

@[simp] theorem evolves_changeStreams {q0 : Prop} {b0 s : State} (t : Taken) (mask : Half) (ev : Evolves q0 b0 s) :
    Evolves q0 b0 (State.changeStreams s t mask) := by
  unfold State.changeStreams
  try dsimp only
  (repeat' split) <;> simp (maxDischargeDepth := 30) [*]

@[simp] theorem evolves_modeEnds {q0 : Prop} {b0 s : State} (result : CmdResult) (ev : Evolves q0 b0 s) :
    Evolves q0 b0 (State.modeEnds s result) := by
  unfold State.modeEnds
  try dsimp only
  (repeat' split) <;> simp (maxDischargeDepth := 30) [*]

@[simp] theorem evolves_modeWaits {q0 : Prop} {b0 s : State} (target : PartMode) (ev : Evolves q0 b0 s) :
    Evolves q0 b0 (State.modeWaits s target) := by
  unfold State.modeWaits
  try dsimp only
  (repeat' split) <;> simp (maxDischargeDepth := 30) [*]

@[simp] theorem evolves_toService {q0 : Prop} {b0 s : State} (ev : Evolves q0 b0 s) :
    Evolves q0 b0 (State.toService s) := by
  unfold State.toService
  try dsimp only
  (repeat' split) <;> simp (maxDischargeDepth := 30) [*]

@[simp] theorem evolves_toConfig {q0 : Prop} {b0 s : State} (ev : Evolves q0 b0 s) :
    Evolves q0 b0 (State.toConfig s) := by
  unfold State.toConfig
  try dsimp only
  (repeat' split) <;> simp (maxDischargeDepth := 30) [*]

@[simp] theorem evolves_askService {q0 : Prop} {b0 s : State} (ev : Evolves q0 b0 s) :
    Evolves q0 b0 (State.askService s) := by
  unfold State.askService
  try dsimp only
  (repeat' split) <;> simp (maxDischargeDepth := 30) [*]

@[simp] theorem evolves_toStandby {q0 : Prop} {b0 s : State} (ev : Evolves q0 b0 s) :
    Evolves q0 b0 (State.toStandby s) := by
  unfold State.toStandby
  try dsimp only
  (repeat' split) <;> simp (maxDischargeDepth := 30) [*]

@[simp] theorem evolves_changeMode {q0 : Prop} {b0 s : State} (target : Nat) (ev : Evolves q0 b0 s) :
    Evolves q0 b0 (State.changeMode s target) := by
  unfold State.changeMode
  try dsimp only
  (repeat' split) <;> simp (maxDischargeDepth := 30) [*]

@[simp] theorem evolves_resetDrains {q0 : Prop} {b0 s : State} (ev : Evolves q0 b0 s) :
    Evolves q0 b0 (State.resetDrains s) := by
  unfold State.resetDrains
  try dsimp only
  (repeat' split) <;> simp (maxDischargeDepth := 30) [*]

@[simp] theorem evolves_resetBegins {q0 : Prop} {b0 s : State} (ev : Evolves q0 b0 s) :
    Evolves q0 b0 (State.resetBegins s) := by
  unfold State.resetBegins
  try dsimp only
  (repeat' split) <;> simp (maxDischargeDepth := 30) [*]

@[simp] theorem evolves_saveAccepted {q0 : Prop} {b0 s : State} (ev : Evolves q0 b0 s) :
    Evolves q0 b0 (State.saveAccepted s) := by
  unfold State.saveAccepted
  try dsimp only
  (repeat' split) <;> simp (maxDischargeDepth := 30) [*]

@[simp] theorem evolves_saveCommand {q0 : Prop} {b0 s : State} (t : Taken) (ev : Evolves q0 b0 s) :
    Evolves q0 b0 (State.saveCommand s t) := by
  unfold State.saveCommand
  try dsimp only
  (repeat' split) <;> simp (maxDischargeDepth := 30) [*]

@[simp] theorem evolves_scanAccepted {q0 : Prop} {b0 s : State} (kind : ScanKind) (unit : Option (Fin 4)) (ev : Evolves q0 b0 s) :
    Evolves q0 b0 (State.scanAccepted s kind unit) := by
  unfold State.scanAccepted
  try dsimp only
  (repeat' split) <;> simp (maxDischargeDepth := 30) [*]

@[simp] theorem evolves_scanStart {q0 : Prop} {b0 s : State} (t : Taken) (ev : Evolves q0 b0 s) :
    Evolves q0 b0 (State.scanStart s t) := by
  unfold State.scanStart
  try dsimp only
  (repeat' split) <;> simp (maxDischargeDepth := 30) [*]

@[simp] theorem evolves_scanAbort {q0 : Prop} {b0 s : State} (ev : Evolves q0 b0 s) :
    Evolves q0 b0 (State.scanAbort s) := by
  unfold State.scanAbort
  try dsimp only
  (repeat' split) <;> simp (maxDischargeDepth := 30) [*]

@[simp] theorem evolves_scanLogRead {q0 : Prop} {b0 s : State} (age : Nat) (ev : Evolves q0 b0 s) :
    Evolves q0 b0 (State.scanLogRead s age) := by
  unfold State.scanLogRead
  try dsimp only
  (repeat' split) <;> simp (maxDischargeDepth := 30) [*]

@[simp] theorem evolves_logRead {q0 : Prop} {b0 s : State} (number : Nat) (ev : Evolves q0 b0 s) :
    Evolves q0 b0 (State.logRead s number) := by
  unfold State.logRead
  try dsimp only
  (repeat' split) <;> simp (maxDischargeDepth := 30) [*]

@[simp] theorem evolves_setCounters {q0 : Prop} {b0 s : State} (c : CounterBank) (ev : Evolves q0 b0 s) :
    Evolves q0 b0 (State.setCounters s c) := by
  unfold State.setCounters
  try dsimp only
  (repeat' split) <;> simp (maxDischargeDepth := 30) [*]

@[simp] theorem evolves_readStream {q0 : Prop} {b0 s : State} (n : Nat) (ev : Evolves q0 b0 s) :
    Evolves q0 b0 (State.readStream s n) := by
  unfold State.readStream
  try dsimp only
  (repeat' split) <;> simp (maxDischargeDepth := 30) [*]

@[simp] theorem evolves_readUnit {q0 : Prop} {b0 s : State} (n : Nat) (ev : Evolves q0 b0 s) :
    Evolves q0 b0 (State.readUnit s n) := by
  unfold State.readUnit
  try dsimp only
  (repeat' split) <;> simp (maxDischargeDepth := 30) [*]

@[simp] theorem evolves_countersRead {q0 : Prop} {b0 s : State} (selection : Nat) (item : Nat) (ev : Evolves q0 b0 s) :
    Evolves q0 b0 (State.countersRead s selection item) := by
  unfold State.countersRead
  try dsimp only
  (repeat' split) <;> simp (maxDischargeDepth := 30) [*]

/-! ### Machine/Tables.lean -/

@[simp] theorem evolves_regionRead {q0 : Prop} {b0 s : State} (index : Nat) (ev : Evolves q0 b0 s) :
    Evolves q0 b0 (State.regionRead s index) := by
  unfold State.regionRead
  try dsimp only
  (repeat' split) <;> simp (maxDischargeDepth := 30) [*]

@[simp] theorem evolves_setRegion {q0 : Prop} {b0 s : State} (i : Fin 16) (e : RegionEntry) (ev : Evolves q0 b0 s) :
    Evolves q0 b0 (State.setRegion s i e) := by
  unfold State.setRegion
  split
  · exact ev
  · exact evolves_markDirty (evolves_map { s.map with regions := s.map.regions.set i e } (fun _ _ h => h) id ev)

@[simp] theorem evolves_regionWriteAt {q0 : Prop} {b0 s : State} (i : Fin 16) (e : RegionEntry) (ev : Evolves q0 b0 s) :
    Evolves q0 b0 (State.regionWriteAt s i e) := by
  unfold State.regionWriteAt
  try dsimp only
  (repeat' split) <;> simp (maxDischargeDepth := 30) [*]

@[simp] theorem evolves_regionWrite {q0 : Prop} {b0 s : State} (t : Taken) (ev : Evolves q0 b0 s) :
    Evolves q0 b0 (State.regionWrite s t) := by
  unfold State.regionWrite
  try dsimp only
  (repeat' split) <;> simp (maxDischargeDepth := 30) [*]

@[simp] theorem evolves_regionClear {q0 : Prop} {b0 s : State} (t : Taken) (ev : Evolves q0 b0 s) :
    Evolves q0 b0 (State.regionClear s t) := by
  unfold State.regionClear
  try dsimp only
  (repeat' split) <;> simp (maxDischargeDepth := 30) [*]

@[simp] theorem evolves_pinRead {q0 : Prop} {b0 s : State} (index : Nat) (ev : Evolves q0 b0 s) :
    Evolves q0 b0 (State.pinRead s index) := by
  unfold State.pinRead
  try dsimp only
  (repeat' split) <;> simp (maxDischargeDepth := 30) [*]

@[simp] theorem evolves_setPin {q0 : Prop} {b0 s : State} (i : Fin 32) (e : PinEntry) (ev : Evolves q0 b0 s) :
    Evolves q0 b0 (State.setPin s i e) := by
  unfold State.setPin
  split
  · exact ev
  · exact evolves_markDirty (evolves_map { s.map with pins := s.map.pins.set i e } (fun _ _ h => h) id ev)

@[simp] theorem evolves_pinWriteAt {q0 : Prop} {b0 s : State} (i : Fin 32) (e : PinEntry) (ev : Evolves q0 b0 s) :
    Evolves q0 b0 (State.pinWriteAt s i e) := by
  unfold State.pinWriteAt
  try dsimp only
  (repeat' split) <;> simp (maxDischargeDepth := 30) [*]

@[simp] theorem evolves_pinWrite {q0 : Prop} {b0 s : State} (t : Taken) (ev : Evolves q0 b0 s) :
    Evolves q0 b0 (State.pinWrite s t) := by
  unfold State.pinWrite
  try dsimp only
  (repeat' split) <;> simp (maxDischargeDepth := 30) [*]

@[simp] theorem evolves_pinClear {q0 : Prop} {b0 s : State} (t : Taken) (ev : Evolves q0 b0 s) :
    Evolves q0 b0 (State.pinClear s t) := by
  unfold State.pinClear
  try dsimp only
  (repeat' split) <;> simp (maxDischargeDepth := 30) [*]

@[simp] theorem evolves_remapRead {q0 : Prop} {b0 s : State} (pos : Nat) (ev : Evolves q0 b0 s) :
    Evolves q0 b0 (State.remapRead s pos) := by
  unfold State.remapRead
  try dsimp only
  (repeat' split) <;> simp (maxDischargeDepth := 30) [*]

/-- No learned entry has a source after one is removed, where none had it before. -/
theorem learnedOf_erased {m : MapUnit} {u : Fin 4} {b : Nat} (p : Nat) (h : m.learnedOf u b = none) :
    { m with learned := m.learned.eraseIdx p }.learnedOf u b = none :=
  findPos_none.mpr fun x hx => findPos_none.mp h x (List.mem_of_mem_eraseIdx hx)

@[simp] theorem evolves_forget {q0 : Prop} {b0 s : State} (pos : Nat) (ev : Evolves q0 b0 s) :
    Evolves q0 b0 (State.forget s pos) := by
  have k : Evolves q0 b0 { s with map := { s.map with learned := s.map.learned.eraseIdx pos } } :=
    evolves_map _ (fun e _ h => learnedOf_erased pos h) id ev
  exact evolves_markDirty (evolves_health (s := { s with map := { s.map with learned := s.map.learned.eraseIdx pos } })
    { s.health with tableFull := false } rfl rfl rfl k)

@[simp] theorem evolves_remapDelete {q0 : Prop} {b0 s : State} (t : Taken) (ev : Evolves q0 b0 s) :
    Evolves q0 b0 (State.remapDelete s t) := by
  unfold State.remapDelete
  try dsimp only
  (repeat' split) <;> simp (maxDischargeDepth := 30) [*]

@[simp] theorem evolves_spareRead {q0 : Prop} {b0 s : State} (unit : Nat) (ev : Evolves q0 b0 s) :
    Evolves q0 b0 (State.spareRead s unit) := by
  unfold State.spareRead
  try dsimp only
  (repeat' split) <;> simp (maxDischargeDepth := 30) [*]

/-- Loading a pool whose issued list is empty, with extents that pass the parameter stage, keeps it lawful (R32, R36). -/
theorem loadedWith_lawful {p : Pool} {l : List SpareExtent} (hl : extentsInRange l = true) (hi : p.issued = []) :
    (p.loadedWith l).Lawful := by
  simp only [extentsInRange, Bool.and_eq_true, decide_eq_true_eq, List.all_eq_true] at hl
  refine ⟨?_, hl.2, ?_, fun x hx => (hl.1.2 x hx).1⟩
  · show (extentSum l) + 0 - 0 + 0 + 0 = extentSum l
    omega
  · show p.issued.length ≤ 0
    rw [hi]; exact Nat.le_refl _

theorem evolves_loadPool {q0 : Prop} {b0 s : State} (u : Fin 4) (l : List SpareExtent) (hl : extentsInRange l = true)
    (hi : (s.map.pools.get u).issued = []) (ev : Evolves q0 b0 s) :
    Evolves q0 b0 (State.loadPool s u l) := by
  unfold State.loadPool
  dsimp only
  split
  · exact ev
  · exact evolves_evaluateHealth _ _ (evolves_onPool _ _ (fun _ => loadedWith_lawful hl hi) ev)

theorem evolves_spareLoadAt {q0 : Prop} {b0 s : State} (u : Fin 4) (l : List SpareExtent) (hl : extentsInRange l = true)
    (ev : Evolves q0 b0 s) : Evolves q0 b0 (State.spareLoadAt s u l) := by
  unfold State.spareLoadAt
  split
  · exact evolves_respond _ _ ev
  · next h =>
    refine evolves_finish (evolves_respond _ _ (evolves_loadPool u l hl ?_ ev))
    have k : s.map.spareOutstanding u = none := by
      unfold firstConflict at h
      exact List.findSome?_eq_none_iff.mp h _ List.mem_cons_self
    unfold MapUnit.spareOutstanding at k
    rwa [Option.map_eq_none_iff, List.head?_eq_none_iff] at k

@[simp] theorem evolves_spareLoad {q0 : Prop} {b0 s : State} (t : Taken) (ev : Evolves q0 b0 s) :
    Evolves q0 b0 (State.spareLoad s t) := by
  unfold State.spareLoad
  split
  · exact evolves_respond _ _ ev
  · dsimp only
    split
    · exact evolves_respond _ _ ev
    · split
      · next h => exact evolves_spareLoadAt _ _ h ev
      · exact evolves_respond _ _ ev

@[simp] theorem evolves_watchRead {q0 : Prop} {b0 s : State} (pos : Nat) (ev : Evolves q0 b0 s) :
    Evolves q0 b0 (State.watchRead s pos) := by
  unfold State.watchRead
  try dsimp only
  (repeat' split) <;> simp (maxDischargeDepth := 30) [*]

@[simp] theorem evolves_watchClearAll {q0 : Prop} {b0 s : State} (ev : Evolves q0 b0 s) :
    Evolves q0 b0 (State.watchClearAll s) := evolves_finish (evolves_respond _ _ (evolves_setWatch_filter _ ev))

@[simp] theorem evolves_watchClearOne {q0 : Prop} {b0 s : State} (t : Taken) (ev : Evolves q0 b0 s) :
    Evolves q0 b0 (State.watchClearOne s t) := by
  unfold State.watchClearOne
  split
  · exact evolves_respond _ _ ev
  · split
    · exact evolves_respond _ _ ev
    · split
      · exact evolves_respond _ _ ev
      · split
        · exact evolves_respond _ _ ev
        · have sub : (s.health.watch.eraseIdx (t.p2 1)).Sublist s.health.watch := List.eraseIdx_sublist _ _
          exact evolves_finish (evolves_respond _ _ (evolves_setWatch_sublist sub ev))

@[simp] theorem evolves_watchClear {q0 : Prop} {b0 s : State} (t : Taken) (ev : Evolves q0 b0 s) :
    Evolves q0 b0 (State.watchClear s t) := by
  unfold State.watchClear
  try dsimp only
  (repeat' split) <;> simp (maxDischargeDepth := 30) [*]

/-! ### Machine/UnitCommands.lean -/

@[simp] theorem evolves_unitInfo {q0 : Prop} {b0 s : State} (unit : Nat) (ev : Evolves q0 b0 s) :
    Evolves q0 b0 (State.unitInfo s unit) := by
  unfold State.unitInfo
  try dsimp only
  (repeat' split) <;> simp (maxDischargeDepth := 30) [*]

@[simp] theorem evolves_desireActs {q0 : Prop} {b0 s : State} (u : Fin 4) (m : DesiredMode) (ev : Evolves q0 b0 s) :
    Evolves q0 b0 (State.desireActs s u m) := by
  unfold State.desireActs
  try dsimp only
  (repeat' split) <;> simp (maxDischargeDepth := 30) [*]

@[simp] theorem evolves_unitModeAt {q0 : Prop} {b0 s : State} (u : Fin 4) (m : DesiredMode) (ev : Evolves q0 b0 s) :
    Evolves q0 b0 (State.unitModeAt s u m) := by
  have hp : PortEvolves (s.port u) ((s.port u).desire m) := by
    unfold Port.desire
    split
    · exact ⟨List.prefix_refl _, fun r => ⟨Nat.zero_le _, r.2⟩⟩
    · exact .same rfl rfl rfl
  exact evolves_finish (evolves_respond _ _ (evolves_settle (evolves_desireActs _ _ (evolves_onPort _ _ hp ev))))

@[simp] theorem evolves_unitMode {q0 : Prop} {b0 s : State} (unit : Nat) (mode : Nat) (ev : Evolves q0 b0 s) :
    Evolves q0 b0 (State.unitMode s unit mode) := by
  unfold State.unitMode
  try dsimp only
  (repeat' split) <;> simp (maxDischargeDepth := 30) [*]

/-! ### Machine/GuardCommands.lean -/

@[simp] theorem evolves_onGuard {q0 : Prop} {b0 s : State} (f : GuardUnit → GuardUnit) (h1 : s.guard.frozen = true → (f s.guard).frozen = true)
    (h2 : s.guard.failed ≤ 5 → (f s.guard).failed ≤ 5) (ev : Evolves q0 b0 s) :
    Evolves q0 b0 (State.onGuard s f) := evolves_guard _ h1 h2 ev

@[simp] theorem evolves_withKind {q0 : Prop} {b0 s : State} (t : Taken) (f : State → CodeKind → State) (hf : ∀ k, Evolves q0 b0 (f s k)) (ev : Evolves q0 b0 s) :
    Evolves q0 b0 (State.withKind s t f) := by
  unfold State.withKind
  split
  · exact evolves_respond _ _ ev
  · exact hf _

@[simp] theorem evolves_unlessFrozen {q0 : Prop} {b0 s : State} (f : State → State) (hf : Evolves q0 b0 (f s)) (ev : Evolves q0 b0 s) :
    Evolves q0 b0 (State.unlessFrozen s f) := by
  unfold State.unlessFrozen
  split
  · exact evolves_guardEnds _ ev
  · exact hf

@[simp] theorem evolves_setUser {q0 : Prop} {b0 s : State} (level : GuardLevel) (code : List Byte) (ev : Evolves q0 b0 s) :
    Evolves q0 b0 (State.setUser s level code) := by
  unfold State.setUser
  try dsimp only
  (repeat' split) <;> simp (maxDischargeDepth := 30) [*]

@[simp] theorem evolves_guardSetUser {q0 : Prop} {b0 s : State} (t : Taken) (ev : Evolves q0 b0 s) :
    Evolves q0 b0 (State.guardSetUser s t) := by
  unfold State.guardSetUser
  try dsimp only
  (repeat' split) <;> simp (maxDischargeDepth := 30) [*]

@[simp] theorem evolves_setRecovery {q0 : Prop} {b0 s : State} (code : List Byte) (ev : Evolves q0 b0 s) :
    Evolves q0 b0 (State.setRecovery s code) := by
  unfold State.setRecovery
  try dsimp only
  (repeat' split) <;> simp (maxDischargeDepth := 30) [*]

@[simp] theorem evolves_guardSetRecovery {q0 : Prop} {b0 s : State} (t : Taken) (ev : Evolves q0 b0 s) :
    Evolves q0 b0 (State.guardSetRecovery s t) := by
  unfold State.guardSetRecovery
  try dsimp only
  (repeat' split) <;> simp (maxDischargeDepth := 30) [*]

@[simp] theorem evolves_unlock {q0 : Prop} {b0 s : State} (ev : Evolves q0 b0 s) :
    Evolves q0 b0 (State.unlock s) := by
  unfold State.unlock
  try dsimp only
  (repeat' split) <;> simp (maxDischargeDepth := 30) [*]

@[simp] theorem evolves_guardUnlock {q0 : Prop} {b0 s : State} (t : Taken) (ev : Evolves q0 b0 s) :
    Evolves q0 b0 (State.guardUnlock s t) := by
  unfold State.guardUnlock
  try dsimp only
  (repeat' split) <;> simp (maxDischargeDepth := 30) [*]

@[simp] theorem evolves_disableGuard {q0 : Prop} {b0 s : State} (ev : Evolves q0 b0 s) :
    Evolves q0 b0 (State.disableGuard s) := by
  unfold State.disableGuard
  try dsimp only
  (repeat' split) <;> simp (maxDischargeDepth := 30) [*]

@[simp] theorem evolves_guardDisable {q0 : Prop} {b0 s : State} (t : Taken) (ev : Evolves q0 b0 s) :
    Evolves q0 b0 (State.guardDisable s t) := by
  unfold State.guardDisable
  try dsimp only
  (repeat' split) <;> simp (maxDischargeDepth := 30) [*]

@[simp] theorem evolves_freeze {q0 : Prop} {b0 s : State} (ev : Evolves q0 b0 s) :
    Evolves q0 b0 (State.freeze s) := by
  unfold State.freeze
  try dsimp only
  (repeat' split) <;> simp (maxDischargeDepth := 30) [*]

@[simp] theorem evolves_prepare {q0 : Prop} {b0 s : State} (ev : Evolves q0 b0 s) :
    Evolves q0 b0 (State.prepare s) := by
  unfold State.prepare
  try dsimp only
  (repeat' split) <;> simp (maxDischargeDepth := 30) [*]

@[simp] theorem evolves_erasePrepare {q0 : Prop} {b0 s : State} (ev : Evolves q0 b0 s) :
    Evolves q0 b0 (State.erasePrepare s) := by
  unfold State.erasePrepare
  try dsimp only
  (repeat' split) <;> simp (maxDischargeDepth := 30) [*]

@[simp] theorem evolves_startErase {q0 : Prop} {b0 s : State} (ev : Evolves q0 b0 s) :
    Evolves q0 b0 (State.startErase s) := by
  unfold State.startErase
  try dsimp only
  (repeat' split) <;> simp (maxDischargeDepth := 30) [*]

@[simp] theorem evolves_eraseStages {q0 : Prop} {b0 s : State} (t : Taken) (kind : CodeKind) (ev : Evolves q0 b0 s) :
    Evolves q0 b0 (State.eraseStages s t kind) := by
  unfold State.eraseStages
  split
  · exact evolves_guardEnds _ ev
  · split
    · exact evolves_guardEnds _ ev
    · split
      · exact evolves_guardEnds _ ev
      · exact evolves_withCode _ _ _ _ (evolves_startErase ev) ev

@[simp] theorem evolves_eraseGuarded {q0 : Prop} {b0 s : State} (t : Taken) (ev : Evolves q0 b0 s) :
    Evolves q0 b0 (State.eraseGuarded s t) := by
  unfold State.eraseGuarded
  try dsimp only
  (repeat' split) <;> simp (maxDischargeDepth := 30) [*]

/-! ### The commands -/

theorem evolves_up {p : Prop} {s x : State} (hf : Evolves p s x) : Evolves p s (if s.inReset then s else x) := by
  split
  · exact Evolves.refl s
  · exact hf

theorem evolves_carried {p : Prop} {s : State} {c : Command} {f : State → Taken → State} (hf : ∀ t, Evolves p s (f s t)) :
    Evolves p s (if s.inReset then s else s.carry c f) :=
  evolves_up (evolves_carry c f hf (Evolves.refl s))

/-- A command that neither admits a request nor is a LINK RESET: it keeps the account of every tag (R65). -/
abbrev KeepsAccounts (c : Instr) : Prop := (∀ f, c ≠ .request f) ∧ ∀ f, c ≠ .linkReset f

/-- Everything a command other than a reset, the release of the reset line, or a tick can do: it answers a next state that evolves
from the one it was given. -/
theorem exec_evolves (c : Instr) (s : State) (h1 : ∀ e, c ≠ .partReset e) (h2 : c ≠ .resetLineReleased) :
    ∃ t, exec c s = .next t ∧ Evolves (KeepsAccounts c) s t := by
  have r {p : Prop} : Evolves p s s := Evolves.refl s
  cases c
  all_goals first | exact absurd rfl (h1 _) | exact absurd rfl h2 | skip
  case request f => exact ⟨_, rfl, evolves_up (evolves_requestFrame f (fun h => h.1 f rfl) r)⟩
  case writeData f => exact ⟨_, rfl, evolves_up (evolves_writeDataFrame f r)⟩
  case cancel f => exact ⟨_, rfl, evolves_up (evolves_cancelFrame f r)⟩
  case linkReset f => exact ⟨_, rfl, evolves_up (evolves_linkResetFrame f (fun h => h.2 f rfl) r)⟩
  case windowDataTimeout g => exact ⟨_, rfl, evolves_up (evolves_windowTimesOut g r)⟩
  case dataTimeout g i => exact ⟨_, rfl, evolves_up (evolves_dataTimesOut g i r)⟩
  case readDataSent g i => exact ⟨_, rfl, evolves_up (evolves_readDataSent g i r)⟩
  case bufferClaimGrant => exact ⟨_, rfl, evolves_up (evolves_grantFront r)⟩
  case holdCleared => exact ⟨_, rfl, evolves_up (evolves_runCleared r)⟩
  case syncComplete => exact ⟨_, rfl, evolves_up (evolves_completeSync r)⟩
  case queuePlaceFree u => exact ⟨_, rfl, evolves_up (evolves_placeFree u r)⟩
  case pendingWriteRedirect => exact ⟨_, rfl, evolves_up (evolves_redirect r)⟩
  case unitPresentAsserted u =>
    refine ⟨_, rfl, ?_⟩
    split
    · exact evolves_presentLevel u true r
    · exact evolves_finish (evolves_presentAsserted u r)
  case unitPresentReleased u =>
    refine ⟨_, rfl, ?_⟩
    split
    · exact evolves_presentLevel u false r
    · exact evolves_finish (evolves_presentReleased u r)
  case unitFaultLineChange u l =>
    refine ⟨_, rfl, ?_⟩
    split
    · exact evolves_faultLevel u l r
    · exact evolves_finish (evolves_takeState u (evolves_faultLevel u l r))
  case unitData u f => exact ⟨_, rfl, evolves_up (evolves_unitDataFrame u f r)⟩
  case result u f => exact ⟨_, rfl, evolves_up (evolves_resultFrame u f r)⟩
  case unitTimeout u k => exact ⟨_, rfl, evolves_up (evolves_slotTimesOut u k r)⟩
  case agingExpiry => exact ⟨_, rfl, evolves_up (evolves_age r)⟩
  case quietTimerExpiry => exact ⟨_, rfl, evolves_up (evolves_quietExpires r)⟩
  case idleTimerExpiry => exact ⟨_, rfl, evolves_up (evolves_idleExpires r)⟩
  case relocationStart => exact ⟨_, rfl, evolves_up (evolves_startRelocation r)⟩
  case takeSave => exact ⟨_, rfl, evolves_up (evolves_takeASave r)⟩
  case drainEnd => exact ⟨_, rfl, evolves_up (evolves_endDrain r)⟩
  case powerDown u => exact ⟨_, rfl, evolves_up (evolves_sendPowerDown u r)⟩
  case poweringDownComplete => exact ⟨_, rfl, evolves_up (evolves_completePowerDown r)⟩
  case wakeSettled => exact ⟨_, rfl, evolves_up (evolves_wakeEnds r)⟩
  case eraseWaitEnd => exact ⟨_, rfl, evolves_up (evolves_endEraseWait r)⟩
  case identify => exact ⟨_, rfl, evolves_carried fun _ => evolves_respond _ _ r⟩
  case setParams => exact ⟨_, rfl, evolves_carried fun _ => evolves_changeParams _ r⟩
  case setStreams => exact ⟨_, rfl, evolves_carried fun _ => evolves_changeStreams _ _ r⟩
  case setMode => exact ⟨_, rfl, evolves_carried fun _ => evolves_changeMode _ r⟩
  case resetPart => exact ⟨_, rfl, evolves_carried fun _ => evolves_finish (evolves_resetBegins (evolves_markDecided r))⟩
  case save => exact ⟨_, rfl, evolves_carried fun _ => evolves_saveCommand _ r⟩
  case scanStart => exact ⟨_, rfl, evolves_carried fun _ => evolves_scanStart _ r⟩
  case scanAbort => exact ⟨_, rfl, evolves_carried fun _ => evolves_scanAbort r⟩
  case scanLogRead => exact ⟨_, rfl, evolves_carried fun _ => evolves_scanLogRead _ r⟩
  case logRead => exact ⟨_, rfl, evolves_carried fun _ => evolves_logRead _ r⟩
  case countersRead => exact ⟨_, rfl, evolves_carried fun _ => evolves_countersRead _ _ r⟩
  case regionRead => exact ⟨_, rfl, evolves_carried fun _ => evolves_regionRead _ r⟩
  case regionWrite => exact ⟨_, rfl, evolves_carried fun _ => evolves_regionWrite _ r⟩
  case regionClear => exact ⟨_, rfl, evolves_carried fun _ => evolves_regionClear _ r⟩
  case pinRead => exact ⟨_, rfl, evolves_carried fun _ => evolves_pinRead _ r⟩
  case pinWrite => exact ⟨_, rfl, evolves_carried fun _ => evolves_pinWrite _ r⟩
  case pinClear => exact ⟨_, rfl, evolves_carried fun _ => evolves_pinClear _ r⟩
  case remapRead => exact ⟨_, rfl, evolves_carried fun _ => evolves_remapRead _ r⟩
  case remapDelete => exact ⟨_, rfl, evolves_carried fun _ => evolves_remapDelete _ r⟩
  case spareRead => exact ⟨_, rfl, evolves_carried fun _ => evolves_spareRead _ r⟩
  case spareLoad => exact ⟨_, rfl, evolves_carried fun _ => evolves_spareLoad _ r⟩
  case watchRead => exact ⟨_, rfl, evolves_carried fun _ => evolves_watchRead _ r⟩
  case watchClear => exact ⟨_, rfl, evolves_carried fun _ => evolves_watchClear _ r⟩
  case unitMode => exact ⟨_, rfl, evolves_carried fun _ => evolves_unitMode _ _ r⟩
  case unitInfo => exact ⟨_, rfl, evolves_carried fun _ => evolves_unitInfo _ r⟩
  case guardSetUser => exact ⟨_, rfl, evolves_carried fun _ => evolves_guardSetUser _ r⟩
  case guardSetRecovery => exact ⟨_, rfl, evolves_carried fun _ => evolves_guardSetRecovery _ r⟩
  case guardUnlock => exact ⟨_, rfl, evolves_carried fun _ => evolves_guardUnlock _ r⟩
  case guardDisable => exact ⟨_, rfl, evolves_carried fun _ => evolves_guardDisable _ r⟩
  case freeze => exact ⟨_, rfl, evolves_carried fun _ => evolves_freeze r⟩
  case erasePrepare => exact ⟨_, rfl, evolves_carried fun _ => evolves_erasePrepare r⟩
  case eraseGuarded => exact ⟨_, rfl, evolves_carried fun _ => evolves_eraseGuarded _ r⟩

/-! ### Reset, start-up and the tick -/

/-- A part right after a reset is lawful, whatever its lines and records. -/
theorem atReset_lawful (cause : StartCause) (lines : Four (Bool × Bool)) (linkSent : List HostFrame)
    (unitSent : Four (List SentOp)) (nextId nextFree : Nat) (pending : List Instr) :
    (State.atReset cause lines linkSent unitSent nextId nextFree pending).Lawful where
  failed := Nat.zero_le _
  ring := by show 1 ≤ 5; omega
  latest := Nat.zero_le _
  lifetime := Nat.zero_le _
  scanLog := Nat.zero_le _
  watch := Nat.zero_le _
  params := by unfold Params.inRange; exact fresh_lawful.params
  events := by show (0 : Half) &&& 0xC000 = 0; decide
  ports := fun u => match u with
    | 0 => ⟨Nat.zero_le _, Nat.zero_le _⟩
    | 1 => ⟨Nat.zero_le _, Nat.zero_le _⟩
    | 2 => ⟨Nat.zero_le _, Nat.zero_le _⟩
    | 3 => ⟨Nat.zero_le _, Nat.zero_le _⟩
  todo := fun _ h => absurd h List.not_mem_nil
  order := List.Pairwise.nil
  given := fun _ h => absurd h List.not_mem_nil
  watchRange := fun _ h => absurd h List.not_mem_nil
  scan := ⟨fun _ => rfl, fun _ => rfl⟩
  engine := fun _ => rfl
  waits := List.Pairwise.nil
  buffers := rfl
  tagLaw :=
    { one := fun _ h => absurd h List.not_mem_nil
      requests := fun g => ⟨fun h => (by
        have free : (State.atReset cause lines linkSent unitSent nextId nextFree pending).link.tags[g] = .free := by
          simp [State.atReset]
        rw [free] at h; cases h), fun ⟨_, h, _⟩ => absurd h List.not_mem_nil⟩
      distinct := List.nodup_nil
      windows := fun g => ⟨fun h => (by
        have free : (State.atReset cause lines linkSent unitSent nextId nextFree pending).link.tags[g] = .free := by
          simp [State.atReset]
        rw [free] at h; cases h), fun h => absurd h List.not_mem_nil⟩ }

theorem partReset_lawful (s : State) (cause : StartCause) : (s.partReset cause).Lawful := atReset_lawful ..

/-- Start-up evolves the state with the reset line released. -/
theorem startUp_evolves (p : Prop) (s : State) : Evolves p { s with inReset := false } s.startUp := by
  unfold State.startUp
  dsimp only
  have h1 := evolves_foldl State.attachFitted (fun s u => evolves_attachFitted u (Evolves.refl s)) units
    (Evolves.refl { s with inReset := false } (p := p))
  refine evolves_finish ?_
  split
  · exact h1
  · exact evolves_left _ work_absent h1

/-- The reset line matters to no law. -/
theorem lawful_released {s : State} (h : s.Lawful) : State.Lawful { s with inReset := false } :=
  { h with failed := h.failed, tagLaw := { h.tagLaw with one := h.tagLaw.one } }

theorem startUp_lawful {s : State} (h : s.Lawful) : s.startUp.Lawful := (startUp_evolves True s).lawful (lawful_released h)

end Sys2Proof.Laws
end

