-- ==== Sys2Proof/Laws/State.lean ====
section
/-!
SUPPORT. What each elementary update does to each component of the state, by definition: one lemma for each component of each
update, so that no proof unfolds a record update. The rules for an ended step follow.
-/

set_option Elab.async false

namespace Sys2Proof.Laws

open Sys2Proof Sys2Proof.Machine

/-! ### raise -/

@[simp] theorem raise_link (s : State) (e : Event) : (s.raise e).link = s.link := rfl
@[simp] theorem raise_engine (s : State) (e : Event) : (s.raise e).engine = s.engine := rfl
@[simp] theorem raise_map (s : State) (e : Event) : (s.raise e).map = s.map := rfl
@[simp] theorem raise_ports (s : State) (e : Event) : (s.raise e).ports = s.ports := rfl
@[simp] theorem raise_health (s : State) (e : Event) : (s.raise e).health = s.health := rfl
@[simp] theorem raise_scan (s : State) (e : Event) : (s.raise e).scan = s.scan := rfl
@[simp] theorem raise_log (s : State) (e : Event) : (s.raise e).log = s.log := rfl
@[simp] theorem raise_mgmt (s : State) (e : Event) : (s.raise e).mgmt = { s.mgmt with events := s.mgmt.events ||| e.bit } := rfl
@[simp] theorem raise_guard (s : State) (e : Event) : (s.raise e).guard = s.guard := rfl
@[simp] theorem raise_modes (s : State) (e : Event) : (s.raise e).modes = s.modes := rfl
@[simp] theorem raise_store (s : State) (e : Event) : (s.raise e).store = s.store := rfl
@[simp] theorem raise_counters (s : State) (e : Event) : (s.raise e).counters = s.counters := rfl
@[simp] theorem raise_ms (s : State) (e : Event) : (s.raise e).ms = s.ms := rfl
@[simp] theorem raise_inReset (s : State) (e : Event) : (s.raise e).inReset = s.inReset := rfl
@[simp] theorem raise_nextId (s : State) (e : Event) : (s.raise e).nextId = s.nextId := rfl
@[simp] theorem raise_nextFree (s : State) (e : Event) : (s.raise e).nextFree = s.nextFree := rfl
@[simp] theorem raise_todo (s : State) (e : Event) : (s.raise e).todo = s.todo := rfl
@[simp] theorem raise_pending (s : State) (e : Event) : (s.raise e).pending = s.pending := rfl

/-! ### markDirty -/

@[simp] theorem markDirty_link (s : State) : (s.markDirty).link = s.link := rfl
@[simp] theorem markDirty_engine (s : State) : (s.markDirty).engine = s.engine := rfl
@[simp] theorem markDirty_map (s : State) : (s.markDirty).map = s.map := rfl
@[simp] theorem markDirty_ports (s : State) : (s.markDirty).ports = s.ports := rfl
@[simp] theorem markDirty_health (s : State) : (s.markDirty).health = s.health := rfl
@[simp] theorem markDirty_scan (s : State) : (s.markDirty).scan = s.scan := rfl
@[simp] theorem markDirty_log (s : State) : (s.markDirty).log = s.log := rfl
@[simp] theorem markDirty_mgmt (s : State) : (s.markDirty).mgmt = s.mgmt := rfl
@[simp] theorem markDirty_guard (s : State) : (s.markDirty).guard = s.guard := rfl
@[simp] theorem markDirty_modes (s : State) : (s.markDirty).modes = s.modes := rfl
@[simp] theorem markDirty_store (s : State) : (s.markDirty).store = { s.store.changed with retryHold := false } := rfl
@[simp] theorem markDirty_counters (s : State) : (s.markDirty).counters = s.counters := rfl
@[simp] theorem markDirty_ms (s : State) : (s.markDirty).ms = s.ms := rfl
@[simp] theorem markDirty_inReset (s : State) : (s.markDirty).inReset = s.inReset := rfl
@[simp] theorem markDirty_nextId (s : State) : (s.markDirty).nextId = s.nextId := rfl
@[simp] theorem markDirty_nextFree (s : State) : (s.markDirty).nextFree = s.nextFree := rfl
@[simp] theorem markDirty_todo (s : State) : (s.markDirty).todo = s.todo := rfl
@[simp] theorem markDirty_pending (s : State) : (s.markDirty).pending = s.pending := rfl

/-! ### markDirtyKeepHold -/

@[simp] theorem markDirtyKeepHold_link (s : State) : (s.markDirtyKeepHold).link = s.link := rfl
@[simp] theorem markDirtyKeepHold_engine (s : State) : (s.markDirtyKeepHold).engine = s.engine := rfl
@[simp] theorem markDirtyKeepHold_map (s : State) : (s.markDirtyKeepHold).map = s.map := rfl
@[simp] theorem markDirtyKeepHold_ports (s : State) : (s.markDirtyKeepHold).ports = s.ports := rfl
@[simp] theorem markDirtyKeepHold_health (s : State) : (s.markDirtyKeepHold).health = s.health := rfl
@[simp] theorem markDirtyKeepHold_scan (s : State) : (s.markDirtyKeepHold).scan = s.scan := rfl
@[simp] theorem markDirtyKeepHold_log (s : State) : (s.markDirtyKeepHold).log = s.log := rfl
@[simp] theorem markDirtyKeepHold_mgmt (s : State) : (s.markDirtyKeepHold).mgmt = s.mgmt := rfl
@[simp] theorem markDirtyKeepHold_guard (s : State) : (s.markDirtyKeepHold).guard = s.guard := rfl
@[simp] theorem markDirtyKeepHold_modes (s : State) : (s.markDirtyKeepHold).modes = s.modes := rfl
@[simp] theorem markDirtyKeepHold_store (s : State) : (s.markDirtyKeepHold).store = s.store.changed := rfl
@[simp] theorem markDirtyKeepHold_counters (s : State) : (s.markDirtyKeepHold).counters = s.counters := rfl
@[simp] theorem markDirtyKeepHold_ms (s : State) : (s.markDirtyKeepHold).ms = s.ms := rfl
@[simp] theorem markDirtyKeepHold_inReset (s : State) : (s.markDirtyKeepHold).inReset = s.inReset := rfl
@[simp] theorem markDirtyKeepHold_nextId (s : State) : (s.markDirtyKeepHold).nextId = s.nextId := rfl
@[simp] theorem markDirtyKeepHold_nextFree (s : State) : (s.markDirtyKeepHold).nextFree = s.nextFree := rfl
@[simp] theorem markDirtyKeepHold_todo (s : State) : (s.markDirtyKeepHold).todo = s.todo := rfl
@[simp] theorem markDirtyKeepHold_pending (s : State) : (s.markDirtyKeepHold).pending = s.pending := rfl

/-! ### addRecord -/

@[simp] theorem addRecord_link (s : State) (r : HistRec) : (s.addRecord r).2.link = s.link := rfl
@[simp] theorem addRecord_engine (s : State) (r : HistRec) : (s.addRecord r).2.engine = s.engine := rfl
@[simp] theorem addRecord_map (s : State) (r : HistRec) : (s.addRecord r).2.map = s.map := rfl
@[simp] theorem addRecord_ports (s : State) (r : HistRec) : (s.addRecord r).2.ports = s.ports := rfl
@[simp] theorem addRecord_health (s : State) (r : HistRec) : (s.addRecord r).2.health = s.health := rfl
@[simp] theorem addRecord_scan (s : State) (r : HistRec) : (s.addRecord r).2.scan = s.scan := rfl
@[simp] theorem addRecord_log (s : State) (r : HistRec) : (s.addRecord r).2.log = { s.log with ring := pushBounded 5 s.log.ring ⟨s.nextId, r⟩ } := rfl
@[simp] theorem addRecord_mgmt (s : State) (r : HistRec) : (s.addRecord r).2.mgmt = s.mgmt := rfl
@[simp] theorem addRecord_guard (s : State) (r : HistRec) : (s.addRecord r).2.guard = s.guard := rfl
@[simp] theorem addRecord_modes (s : State) (r : HistRec) : (s.addRecord r).2.modes = s.modes := rfl
@[simp] theorem addRecord_store (s : State) (r : HistRec) : (s.addRecord r).2.store = s.store := rfl
@[simp] theorem addRecord_counters (s : State) (r : HistRec) : (s.addRecord r).2.counters = s.counters := rfl
@[simp] theorem addRecord_ms (s : State) (r : HistRec) : (s.addRecord r).2.ms = s.ms := rfl
@[simp] theorem addRecord_inReset (s : State) (r : HistRec) : (s.addRecord r).2.inReset = s.inReset := rfl
@[simp] theorem addRecord_nextId (s : State) (r : HistRec) : (s.addRecord r).2.nextId = s.nextId + 1 := rfl
@[simp] theorem addRecord_nextFree (s : State) (r : HistRec) : (s.addRecord r).2.nextFree = s.nextFree := rfl
@[simp] theorem addRecord_todo (s : State) (r : HistRec) : (s.addRecord r).2.todo = s.todo := rfl
@[simp] theorem addRecord_pending (s : State) (r : HistRec) : (s.addRecord r).2.pending = s.pending := rfl

/-! ### onStream -/

@[simp] theorem onStream_link (s : State) (i : Fin 16) (f : StreamCounters → StreamCounters) : (s.onStream i f).link = s.link := rfl
@[simp] theorem onStream_engine (s : State) (i : Fin 16) (f : StreamCounters → StreamCounters) : (s.onStream i f).engine = s.engine := rfl
@[simp] theorem onStream_map (s : State) (i : Fin 16) (f : StreamCounters → StreamCounters) : (s.onStream i f).map = s.map := rfl
@[simp] theorem onStream_ports (s : State) (i : Fin 16) (f : StreamCounters → StreamCounters) : (s.onStream i f).ports = s.ports := rfl
@[simp] theorem onStream_health (s : State) (i : Fin 16) (f : StreamCounters → StreamCounters) : (s.onStream i f).health = s.health := rfl
@[simp] theorem onStream_scan (s : State) (i : Fin 16) (f : StreamCounters → StreamCounters) : (s.onStream i f).scan = s.scan := rfl
@[simp] theorem onStream_log (s : State) (i : Fin 16) (f : StreamCounters → StreamCounters) : (s.onStream i f).log = s.log := rfl
@[simp] theorem onStream_mgmt (s : State) (i : Fin 16) (f : StreamCounters → StreamCounters) : (s.onStream i f).mgmt = s.mgmt := rfl
@[simp] theorem onStream_guard (s : State) (i : Fin 16) (f : StreamCounters → StreamCounters) : (s.onStream i f).guard = s.guard := rfl
@[simp] theorem onStream_modes (s : State) (i : Fin 16) (f : StreamCounters → StreamCounters) : (s.onStream i f).modes = s.modes := rfl
@[simp] theorem onStream_store (s : State) (i : Fin 16) (f : StreamCounters → StreamCounters) : (s.onStream i f).store = s.store := rfl
@[simp] theorem onStream_counters (s : State) (i : Fin 16) (f : StreamCounters → StreamCounters) : (s.onStream i f).counters = { s.counters with streams := s.counters.streams.set i (f s.counters.streams[i]) } := rfl
@[simp] theorem onStream_ms (s : State) (i : Fin 16) (f : StreamCounters → StreamCounters) : (s.onStream i f).ms = s.ms := rfl
@[simp] theorem onStream_inReset (s : State) (i : Fin 16) (f : StreamCounters → StreamCounters) : (s.onStream i f).inReset = s.inReset := rfl
@[simp] theorem onStream_nextId (s : State) (i : Fin 16) (f : StreamCounters → StreamCounters) : (s.onStream i f).nextId = s.nextId := rfl
@[simp] theorem onStream_nextFree (s : State) (i : Fin 16) (f : StreamCounters → StreamCounters) : (s.onStream i f).nextFree = s.nextFree := rfl
@[simp] theorem onStream_todo (s : State) (i : Fin 16) (f : StreamCounters → StreamCounters) : (s.onStream i f).todo = s.todo := rfl
@[simp] theorem onStream_pending (s : State) (i : Fin 16) (f : StreamCounters → StreamCounters) : (s.onStream i f).pending = s.pending := rfl

/-! ### onUnitCounters -/

@[simp] theorem onUnitCounters_link (s : State) (u : Fin 4) (f : UnitCounters → UnitCounters) : (s.onUnitCounters u f).link = s.link := rfl
@[simp] theorem onUnitCounters_engine (s : State) (u : Fin 4) (f : UnitCounters → UnitCounters) : (s.onUnitCounters u f).engine = s.engine := rfl
@[simp] theorem onUnitCounters_map (s : State) (u : Fin 4) (f : UnitCounters → UnitCounters) : (s.onUnitCounters u f).map = s.map := rfl
@[simp] theorem onUnitCounters_ports (s : State) (u : Fin 4) (f : UnitCounters → UnitCounters) : (s.onUnitCounters u f).ports = s.ports := rfl
@[simp] theorem onUnitCounters_health (s : State) (u : Fin 4) (f : UnitCounters → UnitCounters) : (s.onUnitCounters u f).health = s.health := rfl
@[simp] theorem onUnitCounters_scan (s : State) (u : Fin 4) (f : UnitCounters → UnitCounters) : (s.onUnitCounters u f).scan = s.scan := rfl
@[simp] theorem onUnitCounters_log (s : State) (u : Fin 4) (f : UnitCounters → UnitCounters) : (s.onUnitCounters u f).log = s.log := rfl
@[simp] theorem onUnitCounters_mgmt (s : State) (u : Fin 4) (f : UnitCounters → UnitCounters) : (s.onUnitCounters u f).mgmt = s.mgmt := rfl
@[simp] theorem onUnitCounters_guard (s : State) (u : Fin 4) (f : UnitCounters → UnitCounters) : (s.onUnitCounters u f).guard = s.guard := rfl
@[simp] theorem onUnitCounters_modes (s : State) (u : Fin 4) (f : UnitCounters → UnitCounters) : (s.onUnitCounters u f).modes = s.modes := rfl
@[simp] theorem onUnitCounters_store (s : State) (u : Fin 4) (f : UnitCounters → UnitCounters) : (s.onUnitCounters u f).store = s.store := rfl
@[simp] theorem onUnitCounters_counters (s : State) (u : Fin 4) (f : UnitCounters → UnitCounters) : (s.onUnitCounters u f).counters = { s.counters with units := s.counters.units.set u (f (s.counters.units.get u)) } := rfl
@[simp] theorem onUnitCounters_ms (s : State) (u : Fin 4) (f : UnitCounters → UnitCounters) : (s.onUnitCounters u f).ms = s.ms := rfl
@[simp] theorem onUnitCounters_inReset (s : State) (u : Fin 4) (f : UnitCounters → UnitCounters) : (s.onUnitCounters u f).inReset = s.inReset := rfl
@[simp] theorem onUnitCounters_nextId (s : State) (u : Fin 4) (f : UnitCounters → UnitCounters) : (s.onUnitCounters u f).nextId = s.nextId := rfl
@[simp] theorem onUnitCounters_nextFree (s : State) (u : Fin 4) (f : UnitCounters → UnitCounters) : (s.onUnitCounters u f).nextFree = s.nextFree := rfl
@[simp] theorem onUnitCounters_todo (s : State) (u : Fin 4) (f : UnitCounters → UnitCounters) : (s.onUnitCounters u f).todo = s.todo := rfl
@[simp] theorem onUnitCounters_pending (s : State) (u : Fin 4) (f : UnitCounters → UnitCounters) : (s.onUnitCounters u f).pending = s.pending := rfl

/-! ### onLinkCounters -/

@[simp] theorem onLinkCounters_link (s : State) (f : LinkCounters → LinkCounters) : (s.onLinkCounters f).link = s.link := rfl
@[simp] theorem onLinkCounters_engine (s : State) (f : LinkCounters → LinkCounters) : (s.onLinkCounters f).engine = s.engine := rfl
@[simp] theorem onLinkCounters_map (s : State) (f : LinkCounters → LinkCounters) : (s.onLinkCounters f).map = s.map := rfl
@[simp] theorem onLinkCounters_ports (s : State) (f : LinkCounters → LinkCounters) : (s.onLinkCounters f).ports = s.ports := rfl
@[simp] theorem onLinkCounters_health (s : State) (f : LinkCounters → LinkCounters) : (s.onLinkCounters f).health = s.health := rfl
@[simp] theorem onLinkCounters_scan (s : State) (f : LinkCounters → LinkCounters) : (s.onLinkCounters f).scan = s.scan := rfl
@[simp] theorem onLinkCounters_log (s : State) (f : LinkCounters → LinkCounters) : (s.onLinkCounters f).log = s.log := rfl
@[simp] theorem onLinkCounters_mgmt (s : State) (f : LinkCounters → LinkCounters) : (s.onLinkCounters f).mgmt = s.mgmt := rfl
@[simp] theorem onLinkCounters_guard (s : State) (f : LinkCounters → LinkCounters) : (s.onLinkCounters f).guard = s.guard := rfl
@[simp] theorem onLinkCounters_modes (s : State) (f : LinkCounters → LinkCounters) : (s.onLinkCounters f).modes = s.modes := rfl
@[simp] theorem onLinkCounters_store (s : State) (f : LinkCounters → LinkCounters) : (s.onLinkCounters f).store = s.store := rfl
@[simp] theorem onLinkCounters_counters (s : State) (f : LinkCounters → LinkCounters) : (s.onLinkCounters f).counters = { s.counters with link := f s.counters.link } := rfl
@[simp] theorem onLinkCounters_ms (s : State) (f : LinkCounters → LinkCounters) : (s.onLinkCounters f).ms = s.ms := rfl
@[simp] theorem onLinkCounters_inReset (s : State) (f : LinkCounters → LinkCounters) : (s.onLinkCounters f).inReset = s.inReset := rfl
@[simp] theorem onLinkCounters_nextId (s : State) (f : LinkCounters → LinkCounters) : (s.onLinkCounters f).nextId = s.nextId := rfl
@[simp] theorem onLinkCounters_nextFree (s : State) (f : LinkCounters → LinkCounters) : (s.onLinkCounters f).nextFree = s.nextFree := rfl
@[simp] theorem onLinkCounters_todo (s : State) (f : LinkCounters → LinkCounters) : (s.onLinkCounters f).todo = s.todo := rfl
@[simp] theorem onLinkCounters_pending (s : State) (f : LinkCounters → LinkCounters) : (s.onLinkCounters f).pending = s.pending := rfl

/-! ### send -/

@[simp] theorem send_link (s : State) (f : HostFrame) : (s.send f).link = { s.link with sent := s.link.sent ++ [f] } := rfl
@[simp] theorem send_engine (s : State) (f : HostFrame) : (s.send f).engine = s.engine := rfl
@[simp] theorem send_map (s : State) (f : HostFrame) : (s.send f).map = s.map := rfl
@[simp] theorem send_ports (s : State) (f : HostFrame) : (s.send f).ports = s.ports := rfl
@[simp] theorem send_health (s : State) (f : HostFrame) : (s.send f).health = s.health := rfl
@[simp] theorem send_scan (s : State) (f : HostFrame) : (s.send f).scan = s.scan := rfl
@[simp] theorem send_log (s : State) (f : HostFrame) : (s.send f).log = s.log := rfl
@[simp] theorem send_mgmt (s : State) (f : HostFrame) : (s.send f).mgmt = s.mgmt := rfl
@[simp] theorem send_guard (s : State) (f : HostFrame) : (s.send f).guard = s.guard := rfl
@[simp] theorem send_modes (s : State) (f : HostFrame) : (s.send f).modes = s.modes := rfl
@[simp] theorem send_store (s : State) (f : HostFrame) : (s.send f).store = s.store := rfl
@[simp] theorem send_counters (s : State) (f : HostFrame) : (s.send f).counters = s.counters := rfl
@[simp] theorem send_ms (s : State) (f : HostFrame) : (s.send f).ms = s.ms := rfl
@[simp] theorem send_inReset (s : State) (f : HostFrame) : (s.send f).inReset = s.inReset := rfl
@[simp] theorem send_nextId (s : State) (f : HostFrame) : (s.send f).nextId = s.nextId := rfl
@[simp] theorem send_nextFree (s : State) (f : HostFrame) : (s.send f).nextFree = s.nextFree := rfl
@[simp] theorem send_todo (s : State) (f : HostFrame) : (s.send f).todo = s.todo := rfl
@[simp] theorem send_pending (s : State) (f : HostFrame) : (s.send f).pending = s.pending := rfl

/-! ### setTag -/

@[simp] theorem setTag_link (s : State) (t : Fin 32) (x : TagUse) : (s.setTag t x).link = { s.link with tags := s.link.tags.set t x } := rfl
@[simp] theorem setTag_engine (s : State) (t : Fin 32) (x : TagUse) : (s.setTag t x).engine = s.engine := rfl
@[simp] theorem setTag_map (s : State) (t : Fin 32) (x : TagUse) : (s.setTag t x).map = s.map := rfl
@[simp] theorem setTag_ports (s : State) (t : Fin 32) (x : TagUse) : (s.setTag t x).ports = s.ports := rfl
@[simp] theorem setTag_health (s : State) (t : Fin 32) (x : TagUse) : (s.setTag t x).health = s.health := rfl
@[simp] theorem setTag_scan (s : State) (t : Fin 32) (x : TagUse) : (s.setTag t x).scan = s.scan := rfl
@[simp] theorem setTag_log (s : State) (t : Fin 32) (x : TagUse) : (s.setTag t x).log = s.log := rfl
@[simp] theorem setTag_mgmt (s : State) (t : Fin 32) (x : TagUse) : (s.setTag t x).mgmt = s.mgmt := rfl
@[simp] theorem setTag_guard (s : State) (t : Fin 32) (x : TagUse) : (s.setTag t x).guard = s.guard := rfl
@[simp] theorem setTag_modes (s : State) (t : Fin 32) (x : TagUse) : (s.setTag t x).modes = s.modes := rfl
@[simp] theorem setTag_store (s : State) (t : Fin 32) (x : TagUse) : (s.setTag t x).store = s.store := rfl
@[simp] theorem setTag_counters (s : State) (t : Fin 32) (x : TagUse) : (s.setTag t x).counters = s.counters := rfl
@[simp] theorem setTag_ms (s : State) (t : Fin 32) (x : TagUse) : (s.setTag t x).ms = s.ms := rfl
@[simp] theorem setTag_inReset (s : State) (t : Fin 32) (x : TagUse) : (s.setTag t x).inReset = s.inReset := rfl
@[simp] theorem setTag_nextId (s : State) (t : Fin 32) (x : TagUse) : (s.setTag t x).nextId = s.nextId := rfl
@[simp] theorem setTag_nextFree (s : State) (t : Fin 32) (x : TagUse) : (s.setTag t x).nextFree = s.nextFree := rfl
@[simp] theorem setTag_todo (s : State) (t : Fin 32) (x : TagUse) : (s.setTag t x).todo = s.todo := rfl
@[simp] theorem setTag_pending (s : State) (t : Fin 32) (x : TagUse) : (s.setTag t x).pending = s.pending := rfl

/-! ### stopIdle -/

@[simp] theorem stopIdle_link (s : State) : (s.stopIdle).link = s.link := rfl
@[simp] theorem stopIdle_engine (s : State) : (s.stopIdle).engine = s.engine := rfl
@[simp] theorem stopIdle_map (s : State) : (s.stopIdle).map = s.map := rfl
@[simp] theorem stopIdle_ports (s : State) : (s.stopIdle).ports = s.ports := rfl
@[simp] theorem stopIdle_health (s : State) : (s.stopIdle).health = s.health := rfl
@[simp] theorem stopIdle_scan (s : State) : (s.stopIdle).scan = s.scan := rfl
@[simp] theorem stopIdle_log (s : State) : (s.stopIdle).log = s.log := rfl
@[simp] theorem stopIdle_mgmt (s : State) : (s.stopIdle).mgmt = s.mgmt := rfl
@[simp] theorem stopIdle_guard (s : State) : (s.stopIdle).guard = s.guard := rfl
@[simp] theorem stopIdle_modes (s : State) : (s.stopIdle).modes = { s.modes with idle := .stopped } := rfl
@[simp] theorem stopIdle_store (s : State) : (s.stopIdle).store = s.store := rfl
@[simp] theorem stopIdle_counters (s : State) : (s.stopIdle).counters = s.counters := rfl
@[simp] theorem stopIdle_ms (s : State) : (s.stopIdle).ms = s.ms := rfl
@[simp] theorem stopIdle_inReset (s : State) : (s.stopIdle).inReset = s.inReset := rfl
@[simp] theorem stopIdle_nextId (s : State) : (s.stopIdle).nextId = s.nextId := rfl
@[simp] theorem stopIdle_nextFree (s : State) : (s.stopIdle).nextFree = s.nextFree := rfl
@[simp] theorem stopIdle_todo (s : State) : (s.stopIdle).todo = s.todo := rfl
@[simp] theorem stopIdle_pending (s : State) : (s.stopIdle).pending = s.pending := rfl

/-! ### freeTags -/

@[simp] theorem freeTags_link (s : State) : (s.freeTags).link = { s.link with tags := Vector.replicate 32 TagUse.free } := rfl
@[simp] theorem freeTags_engine (s : State) : (s.freeTags).engine = { s.engine with items := s.engine.items.map Item.orphaned } := rfl
@[simp] theorem freeTags_map (s : State) : (s.freeTags).map = s.map := rfl
@[simp] theorem freeTags_ports (s : State) : (s.freeTags).ports = s.ports := rfl
@[simp] theorem freeTags_health (s : State) : (s.freeTags).health = s.health := rfl
@[simp] theorem freeTags_scan (s : State) : (s.freeTags).scan = s.scan := rfl
@[simp] theorem freeTags_log (s : State) : (s.freeTags).log = s.log := rfl
@[simp] theorem freeTags_mgmt (s : State) : (s.freeTags).mgmt = { s.mgmt with windows := [], reads := [], taken := s.mgmt.taken.map fun t => { t with tag := none } } := rfl
@[simp] theorem freeTags_guard (s : State) : (s.freeTags).guard = s.guard := rfl
@[simp] theorem freeTags_modes (s : State) : (s.freeTags).modes = s.modes := rfl
@[simp] theorem freeTags_store (s : State) : (s.freeTags).store = s.store := rfl
@[simp] theorem freeTags_counters (s : State) : (s.freeTags).counters = s.counters := rfl
@[simp] theorem freeTags_ms (s : State) : (s.freeTags).ms = s.ms := rfl
@[simp] theorem freeTags_inReset (s : State) : (s.freeTags).inReset = s.inReset := rfl
@[simp] theorem freeTags_nextId (s : State) : (s.freeTags).nextId = s.nextId := rfl
@[simp] theorem freeTags_nextFree (s : State) : (s.freeTags).nextFree = s.nextFree := rfl
@[simp] theorem freeTags_todo (s : State) : (s.freeTags).todo = s.todo := rfl
@[simp] theorem freeTags_pending (s : State) : (s.freeTags).pending = s.pending := rfl

/-! ### endWindow -/

@[simp] theorem endWindow_link (s : State) (tag : Fin 32) : (s.endWindow tag).link = s.link := rfl
@[simp] theorem endWindow_engine (s : State) (tag : Fin 32) : (s.endWindow tag).engine = s.engine := rfl
@[simp] theorem endWindow_map (s : State) (tag : Fin 32) : (s.endWindow tag).map = s.map := rfl
@[simp] theorem endWindow_ports (s : State) (tag : Fin 32) : (s.endWindow tag).ports = s.ports := rfl
@[simp] theorem endWindow_health (s : State) (tag : Fin 32) : (s.endWindow tag).health = s.health := rfl
@[simp] theorem endWindow_scan (s : State) (tag : Fin 32) : (s.endWindow tag).scan = s.scan := rfl
@[simp] theorem endWindow_log (s : State) (tag : Fin 32) : (s.endWindow tag).log = s.log := rfl
@[simp] theorem endWindow_mgmt (s : State) (tag : Fin 32) : (s.endWindow tag).mgmt = { s.mgmt with windows := s.mgmt.windows.filter fun x => x.tag != tag } := rfl
@[simp] theorem endWindow_guard (s : State) (tag : Fin 32) : (s.endWindow tag).guard = s.guard := rfl
@[simp] theorem endWindow_modes (s : State) (tag : Fin 32) : (s.endWindow tag).modes = s.modes := rfl
@[simp] theorem endWindow_store (s : State) (tag : Fin 32) : (s.endWindow tag).store = s.store := rfl
@[simp] theorem endWindow_counters (s : State) (tag : Fin 32) : (s.endWindow tag).counters = s.counters := rfl
@[simp] theorem endWindow_ms (s : State) (tag : Fin 32) : (s.endWindow tag).ms = s.ms := rfl
@[simp] theorem endWindow_inReset (s : State) (tag : Fin 32) : (s.endWindow tag).inReset = s.inReset := rfl
@[simp] theorem endWindow_nextId (s : State) (tag : Fin 32) : (s.endWindow tag).nextId = s.nextId := rfl
@[simp] theorem endWindow_nextFree (s : State) (tag : Fin 32) : (s.endWindow tag).nextFree = s.nextFree := rfl
@[simp] theorem endWindow_todo (s : State) (tag : Fin 32) : (s.endWindow tag).todo = s.todo := rfl
@[simp] theorem endWindow_pending (s : State) (tag : Fin 32) : (s.endWindow tag).pending = s.pending := rfl

/-! ### removeReloc -/

@[simp] theorem removeReloc_link (s : State) (id : Nat) : (s.removeReloc id).link = s.link := rfl
@[simp] theorem removeReloc_engine (s : State) (id : Nat) : (s.removeReloc id).engine = { s.engine with items := s.engine.items.filter fun i => i.request?.isSome || i.id != id } := rfl
@[simp] theorem removeReloc_map (s : State) (id : Nat) : (s.removeReloc id).map = s.map := rfl
@[simp] theorem removeReloc_ports (s : State) (id : Nat) : (s.removeReloc id).ports = s.ports := rfl
@[simp] theorem removeReloc_health (s : State) (id : Nat) : (s.removeReloc id).health = s.health := rfl
@[simp] theorem removeReloc_scan (s : State) (id : Nat) : (s.removeReloc id).scan = s.scan := rfl
@[simp] theorem removeReloc_log (s : State) (id : Nat) : (s.removeReloc id).log = s.log := rfl
@[simp] theorem removeReloc_mgmt (s : State) (id : Nat) : (s.removeReloc id).mgmt = s.mgmt := rfl
@[simp] theorem removeReloc_guard (s : State) (id : Nat) : (s.removeReloc id).guard = s.guard := rfl
@[simp] theorem removeReloc_modes (s : State) (id : Nat) : (s.removeReloc id).modes = s.modes := rfl
@[simp] theorem removeReloc_store (s : State) (id : Nat) : (s.removeReloc id).store = s.store := rfl
@[simp] theorem removeReloc_counters (s : State) (id : Nat) : (s.removeReloc id).counters = s.counters := rfl
@[simp] theorem removeReloc_ms (s : State) (id : Nat) : (s.removeReloc id).ms = s.ms := rfl
@[simp] theorem removeReloc_inReset (s : State) (id : Nat) : (s.removeReloc id).inReset = s.inReset := rfl
@[simp] theorem removeReloc_nextId (s : State) (id : Nat) : (s.removeReloc id).nextId = s.nextId := rfl
@[simp] theorem removeReloc_nextFree (s : State) (id : Nat) : (s.removeReloc id).nextFree = s.nextFree := rfl
@[simp] theorem removeReloc_todo (s : State) (id : Nat) : (s.removeReloc id).todo = s.todo := rfl
@[simp] theorem removeReloc_pending (s : State) (id : Nat) : (s.removeReloc id).pending = s.pending := rfl

/-! ### onRequest -/

@[simp] theorem onRequest_link (s : State) (id : Nat) (f : Request → Request) : (s.onRequest id f).link = s.link := rfl
@[simp] theorem onRequest_map (s : State) (id : Nat) (f : Request → Request) : (s.onRequest id f).map = s.map := rfl
@[simp] theorem onRequest_ports (s : State) (id : Nat) (f : Request → Request) : (s.onRequest id f).ports = s.ports := rfl
@[simp] theorem onRequest_health (s : State) (id : Nat) (f : Request → Request) : (s.onRequest id f).health = s.health := rfl
@[simp] theorem onRequest_scan (s : State) (id : Nat) (f : Request → Request) : (s.onRequest id f).scan = s.scan := rfl
@[simp] theorem onRequest_log (s : State) (id : Nat) (f : Request → Request) : (s.onRequest id f).log = s.log := rfl
@[simp] theorem onRequest_mgmt (s : State) (id : Nat) (f : Request → Request) : (s.onRequest id f).mgmt = s.mgmt := rfl
@[simp] theorem onRequest_guard (s : State) (id : Nat) (f : Request → Request) : (s.onRequest id f).guard = s.guard := rfl
@[simp] theorem onRequest_modes (s : State) (id : Nat) (f : Request → Request) : (s.onRequest id f).modes = s.modes := rfl
@[simp] theorem onRequest_store (s : State) (id : Nat) (f : Request → Request) : (s.onRequest id f).store = s.store := rfl
@[simp] theorem onRequest_counters (s : State) (id : Nat) (f : Request → Request) : (s.onRequest id f).counters = s.counters := rfl
@[simp] theorem onRequest_ms (s : State) (id : Nat) (f : Request → Request) : (s.onRequest id f).ms = s.ms := rfl
@[simp] theorem onRequest_inReset (s : State) (id : Nat) (f : Request → Request) : (s.onRequest id f).inReset = s.inReset := rfl
@[simp] theorem onRequest_nextId (s : State) (id : Nat) (f : Request → Request) : (s.onRequest id f).nextId = s.nextId := rfl
@[simp] theorem onRequest_nextFree (s : State) (id : Nat) (f : Request → Request) : (s.onRequest id f).nextFree = s.nextFree := rfl
@[simp] theorem onRequest_todo (s : State) (id : Nat) (f : Request → Request) : (s.onRequest id f).todo = s.todo := rfl
@[simp] theorem onRequest_pending (s : State) (id : Nat) (f : Request → Request) : (s.onRequest id f).pending = s.pending := rfl

/-! ### addItem -/

@[simp] theorem addItem_link (s : State) (i : Item) : (s.addItem i).link = s.link := rfl
@[simp] theorem addItem_engine (s : State) (i : Item) : (s.addItem i).engine = { s.engine with items := s.engine.items ++ [i] } := rfl
@[simp] theorem addItem_map (s : State) (i : Item) : (s.addItem i).map = s.map := rfl
@[simp] theorem addItem_ports (s : State) (i : Item) : (s.addItem i).ports = s.ports := rfl
@[simp] theorem addItem_health (s : State) (i : Item) : (s.addItem i).health = s.health := rfl
@[simp] theorem addItem_scan (s : State) (i : Item) : (s.addItem i).scan = s.scan := rfl
@[simp] theorem addItem_log (s : State) (i : Item) : (s.addItem i).log = s.log := rfl
@[simp] theorem addItem_mgmt (s : State) (i : Item) : (s.addItem i).mgmt = s.mgmt := rfl
@[simp] theorem addItem_guard (s : State) (i : Item) : (s.addItem i).guard = s.guard := rfl
@[simp] theorem addItem_modes (s : State) (i : Item) : (s.addItem i).modes = { s.modes with idle := .stopped } := rfl
@[simp] theorem addItem_store (s : State) (i : Item) : (s.addItem i).store = s.store := rfl
@[simp] theorem addItem_counters (s : State) (i : Item) : (s.addItem i).counters = s.counters := rfl
@[simp] theorem addItem_ms (s : State) (i : Item) : (s.addItem i).ms = s.ms := rfl
@[simp] theorem addItem_inReset (s : State) (i : Item) : (s.addItem i).inReset = s.inReset := rfl
@[simp] theorem addItem_nextId (s : State) (i : Item) : (s.addItem i).nextId = s.nextId := rfl
@[simp] theorem addItem_nextFree (s : State) (i : Item) : (s.addItem i).nextFree = s.nextFree := rfl
@[simp] theorem addItem_todo (s : State) (i : Item) : (s.addItem i).todo = s.todo := rfl
@[simp] theorem addItem_pending (s : State) (i : Item) : (s.addItem i).pending = s.pending := rfl

/-! ### onPort -/

@[simp] theorem onPort_link (s : State) (u : Fin 4) (f : Port → Port) : (s.onPort u f).link = s.link := rfl
@[simp] theorem onPort_engine (s : State) (u : Fin 4) (f : Port → Port) : (s.onPort u f).engine = s.engine := rfl
@[simp] theorem onPort_map (s : State) (u : Fin 4) (f : Port → Port) : (s.onPort u f).map = s.map := rfl
@[simp] theorem onPort_ports (s : State) (u : Fin 4) (f : Port → Port) : (s.onPort u f).ports = s.ports.set u (f (s.ports.get u)) := rfl
@[simp] theorem onPort_health (s : State) (u : Fin 4) (f : Port → Port) : (s.onPort u f).health = s.health := rfl
@[simp] theorem onPort_scan (s : State) (u : Fin 4) (f : Port → Port) : (s.onPort u f).scan = s.scan := rfl
@[simp] theorem onPort_log (s : State) (u : Fin 4) (f : Port → Port) : (s.onPort u f).log = s.log := rfl
@[simp] theorem onPort_mgmt (s : State) (u : Fin 4) (f : Port → Port) : (s.onPort u f).mgmt = s.mgmt := rfl
@[simp] theorem onPort_guard (s : State) (u : Fin 4) (f : Port → Port) : (s.onPort u f).guard = s.guard := rfl
@[simp] theorem onPort_modes (s : State) (u : Fin 4) (f : Port → Port) : (s.onPort u f).modes = s.modes := rfl
@[simp] theorem onPort_store (s : State) (u : Fin 4) (f : Port → Port) : (s.onPort u f).store = s.store := rfl
@[simp] theorem onPort_counters (s : State) (u : Fin 4) (f : Port → Port) : (s.onPort u f).counters = s.counters := rfl
@[simp] theorem onPort_ms (s : State) (u : Fin 4) (f : Port → Port) : (s.onPort u f).ms = s.ms := rfl
@[simp] theorem onPort_inReset (s : State) (u : Fin 4) (f : Port → Port) : (s.onPort u f).inReset = s.inReset := rfl
@[simp] theorem onPort_nextId (s : State) (u : Fin 4) (f : Port → Port) : (s.onPort u f).nextId = s.nextId := rfl
@[simp] theorem onPort_nextFree (s : State) (u : Fin 4) (f : Port → Port) : (s.onPort u f).nextFree = s.nextFree := rfl
@[simp] theorem onPort_todo (s : State) (u : Fin 4) (f : Port → Port) : (s.onPort u f).todo = s.todo := rfl
@[simp] theorem onPort_pending (s : State) (u : Fin 4) (f : Port → Port) : (s.onPort u f).pending = s.pending := rfl

/-! ### later -/

@[simp] theorem later_link (s : State) (w : Work) : (s.later w).link = s.link := rfl
@[simp] theorem later_engine (s : State) (w : Work) : (s.later w).engine = s.engine := rfl
@[simp] theorem later_map (s : State) (w : Work) : (s.later w).map = s.map := rfl
@[simp] theorem later_ports (s : State) (w : Work) : (s.later w).ports = s.ports := rfl
@[simp] theorem later_health (s : State) (w : Work) : (s.later w).health = s.health := rfl
@[simp] theorem later_scan (s : State) (w : Work) : (s.later w).scan = s.scan := rfl
@[simp] theorem later_log (s : State) (w : Work) : (s.later w).log = s.log := rfl
@[simp] theorem later_mgmt (s : State) (w : Work) : (s.later w).mgmt = s.mgmt := rfl
@[simp] theorem later_guard (s : State) (w : Work) : (s.later w).guard = s.guard := rfl
@[simp] theorem later_modes (s : State) (w : Work) : (s.later w).modes = s.modes := rfl
@[simp] theorem later_store (s : State) (w : Work) : (s.later w).store = s.store := rfl
@[simp] theorem later_counters (s : State) (w : Work) : (s.later w).counters = s.counters := rfl
@[simp] theorem later_ms (s : State) (w : Work) : (s.later w).ms = s.ms := rfl
@[simp] theorem later_inReset (s : State) (w : Work) : (s.later w).inReset = s.inReset := rfl
@[simp] theorem later_nextId (s : State) (w : Work) : (s.later w).nextId = s.nextId := rfl
@[simp] theorem later_nextFree (s : State) (w : Work) : (s.later w).nextFree = s.nextFree := rfl
@[simp] theorem later_todo (s : State) (w : Work) : (s.later w).todo = s.todo ++ [w] := rfl
@[simp] theorem later_pending (s : State) (w : Work) : (s.later w).pending = s.pending := rfl

/-! ### onModes -/

@[simp] theorem onModes_link (s : State) (f : ModeController → ModeController) : (s.onModes f).link = s.link := rfl
@[simp] theorem onModes_engine (s : State) (f : ModeController → ModeController) : (s.onModes f).engine = s.engine := rfl
@[simp] theorem onModes_map (s : State) (f : ModeController → ModeController) : (s.onModes f).map = s.map := rfl
@[simp] theorem onModes_ports (s : State) (f : ModeController → ModeController) : (s.onModes f).ports = s.ports := rfl
@[simp] theorem onModes_health (s : State) (f : ModeController → ModeController) : (s.onModes f).health = s.health := rfl
@[simp] theorem onModes_scan (s : State) (f : ModeController → ModeController) : (s.onModes f).scan = s.scan := rfl
@[simp] theorem onModes_log (s : State) (f : ModeController → ModeController) : (s.onModes f).log = s.log := rfl
@[simp] theorem onModes_mgmt (s : State) (f : ModeController → ModeController) : (s.onModes f).mgmt = s.mgmt := rfl
@[simp] theorem onModes_guard (s : State) (f : ModeController → ModeController) : (s.onModes f).guard = s.guard := rfl
@[simp] theorem onModes_modes (s : State) (f : ModeController → ModeController) : (s.onModes f).modes = f s.modes := rfl
@[simp] theorem onModes_store (s : State) (f : ModeController → ModeController) : (s.onModes f).store = s.store := rfl
@[simp] theorem onModes_counters (s : State) (f : ModeController → ModeController) : (s.onModes f).counters = s.counters := rfl
@[simp] theorem onModes_ms (s : State) (f : ModeController → ModeController) : (s.onModes f).ms = s.ms := rfl
@[simp] theorem onModes_inReset (s : State) (f : ModeController → ModeController) : (s.onModes f).inReset = s.inReset := rfl
@[simp] theorem onModes_nextId (s : State) (f : ModeController → ModeController) : (s.onModes f).nextId = s.nextId := rfl
@[simp] theorem onModes_nextFree (s : State) (f : ModeController → ModeController) : (s.onModes f).nextFree = s.nextFree := rfl
@[simp] theorem onModes_todo (s : State) (f : ModeController → ModeController) : (s.onModes f).todo = s.todo := rfl
@[simp] theorem onModes_pending (s : State) (f : ModeController → ModeController) : (s.onModes f).pending = s.pending := rfl

/-! ### onStore -/

@[simp] theorem onStore_link (s : State) (f : StoreController → StoreController) : (s.onStore f).link = s.link := rfl
@[simp] theorem onStore_engine (s : State) (f : StoreController → StoreController) : (s.onStore f).engine = s.engine := rfl
@[simp] theorem onStore_map (s : State) (f : StoreController → StoreController) : (s.onStore f).map = s.map := rfl
@[simp] theorem onStore_ports (s : State) (f : StoreController → StoreController) : (s.onStore f).ports = s.ports := rfl
@[simp] theorem onStore_health (s : State) (f : StoreController → StoreController) : (s.onStore f).health = s.health := rfl
@[simp] theorem onStore_scan (s : State) (f : StoreController → StoreController) : (s.onStore f).scan = s.scan := rfl
@[simp] theorem onStore_log (s : State) (f : StoreController → StoreController) : (s.onStore f).log = s.log := rfl
@[simp] theorem onStore_mgmt (s : State) (f : StoreController → StoreController) : (s.onStore f).mgmt = s.mgmt := rfl
@[simp] theorem onStore_guard (s : State) (f : StoreController → StoreController) : (s.onStore f).guard = s.guard := rfl
@[simp] theorem onStore_modes (s : State) (f : StoreController → StoreController) : (s.onStore f).modes = s.modes := rfl
@[simp] theorem onStore_store (s : State) (f : StoreController → StoreController) : (s.onStore f).store = f s.store := rfl
@[simp] theorem onStore_counters (s : State) (f : StoreController → StoreController) : (s.onStore f).counters = s.counters := rfl
@[simp] theorem onStore_ms (s : State) (f : StoreController → StoreController) : (s.onStore f).ms = s.ms := rfl
@[simp] theorem onStore_inReset (s : State) (f : StoreController → StoreController) : (s.onStore f).inReset = s.inReset := rfl
@[simp] theorem onStore_nextId (s : State) (f : StoreController → StoreController) : (s.onStore f).nextId = s.nextId := rfl
@[simp] theorem onStore_nextFree (s : State) (f : StoreController → StoreController) : (s.onStore f).nextFree = s.nextFree := rfl
@[simp] theorem onStore_todo (s : State) (f : StoreController → StoreController) : (s.onStore f).todo = s.todo := rfl
@[simp] theorem onStore_pending (s : State) (f : StoreController → StoreController) : (s.onStore f).pending = s.pending := rfl

/-! ### onGuard -/

@[simp] theorem onGuard_link (s : State) (f : GuardUnit → GuardUnit) : (s.onGuard f).link = s.link := rfl
@[simp] theorem onGuard_engine (s : State) (f : GuardUnit → GuardUnit) : (s.onGuard f).engine = s.engine := rfl
@[simp] theorem onGuard_map (s : State) (f : GuardUnit → GuardUnit) : (s.onGuard f).map = s.map := rfl
@[simp] theorem onGuard_ports (s : State) (f : GuardUnit → GuardUnit) : (s.onGuard f).ports = s.ports := rfl
@[simp] theorem onGuard_health (s : State) (f : GuardUnit → GuardUnit) : (s.onGuard f).health = s.health := rfl
@[simp] theorem onGuard_scan (s : State) (f : GuardUnit → GuardUnit) : (s.onGuard f).scan = s.scan := rfl
@[simp] theorem onGuard_log (s : State) (f : GuardUnit → GuardUnit) : (s.onGuard f).log = s.log := rfl
@[simp] theorem onGuard_mgmt (s : State) (f : GuardUnit → GuardUnit) : (s.onGuard f).mgmt = s.mgmt := rfl
@[simp] theorem onGuard_guard (s : State) (f : GuardUnit → GuardUnit) : (s.onGuard f).guard = f s.guard := rfl
@[simp] theorem onGuard_modes (s : State) (f : GuardUnit → GuardUnit) : (s.onGuard f).modes = s.modes := rfl
@[simp] theorem onGuard_store (s : State) (f : GuardUnit → GuardUnit) : (s.onGuard f).store = s.store := rfl
@[simp] theorem onGuard_counters (s : State) (f : GuardUnit → GuardUnit) : (s.onGuard f).counters = s.counters := rfl
@[simp] theorem onGuard_ms (s : State) (f : GuardUnit → GuardUnit) : (s.onGuard f).ms = s.ms := rfl
@[simp] theorem onGuard_inReset (s : State) (f : GuardUnit → GuardUnit) : (s.onGuard f).inReset = s.inReset := rfl
@[simp] theorem onGuard_nextId (s : State) (f : GuardUnit → GuardUnit) : (s.onGuard f).nextId = s.nextId := rfl
@[simp] theorem onGuard_nextFree (s : State) (f : GuardUnit → GuardUnit) : (s.onGuard f).nextFree = s.nextFree := rfl
@[simp] theorem onGuard_todo (s : State) (f : GuardUnit → GuardUnit) : (s.onGuard f).todo = s.todo := rfl
@[simp] theorem onGuard_pending (s : State) (f : GuardUnit → GuardUnit) : (s.onGuard f).pending = s.pending := rfl

/-! ### onErase -/

@[simp] theorem onErase_link (s : State) (f : EraseRecord → EraseRecord) : (s.onErase f).link = s.link := rfl
@[simp] theorem onErase_engine (s : State) (f : EraseRecord → EraseRecord) : (s.onErase f).engine = s.engine := rfl
@[simp] theorem onErase_map (s : State) (f : EraseRecord → EraseRecord) : (s.onErase f).map = s.map := rfl
@[simp] theorem onErase_ports (s : State) (f : EraseRecord → EraseRecord) : (s.onErase f).ports = s.ports := rfl
@[simp] theorem onErase_health (s : State) (f : EraseRecord → EraseRecord) : (s.onErase f).health = s.health := rfl
@[simp] theorem onErase_scan (s : State) (f : EraseRecord → EraseRecord) : (s.onErase f).scan = s.scan := rfl
@[simp] theorem onErase_log (s : State) (f : EraseRecord → EraseRecord) : (s.onErase f).log = s.log := rfl
@[simp] theorem onErase_mgmt (s : State) (f : EraseRecord → EraseRecord) : (s.onErase f).mgmt = s.mgmt := rfl
@[simp] theorem onErase_guard (s : State) (f : EraseRecord → EraseRecord) : (s.onErase f).guard = { s.guard with erase := s.guard.erase.map f } := rfl
@[simp] theorem onErase_modes (s : State) (f : EraseRecord → EraseRecord) : (s.onErase f).modes = s.modes := rfl
@[simp] theorem onErase_store (s : State) (f : EraseRecord → EraseRecord) : (s.onErase f).store = s.store := rfl
@[simp] theorem onErase_counters (s : State) (f : EraseRecord → EraseRecord) : (s.onErase f).counters = s.counters := rfl
@[simp] theorem onErase_ms (s : State) (f : EraseRecord → EraseRecord) : (s.onErase f).ms = s.ms := rfl
@[simp] theorem onErase_inReset (s : State) (f : EraseRecord → EraseRecord) : (s.onErase f).inReset = s.inReset := rfl
@[simp] theorem onErase_nextId (s : State) (f : EraseRecord → EraseRecord) : (s.onErase f).nextId = s.nextId := rfl
@[simp] theorem onErase_nextFree (s : State) (f : EraseRecord → EraseRecord) : (s.onErase f).nextFree = s.nextFree := rfl
@[simp] theorem onErase_todo (s : State) (f : EraseRecord → EraseRecord) : (s.onErase f).todo = s.todo := rfl
@[simp] theorem onErase_pending (s : State) (f : EraseRecord → EraseRecord) : (s.onErase f).pending = s.pending := rfl

/-! ### countMismatch -/

@[simp] theorem countMismatch_link (s : State) : (s.countMismatch).link = s.link := rfl
@[simp] theorem countMismatch_engine (s : State) : (s.countMismatch).engine = s.engine := rfl
@[simp] theorem countMismatch_map (s : State) : (s.countMismatch).map = s.map := rfl
@[simp] theorem countMismatch_ports (s : State) : (s.countMismatch).ports = s.ports := rfl
@[simp] theorem countMismatch_health (s : State) : (s.countMismatch).health = s.health := rfl
@[simp] theorem countMismatch_scan (s : State) : (s.countMismatch).scan = s.scan := rfl
@[simp] theorem countMismatch_log (s : State) : (s.countMismatch).log = s.log := rfl
@[simp] theorem countMismatch_mgmt (s : State) : (s.countMismatch).mgmt = s.mgmt := rfl
@[simp] theorem countMismatch_guard (s : State) : (s.countMismatch).guard = { s.guard with failed := satAdd 5 1 s.guard.failed } := rfl
@[simp] theorem countMismatch_modes (s : State) : (s.countMismatch).modes = s.modes := rfl
@[simp] theorem countMismatch_store (s : State) : (s.countMismatch).store = s.store := rfl
@[simp] theorem countMismatch_counters (s : State) : (s.countMismatch).counters = s.counters := rfl
@[simp] theorem countMismatch_ms (s : State) : (s.countMismatch).ms = s.ms := rfl
@[simp] theorem countMismatch_inReset (s : State) : (s.countMismatch).inReset = s.inReset := rfl
@[simp] theorem countMismatch_nextId (s : State) : (s.countMismatch).nextId = s.nextId := rfl
@[simp] theorem countMismatch_nextFree (s : State) : (s.countMismatch).nextFree = s.nextFree := rfl
@[simp] theorem countMismatch_todo (s : State) : (s.countMismatch).todo = s.todo := rfl
@[simp] theorem countMismatch_pending (s : State) : (s.countMismatch).pending = s.pending := rfl

/-! ### setScan -/

@[simp] theorem setScan_link (s : State) (c : ScanContext) : (s.setScan c).link = s.link := rfl
@[simp] theorem setScan_engine (s : State) (c : ScanContext) : (s.setScan c).engine = s.engine := rfl
@[simp] theorem setScan_map (s : State) (c : ScanContext) : (s.setScan c).map = s.map := rfl
@[simp] theorem setScan_ports (s : State) (c : ScanContext) : (s.setScan c).ports = s.ports := rfl
@[simp] theorem setScan_health (s : State) (c : ScanContext) : (s.setScan c).health = s.health := rfl
@[simp] theorem setScan_scan (s : State) (c : ScanContext) : (s.setScan c).scan = { s.scan with context := s.scan.context.map fun _ => c } := rfl
@[simp] theorem setScan_log (s : State) (c : ScanContext) : (s.setScan c).log = s.log := rfl
@[simp] theorem setScan_mgmt (s : State) (c : ScanContext) : (s.setScan c).mgmt = s.mgmt := rfl
@[simp] theorem setScan_guard (s : State) (c : ScanContext) : (s.setScan c).guard = s.guard := rfl
@[simp] theorem setScan_modes (s : State) (c : ScanContext) : (s.setScan c).modes = s.modes := rfl
@[simp] theorem setScan_store (s : State) (c : ScanContext) : (s.setScan c).store = s.store := rfl
@[simp] theorem setScan_counters (s : State) (c : ScanContext) : (s.setScan c).counters = s.counters := rfl
@[simp] theorem setScan_ms (s : State) (c : ScanContext) : (s.setScan c).ms = s.ms := rfl
@[simp] theorem setScan_inReset (s : State) (c : ScanContext) : (s.setScan c).inReset = s.inReset := rfl
@[simp] theorem setScan_nextId (s : State) (c : ScanContext) : (s.setScan c).nextId = s.nextId := rfl
@[simp] theorem setScan_nextFree (s : State) (c : ScanContext) : (s.setScan c).nextFree = s.nextFree := rfl
@[simp] theorem setScan_todo (s : State) (c : ScanContext) : (s.setScan c).todo = s.todo := rfl
@[simp] theorem setScan_pending (s : State) (c : ScanContext) : (s.setScan c).pending = s.pending := rfl

/-! ### clearEvents -/

@[simp] theorem clearEvents_link (s : State) : (s.clearEvents).link = s.link := rfl
@[simp] theorem clearEvents_engine (s : State) : (s.clearEvents).engine = s.engine := rfl
@[simp] theorem clearEvents_map (s : State) : (s.clearEvents).map = s.map := rfl
@[simp] theorem clearEvents_ports (s : State) : (s.clearEvents).ports = s.ports := rfl
@[simp] theorem clearEvents_health (s : State) : (s.clearEvents).health = s.health := rfl
@[simp] theorem clearEvents_scan (s : State) : (s.clearEvents).scan = s.scan := rfl
@[simp] theorem clearEvents_log (s : State) : (s.clearEvents).log = s.log := rfl
@[simp] theorem clearEvents_mgmt (s : State) : (s.clearEvents).mgmt = { s.mgmt with events := 0 } := rfl
@[simp] theorem clearEvents_guard (s : State) : (s.clearEvents).guard = s.guard := rfl
@[simp] theorem clearEvents_modes (s : State) : (s.clearEvents).modes = s.modes := rfl
@[simp] theorem clearEvents_store (s : State) : (s.clearEvents).store = s.store := rfl
@[simp] theorem clearEvents_counters (s : State) : (s.clearEvents).counters = s.counters := rfl
@[simp] theorem clearEvents_ms (s : State) : (s.clearEvents).ms = s.ms := rfl
@[simp] theorem clearEvents_inReset (s : State) : (s.clearEvents).inReset = s.inReset := rfl
@[simp] theorem clearEvents_nextId (s : State) : (s.clearEvents).nextId = s.nextId := rfl
@[simp] theorem clearEvents_nextFree (s : State) : (s.clearEvents).nextFree = s.nextFree := rfl
@[simp] theorem clearEvents_todo (s : State) : (s.clearEvents).todo = s.todo := rfl
@[simp] theorem clearEvents_pending (s : State) : (s.clearEvents).pending = s.pending := rfl

/-! ### setCounters -/

@[simp] theorem setCounters_link (s : State) (c : CounterBank) : (s.setCounters c).link = s.link := rfl
@[simp] theorem setCounters_engine (s : State) (c : CounterBank) : (s.setCounters c).engine = s.engine := rfl
@[simp] theorem setCounters_map (s : State) (c : CounterBank) : (s.setCounters c).map = s.map := rfl
@[simp] theorem setCounters_ports (s : State) (c : CounterBank) : (s.setCounters c).ports = s.ports := rfl
@[simp] theorem setCounters_health (s : State) (c : CounterBank) : (s.setCounters c).health = s.health := rfl
@[simp] theorem setCounters_scan (s : State) (c : CounterBank) : (s.setCounters c).scan = s.scan := rfl
@[simp] theorem setCounters_log (s : State) (c : CounterBank) : (s.setCounters c).log = s.log := rfl
@[simp] theorem setCounters_mgmt (s : State) (c : CounterBank) : (s.setCounters c).mgmt = s.mgmt := rfl
@[simp] theorem setCounters_guard (s : State) (c : CounterBank) : (s.setCounters c).guard = s.guard := rfl
@[simp] theorem setCounters_modes (s : State) (c : CounterBank) : (s.setCounters c).modes = s.modes := rfl
@[simp] theorem setCounters_store (s : State) (c : CounterBank) : (s.setCounters c).store = s.store := rfl
@[simp] theorem setCounters_counters (s : State) (c : CounterBank) : (s.setCounters c).counters = c := rfl
@[simp] theorem setCounters_ms (s : State) (c : CounterBank) : (s.setCounters c).ms = s.ms := rfl
@[simp] theorem setCounters_inReset (s : State) (c : CounterBank) : (s.setCounters c).inReset = s.inReset := rfl
@[simp] theorem setCounters_nextId (s : State) (c : CounterBank) : (s.setCounters c).nextId = s.nextId := rfl
@[simp] theorem setCounters_nextFree (s : State) (c : CounterBank) : (s.setCounters c).nextFree = s.nextFree := rfl
@[simp] theorem setCounters_todo (s : State) (c : CounterBank) : (s.setCounters c).todo = s.todo := rfl
@[simp] theorem setCounters_pending (s : State) (c : CounterBank) : (s.setCounters c).pending = s.pending := rfl

/-! ### markDecided -/

@[simp] theorem markDecided_link (s : State) : (s.markDecided).link = s.link := rfl
@[simp] theorem markDecided_engine (s : State) : (s.markDecided).engine = s.engine := rfl
@[simp] theorem markDecided_map (s : State) : (s.markDecided).map = s.map := rfl
@[simp] theorem markDecided_ports (s : State) : (s.markDecided).ports = s.ports := rfl
@[simp] theorem markDecided_health (s : State) : (s.markDecided).health = s.health := rfl
@[simp] theorem markDecided_scan (s : State) : (s.markDecided).scan = s.scan := rfl
@[simp] theorem markDecided_log (s : State) : (s.markDecided).log = s.log := rfl
@[simp] theorem markDecided_mgmt (s : State) : (s.markDecided).mgmt = { s.mgmt with taken := s.mgmt.taken.map fun t => { t with decided := true } } := rfl
@[simp] theorem markDecided_guard (s : State) : (s.markDecided).guard = s.guard := rfl
@[simp] theorem markDecided_modes (s : State) : (s.markDecided).modes = s.modes := rfl
@[simp] theorem markDecided_store (s : State) : (s.markDecided).store = s.store := rfl
@[simp] theorem markDecided_counters (s : State) : (s.markDecided).counters = s.counters := rfl
@[simp] theorem markDecided_ms (s : State) : (s.markDecided).ms = s.ms := rfl
@[simp] theorem markDecided_inReset (s : State) : (s.markDecided).inReset = s.inReset := rfl
@[simp] theorem markDecided_nextId (s : State) : (s.markDecided).nextId = s.nextId := rfl
@[simp] theorem markDecided_nextFree (s : State) : (s.markDecided).nextFree = s.nextFree := rfl
@[simp] theorem markDecided_todo (s : State) : (s.markDecided).todo = s.todo := rfl
@[simp] theorem markDecided_pending (s : State) : (s.markDecided).pending = s.pending := rfl

/-! ### A port after an update -/

@[simp] theorem port_onPort (s : State) (u v : Fin 4) (f : Port → Port) :
    (s.onPort u f).port v = if v = u then f (s.port u) else s.port v := by
  show (s.ports.set u _).get v = _
  rw [Four.get_set]
  rfl

/-! ### Buffers -/

/-- New segments of a request change the admission list and the free buffers alone (R54, R55). -/
theorem resegment_eq (s : State) (id : Nat) (f : List Segment → List Segment) : ∃ l n, s.resegment id f =
    { s with engine := { s.engine with items := l, freeBuffers := n } } := by
  unfold State.resegment
  split
  · exact ⟨_, _, rfl⟩
  · dsimp only
    split
    · exact ⟨_, _, rfl⟩
    · exact ⟨_, _, rfl⟩

/-- A relocation slot changes with the buffer it holds alone (R54, R101). -/
theorem setReloc_eq (s : State) (k : Fin 2) (r : Option Relocation) : ∃ h n, s.setReloc k r =
    { s with health := h, engine := { s.engine with freeBuffers := n } } := by
  unfold State.setReloc
  dsimp only
  split
  · exact ⟨_, _, rfl⟩
  · exact ⟨_, _, rfl⟩

/-! ### The end of a step -/

/-- With no work left, settling changes nothing. -/
@[simp] theorem settle_of_todo_nil {s : State} (h : s.todo = []) : s.settle = s := by
  have k : State.settleUpTo settleFuel s = s := by unfold settleFuel State.settleUpTo; rw [h]
  unfold State.settle
  rw [k, ← h]

/-- Nothing is left to do after the end of a step (log entry 25). -/
@[simp] theorem finish_todo (s : State) : s.finish.todo = [] := by
  unfold State.finish State.refreshIdle
  (repeat' split) <;> rfl

/-- With no work left, the end of a step is the idle timer's following of its condition (R177). -/
theorem finish_of_todo_nil {s : State} (h : s.todo = []) : s.finish = s.refreshIdle := by
  unfold State.finish; rw [settle_of_todo_nil h]

/-- The idle timer is all that its refreshing changes. -/
theorem refreshIdle_eq (s : State) : ∃ t : IdleTimer, s.refreshIdle = { s with modes := { s.modes with idle := t } } := by
  unfold State.refreshIdle
  split
  · split
    · exact ⟨_, rfl⟩
    · next a b e => exact ⟨s.modes.idle, rfl⟩
    · next e => exact ⟨s.modes.idle, rfl⟩
  · exact ⟨_, rfl⟩

/-- Out of reset, a command that waits for nothing else acts. -/
theorem whenUp_up {s : State} (f : State → State) (h : s.inReset = false) : whenUp s f = .next (f s) := by
  unfold whenUp; rw [h]; rfl

/-- In reset, it has no effect. -/
theorem whenUp_reset {s : State} (f : State → State) (h : s.inReset = true) : whenUp s f = .next s := by
  unfold whenUp; rw [h]; rfl

/-- The answer to the taken command, component by component. -/
theorem respond_taken {s : State} {t : Taken} (h : s.mgmt.taken = some t) (result : CmdResult) (data : List Byte) :
    s.respond result data = s.answered t result data := by
  unfold State.respond
  rw [h]
  clear h
  obtain ⟨_, _, _, tag, _, _, _, _, _⟩ := t
  cases tag <;> rfl

/-- The mark of a changed saved item, component by component (R181). -/
theorem markDirty_eq (s : State) : s.markDirty = { s with store := s.store.dirtied } := by
  unfold State.markDirty StoreController.dirtied StoreController.changed
  cases h : s.store.state <;> simp [h]

/-- A command of the engine is carried out on the taken command it belongs to. -/
theorem carry_taken {s : State} {c : Command} {t : Taken} (f : State → Taken → State) (h : s.mgmt.taken = some t)
    (hc : t.code = c.code) (hd : t.decided = false) : s.carry c f = f s t := by
  unfold State.carry; rw [h]; exact if_pos ⟨hc, hd⟩

end Sys2Proof.Laws
end

