-- ==== Sys2Proof/Laws/Bytes.lean ====
section
/-!
SUPPORT. Fields written and read back: the byte order of 12.1, and the check of a frame (12.2).
-/

set_option Elab.async false

namespace Sys2Proof.Laws

open Sys2Proof Sys2Proof.Machine

@[simp] theorem le1_length (n : Nat) : (le1 n).length = 1 := rfl
@[simp] theorem le2_length (n : Nat) : (le2 n).length = 2 := rfl
@[simp] theorem le4_length (n : Nat) : (le4 n).length = 4 := rfl
@[simp] theorem le8_length (n : Nat) : (le8 n).length = 8 := rfl
@[simp] theorem zeros_length (n : Nat) : (zeros n).length = n := List.length_replicate
@[simp] theorem checkBytes_length (l : List Byte) : (checkBytes l).length = 4 := rfl

/-- A list of bytes cut or padded to a length has it. -/
@[simp] theorem fit_length (n : Nat) (l : List Byte) : (fit n l).length = n := by
  unfold fit; simp

/-- A frame whose check was placed passes its test (12.2, R41). -/
@[simp] theorem checked_withCheck (l : List Byte) : checked (withCheck l) = some l := by
  have h : (withCheck l).length - 4 = l.length := by unfold withCheck; simp
  unfold checked
  rw [h]
  have h1 : (withCheck l).take l.length = l := by unfold withCheck; simp
  have h2 : (withCheck l).drop l.length = checkBytes l := by unfold withCheck; simp
  dsimp only
  rw [h1, h2, if_pos]
  exact ⟨by unfold withCheck; simp, rfl⟩

/-- A byte read past a prefix. -/
theorem u1_append (l m : List Byte) (off : Nat) (h : l.length ≤ off) : u1 (l ++ m) off = u1 m (off - l.length) := by
  unfold u1; rw [List.getD_eq_getElem?_getD, List.getD_eq_getElem?_getD, List.getElem?_append_right h]

theorem u2_append (l m : List Byte) (off : Nat) (h : l.length ≤ off) : u2 (l ++ m) off = u2 m (off - l.length) := by
  unfold u2
  rw [u1_append _ _ _ h, u1_append l m (off + 1) (by omega), Nat.sub_add_comm h]

theorem u4_append (l m : List Byte) (off : Nat) (h : l.length ≤ off) : u4 (l ++ m) off = u4 m (off - l.length) := by
  unfold u4
  rw [u2_append _ _ _ h, u2_append l m (off + 2) (by omega), Nat.sub_add_comm h]

theorem u8_append (l m : List Byte) (off : Nat) (h : l.length ≤ off) : u8 (l ++ m) off = u8 m (off - l.length) := by
  unfold u8
  rw [u4_append _ _ _ h, u4_append l m (off + 4) (by omega), Nat.sub_add_comm h]

/-- A two-byte field reads back (12.1). -/
theorem u2_le2 (n : Nat) (m : List Byte) (h : n < 65536) : u2 (le2 n ++ m) 0 = n := by
  simp [u2, u1, le2, BitVec.toNat_ofNat]; omega

/-- A four-byte field reads back. -/
theorem u4_le4 (n : Nat) (m : List Byte) (h : n < 4294967296) : u4 (le4 n ++ m) 0 = n := by
  simp [u4, u2, u1, le4, le2, BitVec.toNat_ofNat]; omega

/-- An eight-byte field reads back. -/
theorem u8_le8 (n : Nat) (m : List Byte) (h : n < 18446744073709551616) : u8 (le8 n ++ m) 0 = n := by
  simp [u8, u4, u2, u1, le8, le4, le2, BitVec.toNat_ofNat]; omega

end Sys2Proof.Laws
end

