-- ==== Sys2Proof/Laws/Effects.lean ====
section
/-!
SUPPORT. What the shared operations do: answers to management commands, scans that end, slots that fill, saves that start, and the
items and requests of the admission list.
-/

set_option linter.all false

set_option Elab.async false

namespace Sys2Proof.Laws

open Sys2Proof Sys2Proof.Machine

/-- A management command that is awaited is carry_awaited out. -/
theorem carry_awaited {s : State} {c : Command} {t : Taken} (h : s.Awaits c t) (f : State → Taken → State) :
    (Host.Outcome.next (if s.inReset = true then s else s.carry c f) : Host.Outcome State Fault Refusal) = .next (f s t) := by
  have hr := h.up
  simp only [hr]
  rw [carry_taken f h.taken h.code h.undecided]; rfl

/-- The answer to an awaited command leaves what `State.answered` says. -/
theorem respond_awaited {s : State} {c : Command} {t : Taken} (h : s.Awaits c t) (r d) : s.respond r d = s.answered t r d :=
    respond_taken h.taken r d

/-- An answer leaves no work. -/
theorem respond_keeps_todo (s : State) (r : CmdResult) (d : List Byte) : (s.respond r d).todo = s.todo := by
  unfold State.respond State.completeW0
  (repeat' split) <;> rfl

/-- An answered state keeps the work that is left. -/
theorem answered_todo (s : State) (t r d) : (s.answered t r d).todo = s.todo := rfl

/-- After an answer with no work left, only the idle timer is evaluated again. -/
theorem answered_finish {s : State} (t r d) (h : s.todo = []) : (s.answered t r d).finish = (s.answered t r d).refreshIdle :=
    finish_of_todo_nil h

/-- The same answer after a change that keeps the taken command. -/
theorem respond_awaited_of {s x : State} {c : Command} {t : Taken} (h : s.Awaits c t) (hx : x.mgmt.taken = s.mgmt.taken) (r d) :
    x.respond r d = x.answered t r d := respond_taken (hx.trans h.taken) r d

/-- An answer and the end of its step, after a change that keeps the taken command and leaves no work. -/
theorem respond_finish_awaited {s x : State} {c : Command} {t : Taken} (h : s.Awaits c t) (hx : x.mgmt.taken = s.mgmt.taken) (ht :
    x.todo = s.todo) (r d) :
    (x.respond r d).finish = (x.answered t r d).refreshIdle := by
  rw [respond_awaited_of h hx]; exact finish_of_todo_nil (ht.trans h.settled)

/-- Withdrawing the VERIFY of a scan changes only the ports. -/
theorem withdrawScan_eq (s : State) (v : Option ScanVerify) : ∃ p, s.withdrawScan v = { s with ports := p } := by
  unfold State.withdrawScan
  split
  · exact ⟨_, rfl⟩
  · split
    · exact ⟨_, rfl⟩
    · exact ⟨_, rfl⟩

/-- The entry that the end of a scan writes. -/
def endEntry (s : State) (c : ScanContext) (r : ScanResult) : ScanLogEntry :=
  { kind := c.kind, unit := c.unit, result := r, verified := c.verified, firstFailing := c.firstFailing, stamp := s.now }

/-- The end of a scan under way: its log entry, an IDLE engine, SCAN_ENDED and the DIRTY mark (R110, R123). -/
theorem endScan_some {s : State} {c : ScanContext} (h : s.scan.context = some c) (r : ScanResult) :
    ∃ p, s.endScan r = { s with
      ports := p
      scan := { s.scan with state := .idle, context := none, log := pushBounded 16 s.scan.log (endEntry s c r) }
      mgmt := { s.mgmt with events := s.mgmt.events ||| Event.scanEnded.bit }
      store := s.store.dirtied } := by
  unfold State.endScan
  rw [h]
  obtain ⟨p, hp⟩ := withdrawScan_eq (s.writeScanLog c r) c.current
  refine ⟨p, ?_⟩
  dsimp only
  rw [hp]
  unfold State.writeScanLog
  simp only [markDirty_eq]
  rfl

/-- Without a scan the end of a scan does nothing. -/
theorem endScan_none {s : State} (h : s.scan.context = none) (r : ScanResult) : s.endScan r = s := by
  unfold State.endScan; rw [h]

/-- The end of a scan changes the ports, the scan engine, the events and the store alone. -/
theorem endScan_eq (s : State) (r : ScanResult) : ∃ p m e st, s.endScan r = { s with
    ports := p, scan := m, mgmt := { s.mgmt with events := e }, store := st } ∧ (m.state = .idle ∨ s.scan.context = none) := by
  cases h : s.scan.context with
  | none => exact ⟨_, _, _, _, endScan_none h r, .inr rfl⟩
  | some c =>
    obtain ⟨p, hp⟩ := endScan_some h r
    exact ⟨_, _, _, _, hp, .inl rfl⟩

/-- Sending an operation changes the ports and the counters alone. -/
theorem sendOp_eq (s : State) (u place slot o) : ∃ p c, s.sendOp u place slot o = { s with ports := p, counters := c } := ⟨_, _, rfl⟩

/-- Filling slots changes the ports and the counters alone. -/
theorem pumpUpTo_eq (u : Fin 4) (n : Nat) (s : State) : ∃ p c, State.pumpUpTo u n s = { s with ports := p, counters := c } := by
  induction n generalizing s with
  | zero => exact ⟨_, _, rfl⟩
  | succ n ih =>
    unfold State.pumpUpTo
    split
    · next slot place o _ _ =>
      obtain ⟨p, c, h⟩ := sendOp_eq s u place slot o
      obtain ⟨p', c', h'⟩ := ih (s.sendOp u place slot o)
      exact ⟨p', c', by rw [h', h]⟩
    · exact ⟨_, _, rfl⟩
    · exact ⟨_, _, rfl⟩

/-- Filling the slots of a port changes the ports and the counters alone. -/
theorem pump_eq (s : State) (u : Fin 4) : ∃ p c, s.pump u = { s with ports := p, counters := c } := pumpUpTo_eq u 4 s

/-- Offering a store operation changes the ports, the counters and a serial number; work is left only at an unavailable port 0. -/
theorem offerStore_eq (s : State) (k f n d) : ∃ p c w, (s.offerStore k f n d).2 =
    { s with ports := p, counters := c, nextId := s.nextId + 1, todo := s.todo ++ w } ∧
    ((s.port 0).state.unavailable = false → w = []) := by
  unfold State.offerStore
  dsimp only
  split
  · next h => exact ⟨_, _, [_], rfl, fun h' => by rw [h] at h'; cases h'⟩
  · obtain ⟨p, c, h⟩ := pump_eq (State.onPort { s with nextId := s.nextId + 1 }
      0 fun p => { p with storePlace := some (mkOp k f n .store s.nextId d) }) 0
    refine ⟨p, c, [], ?_, fun _ => rfl⟩
    rw [List.append_nil]
    exact h

/-- Offering the write of a save at a READY port 0 changes the ports, the counters, a serial number and its stamp. -/
theorem offerSave_eq {s : State} {r : SaveRecord} (hr : s.store.save = some r) (h : (s.port 0).state = .ready) : ∃ p c n z, s.offerSave =
    { s with ports := p, counters := c, nextId := n, store := { s.store with save := some { r with stamp := z } } } := by
  unfold State.offerSave
  rw [hr]
  dsimp only
  split
  · exact ⟨_, _, _, _, rfl⟩
  · obtain ⟨p, c, w, e, hw⟩ := offerStore_eq s .write r.write.1 r.write.2.length r.write.2
    have : w = [] := hw (by rw [h]; rfl)
    subst this
    rw [List.append_nil] at e
    rw [e]
    exact ⟨p, c, _, _, rfl⟩

/-- A save that starts at a READY port 0: SAVING, with the image of the saved items under the next generation (R183). -/
theorem startSave_eq {s : State} (h : (s.port 0).state = .ready) (cmd) : ∃ p c st n, s.startSave cmd =
    { s with ports := p, counters := c, nextId := n, store := st } ∧
    st.state = .saving ∧ st.saveAsked = false ∧ st.dirtyAgain = false ∧ st.retryHold = s.store.retryHold ∧
        st.generation = s.store.generation ∧ st.startCount = s.store.startCount ∧ st.cause = s.store.cause ∧ st.load = s.store.load ∧
    ∃ r, st.save = some r ∧ r.step = .first ∧ r.command = cmd ∧
        r.image = imageBlocks (nextGeneration s.store.generation) s.savedItems.length s.savedItems.stream := by
  unfold State.startSave
  dsimp only
  obtain ⟨p, c, n, z, e⟩ := offerSave_eq (s := s.onStore fun c =>
    { c with
      state := .saving
      dirtyAgain := false
      saveAsked := false
      eraseDoneAsked := false
      save := some {
        image := imageBlocks (nextGeneration s.store.generation) s.savedItems.length s.savedItems.stream
        header := (headerOf (nextGeneration s.store.generation) s.store.startCount
          (imageBlocks (nextGeneration s.store.generation) s.savedItems.length s.savedItems.stream)).block
        step := .first
        stamp := none
        command := cmd
        firstOfErase := decide (s.guard.state = .erasing) && s.guard.inPhase .savingStart
        lastOfErase := s.guard.inPhase .savingEnd
        eraseDone := s.store.eraseDoneAsked } }) rfl h
  rw [e]
  exact ⟨p, c, _, n, rfl, rfl, rfl, rfl, rfl, rfl, rfl, rfl, rfl, _, rfl, rfl, rfl, rfl⟩

/-- A port other than 0 that serves reports nothing that changes the state. -/
theorem portReports_serving (s : State) {u : Fin 4} {p : PortState} (hp : p.serves = true) (hu : u ≠ 0) : s.portReports u p = s := by
  unfold State.portReports State.scanPort
  rw [if_neg hu, if_neg (by cases p <;> simp_all [PortState.serves])]
  split
  · rfl
  · simp [hp]

/-- Of two replacements at one index the later stands. -/
theorem four_set_set {α : Type} (f : Four α) (u : Fin 4) (a b : α) : (f.set u a).set u b = f.set u b := by
  obtain ⟨_, _, _, _⟩ := f
  match u with
  | 0 => rfl
  | 1 => rfl
  | 2 => rfl
  | 3 => rfl

/-- Two changes of one port are one. -/
theorem onPort_onPort (s : State) (u : Fin 4) (f g : Port → Port) : (s.onPort u f).onPort u g = s.onPort u fun p => g (f p) := by
  unfold State.onPort
  dsimp only
  rw [Four.get_set, if_pos rfl, four_set_set]

/-- The port after its change. -/
theorem onPort_port (s : State) (u : Fin 4) (f : Port → Port) : (s.onPort u f).port u = f (s.port u) := by
  show (s.ports.set u _).get u = _
  rw [Four.get_set, if_pos rfl]; rfl

/-- The other ports stay. -/
theorem onPort_port_ne (s : State) {u v : Fin 4} (f : Port → Port) (h : v ≠ u) : (s.onPort u f).port v = s.port v := by
  show (s.ports.set u _).get v = _
  rw [Four.get_set, if_neg h]; rfl

/-- An item that leaves changes the list and the quiet timer alone. -/
theorem removeItem_eq (s : State) (id : Nat) : ∃ t, s.removeItem id =
    { s with engine := { s.engine with items := s.engine.items.filter fun i => i.id != id }, scan := { s.scan with quietTimer := t } } :=
        by
  unfold State.removeItem State.trafficEnds
  dsimp only
  split
  · exact ⟨_, rfl⟩
  · exact ⟨_, rfl⟩

/-- A request that completes without MEDIA_ERROR: its COMPLETION, its tag, its place in the list, one counter (R65). -/
theorem sendDone_eq (s : State) (r : Request) (h : r.status ≠ .mediaError) : ∃ t, s.sendDone r = { s with
    link := { tags := s.link.tags.set r.tag .free, sent := s.link.sent ++ [.completion r.tag r.status r.residual r.failingLba r.recovered (s.mgmt.events != 0)] }
    engine := { s.engine with items := s.engine.items.filter fun i => i.id != r.id }
    scan := { s.scan with quietTimer := t }
    counters := { s.counters with streams := s.counters.streams.set r.stream s.counters.streams[r.stream].completedOne } } := by
  unfold State.sendDone
  dsimp only
  obtain ⟨t, ht⟩ := removeItem_eq (s.sendCompletion r.tag r.status r.residual r.failingLba r.recovered) r.id
  rw [ht, if_neg h]
  exact ⟨t, rfl⟩

@[simp] theorem refreshIdle_link (s : State) : s.refreshIdle.link = s.link := by obtain ⟨i, h⟩ := refreshIdle_eq s; rw [h]
@[simp] theorem refreshIdle_engine (s : State) : s.refreshIdle.engine = s.engine := by obtain ⟨i, h⟩ := refreshIdle_eq s; rw [h]
@[simp] theorem refreshIdle_map (s : State) : s.refreshIdle.map = s.map := by obtain ⟨i, h⟩ := refreshIdle_eq s; rw [h]
@[simp] theorem refreshIdle_ports (s : State) : s.refreshIdle.ports = s.ports := by obtain ⟨i, h⟩ := refreshIdle_eq s; rw [h]
@[simp] theorem refreshIdle_health (s : State) : s.refreshIdle.health = s.health := by obtain ⟨i, h⟩ := refreshIdle_eq s; rw [h]
@[simp] theorem refreshIdle_scan (s : State) : s.refreshIdle.scan = s.scan := by obtain ⟨i, h⟩ := refreshIdle_eq s; rw [h]
@[simp] theorem refreshIdle_log (s : State) : s.refreshIdle.log = s.log := by obtain ⟨i, h⟩ := refreshIdle_eq s; rw [h]
@[simp] theorem refreshIdle_mgmt (s : State) : s.refreshIdle.mgmt = s.mgmt := by obtain ⟨i, h⟩ := refreshIdle_eq s; rw [h]
@[simp] theorem refreshIdle_guard (s : State) : s.refreshIdle.guard = s.guard := by obtain ⟨i, h⟩ := refreshIdle_eq s; rw [h]
@[simp] theorem refreshIdle_store (s : State) : s.refreshIdle.store = s.store := by obtain ⟨i, h⟩ := refreshIdle_eq s; rw [h]
@[simp] theorem refreshIdle_counters (s : State) : s.refreshIdle.counters = s.counters := by obtain ⟨i, h⟩ := refreshIdle_eq s; rw [h]
@[simp] theorem refreshIdle_ms (s : State) : s.refreshIdle.ms = s.ms := by obtain ⟨i, h⟩ := refreshIdle_eq s; rw [h]
@[simp] theorem refreshIdle_inReset (s : State) : s.refreshIdle.inReset = s.inReset := by obtain ⟨i, h⟩ := refreshIdle_eq s; rw [h]
@[simp] theorem refreshIdle_nextId (s : State) : s.refreshIdle.nextId = s.nextId := by obtain ⟨i, h⟩ := refreshIdle_eq s; rw [h]
@[simp] theorem refreshIdle_nextFree (s : State) : s.refreshIdle.nextFree = s.nextFree := by obtain ⟨i, h⟩ := refreshIdle_eq s; rw [h]
@[simp] theorem refreshIdle_todo (s : State) : s.refreshIdle.todo = s.todo := by obtain ⟨i, h⟩ := refreshIdle_eq s; rw [h]
@[simp] theorem refreshIdle_pending (s : State) : s.refreshIdle.pending = s.pending := by obtain ⟨i, h⟩ := refreshIdle_eq s; rw [h]

@[simp] theorem refreshIdle_modes_mode (s : State) : s.refreshIdle.modes.mode = s.modes.mode := by
  obtain ⟨i, h⟩ := refreshIdle_eq s; rw [h]

@[simp] theorem refreshIdle_modes_phase (s : State) : s.refreshIdle.modes.phase = s.modes.phase := by
  obtain ⟨i, h⟩ := refreshIdle_eq s; rw [h]

@[simp] theorem refreshIdle_modes_drain (s : State) : s.refreshIdle.modes.drain = s.modes.drain := by
  obtain ⟨i, h⟩ := refreshIdle_eq s; rw [h]

@[simp] theorem refreshIdle_modes_wakeRequested (s : State) : s.refreshIdle.modes.wakeRequested = s.modes.wakeRequested := by
  obtain ⟨i, h⟩ := refreshIdle_eq s; rw [h]

@[simp] theorem refreshIdle_modes_waiting (s : State) : s.refreshIdle.modes.waiting = s.modes.waiting := by
  obtain ⟨i, h⟩ := refreshIdle_eq s; rw [h]

@[simp] theorem refreshIdle_port (s : State) (u : Fin 4) : s.refreshIdle.port u = s.port u := by
  obtain ⟨i, h⟩ := refreshIdle_eq s; rw [h]; rfl

/-- A request that cuts nothing more stays as it is. -/
theorem cut_none {s : State} {id : Nat} {q : Request} (h : s.request? id = some q) (hc : q.cuts = false) : s.cut id = s := by
  unfold State.cut State.cutUpTo State.cutOnce
  rw [h]
  dsimp only
  cases q.home with
  | none => rfl
  | some x => dsimp only; rw [hc]; rfl

/-- A finished request completes. -/
theorem tryComplete_done {s : State} {id : Nat} {q : Request} (h : s.request? id = some q) (hc : q.finished = true) :
    s.tryComplete id = s.sendDone q := by
  unfold State.tryComplete; rw [h]; dsimp only; rw [if_pos hc]

/-- A request that is not finished stays. -/
theorem tryComplete_not {s : State} {id : Nat} {q : Request} (h : s.request? id = some q) (hc : q.finished = false) :
    s.tryComplete id = s := by
  unfold State.tryComplete; rw [h]; dsimp only; rw [if_neg (by simp [hc])]

/-- In a list in order of admission an item is found by its serial number. -/
theorem items_find_id {l : List Item} (h : (l.map Item.id).Pairwise (· < ·)) {i : Item} (hi : i ∈ l) : l.find? (fun j => j.id == i.id) =
    some i := by
  induction l with
  | nil => cases hi
  | cons a l ih =>
    rw [List.map_cons, List.pairwise_cons] at h
    rw [List.find?_cons]
    rcases List.mem_cons.mp hi with e | e
    · subst e; simp
    · have : a.id < i.id := h.1 _ (List.mem_map_of_mem e)
      rw [show (a.id == i.id) = false by simp; omega]
      exact ih h.2 e

/-- The live request of a tag is found by its serial number as well. -/
theorem liveRequest_spec {s : State} {tag : Fin 32} {r : Request} (hl : s.Lawful) (h : s.liveRequest? tag = some r) :
    s.request? r.id = some r ∧ r.tag = tag ∧ r.orphan = false ∧ Item.host r ∈ s.engine.items := by
  unfold State.liveRequest? at h
  obtain ⟨i, hi, he⟩ := List.exists_of_findSome?_eq_some h
  cases i with
  | reloc q => cases he
  | host q =>
    dsimp only at he
    split at he
    · next hc =>
      cases he
      simp only [Bool.and_eq_true, beq_iff_eq, Bool.not_eq_true'] at hc
      refine ⟨?_, hc.1, hc.2, hi⟩
      unfold State.request?
      rw [show (fun i : Item => i.id == r.id) = (fun j : Item => j.id == (Item.host r).id) from rfl, items_find_id hl.order hi]; rfl
    · cases he

/-- A change of a request is a change of the items. -/
theorem onRequest_eq (s : State) (id : Nat) (f : Request → Request) :
    s.onRequest id f = { s with engine := { s.engine with items := s.engine.items.map (Item.onRequest id f) } } := rfl

/-- A change that keeps the serial number keeps that of the item. -/
theorem onItem_id {id : Nat} {f : Request → Request} (hf : ∀ r, (f r).id = r.id) (i : Item) : (Item.onRequest id f i).id = i.id := by
  unfold Item.onRequest
  split
  · split
    · exact hf _
    · rfl
  · rfl

/-- Other items stay. -/
theorem onItem_ne {id : Nat} {f : Request → Request} {i : Item} (h : i.id ≠ id) : Item.onRequest id f i = i := by
  unfold Item.onRequest
  split
  · next r => rw [if_neg (by simpa [Item.id] using h)]
  · rfl

/-- The request after its change. -/
theorem request_onRequest {s : State} {id : Nat} {r : Request} {f : Request → Request} (h : s.request? id = some r) (hf :
    ∀ r, (f r).id = r.id) :
    (s.onRequest id f).request? id = some (f r) := by
  rw [onRequest_eq]
  unfold State.request? at *
  dsimp only
  rw [List.find?_map]
  have : ((fun i : Item => i.id == id) ∘ Item.onRequest id f) = (fun i : Item => i.id == id) := by
    funext i; simp [onItem_id hf]
  rw [this]
  cases hc : s.engine.items.find? (fun i => i.id == id) with
  | none => rw [hc] at h; cases h
  | some i =>
    rw [hc] at h
    have := List.find?_some hc
    cases i with
    | reloc q => cases h
    | host q =>
      cases h
      have hh : (r.id == id) = true := this
      simp only [Option.map_some, Item.onRequest]; rw [if_pos hh]; rfl

/-- Without the request, the list is as before its change. -/
theorem filter_onRequest (s : State) (id : Nat) (f : Request → Request) (hf : ∀ r, (f r).id = r.id) :
    (s.onRequest id f).engine.items.filter (fun i => i.id != id) = s.engine.items.filter (fun i => i.id != id) := by
  rw [onRequest_eq]
  dsimp only
  induction s.engine.items with
  | nil => rfl
  | cons a l ih =>
    rw [List.map_cons, List.filter_cons, List.filter_cons, ih, onItem_id hf]
    split
    · next h => rw [onItem_ne (by simpa using h)]
    · rfl

/-- Two changes of one request are one. -/
theorem onRequest_onRequest (s : State) (id : Nat) (f g : Request → Request) (hf : ∀ r, (f r).id = r.id) :
    (s.onRequest id f).onRequest id g = s.onRequest id fun r => g (f r) := by
  rw [onRequest_eq, onRequest_eq, onRequest_eq]
  dsimp only
  rw [List.map_map]
  congr 2
  apply List.map_congr_left
  intro i _
  unfold Item.onRequest
  cases i with
  | reloc q => rfl
  | host q =>
    dsimp only [Function.comp_apply]
    by_cases hc : q.id = id
    · rw [if_pos (by simp [hc])]; simp [hf, hc]
    · rw [if_neg (by simp [hc])]; simp [hc]

/-- In a list in order of admission the request of a serial number is one of the items, and the only one with it. -/
theorem request_only {s : State} (b : s.Bounded) {id : Nat} {r : Request} (h : s.request? id = some r) :
    r.id = id ∧ ∀ i ∈ s.engine.items, i.id = id → i = .host r := by
  obtain ⟨hm, hi⟩ := request_mem h
  exact ⟨hi, fun i hi' e => item_one b hi' hm (e.trans hi.symm)⟩

/-- Segments that hold nothing droppable lose nothing. -/
theorem dropSegments_none {s : State} (b : s.Bounded) {id : Nat} {r : Request} {p : Segment → Bool} (h : s.request? id = some r)
    (hp : ∀ g ∈ r.segs, (g.droppable && p g) = false) : s.dropSegments id p = s := by
  have same : r.segs.filter (fun g => !(g.droppable && p g)) = r.segs :=
    List.filter_eq_self.mpr fun g hg => by rw [hp g hg]; rfl
  have items : s.engine.items.map (Item.onRequest id fun x => { x with segs := r.segs }) = s.engine.items := by
    conv_rhs => rw [← List.map_id s.engine.items]
    refine List.map_congr_left fun i hi => ?_
    by_cases e : i.id = id
    · rw [(request_only b h).2 i hi e]
      show (if r.id == id then Item.host { r with segs := r.segs } else .host r) = .host r
      split <;> rfl
    · exact onItem_ne e
  unfold State.dropSegments State.resegment
  rw [h]
  dsimp only
  rw [same, if_pos (Nat.le_add_left _ _), onRequest_eq, items, Nat.add_sub_cancel]

end Sys2Proof.Laws
end

