-- ==== Sys2Proof/Laws/EffectsLink.lean ====
section
/-!
SUPPORT. What the operations of the link and of the request engine do: admission and its checks, window accesses, link resets, cuts, holds.
-/

set_option linter.all false

set_option Elab.async false

namespace Sys2Proof.Laws

open Sys2Proof Sys2Proof.Machine

/-- A free tag that was used and freed leaves the table as it was. -/
theorem tags_set_free (v : Vector TagUse 32) (t : Fin 32) (u : TagUse) (h : v[t] = .free) : (v.set t u).set t .free = v := by
  apply Vector.ext
  intro i hi
  rw [Vector.getElem_set, Vector.getElem_set]
  split
  · next e => subst e; exact h.symm
  · rfl

/-- A serial number above all of a list takes no item from it. -/
theorem items_without_new {l : List Item} {n : Nat} (h : ∀ m ∈ l.map Item.id, m < n) : l.filter (fun i => i.id != n) = l := by
  rw [List.filter_eq_self]
  intro i hi
  have := h _ (List.mem_map_of_mem hi)
  simp; omega

/-- A request kind is read from its code. -/
theorem reqKind_ofCode {n : Nat} {k : ReqKind} (h : n = k.code) : ReqKind.ofCode n = some k := by subst h; cases k <;> rfl

/-- A code of no kind reads as none. -/
theorem reqKind_ofCode_none {n : Nat} (h : ∀ k : ReqKind, n ≠ k.code) : ReqKind.ofCode n = none := by
  have a := h .read; have b := h .write; have c := h .verify; have d := h .sync
  unfold ReqKind.code at *; unfold ReqKind.ofCode; split <;> simp_all

/-- A REQUEST frame is taken with its fields. -/
theorem exec_request {s : State} {frame r} (hr : s.Running) (hp : LinkFrame.parse frame = some (.request r)) : exec (.request frame) s =
    .next (s.takeRequest r) := by
  refine (whenUp_up (fun s => s.requestFrame frame) hr.up).trans ?_
  congr 1
  unfold State.requestFrame; rw [hp]

/-- The context of a request as it is admitted. -/
def newRequest (s : State) (k : ReqKind) (r : RequestFields) : Request := Request.admitted (s.nextId + 1) k r ⟨s.nextId,
    .host k r.stream r.tag r.lba.toNat r.len.toNat s.now⟩

/-- The state after a request is admitted. -/
def admitted (s : State) (k : ReqKind) (r : RequestFields) : State := { s with
  link := { s.link with tags := s.link.tags.set r.tag .request }
  log := s.log.recorded s.nextId (.host k r.stream r.tag r.lba.toNat r.len.toNat s.now)
  nextId := s.nextId + 2
  modes := { s.modes with idle := .stopped }
  engine := { s.engine with items := s.engine.items ++ [.host (newRequest s k r)] } }

/-- Admission makes the new context and the state with it (R42). -/
theorem takeIn_eq (s : State) (k r) : s.takeIn k r = (newRequest s k r, admitted s k r) := rfl

/-- A request that arrives is admitted and checked, or joins the list as a SYNC. -/
theorem request_arrives {s : State} {frame r k} (h : s.Arrives frame r k) : exec (.request frame) s = .next
    ((if k = .sync then (admitted s k r).syncAdmitted (newRequest s k r) else (admitted s k r).checkRequest (newRequest s k r)).finish) :=
        by
  rw [exec_request h.toRunning h.frame]
  congr 1
  unfold State.takeRequest
  rw [reqKind_ofCode h.kind]
  dsimp only
  rw [if_neg (by have := h.length; unfold Config.largestRequest; omega), if_neg (by simp [State.tagUse, h.tag])]
  rw [takeIn_eq]

/-- Without the new item, the list is as before admission. -/
theorem admitted_filter {s : State} (h : s.Lawful) (k r) : (admitted s k r).engine.items.filter (fun i => i.id != (newRequest s k r).id) =
    s.engine.items := by
  show (s.engine.items ++ [Item.host (newRequest s k r)]).filter _ = _
  rw [List.filter_append, items_without_new (n := (newRequest s k r).id) (fun m hm => Nat.lt_succ_of_lt (h.given m hm))]
  simp [Item.id]

/-- A request that has passed no check makes no traffic. -/
theorem admitted_traffic (s : State) (k r) : (admitted s k r).traffic = s.traffic := by
  unfold State.traffic
  show (s.engine.items ++ [Item.host (newRequest s k r)]).any _ = _
  rw [List.any_append]
  simp [Item.traffic, newRequest, Request.admitted]

/-- A refusal right after admission leaves what `State.passedThrough` says (R44). -/
theorem admitted_refuse {s : State} {frame r k} (h : s.Arrives frame r k) (st : Status) :
    (admitted s k r).refuse (newRequest s k r) st = s.passedThrough r k [.completion r.tag st r.len.toNat none false (s.mgmt.events !=
        0)] StreamCounters.refusedOne := by
  unfold State.refuse
  have hrem : ((admitted s k r).sendCompletion (newRequest s k r).tag st (newRequest s k r).len none false).removeItem (newRequest s k
      r).id =
      { ((admitted s k r).sendCompletion (newRequest s k r).tag st (newRequest s k r).len none false) with engine := s.engine } := by
    unfold State.removeItem State.trafficEnds
    have e1 : ((admitted s k r).sendCompletion (newRequest s k r).tag st (newRequest s k r).len none false).engine.items.filter (fun i =>
        i.id != (newRequest s k r).id) = s.engine.items := admitted_filter h.lawful k r
    dsimp only
    rw [e1]
    have e2 : ((admitted s k r).sendCompletion (newRequest s k r).tag st (newRequest s k r).len none false).traffic = s.traffic :=
        admitted_traffic s k r
    rw [e2]
    rw [if_neg]
    · rfl
    · intro hh
      have : (s.traffic && !s.traffic) = true := hh
      simp at this
  rw [hrem]
  unfold State.sendCompletion State.passedThrough State.countRefused State.onStream
  have ht := tags_set_free s.link.tags r.tag .request h.tag
  simp only [setTag_link, send_link]
  show State.mk _ _ _ _ _ _ _ _ _ _ _ _ _ _ _ _ _ _ = State.mk _ _ _ _ _ _ _ _ _ _ _ _ _ _ _ _ _ _
  congr 1
  · show LinkPort.mk ((s.link.tags.set r.tag .request).set r.tag .free) _ = _
    rw [ht]; rfl

/-- The checks of an admitted request are those of `State.failedCheck` (R44). -/
theorem admitted_check (s : State) (k r) :
    (admitted s k r).check (newRequest s k r) = match s.failedCheck k r.stream r.lba.toNat ((r.len.toNat + 511) / 512) with
      | some st => .fails st
      | none => match s.map.regionLookup r.lba.toNat ((r.len.toNat + 511) / 512) with
        | some i => .passes i
        | none => .fails .noRegion := by
  unfold State.check State.failedCheck
  show (if s.modes.mode.servicing = false then _ else match s.map.regionLookup r.lba.toNat ((r.len.toNat + 511) / 512) with
    | none => _ | some i => _) = _
  by_cases hm : s.modes.mode = .startup ∨ s.modes.mode = .config ∨ s.modes.mode = .draining
  · rw [if_pos hm, if_pos (by rcases hm with h | h | h <;> rw [h] <;> rfl)]
  · rw [if_neg hm, if_neg (by cases h : s.modes.mode <;> simp_all [PartMode.servicing])]
    cases s.map.regionLookup r.lba.toNat ((r.len.toNat + 511) / 512) with
    | none => rfl
    | some i =>
      dsimp only
      show (if hasStream (s.map.regions[i].streamSet k) r.stream = false then _ else
        match guardFailure s.guard.state s.map.regions[i].guarded with
        | some status => Checked.fails status
        | none => if k = ReqKind.write ∧ s.map.regions[i].readOnly = true then .fails .writeProtected else
          match cutFailure (s.port s.map.regions[i].unit).state k with
          | some status => .fails status
          | none => .passes i) = _
      unfold hasStream RegionEntry.streamSet
      generalize s.map.regions[i] = e
      by_cases hs : (if k = ReqKind.write then e.writers else e.readers).getLsbD r.stream.val = false
      · rw [if_pos hs, if_pos hs]
      · rw [if_neg hs, if_neg hs]
        unfold guardFailure cutFailure
        cases e.guarded <;> cases s.guard.state <;> cases k <;> cases e.readOnly <;> cases (s.port e.unit).state <;> simp

/-- A range below the window is no window access. -/
theorem newRequest_notWindow {s : State} {k r} (h1 : r.lba.toNat < 4294967292) (h2 : r.lba.toNat + (r.len.toNat + 511) / 512 ≤ 4294967292)
    : (newRequest s k r).windowTarget = false := by
  unfold Request.windowTarget Config.windowBase
  show (decide (4294967292 ≤ r.lba.toNat) || decide (4294967292 < r.lba.toNat + (r.len.toNat + 511) / 512)) = false
  simp; omega

/-- A scan does not resume while the quiet flag is clear. -/
theorem scanResume_unquiet {x : State} (hx : x.scan.quiet = false) : x.scanResume = x := by
  unfold State.scanResume
  split
  · rfl
  · rw [if_neg (by simp [hx])]

/-- A scan under way that suspends while the quiet flag is clear stays SUSPENDED. -/
theorem scanSuspends_unquiet {x : State} (hx : x.scan.quiet = false) : x.scanSuspends = { x with scan := { x.scan with
    state := if x.scan.context = none then x.scan.state else .suspended } } := by
  unfold State.scanSuspends
  split
  · next h => rw [if_pos h]
  · next h =>
    rw [if_neg (by rw [h]; exact Option.some_ne_none _)]
    exact scanResume_unquiet (x := { x with scan := { x.scan with state := .suspended } }) hx

/-- Suspending changes the ports and the scan engine alone. -/
theorem suspends_form {s x : State} (hx : ∃ p m, x = { s with ports := p, scan := m } ∧ m.quiet = false) :
    ∃ p m, x.scanSuspends = { s with ports := p, scan := m } ∧ m.quiet = false := by
  obtain ⟨p, m, e, hm⟩ := hx
  rw [scanSuspends_unquiet (by rw [e]; exact hm), e]
  exact ⟨_, _, rfl, hm⟩

/-- Suspending a PATROL changes the ports and the scan engine alone. -/
theorem suspendPatrol_eq (s : State) (hq : s.scan.quiet = false) : ∃ p m, s.suspendPatrol = { s with ports := p, scan := m } ∧
    m.quiet = false := by
  unfold State.suspendPatrol
  split
  · exact ⟨_, _, rfl, hq⟩
  · next c hc =>
    split
    · split
      · exact suspends_form ⟨_, _, rfl, hq⟩
      · next v hv =>
        split
        · exact suspends_form ⟨_, _, rfl, hq⟩
        · split
          · obtain ⟨p, hp⟩ := withdrawScan_eq s (some v)
            rw [hp]; exact suspends_form ⟨_, _, rfl, hq⟩
          · exact ⟨_, _, rfl, hq⟩
    · exact ⟨_, _, rfl, hq⟩

/-- Host traffic that begins clears the quiet flag and changes the ports and the scan engine alone (R111). -/
theorem trafficBegins_eq (s : State) : ∃ p m, s.trafficBegins = { s with ports := p, scan := m } ∧ m.quiet = false :=
    suspendPatrol_eq _ rfl

/-- A change of the last item. -/
theorem onRequest_end {s : State} {l : List Item} {q : Request} (hi : s.engine.items = l ++ [.host q]) (hl :
    ∀ m ∈ l.map Item.id, m < q.id) (f : Request → Request) :
    s.onRequest q.id f = { s with engine := { s.engine with items := l ++ [.host (f q)] } } := by
  have hm : l.map (Item.onRequest q.id f) = l := by
    conv_rhs => rw [← List.map_id l]
    exact List.map_congr_left fun i hi => onItem_ne (Nat.ne_of_lt (hl _ (List.mem_map_of_mem hi)))
  rw [onRequest_eq, hi, List.map_append, hm]
  simp [Item.onRequest]

/-- The last item is found. -/
theorem request_end {s : State} {l : List Item} {q : Request} (hi : s.engine.items = l ++ [.host q]) (hl :
    ∀ m ∈ l.map Item.id, m < q.id) :
    s.request? q.id = some q := by
  unfold State.request?
  rw [hi, List.find?_append]
  have : l.find? (fun i => i.id == q.id) = none := by
    rw [List.find?_eq_none]
    intro i hi
    have := hl _ (List.mem_map_of_mem hi)
    simp; omega
  rw [this]
  simp [Item.id, Item.request?]

/-- The new item leaves as it came. -/
theorem admitted_remove {s : State} (h : s.Lawful) (k r) : (admitted s k r).removeItem (newRequest s k r).id =
    { admitted s k r with engine := s.engine } := by
  unfold State.removeItem State.trafficEnds
  dsimp only
  rw [admitted_filter h, admitted_traffic]
  rw [if_neg]
  · rfl
  · intro hh
    have : (s.traffic && !s.traffic) = true := hh
    simp at this

/-- Of two uses of one tag the later stands. -/
theorem tags_set {v : Vector TagUse 32} (t : Fin 32) (a b : TagUse) : (v.set t a).set t b = v.set t b := by
  apply Vector.ext
  intro i hi
  simp only [Vector.getElem_set]
  split <;> rfl

/-- A free tag that was used twice and freed leaves the table as it was. -/
theorem tags_set_set_free {v : Vector TagUse 32} (t : Fin 32) (a b : TagUse) (h : v[t] = .free) : ((v.set t a).set t b).set t .free = v :=
    by
  rw [tags_set, tags_set_free _ _ _ h]

/-- The state after a window access is admitted: its tag is the window’s, and no item is left. -/
def windowAccess (s : State) (k : ReqKind) (r : RequestFields) : State :=
    { admitted s k r with engine := s.engine, link := { s.link with tags := (s.link.tags.set r.tag .request).set r.tag .window } }

/-- A refused window access leaves what `State.passedThrough` says (R127). -/
theorem windowAccess_refuse {s : State} {frame r k} (h : s.Arrives frame r k) (st : Status) (n : Nat) :
    (windowAccess s k r).windowRefuse r.tag r.stream st n = s.passedThrough r k [.completion r.tag st n none false (s.mgmt.events !=
        0)] StreamCounters.refusedOne := by
  unfold State.windowRefuse State.sendCompletion State.passedThrough State.countRefused State.onStream
  have ht := tags_set_set_free r.tag .request .window h.tag
  show State.mk _ _ _ _ _ _ _ _ _ _ _ _ _ _ _ _ _ _ = State.mk _ _ _ _ _ _ _ _ _ _ _ _ _ _ _ _ _ _
  congr 1
  · show LinkPort.mk (((s.link.tags.set r.tag .request).set r.tag .window).set r.tag .free) _ = _
    rw [ht]; rfl

/-- A W0 write with an IDLE engine waits for its data (R130). -/
theorem windowAccess_write {s : State} {frame k r} (_h : s.Arrives frame r k) (hm : s.mgmt.state = .idle) :
    (windowAccess s k r).windowWrite (newRequest s k r) =
    { s.passedThrough r k [.dataRequest r.tag 0 1] id with
        link := { tags := s.link.tags.set r.tag .window, sent := s.link.sent ++ [.dataRequest r.tag 0 1] }
        mgmt := { s.mgmt with
          windows := s.mgmt.windows ++ [{ tag := r.tag, stream := r.stream, timer := .running s.ms s.mgmt.params.dataTimeout }] } } := by
  unfold State.windowWrite
  rw [show (windowAccess s k r).mgmt.state = .idle from hm]
  dsimp only
  unfold State.passedThrough windowAccess admitted State.send newRequest Request.admitted State.startTimer
  dsimp only [id]
  rw [tags_set]
  have : s.counters.streams.set r.stream s.counters.streams[r.stream] = s.counters.streams := by simp
  rw [this]

/-- Codes 1 to 32 name a command, others none (R133). -/
theorem command_ofCode_none {n : Nat} : Command.ofCode n = none ↔ (n = 0 ∨ 32 < n) := by
  constructor
  · intro h
    by_contra hn
    have : 1 ≤ n ∧ n ≤ 32 := by omega
    obtain ⟨a, b⟩ := this
    have : n = 1 ∨ n = 2 ∨ n = 3 ∨ n = 4 ∨ n = 5 ∨ n = 6 ∨ n = 7 ∨ n = 8 ∨ n = 9 ∨ n = 10 ∨ n = 11 ∨ n = 12 ∨ n = 13 ∨ n = 14 ∨ n =
        15 ∨ n = 16 ∨ n = 17 ∨ n = 18 ∨ n = 19 ∨ n = 20 ∨ n = 21 ∨ n = 22 ∨ n = 23 ∨ n = 24 ∨ n = 25 ∨ n = 26 ∨ n = 27 ∨ n = 28 ∨ n =
        29 ∨ n = 30 ∨ n = 31 ∨ n = 32 := by omega
    rcases this with e|e|e|e|e|e|e|e|e|e|e|e|e|e|e|e|e|e|e|e|e|e|e|e|e|e|e|e|e|e|e|e <;> subst e <;> exact absurd h (by decide)
  · intro h
    unfold Command.ofCode
    split <;> first | rfl | (exfalso; omega)

/-- Without the request, the list is as before two changes of it. -/
theorem filter_two (s : State) (id : Nat) (f g : Request → Request) (hf : ∀ r, (f r).id = r.id) (hg : ∀ r, (g r).id = r.id) :
    ((s.onRequest id f).onRequest id g).engine.items.filter (fun i => i.id != id) = s.engine.items.filter (fun i => i.id != id) := by
  rw [filter_onRequest _ _ _ hg, filter_onRequest _ _ _ hf]

/-- x differs from s in its map, watch list, events, store, request engine and scan timer alone. -/
structure Aside (s x : State) : Prop where
  link : x.link = s.link
  ports : x.ports = s.ports
  guard : x.guard = s.guard
  modes : x.modes = s.modes
  counters : x.counters = s.counters
  log : x.log = s.log
  todo : x.todo = s.todo
  mgmt : x.mgmt = { s.mgmt with events := x.mgmt.events }

/-- Two changes aside are one. -/
theorem Aside.trans {a b c : State} (h : Aside a b) (k : Aside b c) : Aside a c :=
  ⟨k.link.trans h.link, k.ports.trans h.ports, k.guard.trans h.guard, k.modes.trans h.modes, k.counters.trans h.counters,
      k.log.trans h.log,
   k.todo.trans h.todo, by rw [k.mgmt, h.mgmt]⟩

/-- No change is aside. -/
theorem Aside.refl (a : State) : Aside a a := ⟨rfl, rfl, rfl, rfl, rfl, rfl, rfl, rfl⟩

/-- A change of the request engine is aside. -/
theorem aside_engine (s : State) (e) : Aside s { s with engine := e } := ⟨rfl, rfl, rfl, rfl, rfl, rfl, rfl, rfl⟩

/-- A new watch list is aside. -/
theorem setWatch_aside (s : State) (l) : Aside s (s.setWatch l) ∧ (s.setWatch l).engine = s.engine := by
  unfold State.setWatch; split
  · exact ⟨Aside.refl _, rfl⟩
  · exact ⟨⟨rfl, rfl, rfl, rfl, rfl, rfl, rfl, rfl⟩, rfl⟩

/-- An event is aside. -/
theorem raise_aside (s : State) (e) : Aside s (s.raise e) ∧ (s.raise e).engine = s.engine := ⟨⟨rfl, rfl, rfl, rfl, rfl, rfl, rfl, rfl⟩,
    rfl⟩

/-- The event of a suspect pin target is aside. -/
theorem suspectDue_aside (s : State) (l) : Aside s (s.suspectDue l) ∧ (s.suspectDue l).engine = s.engine := by
  unfold State.suspectDue; split
  · exact raise_aside _ _
  · exact ⟨Aside.refl _, rfl⟩

/-- Two changes aside that keep the request engine are one. -/
theorem aside_and_trans {a b c : State} (h : Aside a b ∧ b.engine = a.engine) (k : Aside b c ∧ c.engine = b.engine) : Aside a c ∧
    c.engine = a.engine :=
  ⟨h.1.trans k.1, k.2.trans h.2⟩

/-- A new watch entry is aside. -/
theorem insertWatch_aside (s : State) (e) : Aside s (s.insertWatch e).2 ∧ (s.insertWatch e).2.engine = s.engine := by
  unfold State.insertWatch
  split
  · exact setWatch_aside _ _
  · split
    · exact raise_aside _ _
    · exact setWatch_aside _ _

/-- A media error in the watch list is aside. -/
theorem applyError_aside (s : State) (a k) : Aside s (s.applyError a k) ∧ (s.applyError a k).engine = s.engine := by
  unfold State.applyError
  split
  · exact ⟨Aside.refl _, rfl⟩
  · dsimp only
    split
    · have h : Aside s (s.rewatch fun e => if e.block = a then e.apply k s.now else e) ∧ (s.rewatch fun e => if e.block =
        a then e.apply k s.now else e).engine = s.engine := by
        unfold State.rewatch; exact aside_and_trans (setWatch_aside _ _) (suspectDue_aside _ _)
      split
      · exact aside_and_trans h (raise_aside _ _)
      · exact h
    · split
      · have h := aside_and_trans (insertWatch_aside s ((WatchEntry.apply
          { block := a, score := 0, age := 0, pending := false, due := false, cause := k, stamp := s.now }
          k s.now).evaluated s.mgmt.params.promotion)) (suspectDue_aside _ s.health.watch)
        split
        · exact aside_and_trans h (raise_aside _ _)
        · exact h
      · exact insertWatch_aside _ _

/-- A discarded spare is aside. -/
theorem discardSpare_aside (s : State) (u b) : Aside s (s.discardSpare u b) ∧ (s.discardSpare u b).engine = s.engine := by
  unfold State.discardSpare State.clearTableFull
  dsimp only
  (repeat' split) <;> exact ⟨⟨rfl, rfl, rfl, rfl, rfl, rfl, rfl, rfl⟩, rfl⟩

/-- The spare of an orphan repair that is discarded is aside. -/
theorem discardHeld_aside (s : State) (g) : Aside s (s.discardHeld g) ∧ (s.discardHeld g).engine = s.engine := by
  unfold State.discardHeld
  split
  · split
    · exact ⟨Aside.refl _, rfl⟩
    · unfold State.orphanDiscards; exact aside_and_trans (discardSpare_aside _ _ _) (applyError_aside _ _ _)
  · exact ⟨Aside.refl _, rfl⟩

/-- So are those of a list of segments. -/
theorem foldHeld_aside (l : List Segment) (s : State) : Aside s (l.foldl State.discardHeld s) ∧ (l.foldl State.discardHeld s).engine =
    s.engine := by
  induction l generalizing s with
  | nil => exact ⟨Aside.refl _, rfl⟩
  | cons g l ih => exact aside_and_trans (discardHeld_aside s g) (ih _)

/-- What a LINK RESET leaves of an item (R67). -/
def afterLinkReset (i : Item) : Option Item :=
  match i with
  | .reloc q => some (.reloc q)
  | .host r =>
    if r.orphan then some (.host r)
    else if r.segs.any Segment.atPort then some (.host { r with segs := r.segs.filter Segment.atPort, orphan := true })
    else none

/-- A LINK RESET of one request, an orphan already: it keeps its segments at the port, or leaves (R67). -/
theorem resetRequest_spec (s : State) (pre post : List Item) (r : Request) (hi : s.engine.items = pre ++ .host r :: post)
    (ho : (s.engine.items.map Item.id).Pairwise (· < ·)) :
    Aside s (s.resetRequest r.id) ∧ (s.resetRequest r.id).engine.items =
      pre ++ (if r.segs.any Segment.atPort then [Item.host { r with segs := r.segs.filter Segment.atPort }] else []) ++ post := by
  have hne : ∀ j ∈ pre ++ post, j.id ≠ r.id := by
    rw [hi, List.map_append, List.map_cons, List.pairwise_append, List.pairwise_cons] at ho
    obtain ⟨_, ⟨h2, _⟩, h3⟩ := ho
    intro j hj
    rcases List.mem_append.mp hj with h | h
    · exact Nat.ne_of_lt (h3 _ (List.mem_map_of_mem h) _ (by simp [Item.id]))
    · exact Nat.ne_of_gt (h2 _ (List.mem_map_of_mem h))
  have hreq : s.request? r.id = some r := by
    have hm : Item.host r ∈ s.engine.items := by rw [hi]; simp
    unfold State.request?
    rw [show (fun i : Item => i.id == r.id) = (fun i : Item => i.id == (Item.host r).id) from rfl, items_find_id ho hm]; rfl
  have le : heldBy (r.segs.filter Segment.atPort) ≤ heldBy r.segs := by
    unfold heldBy
    induction r.segs with
    | nil => exact Nat.le_refl _
    | cons g l ih => rw [List.filter_cons]; split <;> simp only [List.map_cons, List.sum_cons] <;> omega
  have reseg : s.resegment r.id (fun l => l.filter Segment.atPort) =
      { s with engine :=
        { items := pre ++ .host { r with segs := r.segs.filter Segment.atPort } :: post
          freeBuffers := s.engine.freeBuffers + heldBy r.segs - heldBy (r.segs.filter Segment.atPort) } } := by
    have hm (l : List Item) (hl : ∀ j ∈ l, j.id ≠ r.id) (f : Request → Request) : l.map (Item.onRequest r.id f) = l := by
      conv_rhs => rw [← List.map_id l]
      exact List.map_congr_left fun j hj => onItem_ne (hl j hj)
    unfold State.resegment
    rw [hreq]
    dsimp only
    rw [if_pos (le.trans (Nat.le_add_left _ _)), onRequest_eq, hi, List.map_append, List.map_cons,
      hm pre (fun j hj => hne j (List.mem_append_left _ hj)), hm post (fun j hj => hne j (List.mem_append_right _ hj))]
    simp [Item.onRequest]
  unfold State.resetRequest
  rw [hreq]
  dsimp only
  rw [reseg]
  have hA : Aside s { s with engine :=
        { items := pre ++ .host { r with segs := r.segs.filter Segment.atPort } :: post
          freeBuffers := s.engine.freeBuffers + heldBy r.segs - heldBy (r.segs.filter Segment.atPort) } } := aside_engine s _
  have hf := foldHeld_aside (r.segs.filter fun g => !g.atPort) { s with engine :=
        { items := pre ++ .host { r with segs := r.segs.filter Segment.atPort } :: post
          freeBuffers := s.engine.freeBuffers + heldBy r.segs - heldBy (r.segs.filter Segment.atPort) } }
  generalize List.foldl State.discardHeld _ _ = X at hf
  have hXi : X.engine.items = pre ++ .host { r with segs := r.segs.filter Segment.atPort } :: post := by rw [hf.2]
  split
  · exact ⟨hA.trans hf.1, by rw [hXi]; simp⟩
  · obtain ⟨t, ht⟩ := removeItem_eq X r.id
    rw [ht]
    refine ⟨hA.trans (hf.1.trans ⟨rfl, rfl, rfl, rfl, rfl, rfl, rfl, rfl⟩), ?_⟩
    dsimp only
    rw [hXi, List.filter_append, List.filter_cons]
    have hm : ∀ l : List Item, (∀ j ∈ l, j.id ≠ r.id) → l.filter (fun j => j.id != r.id) = l := by
      intro l hl
      rw [List.filter_eq_self]; intro j hj; simpa using hl j hj
    rw [hm pre (fun j hj => hne j (List.mem_append_left _ hj)), hm post (fun j hj => hne j (List.mem_append_right _ hj))]
    simp [Item.id]



/-- A LINK RESET of the live requests of a part of the list, whose tags it has taken. -/
theorem foldReset_spec (post : List Item) : ∀ (s : State) (pre : List Item), s.engine.items = pre ++ post.map Item.orphaned →
    (s.engine.items.map Item.id).Pairwise (· < ·) →
    Aside s (((post.filter Item.live).map Item.id).foldl State.resetRequest s) ∧
      (((post.filter Item.live).map Item.id).foldl State.resetRequest s).engine.items = pre ++ post.filterMap afterLinkReset := by
  induction post with
  | nil => intro s pre hi ho; exact ⟨Aside.refl _, by simpa using hi⟩
  | cons i post ih =>
    intro s pre hi ho
    have stays (h : i.live = false) (k : i.orphaned = i) (q : afterLinkReset i = some i) :
        Aside s ((((i :: post).filter Item.live).map Item.id).foldl State.resetRequest s) ∧
          ((((i :: post).filter Item.live).map Item.id).foldl State.resetRequest s).engine.items =
            pre ++ (i :: post).filterMap afterLinkReset := by
      obtain ⟨h1, h2⟩ := ih s (pre ++ [i]) (by rw [hi, List.map_cons, k]; simp) ho
      rw [List.filter_cons, h, List.filterMap_cons, q]
      exact ⟨h1, by rw [if_neg (by simp), h2]; simp⟩
    match i with
    | .reloc q => exact stays rfl rfl rfl
    | .host r =>
      by_cases live : r.orphan = true
      · exact stays (by show (!r.orphan) = false; rw [live]; rfl) (by show Item.host { r with orphan := true } = .host r; rw [← live])
          (if_pos live)
      · obtain ⟨h1, h2⟩ := resetRequest_spec s pre (post.map Item.orphaned) { r with orphan := true } hi ho
        have ho2 : ((s.resetRequest r.id).engine.items.map Item.id).Pairwise (· < ·) := by
          rw [h2]
          rw [hi] at ho
          refine ho.sublist ?_
          rw [List.append_assoc, List.map_append, List.map_append, List.map_append, List.map_cons, List.map_cons]
          refine List.Sublist.append_left ?_ _
          split
          · exact List.Sublist.refl _
          · exact List.sublist_cons_self _ _
        obtain ⟨k1, k2⟩ := ih _ (pre ++ (if r.segs.any Segment.atPort then
          [Item.host { { r with orphan := true } with segs := r.segs.filter Segment.atPort }] else [])) h2 ho2
        have first : ((Item.host r :: post).filter Item.live).map Item.id = r.id :: (post.filter Item.live).map Item.id := by
          rw [List.filter_cons, if_pos (by show (!r.orphan) = true; simp [live])]; rfl
        rw [first, List.foldl_cons]
        refine ⟨h1.trans k1, ?_⟩
        rw [k2, List.filterMap_cons]
        have out : afterLinkReset (.host r) = if r.segs.any Segment.atPort then
            some (.host { r with segs := r.segs.filter Segment.atPort, orphan := true }) else none := if_neg live
        rw [out]
        by_cases h : r.segs.any Segment.atPort = true
        · rw [if_pos h, if_pos h]; simp
        · rw [if_neg h, if_neg h]; simp

/-- The records of a LINK RESET: every live request leaves or stays as an orphan with its segments at the port, and all tags are free
(R67). -/
theorem takeLinkReset_spec {s : State} (b : s.Bounded) :
    Aside s.freeTags s.takeLinkReset ∧ s.takeLinkReset.engine.items = s.engine.items.filterMap afterLinkReset :=
  foldReset_spec s.engine.items s.freeTags [] rfl (by
    show ((s.engine.items.map Item.orphaned).map Item.id).Pairwise _
    rw [orphans_id]; exact b.order)

/-- The segment after its change. -/
theorem segment_onSegment {r : Request} {g : Segment} {f : Segment → Segment} (h : r.segment? g.id = some g) (hf : ∀ g, (f g).id = g.id) :
    (r.onSegment g.id f).segment? g.id = some (f g) := by
  unfold Request.segment? Request.onSegment at *
  dsimp only
  rw [List.find?_map]
  have : ((fun x : Segment => x.id == g.id) ∘ fun x : Segment => if x.id == g.id then f x else x) = fun x => x.id == g.id := by
    funext x; simp only [Function.comp_apply]; split
    · rw [hf]
    · rfl
  rw [this, h]
  simp

/-- Two changes of one segment are one. -/
theorem onSegment_onSegment (s : State) (id seg : Nat) (f k : Segment → Segment) (hf : ∀ g, (f g).id = g.id) :
    (s.onSegment id seg f).onSegment id seg k = s.onSegment id seg fun g => k (f g) := by
  unfold State.onSegment
  rw [onRequest_onRequest s id (fun r => r.onSegment seg f) (fun r => r.onSegment seg k) (fun _ => rfl)]
  congr 1
  funext r
  unfold Request.onSegment
  dsimp only
  rw [List.map_map]
  congr 1
  apply List.map_congr_left
  intro g _
  simp only [Function.comp_apply]
  by_cases hg : g.id = seg
  · simp [hg, hf]
  · simp [hg]

/-- A port with four operations outstanding has no free slot. -/
theorem freeSlot_none {p : Port} (h : p.slots.toList.all (fun o => o.isSome) = true) : p.freeSlot = none := by
  unfold Port.freeSlot units
  unfold Four.toList at h
  simp only [List.all_cons, List.all_nil, Bool.and_eq_true] at h
  obtain ⟨a, b, c, d, -⟩ := h
  have e0 : (p.slots.get 0).isNone = false := by show p.slots.a.isNone = false; rw [Option.isNone_eq_false_iff]; exact a
  have e1 : (p.slots.get 1).isNone = false := by show p.slots.b.isNone = false; rw [Option.isNone_eq_false_iff]; exact b
  have e2 : (p.slots.get 2).isNone = false := by show p.slots.c.isNone = false; rw [Option.isNone_eq_false_iff]; exact c
  have e3 : (p.slots.get 3).isNone = false := by show p.slots.d.isNone = false; rw [Option.isNone_eq_false_iff]; exact d
  simp [List.find?, e0, e1, e2, e3]

/-- A port without a free slot sends nothing. -/
theorem pump_full {s : State} {u : Fin 4} (h : (s.port u).freeSlot = none) : s.pump u = s := by
  unfold State.pump State.pumpUpTo; rw [h]

/-- Where every HELD item is held, none has cleared. -/
theorem firstCleared_none {s : State} (l : List Item) : ∀ before, (∀ pre i post, l = pre ++ i :: post → i.held = true →
    s.holds (before ++ pre) i = true) → s.firstCleared before l = none := by
  induction l with
  | nil => intro before h; rfl
  | cons i l ih =>
    intro before h
    unfold State.firstCleared
    rw [if_neg]
    · apply ih
      intro pre j post e hj
      have := h (i :: pre) j post (by rw [e]; rfl) hj
      simpa using this
    · intro hc
      simp only [Bool.and_eq_true, Bool.not_eq_true'] at hc
      have := h [] i l rfl hc.1
      rw [List.append_nil] at this
      rw [this] at hc; exact absurd hc.2 (by simp)

/-- The first HELD item that nothing holds has cleared. -/
theorem firstCleared_some {s : State} (pre : List Item) (i : Item) (post : List Item) (hi : i.held = true) :
    ∀ before, s.holds (before ++ pre) i = false →
    (∀ b j a, pre = b ++ j :: a → j.held = true → s.holds (before ++ b) j = true) → s.firstCleared before (pre ++ i :: post) = some i :=
        by
  induction pre with
  | nil =>
    intro before hh _
    rw [List.append_nil] at hh
    rw [List.nil_append]
    unfold State.firstCleared; rw [if_pos (by rw [hi, hh]; rfl)]
  | cons j pre ih =>
    intro before hh h
    rw [List.cons_append]
    unfold State.firstCleared
    rw [if_neg]
    · apply ih
      · simpa using hh
      · intro b k a e hk
        have := h (j :: b) k a (by rw [e]; rfl) hk
        simpa using this
    · intro hc
      simp only [Bool.and_eq_true, Bool.not_eq_true'] at hc
      have := h [] j pre rfl hc.1
      rw [List.append_nil] at this
      rw [this] at hc; exact absurd hc.2 (by simp)

/-- A change of one item of a list in order. -/
theorem map_onItem_mid {pre post : List Item} {r : Request} {id : Nat} (f : Request → Request) (h : ((pre ++ .host r ::
    post).map Item.id).Pairwise (· < ·)) (hid : r.id = id) :
    (pre ++ .host r :: post).map (Item.onRequest id f) = pre ++ .host (f r) :: post := by
  subst hid
  have hne : ∀ j ∈ pre ++ post, j.id ≠ (Item.host r).id := by
    rw [List.map_append, List.map_cons, List.pairwise_append, List.pairwise_cons] at h
    obtain ⟨_, ⟨h2, _⟩, h3⟩ := h
    intro j hj
    rcases List.mem_append.mp hj with h | h
    · exact Nat.ne_of_lt (h3 _ (List.mem_map_of_mem h) _ (by simp))
    · exact Nat.ne_of_gt (h2 _ (List.mem_map_of_mem h))
  have hm : ∀ l : List Item, (∀ j ∈ l, j.id ≠ (Item.host r).id) → l.map (Item.onRequest (Item.host r).id f) = l := by
    intro l hl
    conv_rhs => rw [← List.map_id l]
    exact List.map_congr_left fun j hj => onItem_ne (hl j hj)
  show List.map (Item.onRequest (Item.host r).id f) _ = _
  rw [List.map_append, List.map_cons, hm pre (fun j hj => hne j (List.mem_append_left _ hj)),
      hm post (fun j hj => hne j (List.mem_append_right _ hj))]
  simp [Item.onRequest, Item.id]

/-- An item of a list in order is found. -/
theorem request_mid {s : State} {pre post : List Item} {q : Request} (hi : s.engine.items = pre ++ .host q :: post) (ho :
    (s.engine.items.map Item.id).Pairwise (· < ·)) :
    s.request? q.id = some q := by
  have hm : Item.host q ∈ s.engine.items := by rw [hi]; simp
  unfold State.request?
  rw [show (fun i : Item => i.id == q.id) = (fun i : Item => i.id == (Item.host q).id) from rfl, items_find_id ho hm]; rfl

/-- One cut of a request whose port takes it (R51, R53). -/
theorem cutOnce_step {s : State} {pre post : List Item} {q : Request} {y : Extent} (hi : s.engine.items = pre ++ .host q :: post) (ho :
    (s.engine.items.map Item.id).Pairwise (· < ·))
    (hk : q.kind ≠ .verify) (hy : q.home = some y) (hp : cutFailure (s.port y.unit).state q.kind = none) :
    s.cutOnce q.id = if q.cuts then (true,
        { s with
          nextId := s.nextId + 1
          engine := { s.engine with items := pre ++ .host { q with
            segs := q.segs ++ [s.nextSegment q y], cursor := q.cursor + (s.nextSegment q y).count } :: post } })
      else (false, s) := by
  unfold State.cutOnce
  rw [request_mid hi ho]; dsimp only; rw [hy]; dsimp only
  split
  · rw [hp]
    dsimp only
    rw [onRequest_eq]
    dsimp only
    rw [hi, map_onItem_mid _ (by rw [← hi]; exact ho) rfl]
    simp only [hy]
  · rfl

/-- The order of the list rests on the serial numbers alone. -/
theorem order_mid {pre post : List Item} {q q' : Request} (h : ((pre ++ .host q :: post).map Item.id).Pairwise (· < ·)) (hid :
    q'.id = q.id) :
    ((pre ++ .host q' :: post).map Item.id).Pairwise (· < ·) := by
  rw [List.map_append, List.map_cons] at *
  rw [show (Item.host q').id = (Item.host q).id from hid]; exact h

/-- Cuts of a request whose port takes them add segments at its end and move its cursor (R51). -/
theorem cutUpTo_spec (n : Nat) : ∀ (s : State) (pre post : List Item) (q : Request) (y : Extent), s.engine.items = pre ++ .host q ::
    post → (s.engine.items.map Item.id).Pairwise (· < ·) →
    q.kind ≠ .verify → q.home = some y → cutFailure (s.port y.unit).state q.kind = none →
    ∃ l c m, State.cutUpTo q.id n s =
        { s with nextId := m, engine := { s.engine with items := pre ++ .host { q with segs := q.segs ++ l, cursor := c } :: post } } :=
        by
  induction n with
  | zero =>
    intro s pre post q y hi ho hk hy hp
    refine ⟨[], q.cursor, s.nextId, ?_⟩
    unfold State.cutUpTo
    rw [List.append_nil, ← hi]
  | succ n ih =>
    intro s pre post q y hi ho hk hy hp
    unfold State.cutUpTo
    rw [cutOnce_step hi ho hk hy hp]
    by_cases hc : q.cuts = true
    · rw [if_pos hc]
      simp only [if_true]
      obtain ⟨l, c, m, h⟩ := ih
        { s with
          nextId := s.nextId + 1
          engine := { s.engine with items := pre ++ .host { q with
            segs := q.segs ++ [s.nextSegment q y], cursor := q.cursor + (s.nextSegment q y).count } :: post } } pre post
        { q with segs := q.segs ++ [s.nextSegment q y], cursor := q.cursor + (s.nextSegment q y).count } y rfl
        (order_mid (q := q) (by rw [← hi]; exact ho) rfl) hk hy hp
      refine ⟨s.nextSegment q y :: l, c, m, ?_⟩
      refine h.trans ?_
      dsimp only
      rw [List.append_assoc]; rfl
    · rw [if_neg hc]
      simp only [Bool.false_eq_true, if_false]
      refine ⟨[], q.cursor, s.nextId, ?_⟩
      rw [List.append_nil, ← hi]

end Sys2Proof.Laws
end

