-- ==== Sys2Proof/Laws/EffectsPorts.lean ====
section
/-!
SUPPORT. What the operations of the ports, of start-up, of standby, of the watch list and of the spare pools do.
-/

set_option linter.all false

set_option Elab.async false

namespace Sys2Proof.Laws

open Sys2Proof Sys2Proof.Machine

/-- Empty slots with one filled and emptied are empty. -/
theorem four_all_set_none {α : Type} (i : Fin 4) (a : Option α) : ((Four.all none : Four (Option α)).set i a).set i none =
    Four.all none := by
  rw [four_set_set]; match i with
  | 0 => rfl
  | 1 => rfl
  | 2 => rfl
  | 3 => rfl

/-- The ports after a change of one. -/
theorem ports_onPort (s : State) (u f) : (s.onPort u f).ports = s.ports.set u (f (s.port u)) := rfl

/-- An operation that is sent is outstanding in its slot, its timer running, and counts (R78, R83, R198). -/
theorem sendOp_ports (s : State) (u place slot o) : s.sendOp u place slot o = { s with
    ports := s.ports.set u { (s.port u).without place with
      slots := ((s.port u).without place).slots.set slot (some (s.sentNow o))
      sent := (s.port u).sent ++ [⟨slot, o.kind, o.first, o.count, o.data⟩] },
    counters := { s.counters with units := s.counters.units.set u { s.counters.units.get u with operations := bump 1 (s.counters.units.get u).operations } } } := by
  cases place <;> rfl

/-- A port with nothing to send sends nothing. -/
theorem pumpUpTo_stop {s : State} {u : Fin 4} (n : Nat) (h : (s.port u).next (!s.loadEnded) = none) : State.pumpUpTo u n s = s := by
  cases n with
  | zero => rfl
  | succ n =>
    unfold State.pumpUpTo
    rw [h]
    split <;> first | rfl | (next h => cases h)

/-- Placing an attach operation at an ATTACHING port with nothing outstanding sends it in slot 0. -/
theorem placeAttach_sends {s : State} {u : Fin 4} {k : OpKind} (hst : (s.port u).state = .attaching) (hsl :
    (s.port u).slots = Four.all none)
    (hsp : (s.port u).storePlace = none) :
    ∃ c, s.placeAttach u k = { s with nextId := s.nextId + 1, counters := c, ports := s.ports.set u { s.port u with
      attachPlace := none, slots := (Four.all none).set 0 (some (s.sentNow (mkOp k 0 0 .port s.nextId []))), sent :=
          (s.port u).sent ++ [⟨0, k, 0, 0, []⟩] } } ∧
      c.link = s.counters.link ∧ c.streams = s.counters.streams ∧ (∀ v, (c.units.get v).timeouts = (s.counters.units.get v).timeouts) :=
          by
  unfold State.placeAttach State.pump
  dsimp only
  have e : State.pumpUpTo u 4 (State.onPort { s with nextId := s.nextId + 1 }
      u fun p => { p with attachPlace := some (mkOp k 0 0 .port s.nextId []) }) =
      State.sendOp (State.onPort { s with nextId := s.nextId + 1 }
          u fun p => { p with attachPlace := some (mkOp k 0 0 .port s.nextId []) }) u .attach 0 (mkOp k 0 0 .port s.nextId []) := by
    rw [State.pumpUpTo]
    rw [onPort_port]
    have h1 : ({ State.port { s with nextId := s.nextId + 1 } u with attachPlace := some (mkOp k 0 0 .port s.nextId []) } :
        Port).freeSlot = some 0 := by
      unfold Port.freeSlot units
      rw [show ({ State.port { s with nextId := s.nextId + 1 } u with attachPlace := some (mkOp k 0 0 .port s.nextId []) } :
          Port).slots = Four.all none from hsl]; rfl
    have h2 : ∀ b, ({ State.port { s with nextId := s.nextId + 1 } u with attachPlace := some (mkOp k 0 0 .port s.nextId []) } :
        Port).next b = some (.attach, mkOp k 0 0 .port s.nextId []) := by
      intro b
      unfold Port.next
      rw [show ({ State.port { s with nextId := s.nextId + 1 } u with attachPlace := some (mkOp k 0 0 .port s.nextId []) } :
          Port).state = .attaching from hst]
      unfold Port.nextAttaching
      dsimp only
      rw [if_neg]
      unfold Port.idleSlots
      rw [show ({ State.port { s with nextId := s.nextId + 1 } u with attachPlace := some (mkOp k 0 0 .port s.nextId []) } :
          Port).slots = Four.all none from hsl]
      simp [Four.all, Four.toList]
    rw [h1, h2]
    dsimp only
    apply pumpUpTo_stop
    rw [sendOp_ports, onPort_port]
    show Port.next (Four.get (Four.set _ u _) u) _ = none
    rw [Four.get_set, if_pos rfl]
    unfold Port.next
    dsimp only [Port.without]
    rw [show (State.port { s with nextId := s.nextId + 1 } u).state = .attaching from hst]
    unfold Port.nextAttaching
    dsimp only
    rw [show (State.port { s with nextId := s.nextId + 1 } u).storePlace = none from hsp]
    split <;> rfl
  rw [e]
  rw [sendOp_ports]
  refine ⟨{ s.counters with units := s.counters.units.set u { s.counters.units.get u with operations := bump 1 (s.counters.units.get u).operations } }, ?_, rfl, rfl, ?_⟩
  · rw [onPort_port]
    unfold State.onPort
    dsimp only [Port.without]
    show State.mk _ _ _ _ _ _ _ _ _ _ _ _ _ _ _ _ _ _ = State.mk _ _ _ _ _ _ _ _ _ _ _ _ _ _ _ _ _ _
    congr 1
    rw [four_set_set]
    rw [show (State.port { s with nextId := s.nextId + 1 } u).slots = Four.all none from hsl]
    rfl
  · intro v
    show (((s.counters.units.set u _).get v).timeouts) = _
    rw [Four.get_set]; split
    · next h => subst h; rfl
    · rfl

/-- A command acts out of reset. -/
theorem outcome_up {s a b : State} (h : s.inReset = false) : (Host.Outcome.next (if s.inReset = true then a else b) :
    Host.Outcome State Fault Refusal) = .next b := by rw [h]; rfl

/-- A command does nothing in reset. -/
theorem outcome_inReset {s a b : State} (h : s.inReset = true) : (Host.Outcome.next (if s.inReset = true then a else b) :
    Host.Outcome State Fault Refusal) = .next a := by rw [h]; rfl

/-- A PATROL does not heed the state of a port. -/
theorem scanPort_patrol {s : State} {u p} (h : ∀ c, s.scan.context = some c → c.kind = .patrol) : s.scanPort u p = s := by
  unfold State.scanPort
  split
  · rfl
  · next c hc => rw [if_neg]; intro hh; exact hh.1 (h c hc)

/-- Without a save none fails. -/
theorem saveFails_none {s : State} (h : s.store.save = none) (a b) : s.saveFails a b = s := by
  unfold State.saveFails; rw [h]

/-- A port that enters ATTACHING with no CHECK and no save changes nothing else. -/
theorem portReports_attaching {s : State} {u : Fin 4} (h : ∀ c, s.scan.context = some c → c.kind = .patrol) (hu : u = 0 →
    s.store.save = none) :
    s.portReports u .attaching = s := by
  unfold State.portReports
  rw [scanPort_patrol h]
  dsimp only
  rw [if_neg (show ¬(PortState.attaching = .failed ∨ PortState.attaching = .absent) by simp)]
  split
  · next h0 =>
    have := hu h0
    clear hu h
    unfold State.storePort; dsimp only; rw [saveFails_none this]
  · rfl

/-- An attach of a port with nothing outstanding sends its first operation in slot 0 (R76). -/
theorem beginAttach_sends {s : State} {u : Fin 4} {k : Bool} (hsl : (s.port u).slots = Four.all none) (hsp : (s.port u).storePlace = none)
    (h : ∀ c, s.scan.context = some c → c.kind = .patrol) (hu : u = 0 → s.store.save = none) :
    ∃ c, s.beginAttach u k = { s with nextId := s.nextId + 1, counters := c, ports := s.ports.set u { s.port u with
      state := .attaching, attempts := 0, cause := .none, waking := k, identified := false,
      attachPlace := none, slots := (Four.all none).set 0 (some (s.sentNow (mkOp (if k then .powerUp else .unitReset)
          0 0 .port s.nextId []))), sent := (s.port u).sent ++ [⟨0, (if k then .powerUp else .unitReset), 0, 0, []⟩] } } ∧
      c.link = s.counters.link ∧ c.streams = s.counters.streams ∧ (∀ v, (c.units.get v).timeouts = (s.counters.units.get v).timeouts) :=
          by
  unfold State.beginAttach State.portEnters
  dsimp only
  rw [Bool.false_and, if_neg (by simp)]
  rw [portReports_attaching (by exact h) (by exact hu), onPort_onPort]
  dsimp only
  obtain ⟨c, e, h1, h2, h3⟩ := placeAttach_sends (s :=
      s.onPort u fun p => { p with state := .attaching, attempts := 0, cause := .none, waking := k, identified := false })
    (u := u) (k := if k then .powerUp else .unitReset) (by rw [onPort_port]) (by rw [onPort_port]; exact hsl) (by rw [onPort_port]; exact
        hsp)
  refine ⟨c, ?_, h1, h2, h3⟩
  refine e.trans ?_
  rw [onPort_port, ports_onPort, four_set_set]
  rfl

/-- The end of a step with one piece of work. -/
theorem finish_one {s t : State} {w : Work} (h : s.todo = [w]) (h1 : State.doWork { s with todo := [] } w = t) (h2 : t.todo = []) :
    s.finish = t.refreshIdle := by
  unfold State.finish State.settle settleFuel
  rw [State.settleUpTo]; rw [h]; dsimp only
  rw [h1]
  rw [State.settleUpTo]; rw [h2]; dsimp only
  congr 1
  rw [← h2]

/-- The counters of a unit are no part of its port. -/
theorem port_onUnit (s : State) (u v f) : (s.onUnitCounters u f).port v = s.port v := rfl

/-- The free-value counter is no part of a port. -/
theorem port_nextFree (s : State) (n : Nat) (u : Fin 4) : State.port { s with nextFree := n } u = s.port u := rfl

/-- What was put at an index is found there. -/
theorem four_get_set_self {α : Type} (f : Four α) (u : Fin 4) (a : α) : (f.set u a).get u = a := by rw [Four.get_set, if_pos rfl]

/-- With one slot filled, its operation is the one outstanding. -/
theorem outstanding_one {p : Port} {i : Fin 4} {o : Outstanding} (h : p.slots = (Four.all none).set i (some o)) :
    p.outstanding = [o.op] := by
  unfold Port.outstanding
  rw [h]
  match i with
  | 0 => rfl
  | 1 => rfl
  | 2 => rfl
  | 3 => rfl

/-- A port that does not serve takes no state of the table of R72. -/
theorem takeState_not {s : State} {u : Fin 4} (h : (s.port u).state.serves = false) : s.takeState u = s := by
  unfold State.takeState; dsimp only; rw [if_neg]; simp [h]

/-- A port with nothing to send stays as it is. -/
theorem pump_nothing {s : State} {u : Fin 4} (h : (s.port u).next (!s.loadEnded) = none) : s.pump u = s := pumpUpTo_stop 4 h

/-- The end of a step with two pieces of work, the second left by the first. -/
theorem finish_two {s s1 s2 : State} {w1 w2 : Work} (h : s.todo = [w1]) (h1 : State.doWork { s with todo := [] } w1 = s1) (h1t :
    s1.todo = [w2])
    (h2 : State.doWork { s1 with todo := [] } w2 = s2) (h2t : s2.todo = []) : s.finish = s2.refreshIdle := by
  unfold State.finish State.settle settleFuel
  rw [State.settleUpTo]; rw [h]; dsimp only
  rw [h1]
  rw [State.settleUpTo]; rw [h1t]; dsimp only
  rw [h2]
  rw [State.settleUpTo]; rw [h2t]; dsimp only
  congr 1
  rw [← h2t]

/-- Without a scan, and without auto-patrol in SERVICE, the scan engine stays as it is. -/
theorem scanServes_none {s : State} (h : s.scan.context = none) (hm : s.modes.mode ≠ .service ∨ s.mgmt.params.autoPatrol = false) :
    s.scanServes = s := by
  unfold State.scanServes
  rw [if_neg (by intro hh; simp only [Bool.and_eq_true, decide_eq_true_eq] at hh; rcases hm with h | h
                 · exact h hh.1.1
                 · rw [h] at hh; exact absurd hh.1.2 (by simp))]
  unfold State.scanResume
  rw [h]
  dsimp only
  unfold State.scanCut State.scanCutUpTo
  rw [h]

/-- A capacity check waits only at an ATTACHING port. -/
theorem checkWaiting_not {s : State} {u : Fin 4} (h : (s.port u).state ≠ .attaching) : s.checkWaiting u = s := by
  unfold State.checkWaiting; rw [if_neg (fun hh => h hh.1)]

/-- The end of a load that found no unit 0 (R189). -/
theorem loadEnds_absent {s : State} (hl : s.loadEnded = false) (hh : s.log.held = []) (hp : ∀ u, (s.port u).state ≠ .attaching) :
    s.loadEnds .absent = State.later { (s.setLoaded .absent).closeStamps with guard := { (s.setLoaded .absent).guard with state := .disabled } } (.leaveStartup false false) := by
  unfold State.loadEnds
  rw [if_neg (by rw [hl]; simp)]
  dsimp only
  have e1 : ((s.setLoaded .absent).closeStamps).logHeld = (s.setLoaded .absent).closeStamps := by
    unfold State.logHeld
    have : (s.setLoaded .absent).closeStamps.log.held = [] := by
      show (s.log.held.map _) = []; rw [hh]; rfl
    rw [this, List.foldl_nil, ← this]
  rw [e1]
  unfold units
  simp only [List.foldl_cons, List.foldl_nil]
  have hq : ∀ u, (State.port { (s.setLoaded .absent).closeStamps with guard := { (s.setLoaded .absent).closeStamps.guard with state := LoadOutcome.absent.stored.start } } u).state ≠ .attaching := hp
  rw [checkWaiting_not (hq 0), checkWaiting_not (hq 1), checkWaiting_not (hq 2), checkWaiting_not (hq 3)]
  rfl

/-- Leaving STARTUP for CONFIG (R190). -/
theorem leaveStartup_config {s : State} (h : s.scan.context = none) : s.leaveStartup false false = { s with
    modes := { s.modes with mode := .config, phase := .none, drain := .none }
    mgmt := { s.mgmt with events := s.mgmt.events ||| Event.started.bit }
    health := { s.health with aging := s.agingTimer }
    scan := { s.scan with quietTimer := s.startTimer s.mgmt.params.quietTime } } := by
  unfold State.leaveStartup
  simp only [Bool.false_and, Bool.false_eq_true, if_false]
  unfold State.enterConfig
  rw [scanServes_none (by exact h) (.inl (by show PartMode.config ≠ .service; simp))]
  rfl

/-- Without a scan, standby ends none. -/
theorem standsBy_none {s : State} (h : s.scan.context = none) : s.scanStandsBy = s := by unfold State.scanStandsBy; rw [h]

/-- An operation sent to one unit leaves the other ports. -/
theorem sendOp_port_ne (s : State) {u v : Fin 4} (pl sl o) (h : v ≠ u) : (s.sendOp u pl sl o).port v = s.port v := by
  rw [sendOp_ports]; show Four.get (Four.set _ _ _) _ = _; rw [Four.get_set, if_neg h]; rfl

/-- Filling the slots of one port leaves the others. -/
theorem pumpUpTo_port_ne {u v : Fin 4} (h : v ≠ u) (n : Nat) (s : State) : (State.pumpUpTo u n s).port v = s.port v := by
  induction n generalizing s with
  | zero => rfl
  | succ n ih =>
    unfold State.pumpUpTo
    split
    · rw [ih, sendOp_port_ne _ _ _ _ h]
    · rfl
    · rfl

/-- A serving port with nothing waiting has nothing to send. -/
theorem next_none_of_empty {p : Port} (hs : p.state.serves = true) (h1 : p.queue = []) (h2 : p.scanPlace = none) (h3 :
    p.storePlace = none) (b : Bool) : p.next b = none := by
  unfold Port.next
  split <;> first | rfl | skip
  · unfold Port.nextServing; rw [h1, h2, h3]; rfl
  · unfold Port.nextServing; rw [h1, h2, h3]; rfl
  · next h => rw [h] at hs; cases hs

/-- POWER_DOWN is asked of one port: only that port changes, and it holds the operation where nothing waited. -/
structure Asks (s x : State) (u : Fin 4) : Prop where
  eq : ∃ n p c, x = { s with nextId := n, ports := p, counters := c }
  other : ∀ v, v ≠ u → x.port v = s.port v
  not : (s.port u).state.serves = false → x.port u = s.port u
  asks : (s.port u).state.serves = true → (s.port u).queue = [] → (s.port u).scanPlace = none → (s.port u).storePlace = none →
    ∃ n, x.port u = { s.port u with sleepRecord := some (s.port u).state, attachPlace := some (mkOp .powerDown 0 0 .port n []) }

/-- POWER_DOWN is asked of a serving port. -/
theorem askPowerDown_asks (s : State) (u : Fin 4) : Asks s (s.askPowerDown u) u := by
  unfold State.askPowerDown
  split
  · next hs =>
    obtain ⟨y, hy⟩ : ∃ y : State, y =
        { s with
          nextId := s.nextId + 1
          ports := s.ports.set u { s.port u with
            sleepRecord := some (s.port u).state, attachPlace := some (mkOp .powerDown 0 0 .port s.nextId []) } } := ⟨_, rfl⟩
    have he : (s.onPort u fun p => { p with sleepRecord := some p.state }).placeAttach u .powerDown = y.pump u := by
      unfold State.placeAttach
      dsimp only
      congr 1
      rw [hy]
      show State.mk _ _ _ _ _ _ _ _ _ _ _ _ _ _ _ _ _ _ = State.mk _ _ _ _ _ _ _ _ _ _ _ _ _ _ _ _ _ _
      congr 1
      show Four.set (Four.set _ u _) u _ = _
      rw [four_set_set]
      congr 1
      show Port.mk _ _ _ _ _ _ _ _ _ _ _ _ _ _ _ _ _ _ _ = _
      rw [show (s.onPort u fun p => { p with sleepRecord := some p.state }).ports.get u =
          { s.port u with sleepRecord := some (s.port u).state } from four_get_set_self _ _ _]
      rfl
    rw [he]
    have hyu : y.port u = { s.port u with sleepRecord := some (s.port u).state, attachPlace := some (mkOp .powerDown 0 0 .port s.nextId []) } := by
      rw [hy]; exact four_get_set_self _ _ _
    have hyv : ∀ v, v ≠ u → y.port v = s.port v := by
      intro v hv
      rw [hy]; show Four.get (Four.set _ _ _) _ = _; rw [Four.get_set, if_neg hv]; rfl
    obtain ⟨p, c, e⟩ := pump_eq y u
    refine ⟨⟨s.nextId + 1, p, c, by rw [e, hy]⟩, fun v hv => ?_, fun h => (by rw [hs] at h; cases h), fun _ h1 h2 h3 => ?_⟩
    · unfold State.pump
      rw [pumpUpTo_port_ne hv, hyv v hv]
    · have hn : (y.port u).next (!y.loadEnded) = none := by
        rw [hyu]
        exact next_none_of_empty (p := { s.port u with
          sleepRecord := some (s.port u).state, attachPlace := some (mkOp .powerDown 0 0 .port s.nextId []) }) hs h1 h2 h3 _
      rw [pump_nothing hn, hyu]
      exact ⟨_, rfl⟩
  · next h => exact ⟨⟨_, _, _, rfl⟩, fun _ _ => rfl, fun _ => rfl, fun h' => absurd h' h⟩

/-- The powering-down phase asks POWER_DOWN of every serving port (R86). -/
theorem beginPoweringDown_asks (s : State) : (∃ n p c, s.beginPoweringDown =
    { s with modes := { s.modes with phase := .poweringDown }, nextId := n, ports := p, counters := c }) ∧
    ∀ u, ((s.port u).state.serves = false → s.beginPoweringDown.port u = s.port u) ∧
      ((s.port u).state.serves = true → (s.port u).queue = [] → (s.port u).scanPlace = none → (s.port u).storePlace = none →
        ∃ n, s.beginPoweringDown.port u =
            { s.port u with sleepRecord := some (s.port u).state, attachPlace := some (mkOp .powerDown 0 0 .port n []) }) := by
  have h0 := askPowerDown_asks { s with modes := { s.modes with phase := .poweringDown } } 0
  have h1 := askPowerDown_asks (State.askPowerDown { s with modes := { s.modes with phase := .poweringDown } } 0) 1
  have h2 := askPowerDown_asks (State.askPowerDown (State.askPowerDown { s with modes := { s.modes with phase := .poweringDown } } 0) 1) 2
  have h3 := askPowerDown_asks (State.askPowerDown (State.askPowerDown (State.askPowerDown
      { s with modes := { s.modes with phase := .poweringDown } } 0) 1) 2) 3
  have he : s.beginPoweringDown = State.askPowerDown (State.askPowerDown (State.askPowerDown (State.askPowerDown
      { s with modes := { s.modes with phase := .poweringDown } } 0) 1) 2) 3 := rfl
  rw [he]
  generalize State.askPowerDown { s with modes := { s.modes with phase := .poweringDown } } 0 = a at *
  generalize State.askPowerDown a 1 = b at *
  generalize State.askPowerDown b 2 = c at *
  generalize State.askPowerDown c 3 = d at *
  have hs : ∀ u, State.port { s with modes := { s.modes with phase := .poweringDown } } u = s.port u := fun _ => rfl
  constructor
  · obtain ⟨_, _, _, ea⟩ := h0.eq
    obtain ⟨_, _, _, eb⟩ := h1.eq
    obtain ⟨_, _, _, ec⟩ := h2.eq
    obtain ⟨_, _, _, ed⟩ := h3.eq
    exact ⟨_, _, _, by rw [ed, ec, eb, ea]⟩
  · intro u
    match u with
    | 0 =>
      rw [h3.other 0 (by decide), h2.other 0 (by decide), h1.other 0 (by decide)]
      exact ⟨h0.not, h0.asks⟩
    | 1 =>
      rw [h3.other 1 (by decide), h2.other 1 (by decide)]
      have := h0.other 1 (by decide)
      rw [hs] at this; rw [← this]
      exact ⟨h1.not, h1.asks⟩
    | 2 =>
      rw [h3.other 2 (by decide)]
      have := (h1.other 2 (by decide)).trans (h0.other 2 (by decide))
      rw [hs] at this; rw [← this]
      exact ⟨h2.not, h2.asks⟩
    | 3 =>
      have := ((h2.other 3 (by decide)).trans (h1.other 3 (by decide))).trans (h0.other 3 (by decide))
      rw [hs] at this; rw [← this]
      exact ⟨h3.not, h3.asks⟩

/-- A new watch list marks the store DIRTY where it differs. -/
theorem setWatch_eq (s : State) (l) :
    s.setWatch l = { s with health := { s.health with watch := l }, store := if l = s.health.watch then s.store else s.store.dirtied } :=
    by
  unfold State.setWatch
  split
  · next h => subst h; rfl
  · next h => rw [markDirty_eq]

/-- The event of a suspect pin target is all that it changes. -/
theorem suspectDue_eq (s : State) (l) : ∃ e, s.suspectDue l = { s with mgmt := { s.mgmt with events := e } } := by
  unfold State.suspectDue; split
  · exact ⟨_, rfl⟩
  · exact ⟨_, rfl⟩

/-- A save that starts leaves the ports of the other units. -/
theorem startSave_ports {s : State} (h : (s.port 0).state = .ready) (cmd) (u : Fin 4) (hu : u ≠ 0) : (s.startSave cmd).port u =
    s.port u := by
  unfold State.startSave State.offerSave
  dsimp only
  split
  · rfl
  · split
    · rfl
    · unfold State.offerStore
      dsimp only
      rw [if_neg (by
        show ¬ ((s.port 0).state.unavailable = true); rw [h]; simp [PortState.unavailable])]
      show (State.pump _ 0).port u = _
      unfold State.pump
      rw [pumpUpTo_port_ne hu, onPort_port_ne _ _ hu]
      rfl

/-- Outside SERVICE the idle timer is stopped (R177). -/
theorem refreshIdle_rests {s : State} (h : s.modes.mode ≠ .service) :
    s.refreshIdle = { s with modes := { s.modes with idle := .stopped } } := by
  unfold State.refreshIdle
  rw [if_neg]
  · rfl
  · unfold State.idleHolds; simp [h]

theorem refreshIdle_idle (s : State) : ∃ i, s.refreshIdle = { s with modes := { s.modes with idle := i } } := refreshIdle_eq s

/-- On an empty list nothing runs. -/
theorem runAllCleared_nil {s : State} (h : s.engine.items = []) (n : Nat) : State.runAllCleared n s = s := by
  cases n with
  | zero => rfl
  | succ n => unfold State.runAllCleared; rw [h]; rfl

/-- A port that does not sleep is not woken. -/
theorem wakePort_not {s : State} {u : Fin 4} (h : (s.port u).state ≠ .sleeping) : s.wakePort u = s := by
  unfold State.wakePort; rw [if_neg h]

/-- Where no port sleeps, none is woken. -/
theorem wakeAll_not {s : State} (h : ∀ u, (s.port u).state ≠ .sleeping) : units.foldl State.wakePort s = s := by
  unfold units
  simp only [List.foldl_cons, List.foldl_nil]
  rw [wakePort_not (h 0), wakePort_not (h 1), wakePort_not (h 2), wakePort_not (h 3)]

/-- Evaluating the health of a unit changes the events alone (R39). -/
theorem evaluateHealth_ev (s : State) (b u) : ∃ e, s.evaluateHealth b u = { s with mgmt := { s.mgmt with events := e } } := by
  unfold State.evaluateHealth
  split
  · exact ⟨_, rfl⟩
  · split <;> exact ⟨_, rfl⟩

/-- A claim rests on the map alone, and changes the map, the events and the store (R33). -/
theorem claim_like {s x : State} (hm : x.map = s.map) (u h) : (x.claim u h).1 = (s.claim u h).1 ∧
    ∃ e st, (x.claim u h).2 = { x with map := (s.claim u h).2.map, mgmt := { x.mgmt with events := e }, store := st } := by
  unfold State.claim
  rw [hm]
  split
  · exact ⟨rfl, x.mgmt.events, x.store, by rw [← hm]⟩
  · split
    · exact ⟨rfl, x.mgmt.events, x.store, by rw [← hm]⟩
    · next spare p hp =>
      dsimp only
      split
      · exact ⟨rfl, _, x.store, by show State.raise x _ = { x with map := s.map, mgmt := _, store := _ }; rw [← hm]; rfl⟩
      · refine ⟨rfl, ?_⟩
        obtain ⟨e1, h1⟩ := evaluateHealth_ev (x.onPool u fun _ =>
            { p with issued := p.issued ++ [{ spare := spare, source := h, place := (s.map.learnedOf u h).isNone }], consumed := satAdd 65535 1 p.consumed }) (x.unitHealth u) u
        obtain ⟨e2, h2⟩ := evaluateHealth_ev (s.onPool u fun _ =>
            { p with issued := p.issued ++ [{ spare := spare, source := h, place := (s.map.learnedOf u h).isNone }], consumed := satAdd 65535 1 p.consumed }) (s.unitHealth u) u
        refine ⟨e1, x.store.dirtied, ?_⟩
        dsimp only
        rw [h1, h2]
        unfold State.onPool
        simp only [markDirty_eq]
        rw [hm]

/-- A claim changes the map, the events and the store alone (R33). -/
theorem claim_eq (s : State) (u h) : ∃ m e st, (s.claim u h).2 = { s with map := m, mgmt := { s.mgmt with events := e }, store := st } :=
    by
  obtain ⟨-, e, st, h⟩ := claim_like (x := s) rfl u h
  exact ⟨_, _, _, h⟩

/-- An operation offered to a port with four outstanding and a free place is queued last (R80). -/
theorem full_offer {s : State} {u : Fin 4} {k f c o d} (h1 : (s.port u).state.unavailable = false) (h2 : (s.port u).queue.length < 64)
    (h3 : (s.port u).slots.toList.all (fun o => o.isSome) = true) :
    s.offer u k f c o d = (.taken, { s with
      nextId := s.nextId + 1
      ports := s.ports.set u { s.port u with queue := (s.port u).queue ++ [mkOp k f c o s.nextId d] } }) := by
  unfold State.offer
  dsimp only
  rw [if_neg (by rw [h1]; simp), if_neg (by unfold Config.queuePlaces; omega)]
  rw [pump_full]
  · rfl
  · rw [onPort_port]; exact freeSlot_none h3

/-- Nothing is found where nothing passes. -/
theorem findSome_none {α β : Type} {f : α → Option β} {l : List α} (h : ∀ x ∈ l, f x = none) : l.findSome? f = none := by
  rw [List.findSome?_eq_none_iff]; exact h

/-- A serving port is available. -/
theorem serves_available {p : PortState} (h : p.serves = true) : p.unavailable = false := by
  cases p <;> simp_all [PortState.serves, PortState.unavailable]

/-- A sleeping port that rests and is not desired OFFLINE begins its wake attach; any other port stays (R87). -/
structure Wakes (s x : State) (u : Fin 4) : Prop where
  eq : ∃ n p c, x = { s with nextId := n, ports := p, counters := c } ∧ c.streams = s.counters.streams
  other : ∀ v, v ≠ u → x.port v = s.port v
  not : (s.port u).state ≠ .sleeping → x.port u = s.port u
  wakes : (s.port u).state = .sleeping → ∃ n, x.port u = s.attachBegun (s.port u) true n

/-- A port's part in a wake (R87). -/
theorem wakePort_wakes {s : State} {u : Fin 4} (hc : ∀ c, s.scan.context = some c → c.kind = .patrol) (hs : s.store.save = none)
    (h : (s.port u).state = .sleeping → (s.port u).desired ≠ .offline ∧ (s.port u).Rests) : Wakes s (s.wakePort u) u := by
  unfold State.wakePort
  split
  · next he =>
    obtain ⟨hd, hr⟩ := h he
    rw [if_neg hd]
    obtain ⟨c, e, -, streams, -⟩ := beginAttach_sends (k := true) hr.slots hr.store hc (fun _ => hs)
    rw [e]
    refine ⟨⟨_, _, _, rfl, streams⟩, fun v hv => ?_, fun hn => absurd he hn, fun _ => ⟨s.nextId, ?_⟩⟩
    · show Four.get (Four.set _ _ _) _ = _; rw [Four.get_set, if_neg hv]; rfl
    · exact four_get_set_self _ _ _
  · next he => exact ⟨⟨_, _, _, rfl, rfl⟩, fun _ _ => rfl, fun _ => rfl, fun h => absurd h he⟩

/-- A wake of all ports (R87). -/
theorem wakeAll_wakes {s : State} (hc : ∀ c, s.scan.context = some c → c.kind = .patrol) (hs : s.store.save = none)
    (h : ∀ u, (s.port u).state = .sleeping → (s.port u).desired ≠ .offline ∧ (s.port u).Rests) :
    (∃ n p c, units.foldl State.wakePort s = { s with nextId := n, ports := p, counters := c } ∧ c.streams = s.counters.streams) ∧
    ∀ u, ((s.port u).state ≠ .sleeping → (units.foldl State.wakePort s).port u = s.port u) ∧
      ((s.port u).state = .sleeping → ∃ n, (units.foldl State.wakePort s).port u = s.attachBegun (s.port u) true n) := by
  have fold : ∀ (l : List (Fin 4)), l.Nodup → ∀ x : State, (∃ n p c, x = { s with nextId := n, ports := p, counters := c } ∧ c.streams = s.counters.streams) →
      (∀ u ∈ l, x.port u = s.port u) →
      (∃ n p c, l.foldl State.wakePort x = { s with nextId := n, ports := p, counters := c } ∧ c.streams = s.counters.streams) ∧
      (∀ u, u ∉ l → (l.foldl State.wakePort x).port u = x.port u) ∧
      ∀ u ∈ l, ((s.port u).state ≠ .sleeping → (l.foldl State.wakePort x).port u = s.port u) ∧
        ((s.port u).state = .sleeping → ∃ n, (l.foldl State.wakePort x).port u = s.attachBegun (s.port u) true n) := by
    intro l
    induction l with
    | nil => exact fun _ x hx _ => ⟨hx, fun _ _ => rfl, nofun⟩
    | cons u l ih =>
      intro hnd x hx hp
      obtain ⟨n, p, c, ex, hst⟩ := hx
      have hu : x.port u = s.port u := hp u List.mem_cons_self
      have w : Wakes x (x.wakePort u) u := wakePort_wakes (by rw [ex]; exact hc) (by rw [ex]; exact hs) (by rw [hu]; exact h u)
      rw [List.nodup_cons] at hnd
      obtain ⟨n', p', c', ew, hst'⟩ := w.eq
      obtain ⟨a, b, d⟩ := ih hnd.2 (x.wakePort u) ⟨n', p', c', by rw [ew, ex], by rw [hst', ex]; exact hst⟩
        (fun v hv => (w.other v (fun e => hnd.1 (e ▸ hv))).trans (hp v (List.mem_cons_of_mem _ hv)))
      refine ⟨a, fun v hv => ?_, fun v hv => ?_⟩
      · rw [List.mem_cons, not_or] at hv
        exact (b v hv.2).trans (w.other v hv.1)
      · rcases List.mem_cons.mp hv with rfl | hv
        · have e := b v hnd.1
          rw [List.foldl_cons, e]
          refine ⟨fun hh => (w.not (by rw [hu]; exact hh)).trans hu, fun hh => ?_⟩
          obtain ⟨n, en⟩ := w.wakes (by rw [hu]; exact hh)
          refine ⟨n, en.trans ?_⟩
          rw [hu, ex]; rfl
        · exact d v hv
  obtain ⟨a, -, d⟩ := fold units (by decide) s ⟨_, _, _, rfl, rfl⟩ (fun _ _ => rfl)
  exact ⟨a, fun u => d u (by fin_cases u <;> decide)⟩

/-- Standby entry with no scan under way changes the modes, the ports, the counters, the store and a serial number alone (R170). -/
theorem enterStandby_enters {s : State} (hc : s.scan.context = none) : s.EntersStandby s.enterStandby ∧ ∃ ph p c st n,
    s.enterStandby = { s with
      modes := { s.modes with mode := .enteringStandby, phase := ph, drain := .none }, ports := p, counters := c, store := st, nextId := n } := by
  unfold State.enterStandby
  dsimp only
  rw [standsBy_none (by exact hc)]
  by_cases hb : s.store.state = .dirty ∧ s.mgmt.params.autosave = true ∧ (s.port 0).state = .ready
  · rw [if_pos (by exact hb)]
    have h0 : (State.port (s.onModes fun m => { m with mode := .enteringStandby, phase := .saving, drain := .none }) 0).state = .ready := hb.2.2
    have hpo := startSave_ports h0 none
    obtain ⟨p, c, st, n, e, e1, -, -, -, -, -, -, -, r, e2, e3, e4, -⟩ := startSave_eq h0 none
    rw [e] at hpo ⊢
    refine ⟨⟨rfl, rfl, rfl, rfl, rfl, rfl, rfl, fun _ _ _ => ⟨rfl, e1, ⟨r, e2, e3, e4⟩, hpo⟩, fun hh => ?_⟩, _, _, _, _, _, rfl⟩
    rcases hh with hh | hh | hh
    · exact absurd hb.1 hh
    · rw [hb.2.1] at hh; cases hh
    · exact absurd hb.2.2 hh
  · rw [if_neg (by exact hb)]
    obtain ⟨⟨n, p, c, e⟩, hu⟩ := beginPoweringDown_asks (s.onModes fun m => { m with mode := .enteringStandby, phase := .saving, drain := .none })
    rw [e] at hu ⊢
    exact ⟨⟨rfl, rfl, rfl, rfl, rfl, rfl, rfl, fun a b c => absurd ⟨a, b, c⟩ hb, fun _ => ⟨rfl, rfl, hu⟩⟩, _, _, _, _, _, rfl⟩

/-- Standby entry is seen in the fields that it names. -/
theorem enters_like {s x y : State} (h : s.EntersStandby x) (h1 : y.modes.mode = x.modes.mode) (h2 : y.modes.drain = x.modes.drain)
    (h3 : y.modes.phase = x.modes.phase) (h4 : y.engine = x.engine) (h5 : y.map = x.map) (h6 : y.health = x.health)
    (h7 : y.scan = x.scan) (h8 : y.log = x.log) (h9 : y.ports = x.ports) (h10 : y.store = x.store) : s.EntersStandby y := by
  have hp : ∀ u, y.port u = x.port u := fun u => by unfold State.port; rw [h9]
  refine ⟨h1.trans h.mode, h2.trans h.drain, h4.trans h.engine, h5.trans h.map, h6.trans h.health, h7.trans h.scan, h8.trans h.log,
    fun a b c => ?_, fun a => ?_⟩
  · rw [h3, h10]; simp only [hp]; exact h.saves a b c
  · rw [h3, h10]; simp only [hp]; exact h.powersDown a

/-- The search of a scan reads the map and whether the ports serve, nothing else (R112 to R115). -/
theorem scanFind_like {s x : State} (hm : x.map = s.map) (hp : ∀ u, (x.port u).state = (s.port u).state) (n : Nat) :
    ∀ c, x.scanFind n c = s.scanFind n c := by
  induction n with
  | zero => intro c; rfl
  | succ n ih =>
    intro c
    unfold State.scanFind
    simp only [hm, hp, ih]

/-- A port with one operation to send sends it and no other. -/
theorem pump_one {s : State} {u slot : Fin 4} {pl : Place} {o : Op} (h1 : (s.port u).freeSlot = some slot)
    (h2 : (s.port u).next (!s.loadEnded) = some (pl, o)) (h3 : ((s.sendOp u pl slot o).port u).next (!s.loadEnded) = none) :
    s.pump u = s.sendOp u pl slot o := by
  unfold State.pump
  rw [State.pumpUpTo, h1, h2]
  exact pumpUpTo_stop 3 h3

/-- A port after an operation is sent. -/
theorem sendOp_port (s : State) (u pl slot o) : (s.sendOp u pl slot o).port u = { (s.port u).without pl with
    slots := ((s.port u).without pl).slots.set slot (some (s.sentNow o))
    sent := (s.port u).sent ++ [⟨slot, o.kind, o.first, o.count, o.data⟩] } := by
  rw [sendOp_ports]
  exact four_get_set_self _ _ _

/-- A port whose slots are empty has slot 0 free. -/
theorem freeSlot_empty {p : Port} (h : p.slots = Four.all none) : p.freeSlot = some 0 := by
  unfold Port.freeSlot units; rw [h]; rfl

/-- No POWER_DOWN waits or is outstanding at a port with empty slots and an empty attach place. -/
theorem poweringDown_empty {p : Port} (h1 : p.slots = Four.all none) (h2 : p.attachPlace = none) : p.poweringDown = none := by
  unfold Port.poweringDown Port.outstanding; rw [h2, h1]; rfl

/-- A serving port sends from its slots as its places say (R79). -/
theorem next_serving {p : Port} (h : p.state.serves = true) (b : Bool) : p.next b = p.nextServing := by
  unfold Port.next
  split <;> first | rfl | skip
  all_goals next h' => rw [h'] at h; cases h

/-- A serving port with nothing outstanding and one operation in its scan place sends it in slot 0 (R79). -/
theorem pump_scan {s : State} {u : Fin 4} {o : Op} (hs : (s.port u).state.serves = true) (h1 : (s.port u).slots = Four.all none)
    (h2 : (s.port u).queue = []) (h3 : (s.port u).storePlace = none) (h4 : (s.port u).attachPlace = none)
    (h5 : (s.port u).scanPlace = some o) : s.pump u = s.sendOp u .scan 0 o := by
  apply pump_one (freeSlot_empty h1)
  · rw [next_serving hs]
    unfold Port.nextServing Port.notHeldBack
    rw [poweringDown_empty h1 h4, h2, h3, h5]; rfl
  · rw [sendOp_port]
    apply next_none_of_empty
    · exact hs
    · exact h2
    · rfl
    · exact h3

/-- A serving port with nothing outstanding and one operation in its queue sends it in slot 0 (R79). -/
theorem pump_queue {s : State} {u : Fin 4} {o : Op} (hs : (s.port u).state.serves = true) (h1 : (s.port u).slots = Four.all none)
    (h2 : (s.port u).queue = [o]) (h3 : (s.port u).storePlace = none) (h4 : (s.port u).attachPlace = none)
    (h5 : (s.port u).scanPlace = none) : s.pump u = s.sendOp u .queue 0 o := by
  apply pump_one (freeSlot_empty h1)
  · rw [next_serving hs]
    unfold Port.nextServing Port.notHeldBack
    rw [poweringDown_empty h1 h4, h2, h3, h5]; rfl
  · rw [sendOp_port]
    apply next_none_of_empty
    · exact hs
    · show (s.port u).queue.tail = []
      rw [h2]; rfl
    · exact h5
    · exact h3

/-- The counters after an operation is sent (R198). -/
def opCounted (s : State) (u : Fin 4) : CounterBank :=
  { s.counters with units := s.counters.units.set u { s.counters.units.get u with operations := bump 1 (s.counters.units.get u).operations } }

/-- An operation that passes through an empty scan place. -/
theorem through_scan {s : State} {p : Port} {o : Op} (h1 : p.slots = Four.all none) (h2 : p.scanPlace = none) :
    ({ Port.without { p with scanPlace := some o } .scan with
      slots := (Port.without { p with scanPlace := some o } .scan).slots.set 0 (some (s.sentNow o)),
      sent := p.sent ++ [⟨0, o.kind, o.first, o.count, o.data⟩] } : Port) = s.sendsFirst p o := by
  cases p; cases h1; cases h2; rfl

/-- An operation that passes through an empty queue. -/
theorem through_queue {s : State} {p : Port} {o : Op} (h1 : p.slots = Four.all none) (h2 : p.queue = []) :
    ({ Port.without { p with queue := p.queue ++ [o] } .queue with
      slots := (Port.without { p with queue := p.queue ++ [o] } .queue).slots.set 0 (some (s.sentNow o)),
      sent := p.sent ++ [⟨0, o.kind, o.first, o.count, o.data⟩] } : Port) = s.sendsFirst p o := by
  cases p; cases h1; cases h2; rfl

/-- A scan VERIFY offered at a serving port with nothing outstanding and nothing waiting is sent in slot 0 (R79, R112). -/
theorem offerScan_sends {s : State} {x : Extent} (hs : (s.port x.unit).state.serves = true) (hr : (s.port x.unit).Rests)
    (ha : (s.port x.unit).attachPlace = none) : s.offerScan x = (s.nextId, { s with
      nextId := s.nextId + 1, counters := opCounted s x.unit,
      ports := s.ports.set x.unit (s.sendsFirst (s.port x.unit) (mkOp .verify x.first x.count .scan s.nextId [])) }) := by
  have hav := serves_available hs
  unfold State.offerScan
  dsimp only
  rw [if_neg (by rw [hav]; simp)]
  have hp : (State.onPort { s with nextId := s.nextId + 1 } x.unit fun p =>
      { p with scanPlace := some (mkOp .verify x.first x.count .scan s.nextId []) }).port x.unit =
      { s.port x.unit with scanPlace := some (mkOp .verify x.first x.count .scan s.nextId []) } := onPort_port _ _ _
  rw [pump_scan (by rw [hp]; exact hs) (by rw [hp]; exact hr.slots) (by rw [hp]; exact hr.queue) (by rw [hp]; exact hr.store)
    (by rw [hp]; exact ha) (by rw [hp]), sendOp_ports, hp, ports_onPort, four_set_set]
  erw [through_scan hr.slots hr.scan]
  rfl

/-- An operation offered at a serving port with nothing outstanding and nothing waiting is taken, and sent in slot 0 (R79, R80). -/
theorem offer_sends {s : State} {u : Fin 4} {k f c w d} (hs : (s.port u).state.serves = true) (hr : (s.port u).Rests)
    (ha : (s.port u).attachPlace = none) : s.offer u k f c w d = (.taken, { s with
      nextId := s.nextId + 1, counters := opCounted s u,
      ports := s.ports.set u (s.sendsFirst (s.port u) (mkOp k f c w s.nextId d)) }) := by
  have hav := serves_available hs
  unfold State.offer
  dsimp only
  rw [if_neg (by rw [hav]; simp), if_neg (by rw [hr.queue]; decide)]
  have hp : (State.onPort { s with nextId := s.nextId + 1 } u fun p => { p with queue := p.queue ++ [mkOp k f c w s.nextId d] }).port u =
      { s.port u with queue := (s.port u).queue ++ [mkOp k f c w s.nextId d] } := onPort_port _ _ _
  have q : (s.port u).queue ++ [mkOp k f c w s.nextId d] = [mkOp k f c w s.nextId d] := by rw [hr.queue]; rfl
  rw [pump_queue (by rw [hp]; exact hs) (by rw [hp]; exact hr.slots) (by rw [hp]; exact q) (by rw [hp]; exact hr.store)
    (by rw [hp]; exact ha) (by rw [hp]; exact hr.scan), sendOp_ports, hp, ports_onPort, four_set_set]
  erw [through_queue hr.slots hr.queue]
  rfl

end Sys2Proof.Laws
end

