-- ==== Sys2Proof/Laws/Lists.lean ====
section
/-!
SUPPORT. Lists, vectors and arrays of four that change at one place.
-/

set_option linter.all false

set_option Elab.async false

namespace Sys2Proof.Laws

open Sys2Proof Sys2Proof.Machine

/-- An array of four whose entry is set to itself is the same. -/
theorem four_set_get {α : Type} (f : Four α) (u : Fin 4) : f.set u (f.get u) = f := by
  cases f; revert u; intro u; match u with
  | 0 => rfl
  | 1 => rfl
  | 2 => rfl
  | 3 => rfl

/-- A vector whose entry is set to itself is the same. -/
theorem vector_set_self {α : Type} {n : Nat} (v : Vector α n) (i : Fin n) : v.set i v[i] = v := by simp

/-- A choice by a Boolean is the choice by what it decides. -/
theorem ite_iff {p : Prop} [Decidable p] {b : Bool} (h : b = true ↔ p) {α : Type} (x y : α) : (if b = true then x else y) = if p then x else y := by
  by_cases hp : p
  · rw [if_pos hp, if_pos (h.mpr hp)]
  · rw [if_neg hp, if_neg (fun k => hp (h.mp k))]

/-- The first entry that passes is found at its place. -/
theorem findPos_at {α : Type} {p : α → Bool} {e : α} (he : p e = true) : ∀ {l r : List α} {n : Nat}, (∀ x ∈ l, p x = false) → findPos p (l ++ e :: r) n = some (n + l.length, e)
  | [], r, n, _ => by unfold findPos; simp [he]
  | y :: l, r, n, h => by
    rw [List.cons_append]; unfold findPos
    rw [if_neg (by rw [h y List.mem_cons_self]; simp), findPos_at he (fun x hx => h x (List.mem_cons_of_mem _ hx))]
    simp; omega

/-- What is found stands at its place and passes. -/
theorem findPos_some {α : Type} {p : α → Bool} : ∀ {l : List α} {n k : Nat} {x : α}, findPos p l n = some (k, x) →
    ∃ j, k = n + j ∧ l[j]? = some x ∧ p x = true
  | [], _, _, _, h => by cases h
  | y :: l, n, k, x, h => by
    unfold findPos at h
    split at h
    · next hy => cases h; exact ⟨0, rfl, rfl, hy⟩
    · obtain ⟨j, h1, h2, h3⟩ := findPos_some h
      exact ⟨j + 1, by omega, h2, h3⟩

/-- A count over places without doubles, one place taken apart. -/
theorem countP_at {n : Nat} (i : Fin n) (f : Fin n → Bool) : ∀ l : List (Fin n), l.Nodup → i ∈ l →
    l.countP f = (l.countP fun j => j != i && f j) + if f i then 1 else 0
  | [], _, h => by cases h
  | x :: l, hn, h => by
    rw [List.nodup_cons] at hn
    rw [List.countP_cons, List.countP_cons]
    by_cases hx : x = i
    · subst hx
      have : l.countP (fun j => j != x && f j) = l.countP f := by
        apply List.countP_congr
        intro y hy
        have : (y != x) = true := by rw [bne_iff_ne]; rintro rfl; exact hn.1 hy
        rw [this, Bool.true_and]
      rw [this]; simp
    · have hm : i ∈ l := by rcases List.mem_cons.mp h with h | h; exact absurd h.symm hx; exact h
      rw [countP_at i f l hn.2 hm]
      have : (x != i && f x) = f x := by rw [(bne_iff_ne).mpr hx, Bool.true_and]
      rw [this]; omega

/-- A count over a vector after one entry is set. -/
theorem countP_vset {α : Type} {n : Nat} (v : Vector α n) (i : Fin n) (e : α) (f : α → Bool) :
    ((List.finRange n).countP fun j => f (v.set i e)[j]) =
      ((List.finRange n).countP fun j => j != i && f v[j]) + if f e then 1 else 0 := by
  rw [countP_at i _ _ (List.nodup_finRange n) (List.mem_finRange i)]
  congr 1
  · apply List.countP_congr
    intro j _
    by_cases hj : j = i
    · subst hj; simp
    · have : (v.set i e)[j] = v[j] := by
        have hne : i.val ≠ j.val := fun h => hj (Fin.ext h.symm)
        exact Vector.getElem_set_ne _ _ hne
      rw [this]
  · simp

/-- A count over a vector, one entry taken apart. -/
theorem countP_vold {α : Type} {n : Nat} (v : Vector α n) (i : Fin n) (f : α → Bool) :
    ((List.finRange n).countP fun j => f v[j]) = ((List.finRange n).countP fun j => j != i && f v[j]) + if f v[i] then 1 else 0 :=
  countP_at i _ _ (List.nodup_finRange n) (List.mem_finRange i)

/-- A count over a list after one entry is set. -/
theorem countP_setAt {α : Type} (f : α → Bool) (y : α) : ∀ (l : List α) (j : Nat) (x : α), l[j]? = some x →
    (l.set j y).countP f + (if f x then 1 else 0) = l.countP f + if f y then 1 else 0
  | [], _, _, h => by cases h
  | z :: l, 0, x, h => by
    cases h
    rw [List.set_cons_zero, List.countP_cons, List.countP_cons]; omega
  | z :: l, j + 1, x, h => by
    rw [List.set_cons_succ, List.countP_cons, List.countP_cons]
    have := countP_setAt f y l j x h
    omega

/-- A list mapped with its places, read from the places. -/
theorem zipIdx_range {α β : Type} (l : List α) (F : Nat → α → β) (G : Nat → β) (h : ∀ j x, l[j]? = some x → F j x = G j) :
    (l.zipIdx.map fun x => F x.2 x.1) = (List.range l.length).map G := by
  apply List.ext_getElem?
  intro j
  simp only [List.getElem?_map, List.getElem?_zipIdx, List.getElem?_range, Option.map_map]
  by_cases hj : j < l.length
  · rw [List.getElem?_eq_getElem hj, List.getElem?_range hj]
    simp only [Option.map_some, Function.comp, Nat.zero_add]
    rw [h j _ (List.getElem?_eq_getElem hj)]
  · rw [List.getElem?_eq_none (by omega), List.getElem?_eq_none (by simp; omega)]; rfl

end Sys2Proof.Laws
end

