-- ==== Sys2Proof/Laws/Tables.lean ====
section
/-!
SUPPORT. The checks of the tables, test by test in their order (R6, R23, R36, R40), and the laws of the tables that every operation on them keeps (R8, R20, R23, R32).
-/

set_option linter.all false

set_option Elab.async false

namespace Sys2Proof.Laws

open Sys2Proof Sys2Proof.Machine

/-- Two checks in turn. -/
theorem firstOf_append {α : Type} {a b : Option α} : ∀ {l k : List (α × Prop)}, FirstOf a l → FirstOf b k → FirstOf (a.or b) (l ++ k)
  | [], k, h, hk => by cases h; exact hk
  | (c, p) :: l, k, h, hk => by
    refine ⟨fun hp => by rw [h.1 hp]; rfl, fun hp => ?_⟩
    exact firstOf_append (h.2 hp) hk

/-- One test. -/
theorem firstOf_one {α : Type} {c : α} {p : Bool} {P : Prop} (h : p = true ↔ P) : FirstOf (if p then some c else none) [(c, P)] := by
  refine ⟨fun hp => by rw [if_pos (h.mpr hp)], fun hp => ?_⟩
  show _ = none
  rw [if_neg (fun hc => hp (h.mp hc))]

/-- The first entry of a list that passes. -/
theorem firstOf_find {α β : Type} {p : α → Bool} {P : α → Prop} {f : α → β} (h : ∀ x, p x = true ↔ P x) : ∀ l : List α,
    FirstOf ((l.find? p).map f) (l.map fun x => (f x, P x))
  | [] => rfl
  | x :: l => by
    refine ⟨fun hp => by rw [List.find?_cons_of_pos ((h x).mpr hp)]; rfl, fun hp => ?_⟩
    rw [List.find?_cons_of_neg (fun hc => hp ((h x).mp hc))]
    exact firstOf_find h l

/-- The first entry of a list that passes, the test known for its entries. -/
theorem firstOf_findMem {α β : Type} {p : α → Bool} {P : α → Prop} {f : α → β} : ∀ l : List α, (∀ x ∈ l, p x = true ↔ P x) →
    FirstOf ((l.find? p).map f) (l.map fun x => (f x, P x))
  | [], _ => rfl
  | x :: l, h => by
    have hx := h x List.mem_cons_self
    refine ⟨fun hp => by rw [List.find?_cons_of_pos (hx.mpr hp)]; rfl, fun hp => ?_⟩
    rw [List.find?_cons_of_neg (fun hc => hp (hx.mp hc))]
    exact firstOf_findMem l (fun y hy => h y (List.mem_cons_of_mem _ hy))

/-- The place of the first entry that passes. -/
theorem firstOf_pos {α β : Type} {p : α → Bool} {P : Nat → α → Prop} {f : Nat → β} : ∀ (l : List α) (n : Nat), (∀ j x, p x = true ↔ P j x) →
    FirstOf ((findPos p l n).map fun y => f y.1) ((l.zipIdx n).map fun x => (f x.2, P x.2 x.1))
  | [], _, _ => rfl
  | x :: l, n, h => by
    refine ⟨fun hp => ?_, fun hp => ?_⟩
    · unfold findPos; rw [if_pos ((h n x).mpr hp)]; rfl
    · unfold findPos; rw [if_neg (fun hc => hp ((h n x).mp hc))]
      exact firstOf_pos l (n + 1) h

/-- The first of a list of checks that answers. -/
theorem firstOf_some {α β : Type} {f : α → Option β} {g : α → List (β × Prop)} : ∀ l : List α, (∀ x ∈ l, FirstOf (f x) (g x)) →
    FirstOf (l.findSome? f) (l.flatMap g)
  | [], _ => rfl
  | x :: l, h => by
    rw [List.flatMap_cons]
    have := firstOf_append (h x List.mem_cons_self) (firstOf_some l (fun y hy => h y (List.mem_cons_of_mem _ hy)))
    rw [List.findSome?_cons]
    cases hf : f x with
    | none => rw [hf] at this; exact this
    | some b => rw [hf] at this; exact this

/-- A check whose answer is renamed. -/
theorem firstOf_map {α β : Type} {a : Option α} (f : α → β) : ∀ {l : List (α × Prop)}, FirstOf a l → FirstOf (a.map f) (l.map fun c => (f c.1, c.2))
  | [], h => by cases h; rfl
  | (c, p) :: l, h => ⟨fun hp => by rw [h.1 hp]; rfl, fun hp => firstOf_map f (h.2 hp)⟩

/-- A check made under a condition. -/
theorem firstOf_guard {α : Type} {a : Option α} {V : Prop} [Decidable V] : ∀ {l : List (α × Prop)}, FirstOf a l →
    FirstOf (if V then a else none) (l.map fun c => (c.1, V ∧ c.2))
  | [], h => by cases h; show (if V then none else none) = none; split <;> rfl
  | (c, p) :: l, h => ⟨fun hp => by rw [if_pos hp.1]; exact h.1 hp.2, fun hp => by
      by_cases hv : V
      · exact firstOf_guard (h.2 (fun hc => hp ⟨hv, hc⟩))
      · rw [if_neg hv]
        clear h
        induction l with
        | nil => rfl
        | cons d l ih => exact ⟨fun hc => absurd hc.1 hv, fun _ => ih⟩⟩

/-- The first conflict of several. -/
theorem firstConflict_cons (a : Option Conflict) (l) : firstConflict (a :: l) = a.or (firstConflict l) := by
  unfold firstConflict; rw [List.findSome?_cons]; cases a <;> rfl

/-- No test, no conflict. -/
theorem firstConflict_nil : firstConflict [] = none := rfl

/-- No conflict: none of the tests answers. -/
theorem firstConflict_none {l : List (Option Conflict)} (h : firstConflict l = none) : ∀ o ∈ l, o = none := by
  unfold firstConflict at h
  rw [List.findSome?_eq_none_iff] at h
  exact h

/-- Two ranges meet exactly where the larger start lies below the smaller end. -/
theorem meet_iff (a n b m : Nat) : max a b < min (a + n) (b + m) ↔ Meet a n b m := by
  unfold Meet
  constructor
  · intro h; exact ⟨max a b, by omega, by omega, by omega, by omega⟩
  · rintro ⟨x, h1, h2, h3, h4⟩; omega

/-- The test of two ranges. -/
theorem rangesMeet_iff (a n b m : Nat) : rangesMeet a n b m = true ↔ Meet a n b m := by
  unfold rangesMeet; rw [decide_eq_true_eq]; exact meet_iff ..

/-- Meeting is mutual. -/
theorem meet_comm (a n b m : Nat) : Meet a n b m ↔ Meet b m a n := by
  unfold Meet; constructor <;> (rintro ⟨x, h1, h2, h3, h4⟩; exact ⟨x, h3, h4, h1, h2⟩)

/-- The test of one block. -/
theorem inRun_iff (a n x : Nat) : inRun a n x = true ↔ Within a n x := by unfold inRun Within; rw [decide_eq_true_eq]

/-- A block in a run lies in its range. -/
theorem inRun_of {a n x : Nat} (h : inRun a n x = true) : a ≤ x ∧ x < a + n := (inRun_iff a n x).mp h

/-- The test of a unit's capacity (R6, R7). -/
theorem overCapacity_iff (s : State) (u : Fin 4) (f n : Nat) : (s.port u).overCapacity f n = true ↔ s.Overflows u f n := by
  unfold Port.overCapacity Port.checkedCapacity State.Overflows fits
  cases h : (s.port u).state <;> cases hc : (s.port u).capacity <;> simp

/-- The test of a region's blocks (R11). -/
theorem maps_iff (m : MapUnit) (j u b) : m.regions[j].maps u b = true ↔ m.MapsAt j u b := by
  unfold RegionEntry.maps MapUnit.MapsAt
  rw [Bool.and_eq_true, Bool.and_eq_true, beq_iff_eq, inRun_iff, and_assoc]

/-- The tests against one pool (R6, R23, R36). -/
theorem pool_first (m : MapUnit) (u f n) : FirstOf ((m.pools.get u).placeIn f n) (m.poolChecks u f n) := by
  unfold MapUnit.poolChecks Pool.placeIn
  have h1 := firstOf_pos (p := fun x : SpareExtent => decide (max x.first f < min (x.first + x.count) (f + n)))
    (P := fun _ x => Meet x.first x.count f n) (f := fun j => Conflict.at .spareExtent .extent j) (m.pools.get u).extents 0
    (fun _ x => by rw [decide_eq_true_eq]; exact meet_iff ..)
  have h2 : FirstOf (if ((m.pools.get u).returned.any fun b => inRun f n b) = true then some { Conflict.bare .spareExtent with party := .returned } else none)
      [(({ Conflict.bare .spareExtent with party := .returned } : Conflict), ∃ b ∈ (m.pools.get u).returned, Within f n b)] := by
    apply firstOf_one
    rw [List.any_eq_true]; simp only [inRun_iff]
  have h3 : FirstOf (if ((m.pools.get u).issued.any fun c => inRun f n c.spare) = true then some { Conflict.bare .spareExtent with party := .issued } else none)
      [(({ Conflict.bare .spareExtent with party := .issued } : Conflict), ∃ b ∈ (m.pools.get u).issued, Within f n b.spare)] := by
    apply firstOf_one
    rw [List.any_eq_true]; simp only [inRun_iff]
  have := firstOf_append h1 (firstOf_append h2 h3)
  refine Eq.mp (congrArg₂ FirstOf ?_ rfl) this
  symm
  cases findPos (fun x : SpareExtent => decide (max x.first f < min (x.first + x.count) (f + n))) (m.pools.get u).extents 0 with
  | some y => rfl
  | none =>
    dsimp only [Option.map_none, Option.none_or]
    split
    · rfl
    · rfl

/-- One test with its report. -/
theorem fails_first (test : Bool) (c : Conflict) {P : Prop} (h : test = true ↔ P) : FirstOf (failsWith test c) [(c, P)] := by
  unfold failsWith; exact firstOf_one h

/-- A test against every pin, in index order. -/
theorem pins_first (m : MapUnit) (u : Fin 4) (k : ConflictCheck) (p : Fin 32 → Bool) (T : Fin 32 → PinEntry → Prop)
    (h : ∀ j, p j = true ↔ (m.pins[j].valid = true ∧ m.pins[j].unit = u ∧ T j m.pins[j])) :
    FirstOf ((pinIndices.find? p).map fun j => Conflict.at k .pin j.val) (m.pinChecks u k T) := firstOf_find h _

/-- A test against every learned entry, in index order. -/
theorem learned_first (m : MapUnit) (u : Fin 4) (k : ConflictCheck) (p : LearnedEntry → Bool) (T : Nat → LearnedEntry → Prop)
    (h : ∀ j x, p x = true ↔ (x.unit = u ∧ T j x)) :
    FirstOf ((findPos p m.learned 0).map fun j => Conflict.at k .learned j.1) (m.learnedChecks u k T) := by
  have := firstOf_pos (p := p) (P := fun j x => x.unit = u ∧ T j x) (f := fun j => Conflict.at k .learned j) m.learned 0 h
  unfold MapUnit.learnedChecks
  exact this

/-- The test of the store area (R179). -/
theorem storeArea_iff (u : Fin 4) (f n : Nat) (h : 1 ≤ n) : (u == 0 && decide (f < Config.storeBlocks)) = true ↔ (u = 0 ∧ Meet f n 0 64) := by
  rw [Bool.and_eq_true, beq_iff_eq, decide_eq_true_eq, ← meet_iff]
  unfold Config.storeBlocks
  constructor <;> (rintro ⟨a, b⟩; exact ⟨a, by omega⟩)

/-- The tests of a region, in their order (R6). -/
theorem region_first (s : State) (i : Fin 16) (e : RegionEntry) (h : 1 ≤ e.count) : FirstOf (s.regionConflict i e) (s.regionChecks i e) := by
  unfold State.regionConflict State.regionChecks
  simp only [firstConflict_cons, firstConflict_nil, Option.or_none, List.append_assoc]
  refine firstOf_append ?_ (firstOf_append ?_ (firstOf_append ?_ (firstOf_append ?_ (firstOf_append ?_ (firstOf_append ?_ ?_)))))
  · rw [List.find?_filter]
    apply firstOf_find
    intro j
    simp only [Bool.and_eq_true, bne_iff_ne, rangesMeet_iff, decide_eq_true_eq, and_assoc, ne_eq]
  · rw [List.find?_filter]
    apply firstOf_find
    intro j
    unfold Extent.overlaps RegionEntry.extent
    simp only [Bool.and_eq_true, bne_iff_ne, beq_iff_eq, decide_eq_true_eq, and_assoc, ne_eq, meet_iff]
    constructor <;> (rintro ⟨a, b, c, d⟩; exact ⟨a, b, c.symm, d⟩)
  · exact fails_first _ _ (storeArea_iff _ _ _ h)
  · exact pool_first ..
  · unfold MapUnit.pinTargetIn
    apply pins_first
    intro j; simp only [Bool.and_eq_true, beq_iff_eq, inRun_iff, and_assoc]
  · unfold MapUnit.learnedTargetIn
    apply learned_first
    intro j x; simp only [Bool.and_eq_true, beq_iff_eq, inRun_iff]
  · exact fails_first _ _ (overCapacity_iff ..)

/-- The tests of a pin against the tables, in their order (R23). -/
theorem pin_first (s : State) (i : Fin 32) (e : PinEntry) : FirstOf (s.pinConflict i e) (s.pinTests i e) := by
  unfold State.pinConflict State.pinTests
  simp only [firstConflict_cons, firstConflict_nil, Option.or_none, List.append_assoc]
  refine firstOf_append ?_ (firstOf_append ?_ (firstOf_append ?_ (firstOf_append ?_ (firstOf_append ?_ (firstOf_append ?_ (firstOf_append ?_ (firstOf_append ?_ ?_)))))))
  · rw [List.find?_filter]
    apply pins_first
    intro j; simp only [Bool.and_eq_true, beq_iff_eq, bne_iff_ne, and_assoc, decide_eq_true_eq, ne_eq]; tauto
  · unfold MapUnit.regionOf
    apply firstOf_find; intro j; exact maps_iff ..
  · apply fails_first; rw [Bool.and_eq_true, beq_iff_eq, decide_eq_true_eq]; rfl
  · exact pool_first ..
  · rw [List.find?_filter]
    apply pins_first
    intro j; simp only [Bool.and_eq_true, beq_iff_eq, bne_iff_ne, and_assoc, decide_eq_true_eq, ne_eq]; tauto
  · unfold MapUnit.learnedAt
    apply learned_first
    intro j x; simp only [Bool.and_eq_true, beq_iff_eq]
  · rw [List.find?_filter]
    apply pins_first
    intro j; simp only [Bool.and_eq_true, beq_iff_eq, bne_iff_ne, and_assoc, decide_eq_true_eq, ne_eq]; tauto
  · unfold MapUnit.learnedOf
    apply learned_first
    intro j x; simp only [Bool.and_eq_true, beq_iff_eq]
  · exact fails_first _ _ (overCapacity_iff ..)

/-- The tests of PIN_WRITE, in their order (R23). -/
theorem pinCommand_first (s : State) (i : Fin 32) (e : PinEntry) : FirstOf (firstConflict [s.pinUnmapped e, s.pinConflict i e])
    ((Conflict.bare .sourceUnmapped, ∀ j, ¬ s.map.MapsAt j e.unit e.source) :: s.pinTests i e) := by
  rw [firstConflict_cons, firstConflict_cons, firstConflict_nil, Option.or_none]
  refine firstOf_append (l := [_]) ?_ (pin_first s i e)
  unfold State.pinUnmapped
  apply fails_first
  show (!(s.map.lbaOf e.unit e.source).isSome) = true ↔ _
  unfold MapUnit.lbaOf
  rw [Bool.not_eq_true', Option.isSome_map]
  unfold MapUnit.regionOf
  rw [← Bool.not_eq_true, Option.isSome_iff_ne_none, not_not, List.find?_eq_none]
  constructor
  · intro h j hj; exact h j (List.mem_finRange j) ((maps_iff s.map j _ _).mpr hj)
  · intro h j _ hj; exact h j ((maps_iff s.map j _ _).mp hj)

/-- The test of an extent against the extents before it (R36). -/
theorem laterOverlap_first (k : CheckedExtent → Conflict) : ∀ (l before : List CheckedExtent),
    FirstOf ((laterOverlap before l).map k)
      ((l.zipIdx before.length).map fun x => (k x.1, ∃ y ∈ (before ++ l).take x.2, Meet y.first y.count x.1.first x.1.count))
  | [], _ => rfl
  | x :: l, before => by
    have hx : (before.any fun y => rangesMeet y.first y.count x.first x.count) = true ↔
        ∃ y ∈ (before ++ x :: l).take before.length, Meet y.first y.count x.first x.count := by
      rw [List.take_left', List.any_eq_true]
      · simp only [rangesMeet_iff]
      · rfl
    refine ⟨fun hp => ?_, fun hp => ?_⟩
    · unfold laterOverlap; rw [if_pos (hx.mpr hp)]; rfl
    · unfold laterOverlap; rw [if_neg (fun hc => hp (hx.mp hc))]
      have := laterOverlap_first k l (before ++ [x])
      rw [List.length_append, List.length_singleton, List.append_assoc] at this
      exact this

/-- The tests of a list of extents, in their order (R36). -/
theorem extent_first (s : State) (u : Fin 4) (l : List CheckedExtent) (h : ∀ x ∈ l, 1 ≤ x.count) :
    FirstOf (s.extentConflict u l) (s.extentChecks u l) := by
  unfold State.extentConflict State.extentChecks
  simp only [firstConflict_cons, firstConflict_nil, Option.or_none, List.append_assoc]
  have hh : ∀ b, (l.any fun x => inRun x.first x.count b) = true ↔ ∃ x ∈ l, Within x.first x.count b := by
    intro b; rw [List.any_eq_true]; simp only [inRun_iff]
  refine firstOf_append ?_ (firstOf_append ?_ (firstOf_append ?_ (firstOf_append ?_ (firstOf_append ?_ (firstOf_append ?_ (firstOf_append ?_ ?_))))))
  · exact laterOverlap_first (fun x => _) l []
  · apply firstOf_findMem
    intro x hx; exact storeArea_iff _ _ _ (h x hx)
  · apply firstOf_find
    intro j
    simp only [Bool.and_eq_true, beq_iff_eq, and_assoc, List.any_eq_true, rangesMeet_iff]
  · apply pins_first
    intro j; simp only [Bool.and_eq_true, beq_iff_eq, and_assoc, hh]
  · apply learned_first
    intro j x; simp only [Bool.and_eq_true, beq_iff_eq, hh]
  · apply pins_first
    intro j; simp only [Bool.and_eq_true, beq_iff_eq, and_assoc, hh]
  · apply learned_first
    intro j x; simp only [Bool.and_eq_true, beq_iff_eq, hh]
  · apply fails_first
    rw [List.any_eq_true]; simp only [overCapacity_iff]

/-- A test of a learned entry against the others (R40). -/
theorem other_first (m : MapUnit) (u : Fin 4) (k : ConflictCheck) (pos : Nat) (q : LearnedEntry → Bool) (Q : LearnedEntry → Prop) (hq : ∀ x, q x = true ↔ Q x) :
    FirstOf (((List.range m.learned.length).find? fun j => j != pos && (m.learned[j]?).any fun x => x.unit == u && q x).map fun j => Conflict.at k .learned j)
      (m.learnedChecks u k fun j x => j ≠ pos ∧ Q x) := by
  have := firstOf_find (p := fun j => j != pos && (m.learned[j]?).any fun x => x.unit == u && q x)
    (P := fun j => j ≠ pos ∧ ∃ x, m.learned[j]? = some x ∧ x.unit = u ∧ Q x) (f := fun j => Conflict.at k .learned j) (by
      intro j; simp only [Bool.and_eq_true, bne_iff_ne, Option.any_eq_true, beq_iff_eq, hq, ne_eq]) (List.range m.learned.length)
  convert this using 1
  unfold MapUnit.learnedChecks
  apply zipIdx_range m.learned (fun j x => (Conflict.at k .learned j, x.unit = u ∧ j ≠ pos ∧ Q x))
  intro j x hx
  congr 1
  rw [eq_iff_iff]
  constructor
  · rintro ⟨a, b, c⟩; exact ⟨b, x, hx, a, c⟩
  · rintro ⟨b, y, hy, a, c⟩
    rw [hx] at hy; cases hy; exact ⟨a, b, c⟩

/-- The tests of a learned entry, in their order (R40). -/
theorem learnedTests_first (s : State) (pos : Nat) (e : LearnedEntry) : FirstOf (s.learnedConflict pos e) (s.learnedTests pos e) := by
  unfold State.learnedConflict State.learnedTests
  simp only [firstConflict_cons, firstConflict_nil, Option.or_none, List.append_assoc]
  refine firstOf_append ?_ (firstOf_append ?_ (firstOf_append ?_ (firstOf_append ?_ (firstOf_append ?_ (firstOf_append ?_ (firstOf_append ?_ ?_))))))
  · unfold MapUnit.regionOf
    apply firstOf_find; intro j; exact maps_iff ..
  · apply fails_first; rw [Bool.and_eq_true, beq_iff_eq, decide_eq_true_eq]; rfl
  · exact pool_first ..
  · unfold MapUnit.pinAt
    apply pins_first
    intro j; simp only [Bool.and_eq_true, beq_iff_eq, and_assoc]
  · exact other_first s.map e.unit _ pos (fun x => x.target == e.target) _ (fun x => beq_iff_eq)
  · unfold MapUnit.pinOf
    apply pins_first
    intro j; simp only [Bool.and_eq_true, beq_iff_eq, and_assoc]
  · exact other_first s.map e.unit _ pos (fun x => x.source == e.target) _ (fun x => beq_iff_eq)
  · exact fails_first _ _ (overCapacity_iff ..)

/-- Checked extents keep their counts. -/
theorem checked_count : ∀ (l : List SpareExtent) (n : Nat), (∀ x ∈ l, 1 ≤ x.count) → ∀ x ∈ checkedExtents n l, 1 ≤ x.count
  | [], _, _, _, hx => by cases hx
  | y :: l, n, h, x, hx => by
    rcases List.mem_cons.mp hx with rfl | hx
    · exact h y List.mem_cons_self
    · exact checked_count l (n + 1) (fun z hz => h z (List.mem_cons_of_mem _ hz)) x hx

/-- The tests of a pool as it stands, in their order (R40). -/
theorem poolConflict_first (s : State) (u : Fin 4) (h : ∀ x ∈ (s.map.pools.get u).extents, 1 ≤ x.count) : FirstOf (s.poolConflict u) (s.poolTests u) := by
  unfold State.poolConflict State.poolTests
  simp only [firstConflict_cons, firstConflict_nil, Option.or_none]
  refine firstOf_append (extent_first _ _ _ ?_) (fails_first _ _ ?_)
  · intro x hx
    rcases List.mem_append.mp hx with hx | hx
    · exact checked_count _ _ h x hx
    · obtain ⟨b, -, rfl⟩ := List.mem_map.mp hx; exact le_refl 1
  · unfold Pool.lawful; simp

/-- The full validation, test by test in its order (R40). -/
theorem validate_first (s : State) (h : s.Counted) : FirstOf s.validate s.validations := by
  unfold State.validate State.validations
  have e4 : ∀ a b c d : Option ValidationFailure, ([a, b, c, d] : List _).findSome? id = a.or (b.or (c.or d)) := by
    intro a b c d; cases a <;> cases b <;> cases c <;> cases d <;> rfl
  simp only [e4, List.append_assoc]
  refine firstOf_append ?_ (firstOf_append ?_ (firstOf_append ?_ ?_))
  · apply firstOf_some
    intro i _
    by_cases hv : s.map.regions[i].valid = true
    · have := firstOf_guard (V := s.map.regions[i].valid = true) (firstOf_map (fun c => (⟨.regions, i.val, c⟩ : ValidationFailure)) (region_first s i s.map.regions[i] (h.1 i hv)))
      rw [List.map_map] at this
      exact this
    · rw [if_neg hv]
      generalize s.regionChecks i s.map.regions[i] = l
      induction l with
      | nil => rfl
      | cons d l ih => exact ⟨fun hc => absurd hc.1 hv, fun _ => ih⟩
  · apply firstOf_some
    intro i _
    have := firstOf_guard (V := s.map.pins[i].valid = true) (firstOf_map (fun c => (⟨.pins, i.val, c⟩ : ValidationFailure)) (pin_first s i s.map.pins[i]))
    rw [List.map_map] at this
    exact this
  · have key : ∀ (k : List LearnedEntry) (n : Nat), (∀ j x, k[j]? = some x → s.map.learned[n + j]? = some x) →
        FirstOf ((List.range' n k.length).findSome? fun pos => (s.map.learned[pos]?).bind fun e => (s.learnedConflict pos e).map fun c => (⟨.learned, pos, c⟩ : ValidationFailure))
        ((k.zipIdx n).flatMap fun x => (s.learnedTests x.2 x.1).map fun c => ((⟨.learned, x.2, c.1⟩ : ValidationFailure), c.2)) := by
      intro k
      induction k with
      | nil => intro n _; rfl
      | cons y k ih =>
        intro n hn
        have h0 := hn 0 y rfl
        rw [Nat.add_zero] at h0
        have := firstOf_append (firstOf_map (fun c => (⟨.learned, n, c⟩ : ValidationFailure)) (learnedTests_first s n y)) (ih (n + 1) (fun j x hx => by
          have := hn (j + 1) x hx
          rwa [show n + 1 + j = n + (j + 1) by omega]))
        rw [List.length_cons, List.range'_succ, List.findSome?_cons, List.zipIdx_cons, List.flatMap_cons, h0]
        dsimp only [Option.bind_some]
        cases hl : (s.learnedConflict n y).map fun c => (⟨.learned, n, c⟩ : ValidationFailure) with
        | none => rw [hl] at this; exact this
        | some v => rw [hl] at this; exact this
    have := key s.map.learned 0 (fun j x hx => by rwa [Nat.zero_add])
    rw [← List.range_eq_range'] at this
    exact this
  · apply firstOf_some
    intro u _
    exact firstOf_map (fun c => (⟨.pools, u.val, c⟩ : ValidationFailure)) (poolConflict_first s u (h.2 u))

/-- A check that does not answer: every test fails. -/
theorem firstOf_none {α : Type} : ∀ {l : List (α × Prop)}, FirstOf none l → ∀ c ∈ l, ¬ c.2
  | [], _, _, hc => by cases hc
  | (d, p) :: l, h, c, hc => by
    have hp : ¬ p := fun hp => by have := h.1 hp; cases this
    rcases List.mem_cons.mp hc with rfl | hc
    · exact hp
    · exact firstOf_none (h.2 hp) c hc

/-- Neither of two checks answers. -/
theorem none_append {α : Type} {l k : List (α × Prop)} (h : FirstOf none (l ++ k)) : FirstOf none l ∧ FirstOf none k := by
  induction l with
  | nil => exact ⟨rfl, h⟩
  | cons c l ih =>
    have hp : ¬ c.2 := fun hp => by have := h.1 hp; cases this
    obtain ⟨a, b⟩ := ih (h.2 hp)
    exact ⟨⟨fun hc => absurd hc hp, fun _ => a⟩, b⟩

/-- No entry passes. -/
theorem none_map {α β : Type} {l : List α} {f : α → β} {P : α → Prop} (h : FirstOf none (l.map fun x => (f x, P x))) : ∀ x ∈ l, ¬ P x :=
  fun x hx => firstOf_none h (f x, P x) (List.mem_map.mpr ⟨x, hx, rfl⟩)

/-- No pin passes. -/
theorem none_pins {m : MapUnit} {u : Fin 4} {k T} (h : FirstOf none (m.pinChecks u k T)) (j : Fin 32) (h1 : m.pins[j].valid = true)
    (h2 : m.pins[j].unit = u) : ¬ T j m.pins[j] := fun ht => none_map h j (List.mem_finRange j) ⟨h1, h2, ht⟩

/-- No learned entry passes. -/
theorem none_learned {m : MapUnit} {u : Fin 4} {k T} (h : FirstOf none (m.learnedChecks u k T)) (x : LearnedEntry) (hx : x ∈ m.learned)
    (h2 : x.unit = u) : ∃ j, ¬ T j x := by
  obtain ⟨j, hj, hjx⟩ := List.mem_iff_getElem.mp hx
  refine ⟨j, fun ht => ?_⟩
  exact firstOf_none h (Conflict.at k .learned j, x.unit = u ∧ T j x) (List.mem_map.mpr ⟨(x, j), by
    rw [List.mem_iff_getElem]; exact ⟨j, by simpa using hj, by simp [hjx]⟩, rfl⟩) ⟨h2, ht⟩

/-- No block of the range is in the pool. -/
theorem none_pool {m : MapUnit} {u : Fin 4} {f n : Nat} (h : FirstOf none (m.poolChecks u f n)) (b : Nat) (hb : Within f n b) : m.sparesAt u b = 0 := by
  unfold MapUnit.poolChecks at h
  obtain ⟨ha, hc⟩ := none_append h
  have q1 : ((m.pools.get u).extents.countP fun x => inRun x.first x.count b) = 0 := by
    rw [List.countP_eq_zero]
    intro x hx hin
    obtain ⟨j, hj, hjx⟩ := List.mem_iff_getElem.mp hx
    have hi := inRun_of hin
    exact firstOf_none ha (Conflict.at .spareExtent .extent j, Meet x.first x.count f n) (List.mem_map.mpr ⟨(x, j), by
      rw [List.mem_iff_getElem]; exact ⟨j, by simpa using hj, by simp [hjx]⟩, rfl⟩) ⟨b, hi.1, hi.2, hb.1, hb.2⟩
  have hc2 := firstOf_none hc
  have q2 : ((m.pools.get u).returned.countP fun x => x == b) = 0 := by
    rw [List.countP_eq_zero]
    intro x hx hin
    rw [beq_iff_eq] at hin; subst hin
    exact hc2 _ (List.mem_cons_self) ⟨x, hx, hb⟩
  have q3 : ((m.pools.get u).issued.countP fun c => c.spare == b) = 0 := by
    rw [List.countP_eq_zero]
    intro x hx hin
    rw [beq_iff_eq] at hin; subst hin
    exact hc2 _ (List.mem_cons_of_mem _ List.mem_cons_self) ⟨x, hx, hb⟩
  unfold MapUnit.sparesAt
  dsimp only
  rw [q1, q2, q3]

/-- The test fails. -/
theorem none_one {α : Type} {c : α} {P : Prop} (h : FirstOf none [(c, P)]) : ¬ P := firstOf_none h _ List.mem_cons_self

/-- No pin counts. -/
theorem pins_zero {m : MapUnit} {f : PinEntry → Bool} (h : ∀ j : Fin 32, f m.pins[j] = false) : (pinIndices.countP fun j => f m.pins[j]) = 0 := by
  rw [List.countP_eq_zero]; intro j _; rw [h j]; simp

/-- Tables that hold no more than lawful ones are lawful. -/
theorem lawful_of_le {m k : MapUnit} (h : m.Lawful)
    (h1 : ∀ x, (regionIndices.countP fun i => k.regions[i].holdsLba x) ≤ regionIndices.countP fun i => m.regions[i].holdsLba x)
    (hw : ∀ i : Fin 16, ∀ x, k.regions[i].holdsLba x = true → ∃ j : Fin 16, m.regions[j].holdsLba x = true)
    (h2 : ∀ u b, k.regionsAt u b ≤ m.regionsAt u b) (h3 : ∀ u b, k.sparesAt u b ≤ m.sparesAt u b)
    (h4 : ∀ u b, k.targetsAt u b ≤ m.targetsAt u b) (h5 : ∀ u b, k.pinSourcesAt u b ≤ m.pinSourcesAt u b)
    (h6 : ∀ u b, k.learnedSourcesAt u b ≤ m.learnedSourcesAt u b) : k.Lawful where
  logical x := (h1 x).trans (h.logical x)
  window i x hx := by obtain ⟨j, hj⟩ := hw i x hx; exact h.window j x hj
  blocks u b := by have := h.blocks u b; have := h2 u b; have := h3 u b; have := h4 u b; omega
  area b hb := by have := h.area b hb; have := h2 0 b; have := h3 0 b; have := h4 0 b; omega
  pins u b := (h5 u b).trans (h.pins u b)
  learned u b := (h6 u b).trans (h.learned u b)
  apart u b hs := by have := h.apart u b (by have := h5 u b; have := h6 u b; omega); have := h3 u b; have := h4 u b; omega

/-- The tables of State.reset are lawful. -/
theorem reset_lawful : State.reset.map.Lawful := by
  have e1 : ∀ i : Fin 16, State.reset.map.regions[i] = RegionEntry.empty := by intro i; exact Vector.getElem_replicate _
  have e2 : ∀ i : Fin 32, State.reset.map.pins[i] = PinEntry.empty := by intro i; exact Vector.getElem_replicate _
  have r0 : ∀ x, (regionIndices.countP fun i => State.reset.map.regions[i].holdsLba x) = 0 := by
    intro x; rw [List.countP_eq_zero]; intro i _; rw [e1]; simp [RegionEntry.holdsLba, RegionEntry.empty]
  have r1 : ∀ u b, State.reset.map.regionsAt u b = 0 := by
    intro u b; unfold MapUnit.regionsAt; rw [List.countP_eq_zero]; intro i _; rw [e1]; simp [RegionEntry.maps, RegionEntry.empty]
  have r2 : ∀ u b, State.reset.map.sparesAt u b = 0 := by
    intro u b
    have : State.reset.map.pools.get u = Pool.empty := by
      match u with
      | 0 => rfl
      | 1 => rfl
      | 2 => rfl
      | 3 => rfl
    unfold MapUnit.sparesAt; rw [this]; rfl
  have p : ∀ f : PinEntry → Bool, f PinEntry.empty = false → (pinIndices.countP fun j => f State.reset.map.pins[j]) = 0 := by
    intro f hf; rw [List.countP_eq_zero]; intro i _; rw [e2, hf]; simp
  have r3 : ∀ u b, State.reset.map.targetsAt u b = 0 := by
    intro u b; unfold MapUnit.targetsAt
    rw [p (fun e => e.valid && e.unit == u && e.target == b) rfl]; rfl
  have r4 : ∀ u b, State.reset.map.pinSourcesAt u b = 0 := by
    intro u b; exact p (fun e => e.valid && e.unit == u && e.source == b) rfl
  refine ⟨fun x => by rw [r0 x]; omega, fun i x hx => ?_, fun u b => by rw [r1, r2, r3]; omega, fun b _ => by rw [r1, r2, r3], fun u b => by rw [r4]; omega,
    fun u b => Nat.zero_le _, fun u b _ => by rw [r2, r3]⟩
  rw [e1] at hx; simp [RegionEntry.holdsLba, RegionEntry.empty] at hx

/-- A region without a conflict keeps the tables lawful (R6). -/
theorem set_region_lawful {s : State} (h : s.map.Lawful) (i : Fin 16) (e : RegionEntry) (hr : e.inRange = true)
    (hc : s.regionConflict i e = none) : MapUnit.Lawful { s.map with regions := s.map.regions.set i e } := by
  have h1 : 1 ≤ e.count ∧ e.logical + e.count ≤ 4294967292 := by
    unfold RegionEntry.inRange Config.windowBase at hr
    simp only [Bool.and_eq_true, decide_eq_true_eq] at hr
    exact hr.1
  have hf := region_first s i e h1.1
  rw [hc] at hf
  unfold State.regionChecks at hf
  dsimp only at hf
  obtain ⟨hf, k7⟩ := none_append hf
  obtain ⟨hf, k6⟩ := none_append hf
  obtain ⟨hf, k5⟩ := none_append hf
  obtain ⟨hf, k4⟩ := none_append hf
  obtain ⟨hf, k3⟩ := none_append hf
  obtain ⟨k1, k2⟩ := none_append hf
  have c1 : ∀ j : Fin 16, j ≠ i → s.map.regions[j].valid = true → ¬ Meet e.logical e.count s.map.regions[j].logical s.map.regions[j].count :=
    fun j a b c => none_map k1 j (List.mem_finRange j) ⟨a, b, c⟩
  have c2 : ∀ j : Fin 16, j ≠ i → s.map.regions[j].valid = true → s.map.regions[j].unit = e.unit → ¬ Meet e.physical e.count s.map.regions[j].physical s.map.regions[j].count :=
    fun j a b c d => none_map k2 j (List.mem_finRange j) ⟨a, b, c, d⟩
  have c3 : ¬ (e.unit = 0 ∧ Meet e.physical e.count 0 64) := none_one k3
  have c4 := none_pool k4
  have c5 : ∀ b, Within e.physical e.count b → s.map.targetsAt e.unit b = 0 := by
    intro b hb
    unfold MapUnit.targetsAt
    rw [pins_zero (f := fun p => p.valid && p.unit == e.unit && p.target == b), List.countP_eq_zero.mpr]
    · intro x hx hin
      simp only [Bool.and_eq_true, beq_iff_eq] at hin
      obtain ⟨j, hj⟩ := none_learned k6 x hx hin.1
      exact hj (by rw [hin.2]; exact hb)
    · intro j
      rw [← Bool.not_eq_true]
      intro hin
      simp only [Bool.and_eq_true, beq_iff_eq] at hin
      exact none_pins k5 j hin.1.1 hin.1.2 (by rw [hin.2]; exact hb)
  have rest : ∀ u b, (({ s.map with regions := s.map.regions.set i e } : MapUnit)).regionsAt u b =
      (regionIndices.countP fun j => j != i && s.map.regions[j].maps u b) + if e.maps u b then 1 else 0 := by
    intro u b; exact countP_vset s.map.regions i e fun r => r.maps u b
  have old : ∀ u b, s.map.regionsAt u b = (regionIndices.countP fun j => j != i && s.map.regions[j].maps u b) + if s.map.regions[i].maps u b then 1 else 0 := by
    intro u b; exact countP_vold s.map.regions i fun r => r.maps u b
  have hm : ∀ u b, e.maps u b = true → u = e.unit ∧ Within e.physical e.count b := by
    intro u b hh; unfold RegionEntry.maps at hh
    rw [Bool.and_eq_true, Bool.and_eq_true, beq_iff_eq, inRun_iff] at hh
    exact ⟨hh.1.2.symm, hh.2⟩
  have r0 : ∀ u b, e.maps u b = true → (regionIndices.countP fun j => j != i && s.map.regions[j].maps u b) = 0 := by
    intro u b hh
    obtain ⟨rfl, hb⟩ := hm u b hh
    rw [List.countP_eq_zero]
    intro j _ hj
    rw [Bool.and_eq_true, bne_iff_ne, maps_iff] at hj
    exact c2 j hj.1 hj.2.1 hj.2.2.1 ⟨b, hb.1, hb.2, hj.2.2.2.1, hj.2.2.2.2⟩
  have hs : ∀ u b, (({ s.map with regions := s.map.regions.set i e } : MapUnit)).sparesAt u b = s.map.sparesAt u b := fun _ _ => rfl
  have ht : ∀ u b, (({ s.map with regions := s.map.regions.set i e } : MapUnit)).targetsAt u b = s.map.targetsAt u b := fun _ _ => rfl
  refine ⟨fun x => ?_, fun j x hx => ?_, fun u b => ?_, fun b hb => ?_, h.pins, h.learned, h.apart⟩
  · refine le_of_eq_of_le (countP_vset s.map.regions i e fun r => r.holdsLba x) ?_
    have ho := le_of_eq_of_le (countP_vold s.map.regions i fun r => r.holdsLba x).symm (h.logical x)
    by_cases hh : e.holdsLba x = true
    · have : ((List.finRange 16).countP fun j => j != i && s.map.regions[j].holdsLba x) = 0 := by
        rw [List.countP_eq_zero]
        intro j _ hj
        unfold RegionEntry.holdsLba at hj hh
        rw [Bool.and_eq_true, bne_iff_ne, Bool.and_eq_true] at hj
        rw [Bool.and_eq_true] at hh
        have a := inRun_of hj.2.2; have b := inRun_of hh.2
        exact c1 j hj.1 hj.2.1 ⟨x, b.1, b.2, a.1, a.2⟩
      rw [this]; split <;> omega
    · rw [if_neg hh]; omega
  · by_cases hj : j = i
    · subst hj
      have : (s.map.regions.set j e)[j] = e := by simp
      rw [show ({ s.map with regions := s.map.regions.set j e } : MapUnit).regions[j] = e from this] at hx
      unfold RegionEntry.holdsLba at hx
      rw [Bool.and_eq_true] at hx
      have := inRun_of hx.2; omega
    · have : (s.map.regions.set i e)[j] = s.map.regions[j] := by
        have hne : i.val ≠ j.val := fun h => hj (Fin.ext h.symm)
        exact Vector.getElem_set_ne _ _ hne
      rw [show ({ s.map with regions := s.map.regions.set i e } : MapUnit).regions[j] = s.map.regions[j] from this] at hx
      exact h.window j x hx
  · have ho := h.blocks u b
    rw [rest, hs, ht]
    rw [old] at ho
    by_cases hh : e.maps u b = true
    · obtain ⟨rfl, hb⟩ := hm u b hh
      rw [r0 _ b hh, c4 b hb, c5 b hb]; split <;> omega
    · rw [if_neg hh]; omega
  · have ho := h.area b hb
    rw [rest, hs, ht]
    rw [old] at ho
    by_cases hh : e.maps 0 b = true
    · obtain ⟨h0, hw⟩ := hm 0 b hh
      exact absurd ⟨h0.symm, b, hw.1, hw.2, Nat.zero_le _, by omega⟩ c3
    · rw [if_neg hh]; omega

/-- A cleared region keeps the tables lawful (R10). -/
theorem clear_region_lawful {m : MapUnit} (h : m.Lawful) (i : Fin 16) :
    MapUnit.Lawful { m with regions := m.regions.set i { m.regions[i] with valid := false } } := by
  apply lawful_of_le h
  · intro x
    have h1 := countP_vset m.regions i { m.regions[i] with valid := false } fun r => r.holdsLba x
    have h2 := countP_vold m.regions i fun r => r.holdsLba x
    refine le_of_eq_of_le h1 (le_of_le_of_eq ?_ h2.symm)
    have : ({ m.regions[i] with valid := false } : RegionEntry).holdsLba x = false := rfl
    rw [this]; simp
  · intro j x hx
    by_cases hj : j = i
    · subst hj
      have : (m.regions.set j { m.regions[j] with valid := false })[j] = { m.regions[j] with valid := false } := by simp
      rw [show ({ m with regions := m.regions.set j { m.regions[j] with valid := false } } : MapUnit).regions[j] = _ from this] at hx
      cases hx
    · have : (m.regions.set i { m.regions[i] with valid := false })[j] = m.regions[j] := by
        have hne : i.val ≠ j.val := fun h => hj (Fin.ext h.symm)
        exact Vector.getElem_set_ne _ _ hne
      rw [show ({ m with regions := m.regions.set i { m.regions[i] with valid := false } } : MapUnit).regions[j] = m.regions[j] from this] at hx
      exact ⟨j, hx⟩
  · intro u b
    have h1 := countP_vset m.regions i { m.regions[i] with valid := false } fun r => r.maps u b
    have h2 := countP_vold m.regions i fun r => r.maps u b
    refine le_of_eq_of_le h1 (le_of_le_of_eq ?_ h2.symm)
    have : ({ m.regions[i] with valid := false } : RegionEntry).maps u b = false := rfl
    rw [this]; simp
  all_goals exact fun _ _ => le_refl _

/-- A pin that does not count adds nothing. -/
theorem pins_set_le {m : MapUnit} (i : Fin 32) (e : PinEntry) (f : PinEntry → Bool) (hf : f e = false) :
    (pinIndices.countP fun j => f (m.pins.set i e)[j]) ≤ pinIndices.countP fun j => f m.pins[j] := by
  refine le_of_eq_of_le (countP_vset m.pins i e f) (le_of_le_of_eq ?_ (countP_vold m.pins i f).symm)
  rw [hf]; simp

/-- A cleared pin keeps the tables lawful (R24). -/
theorem clear_pin_lawful {m : MapUnit} (h : m.Lawful) (i : Fin 32) :
    MapUnit.Lawful { m with pins := m.pins.set i { m.pins[i] with valid := false } } := by
  apply lawful_of_le h
  · exact fun _ => le_refl _
  · exact fun j x hx => ⟨j, hx⟩
  · exact fun _ _ => le_refl _
  · exact fun _ _ => le_refl _
  · intro u b
    exact Nat.add_le_add_right (pins_set_le i _ (fun p => p.valid && p.unit == u && p.target == b) rfl) _
  · intro u b
    exact pins_set_le i _ (fun p => p.valid && p.unit == u && p.source == b) rfl
  · exact fun _ _ => le_refl _

/-- A pin without a conflict keeps the tables lawful (R23). -/
theorem set_pin_lawful {s : State} (h : s.map.Lawful) (i : Fin 32) (e : PinEntry) (hv : e.valid = true)
    (hc : firstConflict [s.pinUnmapped e, s.pinConflict i e] = none) : MapUnit.Lawful { s.map with pins := s.map.pins.set i e } := by
  have hf : FirstOf (firstConflict [s.pinUnmapped e, s.pinConflict i e]) ((Conflict.bare .sourceUnmapped, ∀ j, ¬ s.map.MapsAt j e.unit e.source) :: s.pinTests i e) :=
    pinCommand_first s i e
  rw [hc] at hf
  have hsrc : ∃ j, s.map.MapsAt j e.unit e.source := by
    by_contra hno
    have := hf.1 (fun j hj => hno ⟨j, hj⟩)
    cases this
  have hf := hf.2 (fun hc => by obtain ⟨j, hj⟩ := hsrc; exact hc j hj)
  unfold State.pinTests at hf
  dsimp only at hf
  obtain ⟨hf, k9⟩ := none_append hf
  obtain ⟨hf, k8⟩ := none_append hf
  obtain ⟨hf, k7⟩ := none_append hf
  obtain ⟨hf, k6⟩ := none_append hf
  obtain ⟨hf, k5⟩ := none_append hf
  obtain ⟨hf, k4⟩ := none_append hf
  obtain ⟨hf, k3⟩ := none_append hf
  obtain ⟨k1, k2⟩ := none_append hf
  have c0 : 1 ≤ s.map.regionsAt e.unit e.source := by
    obtain ⟨j, hj⟩ := hsrc
    exact List.countP_pos_iff.mpr ⟨j, List.mem_finRange j, (maps_iff ..).mpr hj⟩
  have c2 : s.map.regionsAt e.unit e.target = 0 := by
    unfold MapUnit.regionsAt
    rw [List.countP_eq_zero]
    intro j _ hj
    exact none_map k2 j (List.mem_finRange j) ((maps_iff ..).mp hj)
  have c3 := none_one k3
  have c4 : s.map.sparesAt e.unit e.target = 0 := none_pool k4 _ ⟨le_refl _, by omega⟩
  let restT (u : Fin 4) (b : Nat) : Nat := pinIndices.countP fun j => j != i && (s.map.pins[j].valid && s.map.pins[j].unit == u && s.map.pins[j].target == b)
  let restS (u : Fin 4) (b : Nat) : Nat := pinIndices.countP fun j => j != i && (s.map.pins[j].valid && s.map.pins[j].unit == u && s.map.pins[j].source == b)
  have tNew : ∀ u b, MapUnit.targetsAt { s.map with pins := s.map.pins.set i e } u b = restT u b + (if (e.valid && e.unit == u && e.target == b) = true then 1 else 0) + s.map.learned.countP (fun x => x.unit == u && x.target == b) := by
    intro u b
    exact congrArg (· + _) (countP_vset s.map.pins i e fun p => p.valid && p.unit == u && p.target == b)
  have tOld : ∀ u b, s.map.targetsAt u b = restT u b + (if (s.map.pins[i].valid && s.map.pins[i].unit == u && s.map.pins[i].target == b) = true then 1 else 0) + s.map.learned.countP (fun x => x.unit == u && x.target == b) := by
    intro u b
    exact congrArg (· + _) (countP_vold s.map.pins i fun p => p.valid && p.unit == u && p.target == b)
  have sNew : ∀ u b, MapUnit.pinSourcesAt { s.map with pins := s.map.pins.set i e } u b = restS u b + (if (e.valid && e.unit == u && e.source == b) = true then 1 else 0) := by
    intro u b
    exact countP_vset s.map.pins i e fun p => p.valid && p.unit == u && p.source == b
  have sOld : ∀ u b, s.map.pinSourcesAt u b = restS u b + (if (s.map.pins[i].valid && s.map.pins[i].unit == u && s.map.pins[i].source == b) = true then 1 else 0) := by
    intro u b
    exact countP_vold s.map.pins i fun p => p.valid && p.unit == u && p.source == b
  have z : ∀ {f : Fin 32 → Bool}, (∀ j, f j = true → False) → pinIndices.countP f = 0 := by
    intro f hz; rw [List.countP_eq_zero]; intro j _ hj; exact hz j hj
  have t0 : restT e.unit e.target = 0 := z (fun j hj => by
    simp only [Bool.and_eq_true, beq_iff_eq, bne_iff_ne] at hj
    exact none_pins k5 j hj.2.1.1 hj.2.1.2 ⟨hj.1, hj.2.2⟩)
  have l0 : (s.map.learned.countP fun x => x.unit == e.unit && x.target == e.target) = 0 := by
    rw [List.countP_eq_zero]; intro x hx hin
    simp only [Bool.and_eq_true, beq_iff_eq] at hin
    obtain ⟨j, hj⟩ := none_learned k6 x hx hin.1
    exact hj hin.2
  have s0 : restS e.unit e.source = 0 := z (fun j hj => by
    simp only [Bool.and_eq_true, beq_iff_eq, bne_iff_ne] at hj
    exact none_pins k1 j hj.2.1.1 hj.2.1.2 ⟨hj.1, hj.2.2⟩)
  have s1 : restS e.unit e.target = 0 := z (fun j hj => by
    simp only [Bool.and_eq_true, beq_iff_eq, bne_iff_ne] at hj
    exact none_pins k7 j hj.2.1.1 hj.2.1.2 ⟨hj.1, hj.2.2⟩)
  have ls1 : s.map.learnedSourcesAt e.unit e.target = 0 := by
    unfold MapUnit.learnedSourcesAt
    rw [List.countP_eq_zero]; intro x hx hin
    simp only [Bool.and_eq_true, beq_iff_eq] at hin
    obtain ⟨j, hj⟩ := none_learned k8 x hx hin.1
    exact hj hin.2
  have isT : ∀ u b, (e.valid && e.unit == u && e.target == b) = true → u = e.unit ∧ b = e.target := by
    intro u b hh; simp only [Bool.and_eq_true, beq_iff_eq] at hh; exact ⟨hh.1.2.symm, hh.2.symm⟩
  have isS : ∀ u b, (e.valid && e.unit == u && e.source == b) = true → u = e.unit ∧ b = e.source := by
    intro u b hh; simp only [Bool.and_eq_true, beq_iff_eq] at hh; exact ⟨hh.1.2.symm, hh.2.symm⟩
  refine ⟨h.logical, h.window, fun u b => ?_, fun b hb => ?_, fun u b => ?_, h.learned, fun u b hs => ?_⟩
  · have ho := h.blocks u b
    rw [tOld] at ho
    show s.map.regionsAt u b + s.map.sparesAt u b + _ ≤ 1
    rw [tNew]
    by_cases hh : (e.valid && e.unit == u && e.target == b) = true
    · obtain ⟨rfl, rfl⟩ := isT u b hh
      rw [c2, c4, t0, l0]; split <;> omega
    · rw [if_neg hh]; omega
  · have ho := h.area b hb
    rw [tOld] at ho
    show s.map.regionsAt 0 b + s.map.sparesAt 0 b + _ = 0
    rw [tNew]
    by_cases hh : (e.valid && e.unit == 0 && e.target == b) = true
    · obtain ⟨h0, rfl⟩ := isT 0 b hh
      exact absurd ⟨h0.symm, hb⟩ c3
    · rw [if_neg hh]; omega
  · have ho := h.pins u b
    rw [sOld] at ho
    rw [sNew]
    by_cases hh : (e.valid && e.unit == u && e.source == b) = true
    · obtain ⟨rfl, rfl⟩ := isS u b hh
      rw [s0]; split <;> omega
    · rw [if_neg hh]; omega
  · rw [sNew] at hs
    show s.map.sparesAt u b + _ = 0
    rw [tNew]
    by_cases hh : (e.valid && e.unit == u && e.target == b) = true
    · obtain ⟨rfl, rfl⟩ := isT u b hh
      rw [s1] at hs
      rw [show MapUnit.learnedSourcesAt { s.map with pins := s.map.pins.set i e } e.unit e.target = 0 from ls1] at hs
      by_cases hh2 : (e.valid && e.unit == e.unit && e.source == e.target) = true
      · have := (isS _ _ hh2).2
        rw [← this] at c0; omega
      · rw [if_neg hh2] at hs; omega
    · rw [if_neg hh]
      by_cases hh2 : (e.valid && e.unit == u && e.source == b) = true
      · obtain ⟨rfl, rfl⟩ := isS _ _ hh2
        have := h.blocks e.unit e.source
        rw [tOld] at this; omega
      · rw [if_neg hh2] at hs
        have hl : MapUnit.learnedSourcesAt { s.map with pins := s.map.pins.set i e } u b = s.map.learnedSourcesAt u b := rfl
        rw [hl] at hs
        have := h.apart u b (by rw [sOld]; omega)
        rw [tOld] at this; omega

/-- A deleted learned entry keeps the tables lawful (R31). -/
theorem forget_lawful {m : MapUnit} (h : m.Lawful) (k : Nat) : MapUnit.Lawful { m with learned := m.learned.eraseIdx k } := by
  apply lawful_of_le h
  · exact fun _ => le_refl _
  · exact fun j x hx => ⟨j, hx⟩
  · exact fun _ _ => le_refl _
  · exact fun _ _ => le_refl _
  · intro u b
    exact Nat.add_le_add_left ((List.eraseIdx_sublist ..).countP_le) _
  · exact fun _ _ => le_refl _
  · intro u b
    exact (List.eraseIdx_sublist ..).countP_le

/-- The places of a pool that hold a block. -/
def poolAt (p : Pool) (b : Nat) : Nat :=
  (p.extents.countP fun x => inRun x.first x.count b) + (p.returned.countP fun x => x == b) + (p.issued.countP fun c => c.spare == b)

/-- The places of the pools after one is replaced. -/
theorem spares_pool (m : MapUnit) (u v : Fin 4) (p : Pool) (b : Nat) :
    MapUnit.sparesAt { m with pools := m.pools.set u p } v b = if v = u then poolAt p b else m.sparesAt v b := by
  unfold MapUnit.sparesAt
  dsimp only
  rw [Four.get_set]
  split <;> rfl

/-- A pool that holds no block more often keeps the tables lawful. -/
theorem pool_lawful {m : MapUnit} (h : m.Lawful) (u : Fin 4) (p : Pool) (hp : ∀ b, poolAt p b ≤ m.sparesAt u b) :
    MapUnit.Lawful { m with pools := m.pools.set u p } := by
  apply lawful_of_le h
  · exact fun _ => le_refl _
  · exact fun j x hx => ⟨j, hx⟩
  · exact fun _ _ => le_refl _
  · intro v b
    rw [spares_pool]
    split
    · next hv => subst hv; exact hp b
    · exact le_refl _
  all_goals exact fun _ _ => le_refl _

/-- Extents that do not meet hold a block at most once. -/
theorem pairwise_count {l : List CheckedExtent} (b : Nat) (h : l.Pairwise fun x y => ¬ Meet x.first x.count y.first y.count) :
    (l.countP fun x => inRun x.first x.count b) ≤ 1 := by
  induction l with
  | nil => exact Nat.zero_le _
  | cons x l ih =>
    rw [List.pairwise_cons] at h
    rw [List.countP_cons]
    by_cases hx : inRun x.first x.count b = true
    · have : (l.countP fun x => inRun x.first x.count b) = 0 := by
        rw [List.countP_eq_zero]
        intro y hy hin
        have a := inRun_of hx; have c := inRun_of hin
        exact h.1 y hy ⟨b, a.1, a.2, c.1, c.2⟩
      rw [this, if_pos hx]
    · rw [if_neg hx]; exact ih h.2

/-- Extents without a later overlap do not meet. -/
theorem later_pairwise : ∀ (l before : List CheckedExtent), laterOverlap before l = none →
    (before.Pairwise fun x y => ¬ Meet x.first x.count y.first y.count) → (before ++ l).Pairwise fun x y => ¬ Meet x.first x.count y.first y.count
  | [], before, _, hb => by rw [List.append_nil]; exact hb
  | x :: l, before, h, hb => by
    unfold laterOverlap at h
    by_cases hx : (before.any fun y => rangesMeet y.first y.count x.first x.count) = true
    · rw [if_pos hx] at h; cases h
    · rw [if_neg hx] at h
      have := later_pairwise l (before ++ [x]) h (by
        rw [List.pairwise_append]
        refine ⟨hb, List.pairwise_singleton _ _, fun y hy z hz => ?_⟩
        rw [List.mem_singleton] at hz; subst hz
        intro hm
        exact hx (List.any_eq_true.mpr ⟨y, hy, (rangesMeet_iff ..).mpr hm⟩))
      rwa [List.append_assoc] at this

/-- Checked extents are the extents. -/
theorem checked_map (l : List SpareExtent) : ∀ n, (checkedExtents n l).map (fun x => (x.first, x.count)) = l.map fun x => (x.first, x.count) := by
  induction l with
  | nil => intro n; rfl
  | cons x l ih => intro n; unfold checkedExtents; rw [List.map_cons, ih, List.map_cons]

/-- A loaded pool without a conflict keeps the tables lawful (R36). -/
theorem load_lawful {s : State} (h : s.map.Lawful) (u : Fin 4) (l : List SpareExtent) (hl : ∀ x ∈ l, 1 ≤ x.count)
    (hc : firstConflict [s.map.spareOutstanding u, s.extentConflict u (checkedExtents 0 l)] = none) :
    MapUnit.Lawful { s.map with pools := s.map.pools.set u ((s.map.pools.get u).loadedWith l) } := by
  have hn := firstConflict_none hc
  have hi : (s.map.pools.get u).issued = [] := by
    have := hn _ List.mem_cons_self
    unfold MapUnit.spareOutstanding at this
    cases hh : (s.map.pools.get u).issued with
    | nil => rfl
    | cons c k => rw [hh] at this; cases this
  have he : s.extentConflict u (checkedExtents 0 l) = none := hn _ (List.mem_cons_of_mem _ List.mem_cons_self)
  have hlater : laterOverlap [] (checkedExtents 0 l) = none := by
    unfold State.extentConflict at he
    have := firstConflict_none he _ List.mem_cons_self
    rwa [Option.map_eq_none_iff] at this
  have hf := extent_first s u (checkedExtents 0 l) (checked_count l 0 hl)
  rw [he] at hf
  unfold State.extentChecks at hf
  dsimp only at hf
  obtain ⟨hf, k8⟩ := none_append hf
  obtain ⟨hf, k7⟩ := none_append hf
  obtain ⟨hf, k6⟩ := none_append hf
  obtain ⟨hf, k5⟩ := none_append hf
  obtain ⟨hf, k4⟩ := none_append hf
  obtain ⟨hf, k3⟩ := none_append hf
  obtain ⟨k1, k2⟩ := none_append hf
  have hcount : ∀ b, poolAt ((s.map.pools.get u).loadedWith l) b = (checkedExtents 0 l).countP fun x => inRun x.first x.count b := by
    intro b
    unfold poolAt Pool.loadedWith
    dsimp only
    rw [hi]
    have h1 : (checkedExtents 0 l).countP (fun x => inRun x.first x.count b) = ((checkedExtents 0 l).map fun x => (x.first, x.count)).countP fun y => inRun y.1 y.2 b := by
      rw [List.countP_map]; rfl
    have h2 : l.countP (fun x => inRun x.first x.count b) = (l.map fun x => (x.first, x.count)).countP fun y => inRun y.1 y.2 b := by
      rw [List.countP_map]; rfl
    rw [h1, checked_map, ← h2]; rfl
  have hone : ∀ b, poolAt ((s.map.pools.get u).loadedWith l) b ≤ 1 := by
    intro b; rw [hcount]
    exact pairwise_count b (later_pairwise _ [] hlater List.Pairwise.nil)
  have hin : ∀ b, 1 ≤ poolAt ((s.map.pools.get u).loadedWith l) b → ∃ x ∈ checkedExtents 0 l, Within x.first x.count b := by
    intro b hb
    rw [hcount] at hb
    obtain ⟨x, hx, hr⟩ := List.countP_pos_iff.mp hb
    exact ⟨x, hx, (inRun_iff ..).mp hr⟩
  have r0 : ∀ b, 1 ≤ poolAt ((s.map.pools.get u).loadedWith l) b → s.map.regionsAt u b = 0 := by
    intro b hb
    obtain ⟨x, hx, hw⟩ := hin b hb
    unfold MapUnit.regionsAt
    rw [List.countP_eq_zero]
    intro j _ hj
    obtain ⟨a, c, d⟩ := (maps_iff ..).mp hj
    exact none_map k3 j (List.mem_finRange j) ⟨a, c, x, hx, b, hw.1, hw.2, d.1, d.2⟩
  have t0 : ∀ b, 1 ≤ poolAt ((s.map.pools.get u).loadedWith l) b → s.map.targetsAt u b = 0 := by
    intro b hb
    have hw := hin b hb
    unfold MapUnit.targetsAt
    rw [pins_zero (f := fun p => p.valid && p.unit == u && p.target == b), List.countP_eq_zero.mpr]
    · intro x hx hq
      simp only [Bool.and_eq_true, beq_iff_eq] at hq
      obtain ⟨j, hj⟩ := none_learned k5 x hx hq.1
      exact hj (by rw [hq.2]; exact hw)
    · intro j
      rw [← Bool.not_eq_true]
      intro hq
      simp only [Bool.and_eq_true, beq_iff_eq] at hq
      exact none_pins k4 j hq.1.1 hq.1.2 (by rw [hq.2]; exact hw)
  have s0 : ∀ b, 1 ≤ poolAt ((s.map.pools.get u).loadedWith l) b → s.map.pinSourcesAt u b + s.map.learnedSourcesAt u b = 0 := by
    intro b hb
    have hw := hin b hb
    unfold MapUnit.pinSourcesAt MapUnit.learnedSourcesAt
    rw [pins_zero (f := fun p => p.valid && p.unit == u && p.source == b), List.countP_eq_zero.mpr]
    · intro x hx hq
      simp only [Bool.and_eq_true, beq_iff_eq] at hq
      obtain ⟨j, hj⟩ := none_learned k7 x hx hq.1
      exact hj (by rw [hq.2]; exact hw)
    · intro j
      rw [← Bool.not_eq_true]
      intro hq
      simp only [Bool.and_eq_true, beq_iff_eq] at hq
      exact none_pins k6 j hq.1.1 hq.1.2 (by rw [hq.2]; exact hw)
  have a0 : u = 0 → ∀ b, b < 64 → poolAt ((s.map.pools.get u).loadedWith l) b = 0 := by
    intro hu b hb
    by_contra hne
    obtain ⟨x, hx, hw⟩ := hin b (by omega)
    exact none_map k2 x hx ⟨hu, b, hw.1, hw.2, Nat.zero_le _, by omega⟩
  refine ⟨h.logical, h.window, fun v b => ?_, fun b hb => ?_, h.pins, h.learned, fun v b hs => ?_⟩
  · show s.map.regionsAt v b + _ + s.map.targetsAt v b ≤ 1
    rw [spares_pool]
    split
    · next hv =>
      subst hv
      have := h.blocks v b; have := hone b
      by_cases hz : 1 ≤ poolAt ((s.map.pools.get v).loadedWith l) b
      · rw [r0 b hz, t0 b hz]; omega
      · omega
    · exact h.blocks v b
  · show s.map.regionsAt 0 b + _ + s.map.targetsAt 0 b = 0
    rw [spares_pool]
    have := h.area b hb
    split
    · next hv => rw [a0 hv.symm b hb]; omega
    · exact this
  · show _ + s.map.targetsAt v b = 0
    have := h.apart v b hs
    rw [spares_pool]
    split
    · next hv =>
      subst hv
      by_cases hz : 1 ≤ poolAt ((s.map.pools.get v).loadedWith l) b
      · have := s0 b hz
        have hs' : 1 ≤ s.map.pinSourcesAt v b + s.map.learnedSourcesAt v b := hs
        omega
      · omega
    · exact this

/-- A taken block is issued and nothing else moves (R33). -/
theorem take_poolAt {p q : Pool} {b : Nat} (h : p.take = some (b, q)) (hc : ∀ x ∈ p.extents, 1 ≤ x.count) (e : Issued) (he : e.spare = b) (n : Nat) :
    ∀ y, poolAt { q with issued := q.issued ++ [e], consumed := n } y = poolAt p y := by
  intro y
  subst he
  unfold Pool.take at h
  unfold poolAt
  dsimp only
  rw [List.countP_append]
  have hone : [e].countP (fun c => c.spare == y) = if e.spare = y then 1 else 0 := by
    simp [List.countP_cons]
  rw [hone]
  split at h
  · next b' l hr =>
    simp only [Option.some.injEq, Prod.mk.injEq] at h
    obtain ⟨rfl, rfl⟩ := h
    rw [hr, List.countP_cons]
    simp only [beq_iff_eq]
    omega
  · next hr =>
    split at h
    · cases h
    · next x l hx =>
      have hx1 := hc x (by rw [hx]; exact List.mem_cons_self)
      rw [hx, List.countP_cons]
      split at h
      · simp only [Option.some.injEq, Prod.mk.injEq] at h
        obtain ⟨h1, rfl⟩ := h
        have : inRun x.first x.count y = true ↔ e.spare = y := by
          rw [inRun_iff]; unfold Within; omega
        by_cases hy : e.spare = y
        · rw [if_pos hy, if_pos (this.mpr hy)]; dsimp only; omega
        · rw [if_neg hy, if_neg (fun hc => hy (this.mp hc))]; dsimp only; omega
      · simp only [Option.some.injEq, Prod.mk.injEq] at h
        obtain ⟨h1, rfl⟩ := h
        dsimp only
        rw [List.countP_cons]
        have a1 : inRun x.first x.count y = true ↔ (e.spare = y ∨ inRun (x.first + 1) (x.count - 1) y = true) := by
          rw [inRun_iff, inRun_iff]; unfold Within; omega
        by_cases hy : e.spare = y
        · have : ¬ inRun (x.first + 1) (x.count - 1) y = true := by rw [inRun_iff]; unfold Within; omega
          rw [if_pos hy, if_pos (a1.mpr (Or.inl hy)), if_neg this]; omega
        · rw [if_neg hy]
          by_cases hi : inRun (x.first + 1) (x.count - 1) y = true
          · rw [if_pos hi, if_pos (a1.mpr (Or.inr hi))]; omega
          · rw [if_neg hi, if_neg (fun hc => by rcases a1.mp hc with a | a; exact hy a; exact hi a)]; omega

/-- A change of a pool changes that pool alone. -/
theorem onPool_map (s : State) (u f) : (s.onPool u f).map = { s.map with pools := s.map.pools.set u (f (s.map.pools.get u)) } := by
  unfold State.onPool State.markDirty; rfl

/-- An evaluation of spare health leaves the tables. -/
theorem evaluateHealth_map (s : State) (b u) : (s.evaluateHealth b u).map = s.map := by
  obtain ⟨e, h⟩ := evaluateHealth_ev s b u; rw [h]

/-- A cleared hold leaves the tables. -/
theorem clearTableFull_map (s : State) : s.clearTableFull.map = s.map := by unfold State.clearTableFull; split <;> rfl

/-- A claim keeps the tables lawful (R27, R32). -/
theorem claim_lawful {s : State} (h : s.map.Lawful) (u : Fin 4) (k : Nat) (hc : ∀ x ∈ (s.map.pools.get u).extents, 1 ≤ x.count) : (s.claim u k).2.map.Lawful := by
  unfold State.claim
  split
  · exact h
  · split
    · exact h
    · next b q hq =>
      dsimp only
      split
      · exact h
      · rw [evaluateHealth_map, onPool_map]
        exact pool_lawful h u _ (fun y => by rw [take_poolAt hq hc _ rfl]; exact le_refl _)

/-- One issued entry of a block fewer. -/
theorem unissue_count (p : Pool) (b y : Nat) (hb : p.isIssued b = true) :
    ((p.unissue b).issued.countP fun c => c.spare == y) + (if b = y then 1 else 0) = p.issued.countP fun c => c.spare == y := by
  unfold Pool.isIssued at hb
  unfold Pool.unissue
  dsimp only
  revert hb
  induction p.issued with
  | nil => intro hb; cases hb
  | cons c l ih =>
    intro hb
    rw [List.countP_cons]
    by_cases hc : c.spare = b
    · rw [List.eraseP_cons_of_pos (by simpa using hc)]
      subst hc; simp only [beq_iff_eq]
    · rw [List.eraseP_cons_of_neg (by simpa using hc), List.countP_cons]
      have := ih (by simpa [hc] using hb)
      omega

/-- No issued entry more. -/
theorem unissue_le (p : Pool) (b y : Nat) : ((p.unissue b).issued.countP fun c => c.spare == y) ≤ p.issued.countP fun c => c.spare == y :=
  (List.eraseP_sublist ..).countP_le

/-- A return keeps the tables lawful (R34). -/
theorem return_lawful {s : State} (h : s.map.Lawful) (u : Fin 4) (b : Nat) : (s.returnSpare u b).map.Lawful := by
  unfold State.returnSpare
  split
  · next hi =>
    dsimp only
    rw [clearTableFull_map, evaluateHealth_map, onPool_map]
    apply pool_lawful h
    intro y
    have := unissue_count _ b y hi
    unfold poolAt MapUnit.sparesAt
    dsimp only
    rw [List.countP_cons]
    simp only [beq_iff_eq]
    show (List.countP _ (s.map.pools.get u).extents) + _ + _ ≤ _
    omega
  · exact h

/-- A discard keeps the tables lawful (R35). -/
theorem discard_lawful {s : State} (h : s.map.Lawful) (u : Fin 4) (b : Nat) : (s.discardSpare u b).map.Lawful := by
  unfold State.discardSpare
  split
  · next hi =>
    dsimp only
    rw [clearTableFull_map, onPool_map]
    apply pool_lawful h
    intro y
    have := unissue_le (s.map.pools.get u) b y
    unfold poolAt MapUnit.sparesAt
    dsimp only
    show (List.countP _ (s.map.pools.get u).extents) + (List.countP _ (s.map.pools.get u).returned) + _ ≤ _
    omega
  · exact h

/-- A watch entry removed leaves the tables. -/
theorem unwatch_map (s : State) (u b) : (s.unwatch u b).map = s.map := by
  unfold State.unwatch
  unfold State.setWatch; split <;> rfl

/-- What an install leaves of the tables (R28, R29). -/
theorem install_map (s : State) (u : Fin 4) (h b : Nat) (k : LearnedCause) : (s.install u h b k).map = { s.map with
    pools := s.map.pools.set u ((s.map.pools.get u).unissue b)
    learned := match s.map.learnedOf u h with
      | none => s.map.learned ++ [{ unit := u, source := h, target := b, cause := k, stamp := s.now }]
      | some (pos, _) => s.map.learned.set pos { unit := u, source := h, target := b, cause := k, stamp := s.now } } := by
  have key : ((s.onPool u fun p => p.unissue b).unwatch u h).map = { s.map with pools := s.map.pools.set u ((s.map.pools.get u).unissue b) } := by
    rw [unwatch_map, onPool_map]
  unfold State.install
  dsimp only
  cases hl : s.map.learnedOf u h with
  | none =>
    dsimp only
    show MapUnit.mk _ _ _ _ = _
    have e := key
    have e1 := congrArg MapUnit.regions e; have e2 := congrArg MapUnit.pins e; have e3 := congrArg MapUnit.pools e
    dsimp only at e1 e2 e3
    rw [MapUnit.mk.injEq]
    exact ⟨e1, e2, rfl, e3⟩
  | some y =>
    obtain ⟨pos, e⟩ := y
    dsimp only
    show MapUnit.mk (State.unwatch _ u e.target).map.regions (State.unwatch _ u e.target).map.pins (State.unwatch _ u e.target).map.learned (State.unwatch _ u e.target).map.pools = _
    rw [unwatch_map]
    have e1 := congrArg MapUnit.regions key; have e2 := congrArg MapUnit.pins key; have e3 := congrArg MapUnit.pools key
    dsimp only at e1 e2 e3
    rw [MapUnit.mk.injEq]
    exact ⟨e1, e2, rfl, e3⟩

/-- An install of an issued spare keeps the tables lawful (R28, R29). -/
theorem install_lawful {s : State} (w : s.map.Lawful) (u : Fin 4) (h b : Nat) (k : LearnedCause)
    (hi : (s.map.pools.get u).isIssued b = true) (hh : s.map.sparesAt u h + s.map.targetsAt u h = 0) : (s.install u h b k).map.Lawful := by
  rw [install_map]
  generalize hE : ({ unit := u, source := h, target := b, cause := k, stamp := s.now } : LearnedEntry) = E
  have eu : E.unit = u := by rw [← hE]
  have es : E.source = h := by rw [← hE]
  have et : E.target = b := by rw [← hE]
  have hsp : ∀ y, poolAt ((s.map.pools.get u).unissue b) y + (if b = y then 1 else 0) = s.map.sparesAt u y := by
    intro y
    have := unissue_count _ b y hi
    unfold poolAt MapUnit.sparesAt
    dsimp only
    show (List.countP _ (s.map.pools.get u).extents) + (List.countP _ (s.map.pools.get u).returned) + _ + _ = _
    omega
  have hb1 : 1 ≤ s.map.sparesAt u b := by have := hsp b; rw [if_pos rfl] at this; omega
  have hbh : b ≠ h := by rintro rfl; omega
  have hbs : s.map.pinSourcesAt u b + s.map.learnedSourcesAt u b = 0 := by
    by_contra hne
    have := w.apart u b (by omega)
    omega
  generalize hL : (match s.map.learnedOf u h with
      | none => s.map.learned ++ [E]
      | some (pos, _) => s.map.learned.set pos E) = L
  have fT : ∀ v y, L.countP (fun e => e.unit == v && e.target == y) ≤ s.map.learned.countP (fun e => e.unit == v && e.target == y) + if v = u ∧ b = y then 1 else 0 := by
    intro v y
    have hEt : (E.unit == v && E.target == y) = true ↔ (v = u ∧ b = y) := by
      rw [Bool.and_eq_true, beq_iff_eq, beq_iff_eq, eu, et]; constructor <;> (rintro ⟨a, c⟩; exact ⟨a.symm, c⟩)
    rw [← hL]
    cases hl : s.map.learnedOf u h with
    | none =>
      dsimp only
      rw [List.countP_append, List.countP_cons, List.countP_nil]
      by_cases hc : v = u ∧ b = y
      · rw [if_pos hc, if_pos (hEt.mpr hc)]
      · rw [if_neg hc, if_neg (fun hx => hc (hEt.mp hx))]
    | some z =>
      obtain ⟨pos, e⟩ := z
      dsimp only
      obtain ⟨j, h1, h2, h3⟩ := findPos_some hl
      rw [Nat.zero_add] at h1; subst h1
      have := countP_setAt (fun e : LearnedEntry => e.unit == v && e.target == y) E s.map.learned pos e h2
      by_cases hc : v = u ∧ b = y
      · rw [if_pos hc]; rw [if_pos (hEt.mpr hc)] at this; omega
      · rw [if_neg hc]; rw [if_neg (fun hx => hc (hEt.mp hx))] at this; omega
  have fS : ∀ v y, L.countP (fun e => e.unit == v && e.source == y) = if v = u ∧ y = h then 1 else s.map.learned.countP (fun e => e.unit == v && e.source == y) := by
    intro v y
    have hEs : (E.unit == v && E.source == y) = true ↔ (v = u ∧ y = h) := by
      rw [Bool.and_eq_true, beq_iff_eq, beq_iff_eq, eu, es]; constructor <;> (rintro ⟨a, c⟩; exact ⟨a.symm, c.symm⟩)
    rw [← hL]
    cases hl : s.map.learnedOf u h with
    | none =>
      dsimp only
      rw [List.countP_append, List.countP_cons, List.countP_nil]
      by_cases hc : v = u ∧ y = h
      · rw [if_pos hc, if_pos (hEs.mpr hc)]
        have : s.map.learned.countP (fun e => e.unit == v && e.source == y) = 0 := by
          rw [List.countP_eq_zero]
          intro x hx
          have := findPos_none.mp hl x hx
          rw [hc.1, hc.2, this]; simp
        omega
      · rw [if_neg hc, if_neg (fun hx => hc (hEs.mp hx))]; omega
    | some z =>
      obtain ⟨pos, e⟩ := z
      dsimp only
      obtain ⟨j, h1, h2, h3⟩ := findPos_some hl
      rw [Nat.zero_add] at h1; subst h1
      have := countP_setAt (fun e : LearnedEntry => e.unit == v && e.source == y) E s.map.learned pos e h2
      by_cases hc : v = u ∧ y = h
      · obtain ⟨rfl, rfl⟩ := hc
        rw [if_pos ⟨rfl, rfl⟩]
        rw [if_pos (hEs.mpr ⟨rfl, rfl⟩), if_pos h3] at this
        have h1 := w.learned v y
        unfold MapUnit.learnedSourcesAt at h1
        have h0 : 1 ≤ s.map.learned.countP (fun e => e.unit == v && e.source == y) := List.countP_pos_iff.mpr ⟨e, List.mem_of_getElem? h2, h3⟩
        omega
      · rw [if_neg hc]
        rw [if_neg (fun hx => hc (hEs.mp hx))] at this
        have hne : ¬ (e.unit == v && e.source == y) = true := by
          intro hx
          simp only [Bool.and_eq_true, beq_iff_eq] at hx h3
          exact hc ⟨hx.1.symm.trans h3.1, hx.2.symm.trans h3.2⟩
        rw [if_neg hne] at this; omega
  have nR : ∀ v y, MapUnit.regionsAt { s.map with pools := s.map.pools.set u ((s.map.pools.get u).unissue b), learned := L } v y = s.map.regionsAt v y := fun _ _ => rfl
  have nP : ∀ v y, MapUnit.pinSourcesAt { s.map with pools := s.map.pools.set u ((s.map.pools.get u).unissue b), learned := L } v y = s.map.pinSourcesAt v y := fun _ _ => rfl
  have nS : ∀ v y, MapUnit.sparesAt { s.map with pools := s.map.pools.set u ((s.map.pools.get u).unissue b), learned := L } v y + (if v = u ∧ b = y then 1 else 0) = s.map.sparesAt v y := by
    intro v y
    have := spares_pool s.map u v ((s.map.pools.get u).unissue b) y
    rw [show MapUnit.sparesAt { s.map with pools := s.map.pools.set u ((s.map.pools.get u).unissue b), learned := L } v y = _ from this]
    by_cases hv : v = u
    · subst hv
      rw [if_pos rfl, ← hsp y]
      simp only [true_and]
    · rw [if_neg hv, if_neg (fun hx => hv hx.1)]; rfl
  have nT : ∀ v y, MapUnit.targetsAt { s.map with pools := s.map.pools.set u ((s.map.pools.get u).unissue b), learned := L } v y ≤ s.map.targetsAt v y + if v = u ∧ b = y then 1 else 0 := by
    intro v y
    have := fT v y
    unfold MapUnit.targetsAt
    dsimp only
    omega
  have nL : ∀ v y, MapUnit.learnedSourcesAt { s.map with pools := s.map.pools.set u ((s.map.pools.get u).unissue b), learned := L } v y = if v = u ∧ y = h then 1 else s.map.learnedSourcesAt v y := fS
  refine ⟨w.logical, w.window, fun v y => ?_, fun y hy => ?_, w.pins, fun v y => ?_, fun v y hs => ?_⟩
  · rw [nR]
    have := nS v y; have := nT v y; have := w.blocks v y
    omega
  · rw [nR]
    have := nS 0 y; have := nT 0 y; have := w.area y hy
    omega
  · rw [nL]
    split
    · exact le_refl _
    · exact w.learned v y
  · rw [nP, nL] at hs
    have h1 := nS v y; have h2 := nT v y
    by_cases hc : v = u ∧ y = h
    · obtain ⟨rfl, rfl⟩ := hc
      rw [if_neg (fun hx => hbh hx.2)] at h1 h2
      omega
    · rw [if_neg hc] at hs
      have h3 := w.apart v y hs
      by_cases hc2 : v = u ∧ b = y
      · obtain ⟨rfl, rfl⟩ := hc2
        omega
      · rw [if_neg hc2] at h1 h2; omega

/-- The idle timer leaves the tables. -/
theorem refresh_map (s : State) : s.refreshIdle.map = s.map := by obtain ⟨i, h⟩ := refreshIdle_eq s; rw [h]

/-- An answer leaves the tables. -/
theorem respond_map (s : State) (r d) : (s.respond r d).map = s.map := by
  unfold State.respond State.completeW0
  split
  · rfl
  · split <;> rfl

/-- An answer leaves no work. -/
theorem respond_todo (s : State) (r : CmdResult) (d : List Byte) : (s.respond r d).todo = s.todo := by
  unfold State.respond State.completeW0
  (repeat' split) <;> rfl

/-- The end of a step without work leaves the tables. -/
theorem fin_map {s : State} (h : s.todo = []) (r d) : (s.respond r d).finish.map = s.map := by
  rw [finish_of_todo_nil (by rw [respond_todo]; exact h), refresh_map, respond_map]

/-- A run of blocks that lead to themselves (R53, R113, R158). -/
theorem directRun_spec (m : MapUnit) (u : Fin 4) (ok : Nat → Bool) : ∀ n h,
    m.directRun u ok h n ≤ n ∧ (∀ b, h ≤ b → b < h + m.directRun u ok h n → (m.lookup u b).2 = .direct ∧ ok b = true) ∧
    (m.directRun u ok h n = n ∨ ¬ ((m.lookup u (h + m.directRun u ok h n)).2 = .direct ∧ ok (h + m.directRun u ok h n) = true))
  | 0, h => ⟨Nat.le_refl _, fun b h1 h2 => by unfold MapUnit.directRun at h2; omega, Or.inl rfl⟩
  | n + 1, h => by
    unfold MapUnit.directRun
    split
    · next hd =>
      obtain ⟨i1, i2, i3⟩ := directRun_spec m u ok n (h + 1)
      refine ⟨by omega, fun b h1 h2 => ?_, ?_⟩
      · by_cases hb : b = h
        · subst hb; exact hd
        · exact i2 b (by omega) (by omega)
      · rw [show h + (m.directRun u ok (h + 1) n + 1) = h + 1 + m.directRun u ok (h + 1) n from by omega]
        rcases i3 with k | k
        · exact Or.inl (by rw [k])
        · exact Or.inr k
    · next hd => exact ⟨Nat.zero_le _, fun b h1 h2 => by omega, Or.inr hd⟩

/-- A direct block leads to itself (R20). -/
theorem lookup_direct {m : MapUnit} {u h} (k : (m.lookup u h).2 = .direct) : (m.lookup u h).1 = h := by
  unfold MapUnit.lookup at *
  split at k
  · cases k
  · split at k
    · cases k
    · rfl

/-- What is cut of a run (R53, R113, R158). -/
theorem cuts_iff (m : MapUnit) (u : Fin 4) (ok : Nat → Bool) (h most first count : Nat) (hm : 1 ≤ most) :
    m.Cuts u ok h most first count ↔ m.cut u ok h most = (first, count) := by
  unfold MapUnit.Cuts MapUnit.cut
  dsimp only
  by_cases hd : (m.lookup u h).2 = .direct ∧ ok h = true
  · have hd' : (m.lookup u h).2 = .direct ∧ ok (m.lookup u h).1 = true := by rw [lookup_direct hd.1]; exact hd
    rw [if_pos hd']
    obtain ⟨i1, i2, i3⟩ := directRun_spec m u ok (min most Config.longestRun) h
    have hpos : 1 ≤ m.directRun u ok h (min most Config.longestRun) := by
      rcases Nat.eq_zero_or_pos (m.directRun u ok h (min most Config.longestRun)) with k | k
      · rw [k] at i3
        rcases i3 with j | j
        · unfold Config.longestRun at j; omega
        · exact absurd hd j
      · exact k
    have hlen : Config.longestRun = 32 := rfl
    generalize m.directRun u ok h (min most Config.longestRun) = k at *
    rw [hlen] at i1 i3
    constructor
    · rintro ⟨a, -⟩
      obtain ⟨a1, a2, a3, a4, a5, a6⟩ := a hd
      subst a1
      have : k = count := by
        by_contra hne
        rcases Nat.lt_or_gt_of_ne hne with hlt | hgt
        · rcases i3 with j | j
          · omega
          · exact j (a5 _ (by omega) (by omega))
        · rcases a6 with j | j | j
          · omega
          · omega
          · exact j (i2 _ (by omega) (by omega))
      rw [this, Nat.max_eq_right a2]
    · intro a
      rw [Nat.max_eq_right hpos, Prod.mk.injEq] at a
      obtain ⟨rfl, rfl⟩ := a
      refine ⟨fun _ => ⟨rfl, hpos, by omega, by omega, i2, ?_⟩, fun x => absurd hd x⟩
      rcases i3 with j | j
      · omega
      · exact Or.inr (Or.inr j)
  · have hd' : ¬ ((m.lookup u h).2 = .direct ∧ ok (m.lookup u h).1 = true) := by
      intro x; rw [lookup_direct x.1] at x; exact hd x
    rw [if_neg hd', Prod.mk.injEq]
    constructor
    · rintro ⟨-, b⟩; obtain ⟨b1, b2⟩ := b hd; exact ⟨b1.symm, b2.symm⟩
    · rintro ⟨b1, b2⟩; exact ⟨fun x => absurd x hd, fun _ => ⟨b1.symm, b2.symm⟩⟩

end Sys2Proof.Laws
end

