-- ==== Sys2Proof/Laws/EffectsCommands.lean ====
section
/-!
SUPPORT. What the stages, the codes and the answers of the management commands come to.
-/

set_option linter.all false

set_option Elab.async false

namespace Sys2Proof.Laws

open Sys2Proof Sys2Proof.Machine

/-- SERVICE entered with no scan and no automatic patrol (R163). -/
theorem enterService_quiet {s : State} (hc : s.scan.context = none) (hap : s.mgmt.params.autoPatrol = false) :
    s.enterService = { s with modes := { s.modes with mode := .service, phase := .none, drain := .none } } := by
  unfold State.enterService State.scanServes
  simp [hap, State.scanResume, hc, State.scanCut, State.scanCutUpTo]
  rfl

/-- A check's code names a check (R110). -/
theorem kindOf_check {n : Nat} (h : n = ScanKind.checkShort.code ∨ n = ScanKind.checkFull.code) : ∃ k, ScanKind.ofCode n = some k ∧ k ≠ .patrol := by
  rcases h with h | h <;> subst h <;> exact ⟨_, rfl, by simp⟩

/-- Any other number names no scan. -/
theorem kindOf_none {n : Nat} (h0 : n ≠ ScanKind.patrol.code) (h : ¬(n = ScanKind.checkShort.code ∨ n = ScanKind.checkFull.code)) : ScanKind.ofCode n = none := by
  unfold ScanKind.ofCode
  unfold ScanKind.code at *
  split <;> simp_all

/-- A SUSPENDED scan cuts nothing (R114). -/
theorem scanCut_suspended (s : State) (h : s.scan.state = .suspended) : s.scanCut = s := by
  unfold State.scanCut State.scanCutUpTo
  split
  · rfl
  · simp [h]

/-- A running scan cuts the extent that its cursor finds (R113). -/
theorem scanCut_finds {s : State} {c c' : ScanContext} {y : Extent} (h1 : s.scan.context = some c) (h2 : s.scan.state = .running)
    (h3 : c.current = none) (h4 : s.modes.mode.scans = true) (h5 : c.suspendRequested = false) (h6 : s.scanBusy = false)
    (h7 : s.scanFind scanFuel c = (c', some y)) :
    s.scanCut = (s.offerScan y).2.setScan { c' with current := some { extent := y, retried := false, stamp := some (s.offerScan y).1 } } := by
  unfold State.scanCut State.scanCutUpTo
  rw [h1]
  dsimp only
  rw [h2, h3, h4, h5, h6, h7]
  simp

/-- A running scan whose cursor finds nothing guardEnds_awaited (R118). -/
theorem scanCut_ends {s : State} {c c' : ScanContext} (h1 : s.scan.context = some c) (h2 : s.scan.state = .running)
    (h3 : c.current = none) (h4 : s.modes.mode.scans = true) (h5 : c.suspendRequested = false) (h6 : s.scanBusy = false)
    (h7 : s.scanFind scanFuel c = (c', none)) (h8 : c.endResult = .noCoverage) :
    s.scanCut = s.endScan .noCoverage := by
  unfold State.scanCut State.scanCutUpTo
  rw [h1]
  dsimp only
  rw [h2, h3, h4, h5, h6, h7]
  simp [h8]

/-- Outside CONFIG a table command answers WRONG_MODE (R135). -/
theorem stages_mode {s : State} {t : Taken} (h : t.mode ≠ .config) : s.tableStages t = some .wrongMode := by unfold State.tableStages; rw [if_pos h]

/-- A guard that refuses the tables answers LOCKED (R135). -/
theorem stages_guard {s : State} {t : Taken} (h : t.mode = .config) (g : s.guard.state = .locked ∨ s.guard.state = .erasing ∨ s.guard.state = .eraseIncomplete) :
    s.tableStages t = some .locked := by
  unfold State.tableStages; rw [if_neg (by simp [h])]; rcases g with g | g | g <;> simp [g, GuardState.refusesTables]

/-- In CONFIG with the guard open the stages pass (R135). -/
theorem stages_none {s : State} {t : Taken} (h : t.mode = .config) (g : s.guard.state = .disabled ∨ s.guard.state = .opened) :
    s.tableStages t = none := by
  unfold State.tableStages; rw [if_neg (by simp [h])]; rcases g with g | g <;> simp [g, GuardState.refusesTables]

/-- A change of the tables and its answer. -/
theorem dirtied_answered {s x : State} {c : Command} {t : Taken} (h : s.Awaits c t) (hx : x.mgmt.taken = s.mgmt.taken) (ht : x.todo = s.todo) (r d) :
    (x.markDirty.respond r d).finish = (State.answered { x with store := x.store.dirtied } t r d).refreshIdle := by
  rw [respond_finish_awaited (x := x.markDirty) h hx ht, markDirty_eq]

/-- A region written and its answer (R5, R181). -/
theorem setRegion_answered {s : State} {c : Command} {t : Taken} (h : s.Awaits c t) (i : Fin 16) (e : RegionEntry) (r d) :
    ((s.setRegion i e).respond r d).finish = (State.answered { s with
      map := { s.map with regions := s.map.regions.set i e }, store := if e = s.map.regions[i] then s.store else s.store.dirtied } t r d).refreshIdle := by
  unfold State.setRegion
  by_cases he : e = s.map.regions[i]
  · rw [if_pos he, if_pos he, respond_finish_awaited (x := s) h rfl rfl, he, vector_set_self]
  · rw [if_neg he, if_neg he]
    exact dirtied_answered (x := { s with map := { s.map with regions := s.map.regions.set i e } }) h rfl rfl _ _

/-- A pin written and its answer (R22, R181). -/
theorem setPin_answered {s : State} {c : Command} {t : Taken} (h : s.Awaits c t) (i : Fin 32) (e : PinEntry) (r d) :
    ((s.setPin i e).respond r d).finish = (State.answered { s with
      map := { s.map with pins := s.map.pins.set i e }, store := if e = s.map.pins[i] then s.store else s.store.dirtied } t r d).refreshIdle := by
  unfold State.setPin
  by_cases he : e = s.map.pins[i]
  · rw [if_pos he, if_pos he, respond_finish_awaited (x := s) h rfl rfl, he, vector_set_self]
  · rw [if_neg he, if_neg he]
    exact dirtied_answered (x := { s with map := { s.map with pins := s.map.pins.set i e } }) h rfl rfl _ _

/-- A payload that names no code. -/
theorem codeKind_none {t : Taken} (h : t.payloadLength ≠ 32 ∨ (t.p1 0 ≠ CodeKind.user.code ∧ t.p1 0 ≠ CodeKind.recovery.code)) : t.codeKind = none := by
  unfold Taken.codeKind
  rcases h with h | ⟨h1, h2⟩
  · simp [h]
  · split
    · unfold CodeKind.ofCode; unfold CodeKind.code at *; split <;> simp_all
    · rfl

/-- A payload that names a code (R149). -/
theorem codeKind_some {t : Taken} {k : CodeKind} (h : t.payloadLength = 32) (hk : t.p1 0 = k.code) : t.codeKind = some k := by
  unfold Taken.codeKind
  rw [if_pos h, hk]; cases k <;> rfl

/-- A guard command's answer. -/
theorem guardEnds_awaited {s x : State} {c : Command} {t : Taken} (h : s.Awaits c t) (hx : x.mgmt.taken = s.mgmt.taken) (r) : x.guardEnds r = x.answered t r x.guard.report := respond_awaited_of h hx _ _

/-- The comparison of a code (R149). -/
theorem matches_iff (g : GuardUnit) (k code l) : g.matches k code l = true ↔ g.Accepts k code l := by
  unfold GuardUnit.matches GuardUnit.Accepts
  cases k
  · simp
  · cases l <;> simp
    cases g.level <;> simp [and_comm]

/-- A mismatch counts one (R152). -/
theorem countMismatch_counts {s : State} (h : s.guard.failed < 5) : s.countMismatch = { s with guard := { s.guard with failed := s.guard.failed + 1 } } := by
  unfold State.countMismatch satAdd
  rw [Nat.min_eq_right (by omega)]

/-- Five mismatches answer ATTEMPTS_EXCEEDED (R152). -/
theorem withCode_exceeded {s : State} {c : Command} {t : Taken} (h : s.Awaits c t) (k code l f) (hf : 5 ≤ s.guard.failed) :
    s.withCode k code l f = s.answered t .attemptsExceeded s.guard.report := by
  unfold State.withCode; rw [if_pos hf]; exact guardEnds_awaited h rfl _

/-- A code that does not match counts a mismatch (R152). -/
theorem withCode_mismatch {s : State} {c : Command} {t : Taken} (h : s.Awaits c t) (k code l f) (hf : s.guard.failed < 5) (ha : ¬ s.guard.Accepts k code l) :
    s.withCode k code l f = State.answered { s with guard := { s.guard with failed := s.guard.failed + 1 } } t .codeMismatch (GuardUnit.report { s.guard with failed := s.guard.failed + 1 }) := by
  unfold State.withCode; rw [if_neg (by omega), if_neg (by rw [matches_iff]; exact ha), countMismatch_counts hf]
  exact guardEnds_awaited (x := { s with guard := { s.guard with failed := s.guard.failed + 1 } }) h rfl _

/-- A code that matches lets the command act. -/
theorem withCode_accepted {s : State} (k code l f) (hf : s.guard.failed < 5) (ha : s.guard.Accepts k code l) :
    s.withCode k code l f = f s := by
  unfold State.withCode; rw [if_neg (by omega), if_pos (by rw [matches_iff]; exact ha)]

/-- Two guards saved alike (R181). -/
theorem savesAs_iff (g h : GuardUnit) : g.savesAs h = true ↔ g.stored = h.stored ∧ g.level = h.level ∧ g.userCode = h.userCode ∧ g.recoveryCode = h.recoveryCode := by
  unfold GuardUnit.savesAs; simp [and_assoc]

/-- A change of the guard and its answer (R150, R181). -/
theorem changeGuard_ends {s : State} {c : Command} {t : Taken} (h : s.Awaits c t) (f : GuardUnit → GuardUnit) :
    ((s.changeGuard f).guardEnds .done).finish = State.refreshIdle (State.answered { s with guard := f s.guard, store := if (f s.guard).savesAs s.guard = true then s.store else s.store.dirtied } t .done (f s.guard).report) := by
  unfold State.changeGuard State.onGuard
  split
  · exact respond_finish_awaited (x := { s with guard := f s.guard }) h rfl rfl _ _
  · rw [markDirty_eq]
    exact respond_finish_awaited (x := { s with guard := f s.guard, store := s.store.dirtied }) h rfl rfl _ _

/-- A port command's answer with the port's record. -/
theorem record_answered {s x : State} {c : Command} {t : Taken} (h : s.Awaits c t) (hx : x.mgmt.taken = s.mgmt.taken) (ht : x.todo = s.todo) (u : Fin 4) (r : Port) (hr : x.port u = r) :
    ((x.settle).respond .done ((x.settle).port u).record).finish = (x.answered t .done r.record).refreshIdle := by
  rw [settle_of_todo_nil (by rw [ht]; exact h.settled), hr]
  exact respond_finish_awaited h hx ht _ _

/-- A number that names no desired mode. -/
theorem desiredMode_none {n : Nat} (h : ∀ m : DesiredMode, n ≠ m.code) : DesiredMode.ofCode n = none := by
  have a := h .active; have b := h .readOnly; have c := h .offline
  unfold DesiredMode.ofCode; unfold DesiredMode.code at *
  split <;> simp_all

/-- A guard command's answer leaves no work. -/
theorem guardEnds_todo (s : State) (r : CmdResult) : (s.guardEnds r).todo = s.todo := respond_todo _ _ _

/-- A command carry_awaited out without work leaves none. -/
theorem carry_todo (s : State) (c : Command) (f : State → Taken → State) (h : s.todo = []) (hf : ∀ t, (f s t).todo = []) : (if s.inReset then s else s.carry c f).todo = [] := by
  split
  · exact h
  · unfold State.carry; repeat' split
    all_goals first | exact h | exact hf _

/-- Outside reset likewise. -/
theorem up_todo (s x : State) (h : s.todo = []) (hx : x.todo = []) : (if s.inReset then s else x).todo = [] := by
  split <;> assumption

/-- A region written leaves no work. -/
theorem setRegion_todo (s : State) (i e) : (s.setRegion i e).todo = s.todo := by unfold State.setRegion; split <;> rfl

/-- A COMPLETION sent leaves no work. -/
theorem sendCompletion_todo (s : State) (a b c d e) : (s.sendCompletion a b c d e).todo = s.todo := rfl

/-- A window access refused leaves no work. -/
theorem windowRefuse_todo (s : State) (a b c d) : (s.windowRefuse a b c d).todo = s.todo := rfl

/-- Every command leaves no work behind. -/
theorem exec_todo (c : Instr) (s t : State) (h' : s.todo = []) (e : exec c s = .next t) : t.todo = [] := by
    have mk (x : State) (hx : x.todo = []) (e : (Host.Outcome.next x : Host.Outcome State Fault Refusal) = .next t) : t.todo = [] := by
      injection e with e; subst e; exact hx
    cases c
    case partReset ev =>
      cases ev with
      | power l => refine mk _ ?_ e; split; · rfl
                   · exact finish_todo _
      | resetLine => refine mk _ ?_ e; split; · exact h'
                     · rfl
      | resetPart => refine mk _ ?_ e; split; · exact finish_todo _
                     · exact h'
    case resetLineReleased => refine mk _ ?_ e; split; · exact finish_todo _
                              · exact h'
    case unitPresentAsserted => refine mk _ ?_ e; split; · exact h'
                                · exact finish_todo _
    case unitPresentReleased => refine mk _ ?_ e; split; · exact h'
                                · exact finish_todo _
    case unitFaultLineChange => refine mk _ ?_ e; split; · exact h'
                                · exact finish_todo _
    case request f =>
      refine mk _ (up_todo _ _ h' ?_) e
      unfold State.requestFrame State.takeRequest
      dsimp only
      (repeat' split) <;> first | exact h' | exact finish_todo _
    case writeData f =>
      refine mk _ (up_todo _ _ h' ?_) e
      unfold State.writeDataFrame
      try dsimp only
      (repeat' split) <;> first | exact h' | exact finish_todo _
    case cancel f =>
      refine mk _ (up_todo _ _ h' ?_) e
      unfold State.cancelFrame State.takeCancel
      try dsimp only
      (repeat' split) <;> first | exact h' | exact finish_todo _
    case linkReset f =>
      refine mk _ (up_todo _ _ h' ?_) e
      unfold State.linkResetFrame
      try dsimp only
      (repeat' split) <;> first | exact h' | exact finish_todo _
    case windowDataTimeout g => refine mk _ (up_todo _ _ h' ?_) e; unfold State.windowTimesOut; try dsimp only; split <;> exact h'
    case dataTimeout g i => refine mk _ (up_todo _ _ h' ?_) e; unfold State.dataTimesOut; try dsimp only; (repeat' split) <;> first | exact h' | exact finish_todo _
    case readDataSent g i => refine mk _ (up_todo _ _ h' ?_) e; unfold State.readDataSent; try dsimp only; (repeat' split) <;> first | exact h' | exact finish_todo _
    case bufferClaimGrant => refine mk _ (up_todo _ _ h' ?_) e; unfold State.grantFront; try dsimp only; (repeat' split) <;> first | exact h' | exact finish_todo _
    case holdCleared => refine mk _ (up_todo _ _ h' ?_) e; unfold State.runCleared; try dsimp only; (repeat' split) <;> first | exact h' | exact finish_todo _
    case syncComplete => refine mk _ (up_todo _ _ h' ?_) e; unfold State.completeSync; try dsimp only; (repeat' split) <;> first | exact h' | exact finish_todo _
    case queuePlaceFree u => refine mk _ (up_todo _ _ h' ?_) e; unfold State.placeFree; try dsimp only; (repeat' split) <;> first | exact h' | exact finish_todo _
    case pendingWriteRedirect => refine mk _ (up_todo _ _ h' ?_) e; unfold State.redirect; try dsimp only; (repeat' split) <;> first | exact h' | exact finish_todo _
    case unitData u f => refine mk _ (up_todo _ _ h' ?_) e; unfold State.unitDataFrame State.takeData; try dsimp only; (repeat' split) <;> first | exact h' | exact finish_todo _
    case result u f => refine mk _ (up_todo _ _ h' ?_) e; unfold State.resultFrame State.takeResult; try dsimp only; (repeat' split) <;> first | exact h' | exact finish_todo _
    case unitTimeout u k => refine mk _ (up_todo _ _ h' ?_) e; unfold State.slotTimesOut; try dsimp only; (repeat' split) <;> first | exact h' | exact finish_todo _
    case agingExpiry => refine mk _ (up_todo _ _ h' ?_) e; unfold State.age; try dsimp only; (repeat' split) <;> first | exact h' | exact finish_todo _
    case quietTimerExpiry => refine mk _ (up_todo _ _ h' ?_) e; unfold State.quietExpires; try dsimp only; (repeat' split) <;> first | exact h' | exact finish_todo _
    case idleTimerExpiry => refine mk _ (up_todo _ _ h' ?_) e; unfold State.idleExpires; try dsimp only; (repeat' split) <;> first | exact h' | exact finish_todo _
    case relocationStart => refine mk _ (up_todo _ _ h' ?_) e; unfold State.startRelocation; try dsimp only; (repeat' split) <;> first | exact h' | exact finish_todo _
    case takeSave => refine mk _ (up_todo _ _ h' ?_) e; unfold State.takeASave; try dsimp only; (repeat' split) <;> first | exact h' | exact finish_todo _
    case drainEnd => refine mk _ (up_todo _ _ h' ?_) e; unfold State.endDrain; try dsimp only; (repeat' split) <;> first | exact h' | exact finish_todo _
    case powerDown u => refine mk _ (up_todo _ _ h' ?_) e; unfold State.sendPowerDown; try dsimp only; (repeat' split) <;> first | exact h' | exact finish_todo _
    case poweringDownComplete => refine mk _ (up_todo _ _ h' ?_) e; unfold State.completePowerDown; try dsimp only; (repeat' split) <;> first | exact h' | exact finish_todo _
    case wakeSettled => refine mk _ (up_todo _ _ h' ?_) e; unfold State.wakeEnds; try dsimp only; (repeat' split) <;> first | exact h' | exact finish_todo _
    case eraseWaitEnd => refine mk _ (up_todo _ _ h' ?_) e; unfold State.endEraseWait; try dsimp only; (repeat' split) <;> first | exact h' | exact finish_todo _
    all_goals
      refine mk _ (carry_todo _ _ _ h' fun t => ?_) e
      try simp only [State.changeParams, State.changeStreams, State.changeMode, State.toConfig, State.askService, State.toService, State.toStandby, State.modeEnds, State.modeWaits,
        State.saveCommand, State.saveAccepted, State.scanStart, State.scanAccepted, State.scanAbort, State.scanLogRead, State.logRead, State.countersRead, State.readStream, State.readUnit,
        State.regionRead, State.regionWrite, State.regionWriteAt, State.regionClear, State.pinRead, State.pinWrite, State.pinWriteAt, State.pinClear, State.remapRead, State.remapDelete, State.spareRead, State.spareLoad, State.spareLoadAt,
        State.watchRead, State.watchClear, State.watchClearAll, State.watchClearOne, State.unitInfo, State.unitMode, State.unitModeAt,
        State.guardSetUser, State.guardSetRecovery, State.guardUnlock, State.guardDisable, State.freeze, State.erasePrepare, State.eraseGuarded, State.eraseStages, State.withKind, State.withCode, State.unlessFrozen,
        State.setUser, State.setRecovery, State.unlock, State.disableGuard, State.prepare, State.startErase]
      try dsimp only
      (repeat' split) <;> first | exact finish_todo _ | exact (respond_todo _ _ _).trans h' | exact (guardEnds_todo _ _).trans h' | exact h'

/-- Every command answers a lawful next state with the queue's rest, and takes nothing back of what was sent. -/
theorem exec_any (c : Instr) (s : State) : ∃ t, exec c s = .next t ∧ (s.Lawful → t.Lawful) ∧ t.pending = s.pending ∧
   s.link.sent <+: t.link.sent ∧ (∀ u, (s.port u).sent <+: (t.port u).sent) ∧ (s.todo = [] → t.todo = []) := by
  by_cases h1 : ∃ e, c = .partReset e
  · obtain ⟨e, rfl⟩ := h1
    have base (cause : StartCause) : (∀ x, x = s.partReset cause → (s.Lawful → x.Lawful) ∧ x.pending = s.pending ∧ s.link.sent <+: x.link.sent ∧ (∀ u, (s.port u).sent <+: (x.port u).sent) ∧ (s.todo = [] → x.todo = [])) := by
      rintro x rfl
      refine ⟨fun _ => partReset_lawful _ _, rfl, List.prefix_refl _, fun u => ?_, fun _ => rfl⟩
      match u with
      | 0 => exact List.prefix_refl _
      | 1 => exact List.prefix_refl _
      | 2 => exact List.prefix_refl _
      | 3 => exact List.prefix_refl _
    have up (cause : StartCause) : (∀ x, x = (s.partReset cause).startUp → (s.Lawful → x.Lawful) ∧ x.pending = s.pending ∧ s.link.sent <+: x.link.sent ∧ (∀ u, (s.port u).sent <+: (x.port u).sent) ∧ (s.todo = [] → x.todo = [])) := by
      rintro x rfl
      have b := base cause _ rfl
      have ev := startUp_evolves True (s.partReset cause)
      refine ⟨fun h => startUp_lawful (b.1 h), ev.pending.trans b.2.1, b.2.2.1.trans ev.sent, fun u => (b.2.2.2.1 u).trans (ev.unitSent u), fun _ => ?_⟩
      exact finish_todo _
    have self : (s.Lawful → s.Lawful) ∧ s.pending = s.pending ∧ s.link.sent <+: s.link.sent ∧ (∀ u, (s.port u).sent <+: (s.port u).sent) ∧ (s.todo = [] → s.todo = []) :=
      ⟨id, rfl, List.prefix_refl _, fun _ => List.prefix_refl _, id⟩
    cases e with
    | power l =>
      refine ⟨_, rfl, ?_⟩
      split
      · exact base _ _ rfl
      · exact up _ _ rfl
    | resetLine =>
      refine ⟨_, rfl, ?_⟩
      split
      · exact self
      · exact base _ _ rfl
    | resetPart =>
      refine ⟨_, rfl, ?_⟩
      split
      · exact up _ _ rfl
      · exact self
  · by_cases h2 : c = .resetLineReleased
    · subst h2
      refine ⟨_, rfl, ?_⟩
      split
      · have ev := startUp_evolves True s
        exact ⟨startUp_lawful, ev.pending, ev.sent, ev.unitSent, fun _ => finish_todo _⟩
      · exact ⟨id, rfl, List.prefix_refl _, fun _ => List.prefix_refl _, id⟩
    · obtain ⟨t, e, ev⟩ := exec_evolves c s (fun e h => h1 ⟨e, h⟩) h2
      refine ⟨t, e, ev.lawful, ev.pending, ev.sent, ev.unitSent, ?_⟩
      exact fun h' => exec_todo c s t h' e

end Sys2Proof.Laws
end

