-- ==== Sys2Proof/Laws/EffectsHealth.lean ====
section
/-!
SUPPORT. What reports, evictions, claims, returns, discards and installs leave of the watch list and the pools (R27 to R29, R34, R35, R89 to R94).
-/

set_option linter.all false

set_option Elab.async false

namespace Sys2Proof.Laws

open Sys2Proof Sys2Proof.Machine

/-- A change of a pool. -/
theorem onPool_eq (s : State) (u f) : s.onPool u f = { s with map := { s.map with pools := s.map.pools.set u (f (s.map.pools.get u)) }, store := s.store.dirtied } := by
  unfold State.onPool; rw [markDirty_eq]

/-- A block is a pin's source exactly where a valid pin names it (R22). -/
theorem pin_some {m : MapUnit} {u : Fin 4} {h : Nat} : (m.pinOf u h).isSome = true ↔ ∃ j : Fin 32, m.pins[j].valid = true ∧ m.pins[j].unit = u ∧ m.pins[j].source = h := by
  unfold MapUnit.pinOf
  rw [List.find?_isSome]
  constructor
  · rintro ⟨j, -, hj⟩; simp only [Bool.and_eq_true, beq_iff_eq] at hj; exact ⟨j, hj.1.1, hj.1.2, hj.2⟩
  · rintro ⟨j, a, b, c⟩; exact ⟨j, List.mem_finRange j, by simp only [Bool.and_eq_true, beq_iff_eq]; exact ⟨⟨a, b⟩, c⟩⟩

/-- A block has no learned entry exactly where none names it (R28). -/
theorem learned_none {m : MapUnit} {u : Fin 4} {h : Nat} : (m.learnedOf u h).isNone = true ↔ ¬ ∃ e ∈ m.learned, e.unit = u ∧ e.source = h := by
  unfold MapUnit.learnedOf
  rw [Option.isNone_iff_eq_none, findPos_none]
  simp

/-- The table-full hold clears while an entry is free (R108). -/
theorem clearTableFull_eq (s : State) : s.clearTableFull = { s with health := { s.health with tableFull := if s.map.learned.length + s.map.reserved < 512 then false else s.health.tableFull } } := by
  unfold State.clearTableFull Config.learnedLimit
  split <;> rfl

/-- DIRTY marked twice is DIRTY. -/
theorem dirtied_twice (c : StoreController) : c.dirtied.dirtied = c.dirtied := by
  unfold StoreController.dirtied
  cases c.state <;> simp

/-- A watch entry removed from a DIRTY map. -/
theorem unwatch_dirty {s : State} (u b) (h : s.store.dirtied = s.store) : s.unwatch u b = { s with health := { s.health with watch := s.health.watch.filter fun e => e.block != ⟨u, b⟩ } } := by
  unfold State.unwatch State.setWatch
  split
  · next hl => exact congrArg (fun w => ({ s with health := { s.health with watch := w } } : State)) hl.symm
  · rw [markDirty_eq]; dsimp only; rw [h]

/-- The event of a unit whose spare health worsens (R38). -/
theorem evaluateHealth_events (s : State) (u : Fin 4) : ∀ before, s.evaluateHealth before u =
      if s.unitHealth u = before ∨ s.unitHealth u = .good then s
      else
        let e : Event := if s.unitHealth u = .low then .spareLow else .spareExhausted
        { s with mgmt := { s.mgmt with events := s.mgmt.events ||| e.bit } } := by
  intro b
  unfold State.evaluateHealth
  by_cases h : s.unitHealth u = b
  · rw [if_pos h, if_pos (Or.inl h)]
  · rw [if_neg h]
    cases hh : s.unitHealth u
    · simp
    · rw [if_neg (by simp; intro k; exact h (hh.trans k))]; rfl
    · rw [if_neg (by simp; intro k; exact h (hh.trans k))]; rfl

/-- An unchanged watch entry is not evaluated again (R92). -/
theorem changedTo_same (t : Nat) (e : WatchEntry) : e.changedTo t e = e := by unfold WatchEntry.changedTo; rw [if_pos ⟨rfl, rfl⟩]

/-- A block that a pin leads to. -/
theorem isPinTarget_iff (s : State) (a : Phys) : s.isPinTarget a = true ↔ (s.map.resolve a).1 = .pinTarget := by unfold State.isPinTarget; rw [decide_eq_true_eq]

/-- An entry of a list without doubles stands alone. -/
theorem nodup_apart {l r : List WatchEntry} {e : WatchEntry} (h : ((l ++ e :: r).map fun e => e.block).Nodup) :
    (∀ x ∈ l, x.block ≠ e.block) ∧ (∀ x ∈ r, x.block ≠ e.block) := by
  rw [List.map_append, List.map_cons, List.nodup_append] at h
  obtain ⟨-, h2, h3⟩ := h
  rw [List.nodup_cons] at h2
  refine ⟨fun x hx hb => h3 _ (List.mem_map_of_mem hx) _ (List.mem_cons_self) hb, fun x hx hb => h2.1 (by rw [← hb]; exact List.mem_map_of_mem hx)⟩

/-- An event raised for one of two reasons. -/
theorem raised_if (s : State) (e : Event) (p q : Prop) [Decidable p] [Decidable q] :
    (if q then State.raise (if p then s.raise e else s) e else (if p then s.raise e else s)) = { s with mgmt := { s.mgmt with events := if p ∨ q then s.mgmt.events ||| e.bit else s.mgmt.events } } := by
  by_cases hp : p <;> by_cases hq : q <;> simp only [hp, hq, if_true, if_false, or_true, true_or, or_self]
  · show State.raise (State.raise s e) e = _
    unfold State.raise
    dsimp only
    rw [BitVec.or_assoc, BitVec.or_self]
  · rfl
  · rfl

/-- PIN_TARGET_SUSPECT for a new due entry (R94). -/
theorem suspectDue_ite (s : State) (l : List WatchEntry) (st : StoreController) (before : List WatchEntry) (P : Prop) [Decidable P]
    (h : (l.any fun x => x.due && s.isPinTarget x.block && !(before.any fun y => y.block == x.block && y.due)) = true ↔ P) :
    State.suspectDue { s with health := { s.health with watch := l }, store := st } before =
      if P then State.raise { s with health := { s.health with watch := l }, store := st } .pinTargetSuspect else { s with health := { s.health with watch := l }, store := st } := by
  unfold State.suspectDue
  exact ite_iff h _ _

/-- The entry of a block in a list without doubles. -/
theorem watched_at {l r : List WatchEntry} {e : WatchEntry} (h : ∀ x ∈ l, x.block ≠ e.block) : (l ++ e :: r).find? (fun x => x.block == e.block) = some e := by
  rw [List.find?_append, List.find?_eq_none.mpr (fun x hx => by simpa using h x hx)]
  simp

/-- A report of a block on the list (R89 to R92). -/
theorem applyError_known (s : State) (a : Phys) (kind : WatchCause) (hd : (s.health.watch.map fun e => e.block).Nodup)
    (hl : s.map.learnedOf a.unit a.block = none) (l r : List WatchEntry) (e : WatchEntry) (hw : s.health.watch = l ++ e :: r) (ha : e.block = a)
    (score : Nat) (pending d : Bool) (hs : score = min 15 (e.score + kind.weight)) (hp : pending = (e.pending || kind.hard))
    (hdd : d = if score = e.score ∧ pending = e.pending then e.due else decide (s.mgmt.params.promotion ≤ score) && !pending) :
    s.applyError a kind = { s with
      health := { s.health with watch := l ++ { e with score := score, age := 0, pending := pending, due := d, cause := kind, stamp := s.now } :: r }
      store := if l ++ { e with score := score, age := 0, pending := pending, due := d, cause := kind, stamp := s.now } :: r = s.health.watch then s.store else s.store.dirtied
      mgmt := { s.mgmt with events := if (s.map.resolve a).1 = .pinTarget ∧ (kind.hard = true ∨ (e.due = false ∧ d = true)) then s.mgmt.events ||| Event.pinTargetSuspect.bit else s.mgmt.events } } := by
  subst ha
  rw [hw] at hd
  obtain ⟨h1, h2⟩ := nodup_apart hd
  unfold State.applyError
  rw [hl]
  simp only [Option.isSome_none, Bool.false_eq_true, if_false]
  have hf : s.watched e.block = some e := by unfold State.watched; rw [hw]; exact watched_at h1
  rw [hf]
  dsimp only
  unfold State.rewatch
  dsimp only
  have hmap : (s.health.watch.map fun x => x.changedTo s.mgmt.params.promotion (if x.block = e.block then x.apply kind s.now else x)) =
      l ++ { e with score := score, age := 0, pending := pending, due := d, cause := kind, stamp := s.now } :: r := by
    rw [hw, List.map_append, List.map_cons]
    congr 1
    · conv_rhs => rw [← List.map_id l]
      apply List.map_congr_left
      intro x hx
      rw [if_neg (h1 x hx), changedTo_same]; rfl
    · congr 1
      · rw [if_pos rfl]
        unfold WatchEntry.apply WatchEntry.changedTo WatchEntry.evaluated satAdd
        dsimp only
        rw [hdd, ← hs, ← hp]
        split <;> rfl
      · conv_rhs => rw [← List.map_id r]
        apply List.map_congr_left
        intro x hx
        rw [if_neg (h2 x hx), changedTo_same]; rfl
  rw [hmap, setWatch_eq]
  have hany : (List.any (l ++ { e with score := score, age := 0, pending := pending, due := d, cause := kind, stamp := s.now } :: r) fun x =>
      x.due && s.isPinTarget x.block && !(s.health.watch.any fun y => y.block == x.block && y.due)) = true ↔ (s.map.resolve e.block).1 = .pinTarget ∧ e.due = false ∧ d = true := by
    have hex : ∀ x ∈ s.health.watch, (x.due && s.isPinTarget x.block && !(s.health.watch.any fun y => y.block == x.block && y.due)) = false := by
      intro x hx
      cases hxd : x.due
      · rfl
      · rw [List.any_eq_true.mpr ⟨x, hx, by simp [hxd]⟩]; simp
    have hsame : (s.health.watch.any fun y => y.block == e.block && y.due) = e.due := by
      rw [hw, List.any_append, List.any_cons]
      rw [List.any_eq_false.mpr (fun x hx => by simp [h1 x hx]), List.any_eq_false.mpr (fun x hx => by simp [h2 x hx])]
      simp
    have A := (List.any_eq_false (p := fun x : WatchEntry => x.due && s.isPinTarget x.block && !(s.health.watch.any fun y => y.block == x.block && y.due)) (l := l)).mpr
      (fun x hx => by rw [hex x (by rw [hw]; exact List.mem_append_left _ hx)]; simp)
    have B := (List.any_eq_false (p := fun x : WatchEntry => x.due && s.isPinTarget x.block && !(s.health.watch.any fun y => y.block == x.block && y.due)) (l := r)).mpr
      (fun x hx => by rw [hex x (by rw [hw]; exact List.mem_append_right _ (List.mem_cons_of_mem _ hx))]; simp)
    rw [List.any_append, List.any_cons, A, B]
    dsimp only
    rw [hsame]
    simp only [Bool.false_or, Bool.or_false, Bool.and_eq_true, Bool.not_eq_true', isPinTarget_iff]
    exact ⟨fun k => ⟨k.1.2, k.2, k.1.1⟩, fun k => ⟨⟨k.2.2, k.1⟩, k.2.1⟩⟩
  dsimp only
  have hq : (kind.hard && s.isPinTarget e.block) = true ↔ kind.hard = true ∧ (s.map.resolve e.block).1 = .pinTarget := by
    rw [Bool.and_eq_true, isPinTarget_iff]
  obtain ⟨X, hX⟩ : ∃ X : State, X = { s with
      health := { s.health with watch := l ++ { e with score := score, age := 0, pending := pending, due := d, cause := kind, stamp := s.now } :: r }
      store := if l ++ { e with score := score, age := 0, pending := pending, due := d, cause := kind, stamp := s.now } :: r = s.health.watch then s.store else s.store.dirtied } := ⟨_, rfl⟩
  rw [suspectDue_ite _ _ _ _ _ hany]
  have := raised_if X .pinTargetSuspect ((s.map.resolve e.block).1 = .pinTarget ∧ e.due = false ∧ d = true) (kind.hard = true ∧ (s.map.resolve e.block).1 = .pinTarget)
  rw [hX] at this
  refine Eq.trans (ite_iff hq _ _) (this.trans ?_)
  -- s.isPinTarget e.block) = true then State.raise (if (s.map.resolve e.block).1 = .pinTarget ∧ e.due = false ∧ d = true then X.raise .pinTargetSuspect else X) .pinTargetSuspect else (if (s.map.resolve e.block).1 = .pinTarget ∧ e.due = false ∧ d = true then X.raise .pinTargetSuspect else X)) = _ from (ite_iff hq _ _).trans this]
  congr 2
  by_cases hr : (s.map.resolve e.block).1 = .pinTarget <;> by_cases hk : kind.hard = true <;> simp [hr, hk]

/-- The entry that stays ahead (R93). -/
theorem betterEviction_left {x y : WatchEntry} (h : x.score < y.score ∨ (x.score = y.score ∧ y.age ≤ x.age)) : betterEviction x y = x := by
  unfold betterEviction; rw [if_neg]; rintro (k | ⟨k1, k2⟩) <;> rcases h with h | ⟨h1, h2⟩ <;> omega

/-- The entry that gets ahead (R93). -/
theorem betterEviction_right {x y : WatchEntry} (h : x.score < y.score ∨ (x.score = y.score ∧ y.age < x.age)) : betterEviction y x = x := by
  unfold betterEviction; rw [if_pos]; rcases h with h | ⟨h1, h2⟩
  · exact Or.inl h
  · exact Or.inr ⟨h1, h2⟩

/-- The first of the best stays (R93). -/
theorem betterEviction_keeps {x : WatchEntry} : ∀ r : List WatchEntry, (∀ y ∈ r, x.score < y.score ∨ (x.score = y.score ∧ y.age ≤ x.age)) → r.foldl betterEviction x = x
  | [], _ => rfl
  | y :: r, h => by rw [List.foldl_cons, betterEviction_left (h y List.mem_cons_self)]; exact betterEviction_keeps r fun z hz => h z (List.mem_cons_of_mem _ hz)

/-- The best is one of the list. -/
theorem betterEviction_mem : ∀ (r : List WatchEntry) (x : WatchEntry), r.foldl betterEviction x = x ∨ r.foldl betterEviction x ∈ r
  | [], x => Or.inl rfl
  | y :: r, x => by
    rw [List.foldl_cons]
    have hb : betterEviction x y = x ∨ betterEviction x y = y := by unfold betterEviction; split <;> simp
    rcases betterEviction_mem r (betterEviction x y) with h | h
    · rw [h]; rcases hb with k | k <;> rw [k] <;> simp
    · exact Or.inr (List.mem_cons_of_mem _ h)

/-- The entry that is evicted (R93). -/
theorem eviction_is {h : HealthMonitor} {l r : List WatchEntry} {x : WatchEntry} (hw : h.watch = l ++ x :: r)
    (hc : x.pending = false ∧ h.inRelocation x.block = false)
    (hl : ∀ y ∈ l, (y.pending = false ∧ h.inRelocation y.block = false) → x.score < y.score ∨ (x.score = y.score ∧ y.age < x.age))
    (hr : ∀ y ∈ r, (y.pending = false ∧ h.inRelocation y.block = false) → x.score < y.score ∨ (x.score = y.score ∧ y.age ≤ x.age)) : h.eviction = some x := by
  unfold HealthMonitor.eviction
  have hcand : ∀ y : WatchEntry, (!y.pending && !h.inRelocation y.block) = true ↔ (y.pending = false ∧ h.inRelocation y.block = false) := by
    intro y; simp
  have hx : (!x.pending && !h.inRelocation x.block) = true := (hcand x).mpr hc
  rw [hw, List.filter_append, List.filter_cons, if_pos hx]
  have hrr : ∀ y ∈ r.filter (fun e => !e.pending && !h.inRelocation e.block), x.score < y.score ∨ (x.score = y.score ∧ y.age ≤ x.age) := by
    intro y hy; rw [List.mem_filter] at hy; exact hr y hy.1 ((hcand y).mp hy.2)
  have hll : ∀ y ∈ l.filter (fun e => !e.pending && !h.inRelocation e.block), x.score < y.score ∨ (x.score = y.score ∧ y.age < x.age) := by
    intro y hy; rw [List.mem_filter] at hy; exact hl y hy.1 ((hcand y).mp hy.2)
  generalize l.filter (fun e => !e.pending && !h.inRelocation e.block) = L at hll
  cases L with
  | nil => dsimp only [List.nil_append]; rw [betterEviction_keeps _ hrr]
  | cons y L =>
    dsimp only [List.cons_append]
    rw [List.foldl_append, List.foldl_cons]
    have : betterEviction (L.foldl betterEviction y) x = x := by
      apply betterEviction_right
      rcases betterEviction_mem L y with k | k
      · rw [k]; exact hll y List.mem_cons_self
      · exact hll _ (List.mem_cons_of_mem _ k)
    rw [this, betterEviction_keeps _ hrr]

/-- The hard causes (R89). -/
theorem cause_hard (k : WatchCause) : k.hard = true ↔ (k = .hardRead ∨ k = .verifyFail ∨ k = .writeFaultNoSpare) := by cases k <;> simp [WatchCause.hard]

/-- The weight of a cause (R89). -/
theorem cause_weight (k : WatchCause) : k.weight = if (k = .hardRead ∨ k = .verifyFail ∨ k = .writeFaultNoSpare) then 15 else if k = .softRead then 2 else 1 := by cases k <;> rfl

/-- The hard causes, decided. -/
theorem decide_hard (k : WatchCause) : decide (k = .hardRead ∨ k = .verifyFail ∨ k = .writeFaultNoSpare) = k.hard := by cases k <;> rfl

/-- A report of a block not on the list (R89, R93). -/
theorem applyError_new (s : State) (a : Phys) (kind : WatchCause) (hl : s.map.learnedOf a.unit a.block = none) (hno : ∀ e ∈ s.health.watch, e.block ≠ a)
    (d : Bool) (hdd : d = (decide (s.mgmt.params.promotion ≤ kind.weight) && !kind.hard)) (L : List WatchEntry) (hL : ∀ y ∈ L, y ∈ s.health.watch)
    (hins : ∀ fresh, s.insertWatch fresh = (true, s.setWatch (L ++ [fresh]))) :
    s.applyError a kind = { s with
      health := { s.health with watch := L ++ [{ block := a, score := kind.weight, age := 0, pending := kind.hard, due := d, cause := kind, stamp := s.now }] }
      store := if L ++ [{ block := a, score := kind.weight, age := 0, pending := kind.hard, due := d, cause := kind, stamp := s.now }] = s.health.watch then s.store else s.store.dirtied
      mgmt := { s.mgmt with events := if (s.map.resolve a).1 = .pinTarget ∧ (kind.hard = true ∨ d = true) then s.mgmt.events ||| Event.pinTargetSuspect.bit else s.mgmt.events } } := by
  unfold State.applyError
  rw [hl]
  simp only [Option.isSome_none, Bool.false_eq_true, if_false]
  have hf : s.watched a = none := by unfold State.watched; rw [List.find?_eq_none]; intro x hx; simpa using hno x hx
  rw [hf]
  dsimp only
  have hfresh : (WatchEntry.evaluated s.mgmt.params.promotion
      (WatchEntry.apply { block := a, score := 0, age := 0, pending := false, due := false, cause := kind, stamp := s.now } kind s.now)) =
      { block := a, score := kind.weight, age := 0, pending := kind.hard, due := d, cause := kind, stamp := s.now } := by
    unfold WatchEntry.evaluated WatchEntry.apply satAdd
    rw [hdd]
    cases kind <;> rfl
  rw [hfresh, hins, if_pos rfl, setWatch_eq]
  have hany : (List.any (L ++ [{ block := a, score := kind.weight, age := 0, pending := kind.hard, due := d, cause := kind, stamp := s.now }]) fun x =>
      x.due && s.isPinTarget x.block && !(s.health.watch.any fun y => y.block == x.block && y.due)) = true ↔ (s.map.resolve a).1 = .pinTarget ∧ d = true := by
    have A := (List.any_eq_false (p := fun x : WatchEntry => x.due && s.isPinTarget x.block && !(s.health.watch.any fun y => y.block == x.block && y.due)) (l := L)).mpr
      (fun x hx => by
        cases hxd : x.due
        · simp
        · rw [List.any_eq_true.mpr ⟨x, hL x hx, by simp [hxd]⟩]; simp)
    have B : (s.health.watch.any fun y => y.block == a && y.due) = false := List.any_eq_false.mpr (fun y hy => by simp [hno y hy])
    rw [List.any_append, A, List.any_cons]
    simp only [List.any_nil, Bool.or_false, Bool.false_or, B, Bool.not_false, Bool.and_true, Bool.and_eq_true, isPinTarget_iff]
    exact And.comm
  dsimp only
  rw [suspectDue_ite _ _ _ _ _ hany]
  have hq : (kind.hard && s.isPinTarget a) = true ↔ kind.hard = true ∧ (s.map.resolve a).1 = .pinTarget := by
    rw [Bool.and_eq_true, isPinTarget_iff]
  refine (ite_iff hq _ _).trans ((raised_if _ .pinTargetSuspect ((s.map.resolve a).1 = .pinTarget ∧ d = true) (kind.hard = true ∧ (s.map.resolve a).1 = .pinTarget)).trans ?_)
  congr 2
  by_cases hr : (s.map.resolve a).1 = .pinTarget <;> by_cases hk : kind.hard = true <;> simp [hr, hk]

/-- A claim refused PINNED changes nothing (R27). -/
theorem claim_pinned {s : State} {u h} (hc : (s.claim u h).1 = .pinned) : s.claim u h = (.pinned, s) := by
  unfold State.claim at hc ⊢
  split
  · rfl
  · next hp =>
    rw [if_neg hp] at hc
    split
    · next hq => rw [hq] at hc; cases hc
    · next spare p hq =>
      rw [hq] at hc
      dsimp only at hc
      split at hc <;> cases hc

/-- A claim refused EXHAUSTED changes nothing (R27). -/
theorem claim_exhausted {s : State} {u h} (hc : (s.claim u h).1 = .exhausted) : s.claim u h = (.exhausted, s) := by
  unfold State.claim at hc ⊢
  split
  · next hp => rw [if_pos hp] at hc; cases hc
  · next hp =>
    rw [if_neg hp] at hc
    split
    · rfl
    · next spare p hq =>
      rw [hq] at hc
      dsimp only at hc
      split at hc <;> cases hc

/-- A claim refused TABLE_FULL raises SPARE_EXHAUSTED (R27). -/
theorem claim_tableFull {s : State} {u h} (hc : (s.claim u h).1 = .tableFull) : s.claim u h = (.tableFull, s.raise .spareExhausted) := by
  unfold State.claim at hc ⊢
  split
  · next hp => rw [if_pos hp] at hc; cases hc
  · next hp =>
    rw [if_neg hp] at hc
    split
    · next hq => rw [hq] at hc; cases hc
    · next spare p hq =>
      rw [hq] at hc
      dsimp only at hc ⊢
      split
      · rfl
      · next hf => rw [if_neg hf] at hc; cases hc

/-- A refused claim raises at most an event (R27). -/
theorem claim_refused (V : State) (u : Fin 4) (h : Nat) (hno : ∀ b, (V.claim u h).1 ≠ .issued b) :
    (∃ e, V.claim u h = (.pinned, { V with mgmt := { V.mgmt with events := e } })) ∨ (∃ e, V.claim u h = (.exhausted, { V with mgmt := { V.mgmt with events := e } })) ∨
      ∃ e, V.claim u h = (.tableFull, { V with mgmt := { V.mgmt with events := e } }) := by
  unfold State.claim at hno ⊢
  split
  · exact Or.inl ⟨V.mgmt.events, rfl⟩
  · next hp =>
    rw [if_neg hp] at hno
    split
    · exact Or.inr (Or.inl ⟨V.mgmt.events, rfl⟩)
    · next spare p hq =>
      rw [hq] at hno
      dsimp only at hno ⊢
      split
      · exact Or.inr (Or.inr ⟨_, rfl⟩)
      · next hf =>
        rw [if_neg hf] at hno
        exact absurd rfl (hno spare)

/-- What an install leaves (R28, R29). -/
theorem install_eq (s : State) (u h b k) : ∃ c, s.install u h b k = { s with
    map := { s.map with
      pools := s.map.pools.set u ((s.map.pools.get u).unissue b)
      learned := match s.map.learnedOf u h with
        | none => s.map.learned ++ [{ unit := u, source := h, target := b, cause := k, stamp := s.now }]
        | some (pos, _) => s.map.learned.set pos { unit := u, source := h, target := b, cause := k, stamp := s.now } }
    health := { s.health with watch := match s.map.learnedOf u h with
      | none => s.health.watch.filter fun e => e.block != ⟨u, h⟩
      | some (_, x) => (s.health.watch.filter fun e => e.block != ⟨u, h⟩).filter fun e => e.block != ⟨u, x.target⟩ }
    store := s.store.dirtied, counters := c } ∧ c.streams = s.counters.streams := by
  unfold State.install
  cases s.map.learnedOf u h with
  | none =>
    dsimp only
    rw [onPool_eq, unwatch_dirty _ _ (dirtied_twice _)]
    exact ⟨_, rfl, rfl⟩
  | some v =>
    dsimp only
    rw [onPool_eq, unwatch_dirty u h (dirtied_twice _)]
    rw [unwatch_dirty _ _ (dirtied_twice _)]
    exact ⟨_, rfl, rfl⟩

/-- An install rests on the map, the health monitor and the time alone, and leaves the streams' counters. -/
theorem install_like {s x : State} (hm : x.map = s.map) (hh : x.health = s.health) (hn : x.now = s.now) (u h b k) :
    ∃ st c, x.install u h b k = { x with map := (s.install u h b k).map, health := (s.install u h b k).health, store := st, counters := c } ∧ c.streams = x.counters.streams := by
  obtain ⟨c, e, hc⟩ := install_eq x u h b k
  obtain ⟨c', e', -⟩ := install_eq s u h b k
  refine ⟨x.store.dirtied, c, ?_, hc⟩
  rw [e, e', hm, hh, hn]

/-- A discard rests on the map and the health monitor alone (R35). -/
theorem discard_like {s x : State} (hm : x.map = s.map) (hh : x.health = s.health) (u b) :
    ∃ st, (st.load = x.store.load ∧ st.startCount = x.store.startCount) ∧ x.discardSpare u b = { x with map := (s.discardSpare u b).map, health := (s.discardSpare u b).health, store := st } := by
  unfold State.discardSpare
  rw [hm]
  split
  · dsimp only
    rw [clearTableFull_eq, onPool_eq, clearTableFull_eq, onPool_eq]
    dsimp only
    rw [hm, hh]
    exact ⟨x.store.dirtied, ⟨rfl, rfl⟩, rfl⟩
  · rw [← hm, ← hh]
    exact ⟨x.store, ⟨rfl, rfl⟩, rfl⟩

/-- A return rests on the map and the health monitor alone (R34). -/
theorem return_like {s x : State} (hm : x.map = s.map) (hh : x.health = s.health) (u b) :
    ∃ e st, x.returnSpare u b = { x with map := (s.returnSpare u b).map, health := (s.returnSpare u b).health, mgmt := { x.mgmt with events := e }, store := st } := by
  unfold State.returnSpare
  rw [hm]
  split
  · dsimp only
    rw [onPool_eq, onPool_eq]
    obtain ⟨e1, h1⟩ := evaluateHealth_ev { x with map := { x.map with pools := x.map.pools.set u ({ ((x.map.pools.get u).unissue b) with returned := b :: (x.map.pools.get u).returned, consumed := (x.map.pools.get u).consumed - 1 }) }, store := x.store.dirtied } (x.unitHealth u) u
    obtain ⟨e2, h2⟩ := evaluateHealth_ev { s with map := { s.map with pools := s.map.pools.set u ({ ((s.map.pools.get u).unissue b) with returned := b :: (s.map.pools.get u).returned, consumed := (s.map.pools.get u).consumed - 1 }) }, store := s.store.dirtied } (s.unitHealth u) u
    rw [h1, h2, clearTableFull_eq, clearTableFull_eq]
    dsimp only
    rw [hm, hh]
    exact ⟨_, _, rfl⟩
  · rw [← hm, ← hh]
    exact ⟨x.mgmt.events, x.store, rfl⟩

/-- What a return or a discard leaves but the map, the hold, an event and the store (R34, R35). -/
theorem return_form (s : State) (u b) : ∃ m t e st, st.load = s.store.load ∧ s.returnSpare u b = { s with map := m, health := { s.health with tableFull := t }, mgmt := { s.mgmt with events := e }, store := st } := by
  unfold State.returnSpare
  split
  · dsimp only
    rw [onPool_eq]
    obtain ⟨e, he⟩ := evaluateHealth_ev { s with map := { s.map with pools := s.map.pools.set u ({ ((s.map.pools.get u).unissue b) with returned := b :: (s.map.pools.get u).returned, consumed := (s.map.pools.get u).consumed - 1 }) }, store := s.store.dirtied } (s.unitHealth u) u
    rw [he, clearTableFull_eq]
    exact ⟨_, _, _, s.store.dirtied, rfl, rfl⟩
  · exact ⟨s.map, s.health.tableFull, s.mgmt.events, s.store, rfl, rfl⟩

/-- What a discard leaves but the map, the hold and the store (R35). -/
theorem discard_form (s : State) (u b) : ∃ m t st, st.load = s.store.load ∧ s.discardSpare u b = { s with map := m, health := { s.health with tableFull := t }, store := st } := by
  unfold State.discardSpare
  split
  · dsimp only
    rw [onPool_eq, clearTableFull_eq]
    exact ⟨_, _, s.store.dirtied, rfl, rfl⟩
  · exact ⟨s.map, s.health.tableFull, s.store, rfl, rfl⟩

/-- A report leaves of the health monitor what it leaves of another part with the same map, list, parameters and time. -/
theorem applyError_health {s x : State} (hm : x.map = s.map) (hh : x.health = s.health) (hp : x.mgmt.params = s.mgmt.params) (hn : x.now = s.now) (a k) :
    (x.applyError a k).health = (s.applyError a k).health := by
  have hset : ∀ (y : State) (l), (y.setWatch l).health = { y.health with watch := l } := by
    intro y l; rw [setWatch_eq]
  have hsus : ∀ (y : State) (l), (y.suspectDue l).health = y.health := by
    intro y l; unfold State.suspectDue; split <;> rfl
  have hre : ∀ (y : State) (f : WatchEntry → WatchEntry), (y.rewatch f).health = { y.health with watch := y.health.watch.map fun e => e.changedTo y.mgmt.params.promotion (f e) } := by
    intro y f; unfold State.rewatch; dsimp only; rw [hsus, hset]
  have hrai : ∀ (y : State) (c : Prop) [Decidable c] (ev : Event), (if c then y.raise ev else y).health = y.health := by
    intro y c _ ev; split <;> rfl
  have hwat : x.watched a = s.watched a := by unfold State.watched; rw [hh]
  unfold State.applyError
  rw [hm, hwat]
  split
  · exact hh
  · dsimp only
    cases s.watched a with
    | some e =>
      dsimp only
      rw [hrai, hrai, hre, hre, hh, hp, hn]
    | none =>
      dsimp only
      rw [hp, hn]
      generalize (WatchEntry.evaluated s.mgmt.params.promotion _) = fresh
      have hins : (x.insertWatch fresh).1 = (s.insertWatch fresh).1 ∧ (x.insertWatch fresh).2.health = (s.insertWatch fresh).2.health := by
        unfold State.insertWatch
        rw [hh]
        split
        · exact ⟨rfl, by rw [hset, hset, hh]⟩
        · split
          · exact ⟨rfl, hh⟩
          · exact ⟨rfl, by rw [hset, hset, hh]⟩
      rw [hins.1]
      split
      · rw [hrai, hrai, hsus, hsus, hins.2]
      · exact hins.2

/-- x differs from s in its watch list, events and store alone. -/
def Scored (s x : State) : Prop := ∃ w e st, st.load = s.store.load ∧ x = { s with health := { s.health with watch := w }, mgmt := { s.mgmt with events := e }, store := st }

/-- The same part. -/
theorem Scored.refl (s : State) : Scored s s := ⟨_, _, _, rfl, rfl⟩

/-- One after the other. -/
theorem Scored.trans {a b c : State} (h : Scored a b) (k : Scored b c) : Scored a c := by
  obtain ⟨w, e, st, hl, rfl⟩ := h
  obtain ⟨w', e', st', hl', rfl⟩ := k
  exact ⟨_, _, _, hl'.trans hl, rfl⟩

/-- A new watch list. -/
theorem setWatch_scored (s : State) (l) : Scored s (s.setWatch l) := by
  unfold State.setWatch
  split
  · exact Scored.refl s
  · rw [markDirty_eq]; exact ⟨l, _, s.store.dirtied, rfl, rfl⟩

/-- A raised event. -/
theorem raise_scored (s : State) (e) : Scored s (s.raise e) := ⟨_, _, _, rfl, rfl⟩

/-- PIN_TARGET_SUSPECT. -/
theorem suspectDue_scored (s : State) (l) : Scored s (s.suspectDue l) := by
  unfold State.suspectDue
  split
  · exact raise_scored _ _
  · exact Scored.refl s

/-- A watch list that changes entry by entry. -/
theorem rewatch_scored (s : State) (f) : Scored s (s.rewatch f) := (setWatch_scored _ _).trans (suspectDue_scored _ _)

/-- A new entry. -/
theorem insertWatch_scored (s : State) (e) : Scored s (s.insertWatch e).2 := by
  unfold State.insertWatch
  split
  · exact setWatch_scored _ _
  · split
    · exact raise_scored _ _
    · exact setWatch_scored _ _

/-- A report. -/
theorem applyError_scored (s : State) (a k) : Scored s (s.applyError a k) := by
  unfold State.applyError
  split
  · exact Scored.refl s
  · dsimp only
    split
    · split
      · exact (rewatch_scored _ _).trans (raise_scored _ _)
      · exact rewatch_scored _ _
    · split
      · split
        · exact ((insertWatch_scored _ _).trans (suspectDue_scored _ _)).trans (raise_scored _ _)
        · exact (insertWatch_scored _ _).trans (suspectDue_scored _ _)
      · exact insertWatch_scored _ _

/-- Soft errors. -/
theorem applySoft_scored (u : Fin 4) (k) (l : List Nat) : ∀ s : State, Scored s (s.applySoft u k l) := by
  induction l with
  | nil => exact Scored.refl
  | cons b l ih => exact fun s => (applyError_scored _ _ _).trans (ih _)

/-- Blocks read well. -/
theorem readGood_scored (s : State) (u a n) : Scored s (s.readGood u a n) := by
  unfold State.readGood
  split
  · exact rewatch_scored _ _
  · exact Scored.refl s

/-- What the health monitor makes of an outcome. -/
theorem healthTakes_scored (s : State) (u : Fin 4) (o : Op) (out : OpOutcome) : Scored s (s.healthTakes u o out) := by
  unfold State.healthTakes
  split
  · split
    · dsimp only
      split
      · exact applySoft_scored _ _ _ _
      · exact (applySoft_scored _ _ _ _).trans (readGood_scored _ _ _ _)
    · dsimp only
      split
      · exact applyError_scored _ _ _
      · exact (applyError_scored _ _ _).trans (readGood_scored _ _ _ _)
    all_goals exact Scored.refl s
  · exact Scored.refl s

/-- A fallback verified. -/
theorem fallbackGood_scored (s : State) (u b) : Scored s (s.fallbackGood u b) := by
  unfold State.fallbackGood
  split
  · exact rewatch_scored _ _
  · exact Scored.refl s

/-- PIN_TARGET_SUSPECT leaves the list. -/
theorem suspectDue_health (y : State) (l) : (y.suspectDue l).health = y.health := by unfold State.suspectDue; split <;> rfl

/-- A fallback verified leaves its entry one below the threshold, not pending (R106). -/
theorem fallbackGood_entry (s : State) (u b) : ∀ e ∈ (s.fallbackGood u b).health.watch, e.block = ⟨u, b⟩ → e.pending = false ∧ e.score = s.mgmt.params.promotion - 1 ∧ e.age = 0 := by
  intro e he hb
  unfold State.fallbackGood at he
  split at he
  · unfold State.rewatch at he
    dsimp only at he
    have : (State.suspectDue (s.setWatch (s.health.watch.map fun e => e.changedTo s.mgmt.params.promotion (if e.block = ⟨u, b⟩ then { e with pending := false, score := s.mgmt.params.promotion - 1, age := 0 } else e))) s.health.watch).health.watch =
        s.health.watch.map fun e => e.changedTo s.mgmt.params.promotion (if e.block = ⟨u, b⟩ then { e with pending := false, score := s.mgmt.params.promotion - 1, age := 0 } else e) := by
      rw [suspectDue_health, setWatch_eq]
    rw [this] at he
    obtain ⟨x, hx, hxe⟩ := List.mem_map.mp he
    have hxb : x.block = ⟨u, b⟩ := by
      rw [← hb, ← hxe]
      unfold WatchEntry.changedTo WatchEntry.evaluated
      split <;> split <;> rfl
    rw [if_pos hxb] at hxe
    rw [← hxe]
    unfold WatchEntry.changedTo WatchEntry.evaluated
    split <;> exact ⟨rfl, rfl, rfl⟩
  · next hn =>
    exfalso
    apply hn
    unfold State.watched
    rw [List.find?_isSome]
    exact ⟨e, he, by simpa using hb⟩

/-- A log entry written in a part whose load has ended (R193). -/
theorem report_loaded {s : State} (h : s.store.load = none) (rep : LogReport) : ∃ e st, s.report rep = { s with
    log := s.log.write (s.formEntry rep), mgmt := { s.mgmt with events := e }, store := st } := by
  unfold State.report
  have : s.loadEnded = true := by unfold State.loadEnded; rw [h]; rfl
  dsimp only
  rw [if_pos this]
  unfold State.logEntry
  dsimp only
  split
  · exact ⟨_, _, by unfold State.markDirtyKeepHold; rfl⟩
  · rw [markDirty_eq]; exact ⟨_, _, rfl⟩

/-- A log entry leaves the guard. -/
theorem report_guard (s : State) (r) : (s.report r).guard = s.guard := by
  unfold State.report
  dsimp only
  split
  · unfold State.logEntry; first | rfl | (dsimp only; split <;> rfl)
  · rfl

/-- A log entry leaves the health monitor. -/
theorem report_health (s : State) (rep) : (s.report rep).health = s.health := by
  unfold State.report State.logEntry
  dsimp only
  split
  · split <;> rfl
  · rfl

/-- A block reported to the watch list and then to the log unit (R62, R63). -/
theorem reported_logged {U : State} (h : U.store.load = none) (a : Phys) (k : WatchCause) (rep : LogReport) : ∃ e st, (U.applyError a k).report rep = { U with
    health := (U.applyError a k).health, mgmt := { U.mgmt with events := e }, store := st, log := U.log.write ((U.applyError a k).formEntry rep) } := by
  obtain ⟨w, e, st, hl, hW⟩ := applyError_scored U a k
  obtain ⟨e', st', hr⟩ := report_loaded (s := U.applyError a k) (by rw [hW]; exact hl.trans h) rep
  refine ⟨e', st', hr.trans ?_⟩
  generalize (U.applyError a k).formEntry rep = en
  rw [hW]

/-- The slots of the health monitor stay. -/
def SameSlots (s x : State) : Prop := x.health.slot0 = s.health.slot0 ∧ x.health.slot1 = s.health.slot1

/-- Either slot. -/
theorem SameSlots.slot {s x : State} (h : SameSlots s x) (k : Fin 2) : x.health.slot k = s.health.slot k := by
  match k with
  | 0 => exact h.1
  | 1 => exact h.2

/-- A new list leaves the slots. -/
theorem slots_of {s x : State} (h : ∃ w t, x.health = { s.health with watch := w, tableFull := t }) : SameSlots s x := by
  obtain ⟨w, t, e⟩ := h
  unfold SameSlots; rw [e]; exact ⟨rfl, rfl⟩

/-- One after the other. -/
theorem SameSlots.trans {a b c : State} (h : SameSlots a b) (k : SameSlots b c) : SameSlots a c := ⟨k.1.trans h.1, k.2.trans h.2⟩

/-- A return leaves the slots. -/
theorem return_slots (s : State) (u b) : SameSlots s (s.returnSpare u b) := by
  obtain ⟨m, t, e, st, -, h⟩ := return_form s u b; rw [h]; exact ⟨rfl, rfl⟩

/-- A discard leaves the slots. -/
theorem discard_slots (s : State) (u b) : SameSlots s (s.discardSpare u b) := by
  obtain ⟨m, t, st, -, h⟩ := discard_form s u b; rw [h]; exact ⟨rfl, rfl⟩

/-- A log entry leaves the slots. -/
theorem report_slots (s : State) (rep) : SameSlots s (s.report rep) := by
  unfold SameSlots; rw [report_health]; exact ⟨rfl, rfl⟩

/-- An install leaves the slots. -/
theorem install_slots (s : State) (u h b k) : SameSlots s (s.install u h b k) := by
  obtain ⟨c, e, -⟩ := install_eq s u h b k; rw [e]; exact ⟨rfl, rfl⟩

/-- A claim leaves the slots. -/
theorem claim_slots (s : State) (u h) : SameSlots s (s.claim u h).2 := by
  obtain ⟨m, e, st, h⟩ := claim_eq s u h; rw [h]; exact ⟨rfl, rfl⟩

end Sys2Proof.Laws
end

