-- ==== Sys2Proof/Laws/EffectsRequests.lean ====
section
/-!
SUPPORT. What the host-path engine leaves where one request runs alone in its segment: its segments, its end, its failure, its repair (R56 to R63), and the ends of operations at a port with nothing else to do (R78 to R82).
-/

set_option linter.all false

set_option Elab.async false

namespace Sys2Proof.Laws

open Sys2Proof Sys2Proof.Machine

/-- A port's new state, with UNIT_CHANGE (R70). -/
theorem portEnters_raised {s : State} {u : Fin 4} {p : PortState} (h : (s.port u).state ≠ p) : s.portEnters u p true =
    State.portReports { s with ports := s.ports.set u { s.port u with state := p }, mgmt := { s.mgmt with events := s.mgmt.events ||| Event.unitChange.bit } } u p := by
  unfold State.portEnters
  dsimp only
  rw [if_pos (by simp [h])]
  rfl

/-- A port with nothing waiting has nothing in its places. -/
theorem waiting_nil {p : Port} (h : p.waiting = []) : p.queue = [] ∧ p.scanPlace = none ∧ p.storePlace = none ∧ p.attachPlace = none := by
  unfold Port.waiting at h
  simp only [List.append_eq_nil_iff, Option.toList_eq_nil_iff] at h
  exact ⟨h.1.1.1, h.1.1.2, h.1.2, h.2⟩

/-- Its places places_emptied are the same. -/
theorem places_emptied {p : Port} (h : p.waiting = []) : ({ p with queue := [], scanPlace := none, storePlace := none, attachPlace := none } : Port) = p := by
  obtain ⟨h1, h2, h3, h4⟩ := waiting_nil h
  cases p
  dsimp only at h1 h2 h3 h4 ⊢
  rw [h1, h2, h3, h4]

/-- Nothing waiting, nothing handed back (R75). -/
theorem endWaiting_nothing {s : State} {u : Fin 4} (h : (s.port u).waiting = []) : s.endWaitingOps u = s := by
  unfold State.endWaitingOps State.endAll
  rw [h, List.foldl_nil]
  have : (s.onPort u fun p => { p with queue := [], scanPlace := none, storePlace := none, attachPlace := none }) = s := by
    show ({ s with ports := s.ports.set u { s.port u with queue := [], scanPlace := none, storePlace := none, attachPlace := none } } : State) = s
    rw [places_emptied h]
    show ({ s with ports := s.ports.set u (s.ports.get u) } : State) = s
    rw [four_set_get]
  exact this

/-- A move to OFFLINE with nothing to hand back (R72). -/
theorem enterOffline_quiet {s : State} {u : Fin 4} (hs : (s.port u).state ≠ .offline) (hw : (s.port u).waiting = []) (hc : s.scan.context = none)
    (h0 : u = 0 → s.store.save = none) : s.enterOffline u = State.later { s with
      ports := s.ports.set u { s.port u with state := .offline, powerDownAttempts := 0, sleepRecord := none, waking := false, identified := false }
      mgmt := { s.mgmt with events := s.mgmt.events ||| Event.unitChange.bit }
      store := if u = 0 then { s.store with state := .absent } else s.store } (.retries u) := by
  unfold State.enterOffline
  dsimp only
  rw [endWaiting_nothing hw, portEnters_raised (by rw [onPort_port]; exact hs)]
  unfold State.portReports
  have hp : ∀ y : State, y.scan.context = none → y.scanPort u .offline = y := by intro y hy; unfold State.scanPort; rw [hy]
  rw [hp _ (by exact hc)]
  dsimp only
  rw [if_neg (show ¬(PortState.offline = .failed ∨ PortState.offline = .absent) by simp)]
  rw [onPort_port]
  by_cases hu : u = 0
  · rw [if_pos hu, if_pos hu]
    unfold State.storePort
    dsimp only
    rw [saveFails_none (by exact h0 hu)]
    unfold State.onPort State.onStore
    dsimp only
    rw [four_set_set]
  · rw [if_neg hu, if_neg hu]
    unfold State.onPort
    dsimp only
    rw [four_set_set]

/-- Nothing held, nothing retried. -/
theorem retries_quiet {s : State} {u : Fin 4} (hi : s.engine.items = []) (hc : s.scan.context = none) (hg : s.guard.erase = none)
    (hs : (s.port u).state.serves = false) : s.retriesDue u = s := by
  unfold State.retriesDue State.waitingOps
  rw [hi]
  dsimp only [List.flatMap_nil, List.foldl_nil]
  have h1 : s.scanRetry u = s := by unfold State.scanRetry; rw [hc]
  rw [List.flatMap_nil, List.foldl_nil, h1]
  have h2 : s.eraseRetry u = s := by unfold State.eraseRetry GuardUnit.eraseWaits; rw [hg]; rfl
  rw [h2]
  unfold State.powersDownAgain State.askPowerDown
  split
  · rw [if_neg (by rw [hs]; simp)]
  · rfl

/-- One piece of work. -/
theorem settle_one {s x : State} {w : Work} (h : s.todo = [w]) (hx : State.doWork { s with todo := [] } w = x) (ht : x.todo = []) : s.settle = x := by
  unfold State.settle
  have : settleFuel = 4095 + 1 := rfl
  rw [this]
  unfold State.settleUpTo
  rw [h]
  dsimp only
  rw [hx]
  have h2 : State.settleUpTo 4095 x = x := by
    have : 4095 = 4094 + 1 := rfl
    rw [this]; unfold State.settleUpTo; rw [ht]
  rw [h2, ← ht]

/-- The end of a step with two pieces of work, the second left standing by the first. -/
theorem finish_pair {s s1 s2 : State} {w1 w2 : Work} (h : s.todo = [w1, w2]) (h1 : State.doWork { s with todo := [w2] } w1 = s1) (h1t :
    s1.todo = [w2])
    (h2 : State.doWork { s1 with todo := [] } w2 = s2) (h2t : s2.todo = []) : s.finish = s2.refreshIdle := by
  unfold State.finish State.settle settleFuel
  rw [State.settleUpTo]; rw [h]; dsimp only
  rw [h1]
  rw [State.settleUpTo]; rw [h1t]; dsimp only
  rw [h2]
  rw [State.settleUpTo]; rw [h2t]; dsimp only
  congr 1
  rw [← h2t]

/-- The end of a step with three pieces of work. -/
theorem finish_three {s s1 s2 s3 : State} {w1 w2 w3 : Work} (h : s.todo = [w1, w2, w3]) (h1 : State.doWork { s with todo := [w2, w3] } w1 = s1) (h1t :
    s1.todo = [w2, w3]) (h2 : State.doWork { s1 with todo := [w3] } w2 = s2) (h2t : s2.todo = [w3])
    (h3 : State.doWork { s2 with todo := [] } w3 = s3) (h3t : s3.todo = []) : s.finish = s3.refreshIdle := by
  unfold State.finish State.settle settleFuel
  rw [State.settleUpTo]; rw [h]; dsimp only
  rw [h1]
  rw [State.settleUpTo]; rw [h1t]; dsimp only
  rw [h2]
  rw [State.settleUpTo]; rw [h2t]; dsimp only
  rw [h3]
  rw [State.settleUpTo]; rw [h3t]; dsimp only
  congr 1
  rw [← h3t]

/-- A suspended patrol leaves the port states. -/
theorem suspendPatrol_states (s : State) (hq : s.scan.quiet = false) (u : Fin 4) : (s.suspendPatrol.port u).state = (s.port u).state := by
  have hsus : ∀ x : State, x.scan.quiet = false → x.scanSuspends.port u = x.port u := by
    intro x hx; rw [scanSuspends_unquiet hx]; rfl
  unfold State.suspendPatrol
  split
  · rfl
  · split
    · split
      · rw [hsus _ (by exact hq)]; rfl
      · split
        · rw [hsus _ (by exact hq)]; rfl
        · split
          · rw [hsus _ (by obtain ⟨p, e⟩ := withdrawScan_eq s (some (by assumption)); first | (rw [e]; exact hq) | exact hq)]
            next v _ _ _ =>
            show ((s.withdrawScan (some v)).port u).state = _
            have : ∀ x : State, (x = s ∨ x = s.onPort v.extent.unit fun p => { p with scanPlace := none }) → (x.port u).state = (s.port u).state := by
              rintro x (rfl | rfl)
              · rfl
              · by_cases e : u = v.extent.unit
                · rw [e, onPort_port]
                · rw [onPort_port_ne _ _ e]
            apply this
            unfold State.withdrawScan
            dsimp only
            (repeat' split) <;> first | exact Or.inl rfl | exact Or.inr rfl
          · rfl
    · rfl

/-- Traffic with no scan restarts the quiet timer alone (R112). -/
theorem trafficBegins_noScan {s : State} (h : s.scan.context = none) : s.trafficBegins = { s with scan := { s.scan with quietTimer := .stopped, quiet := false } } := by
  unfold State.trafficBegins State.suspendPatrol
  dsimp only
  rw [h]

/-- An ATTACHING port holds and fails nothing (R46). -/
theorem cutFailure_attaching (k : ReqKind) : cutFailure .attaching k = none := rfl

/-- Traffic that meets nothing to stop leaves the units (R46, R171). -/
theorem trafficBegins_spec (s : State)
    (hm : s.modes.mode = .service ∨ s.modes.mode = .waking ∨ (s.modes.mode = .enteringStandby ∧ s.modes.phase = .poweringDown) ∨
      ((s.modes.mode = .enteringStandby ∧ s.modes.phase = .saving) ∧ s.scan.context = none ∧ s.mgmt.params.autoPatrol = false) ∨
      (s.modes.mode = .standby ∧ s.scan.context = none ∧ s.store.save = none ∧
        (∀ u, (s.port u).state = .sleeping → (s.port u).desired ≠ .offline ∧ (s.port u).Rests))) :
    ∃ p m c n md e, s.trafficBegins.standbyMeetsRequest =
      { s with ports := p, scan := m, counters := c, nextId := n, modes := md, mgmt := { s.mgmt with events := e } } ∧ m.quiet = false ∧
      md.mode = (if s.modes.mode = .enteringStandby ∧ s.modes.phase = .saving then .service else if s.modes.mode = .standby then .waking else s.modes.mode) ∧
      (md.mode = .enteringStandby ∧ md.phase = .poweringDown ↔ s.modes.mode = .enteringStandby ∧ s.modes.phase = .poweringDown) ∧
      e = (if (s.modes.mode = .enteringStandby ∧ s.modes.phase = .saving) ∨ s.modes.mode = .standby then s.mgmt.events ||| Event.modeChange.bit else s.mgmt.events) ∧
      c.streams = s.counters.streams ∧ True ∧
      (∀ k u, cutFailure (s.port u).state k = none → cutFailure (p.get u).state k = none) ∧
      (s.modes.mode = .standby → ∀ u, ((s.port u).state ≠ .sleeping → p.get u = s.port u) ∧ ((s.port u).state = .sleeping → ∃ n, p.get u = s.attachBegun (s.port u) true n)) := by
  by_cases hs : s.modes.mode = .enteringStandby ∧ s.modes.phase = .saving
  · have h2 : s.scan.context = none ∧ s.mgmt.params.autoPatrol = false := by
      rcases hm with h | h | h | h | h
      · rw [hs.1] at h; cases h
      · rw [hs.1] at h; cases h
      · rw [hs.2] at h; cases h.2
      · exact h.2
      · rw [hs.1] at h; cases h.1
    rw [trafficBegins_noScan h2.1]
    have e : State.standbyMeetsRequest { s with scan := { s.scan with quietTimer := .stopped, quiet := false } } =
        State.raise { s with scan := { s.scan with quietTimer := .stopped, quiet := false }, modes := { s.modes with mode := .service, phase := .none, drain := .none } } .modeChange := by
      unfold State.standbyMeetsRequest
      rw [if_pos (by unfold State.savingPhase; simp [hs.1, hs.2])]
      unfold State.abandonStandby
      rw [enterService_quiet (by exact h2.1) (by exact h2.2)]
    rw [e]
    refine ⟨s.ports, _, s.counters, s.nextId, _, _, rfl, rfl, ?_, ?_, ?_, rfl, trivial, fun _ _ h => h, fun h => ?_⟩
    · rw [if_pos hs]
    · dsimp only; constructor
      · intro h; cases h.1
      · intro h; rw [hs.2] at h; cases h.2
    · rw [if_pos (Or.inl hs)]
    · rw [hs.1] at h; cases h
  · by_cases hb : s.modes.mode = .standby
    · have h2 : s.scan.context = none ∧ s.store.save = none ∧
        (∀ u, (s.port u).state = .sleeping → (s.port u).desired ≠ .offline ∧ (s.port u).Rests) := by
        rcases hm with h | h | h | h | h
        · rw [hb] at h; cases h
        · rw [hb] at h; cases h
        · rw [hb] at h; cases h.1
        · exact absurd h.1 hs
        · exact h.2
      rw [trafficBegins_noScan h2.1]
      have e : State.standbyMeetsRequest { s with scan := { s.scan with quietTimer := .stopped, quiet := false } } =
          State.enterWaking { s with scan := { s.scan with quietTimer := .stopped, quiet := false } } := by
        unfold State.standbyMeetsRequest
        rw [if_neg (by unfold State.savingPhase; simp [hb]), if_pos (by exact hb)]
      rw [e]
      unfold State.enterWaking
      dsimp only
      obtain ⟨⟨n, p, c, ew, hst⟩, hw⟩ := wakeAll_wakes (s := (State.onModes { s with scan := { s.scan with quietTimer := .stopped, quiet := false } } fun m => { m with mode := .waking, phase := .none, wakeRequested := false }).raise .modeChange)
        (by intro c hc; have hc' : s.scan.context = some c := hc; rw [h2.1] at hc'; cases hc') h2.2.1 h2.2.2
      rw [ew] at hw ⊢
      refine ⟨p, _, c, n, _, _, rfl, rfl, ?_, ?_, ?_, hst, trivial, fun k u h => ?_, fun _ => hw⟩
      · rw [if_neg hs, if_pos hb]; rfl
      · constructor
        · intro h; cases h.1
        · intro h; rw [hb] at h; cases h.1
      · rw [if_pos (Or.inr hb)]; rfl
      · by_cases hsl : (s.port u).state = .sleeping
        · obtain ⟨z, hz⟩ := (hw u).2 hsl
          have hz' : p.get u = _ := hz
          rw [hz']; rfl
        · have hz' : p.get u = _ := (hw u).1 hsl
          rw [hz']; exact h
    · obtain ⟨p, m, e, hq⟩ := trafficBegins_eq s
      have e2 : s.trafficBegins.standbyMeetsRequest = s.trafficBegins := by
        rw [e]
        unfold State.standbyMeetsRequest
        rw [if_neg (by unfold State.savingPhase; simp only [Bool.and_eq_true, decide_eq_true_eq]; exact hs), if_neg (by exact hb)]
      rw [e2, e]
      refine ⟨p, m, s.counters, s.nextId, s.modes, s.mgmt.events, rfl, hq, ?_, Iff.rfl, ?_, rfl, trivial, fun k u h => ?_, fun h => absurd h hb⟩
      · rw [if_neg hs, if_neg hb]
      · rw [if_neg (not_or.mpr ⟨hs, hb⟩)]
      · have := suspendPatrol_states { s with scan := { s.scan with quietTimer := .stopped, quiet := false } } rfl u
        have e3 : (s.trafficBegins.port u).state = (s.port u).state := this
        rw [e] at e3
        have e4 : (p.get u).state = (s.port u).state := e3
        rw [e4]; exact h

/-- An empty extent overlaps nothing. -/
theorem overlaps_zero {y : Extent} {u : Fin 4} {f : Nat} : y.overlaps { unit := u, first := f, count := 0 } = false := by
  unfold Extent.overlaps
  simp only [Nat.add_zero]
  rw [Bool.and_eq_false_iff]; right
  simp
  try omega

/-- A request that passes its checks finds its port (R46). -/
theorem failedCheck_cut {s : State} {k : ReqKind} {st : Fin 16} {lba n : Nat} {i : Fin 16} (hr : s.map.regionLookup lba n = some i) (h : s.failedCheck k st lba n = none) :
    cutFailure (s.port s.map.regions[i].unit).state k = none := by
  unfold State.failedCheck at h
  split at h
  · cases h
  · rw [hr] at h
    dsimp only at h
    generalize s.map.regions[i] = e at *
    unfold cutFailure
    cases hp : (s.port e.unit).state <;> first | rfl | skip
    all_goals (rw [hp] at h; revert h; (repeat' split) <;> simp_all)

/-- New segments, with the buffers that they release (R54). -/
theorem resegment_at {s : State} {id : Nat} {r : Request} {f : List Segment → List Segment} (h : s.request? id = some r)
    (le : heldBy (f r.segs) ≤ s.engine.freeBuffers + heldBy r.segs) : s.resegment id f = { s with engine :=
      { items := s.engine.items.map (Item.onRequest id fun q => { q with segs := f r.segs })
        freeBuffers := s.engine.freeBuffers + heldBy r.segs - heldBy (f r.segs) } } := by
  unfold State.resegment
  rw [h]
  dsimp only
  rw [if_pos le]
  rfl

/-- a completed request's stream counters -/
def doneCount (r : Request) (c : StreamCounters) : StreamCounters :=
  if r.status = .mediaError then { c.completedOne with mediaErrors := min 4294967295 (c.mediaErrors + 1) } else c.completedOne

/-- A COMPLETION with the request's status (R65). -/
theorem sendDone_counted (s : State) (r : Request) : ∃ t, s.sendDone r = { s with
    link := { tags := s.link.tags.set r.tag .free, sent := s.link.sent ++ [.completion r.tag r.status r.residual r.failingLba r.recovered (s.mgmt.events != 0)] }
    engine := { s.engine with items := s.engine.items.filter fun i => i.id != r.id }
    scan := { s.scan with quietTimer := t }
    counters := { s.counters with streams := s.counters.streams.set r.stream (doneCount r s.counters.streams[r.stream]) } } := by
  by_cases h : r.status = .mediaError
  · unfold State.sendDone
    dsimp only
    obtain ⟨t, ht⟩ := removeItem_eq (s.sendCompletion r.tag r.status r.residual r.failingLba r.recovered) r.id
    rw [ht, if_pos h]
    refine ⟨t, ?_⟩
    unfold State.countCompleted State.onStream
    show State.mk _ _ _ _ _ _ _ _ _ _ _ _ _ _ _ _ _ _ = State.mk _ _ _ _ _ _ _ _ _ _ _ _ _ _ _ _ _ _
    congr 1
    show CounterBank.mk _ _ _ _ = CounterBank.mk _ _ _ _
    congr 1
    apply Vector.ext
    intro i hi
    simp only [Vector.getElem_set]
    split
    · next e =>
      subst e
      unfold doneCount
      rw [if_pos h]
      simp
      exact ⟨rfl, rfl, rfl, rfl, rfl⟩
    · rfl
  · obtain ⟨t, ht⟩ := sendDone_eq s r h
    refine ⟨t, ht.trans ?_⟩
    unfold doneCount
    rw [if_neg h]

/-- A changed request removed is the request removed. -/
theorem filter_map_onRequest {l : List Item} {id : Nat} {f : Request → Request} (hf : ∀ r, (f r).id = r.id) :
    (l.map (Item.onRequest id f)).filter (fun i => i.id != id) = l.filter (fun i => i.id != id) := by
  induction l with
  | nil => rfl
  | cons a l ih =>
    rw [List.map_cons, List.filter_cons, List.filter_cons, ih, onItem_id hf]
    split
    · next h => rw [onItem_ne (by simpa using h)]
    · rfl

/-- The buffers of one segment. -/
theorem heldBy_one (g : Segment) : heldBy [g] = g.buffers := by unfold heldBy; simp

/-- The last segment leaves with its buffers (R54). -/
theorem releaseSegment_last {s : State} {r : Request} {g : Segment} (h : s.request? r.id = some r) (hs : r.segs = [g]) :
    s.releaseSegment r.id g.id = { s with engine :=
      { items := s.engine.items.map (Item.onRequest r.id fun q => { q with segs := [] }), freeBuffers := s.engine.freeBuffers + g.buffers } } := by
  unfold State.releaseSegment
  have e : r.segs.filter (fun x => x.id != g.id) = [] := by rw [hs]; simp
  rw [resegment_at h (by rw [e]; exact Nat.zero_le _), e, hs, heldBy_one]
  rfl

/-- A request that guardEnds_awaited with its last segment (R65). -/
theorem segmentEnds_last {s : State} {r : Request} {g : Segment} (h : s.request? r.id = some r) (hs : r.segs = [g]) (ho : r.orphan = false)
    (hh : r.state ≠ .held) (hd : r.count ≤ r.cursor ∨ r.state = .draining ∨ r.cancelled = true) : ∃ t, s.segmentEnds r.id g.id = { s with
    link := { tags := s.link.tags.set r.tag .free, sent := s.link.sent ++ [.completion r.tag r.status r.residual r.failingLba r.recovered (s.mgmt.events != 0)] }
    engine := { items := s.engine.items.filter fun i => i.id != r.id, freeBuffers := s.engine.freeBuffers + g.buffers }
    scan := { s.scan with quietTimer := t }
    counters := { s.counters with streams := s.counters.streams.set r.stream (doneCount r s.counters.streams[r.stream]) } } := by
  unfold State.segmentEnds
  rw [releaseSegment_last h hs]
  generalize hX : ({ s with engine :=
      { items := s.engine.items.map (Item.onRequest r.id fun q => { q with segs := [] }), freeBuffers := s.engine.freeBuffers + g.buffers } } : State) = X
  have hXr : X.request? r.id = some { r with segs := [] } := by
    rw [← hX]
    exact request_onRequest (s := s) (f := fun q => { q with segs := [] }) h (fun _ => rfl)
  have hc : Request.cuts { r with segs := [] } = false := by
    unfold Request.cuts
    rcases hd with a | a | a
    · have : ¬ (r.cursor < Request.count { r with segs := [] }) := by unfold Request.count at *; dsimp only; omega
      simp [this]
    · simp [a]
    · simp [a]
  have hf : Request.finished { r with segs := [] } = true := by
    unfold Request.finished
    rcases hd with a | a | a
    · have : Request.count { r with segs := [] } ≤ r.cursor := a
      simp [ho, hh]; exact Or.inl (Or.inl this)
    · simp [ho, a]
    · simp [ho, hh, a]
  rw [cut_none hXr hc, tryComplete_done hXr hf]
  obtain ⟨t, ht⟩ := sendDone_counted X { r with segs := [] }
  refine ⟨t, ht.trans ?_⟩
  rw [← hX]
  dsimp only
  rw [filter_map_onRequest (by intro; rfl)]
  rfl

/-- A request stands once on the list. -/
theorem request_order {s : State} (o : (s.engine.items.map Item.id).Pairwise (· < ·)) {id : Nat} {r : Request} (h : s.request? id = some r) :
    r.id = id ∧ ∀ i ∈ s.engine.items, i.id = id → i = .host r := by
  obtain ⟨hm, hi⟩ := request_mem h
  refine ⟨hi, fun i hi' e => ?_⟩
  have a := items_find_id o hi'
  have b := items_find_id o hm
  have : (Item.host r).id = i.id := hi.trans e.symm
  rw [this] at b
  rw [a] at b
  exact Option.some.inj b

/-- A first failure that drops nothing (R61). -/
theorem takeFailure_kept {s : State} (b : (s.engine.items.map Item.id).Pairwise (· < ·)) {id : Nat} {r : Request} {off : Nat} {st : Status} (h : s.request? id = some r) (hc : r.cancelled = false)
    (ho : r.orphan = false) (hf : r.first = none) (hk : ∀ g ∈ r.segs, g.droppable = true → g.off ≤ off) :
    s.takeFailure id off st = s.onRequest id fun q => { q with first := some ⟨off, st⟩, state := .draining } := by
  unfold State.takeFailure
  rw [h]
  dsimp only
  rw [if_neg (by simp [hc, ho, hf])]
  have hr : (s.onRequest id fun q => { q with first := some ⟨off, st⟩, state := .draining }).request? id = some { r with first := some ⟨off, st⟩, state := .draining } :=
    request_onRequest h (by intro; rfl)
  have only := request_order b h
  have same : r.segs.filter (fun g => !(g.droppable && decide (off < g.off))) = r.segs :=
    List.filter_eq_self.mpr fun g hg => by
      cases hd : g.droppable with
      | false => rfl
      | true => have := hk g hg hd; simp; omega
  unfold State.dropSegments
  rw [resegment_at hr (by dsimp only; rw [same]; exact Nat.le_add_left _ _)]
  dsimp only
  rw [same, Nat.add_sub_cancel]
  rw [onRequest_eq]
  dsimp only
  rw [List.map_map]
  show State.mk _ _ _ _ _ _ _ _ _ _ _ _ _ _ _ _ _ _ = State.mk _ _ _ _ _ _ _ _ _ _ _ _ _ _ _ _ _ _
  congr 1
  show RequestEngine.mk _ _ = RequestEngine.mk _ _
  congr 1
  apply List.map_congr_left
  intro i hi
  by_cases e : i.id = id
  · rw [only.2 i hi e]
    unfold Item.onRequest
    have : r.id = id := only.1
    simp [this]
  · rw [Function.comp_apply, onItem_ne (by rw [onItem_id (by intro; rfl)]; exact e), onItem_ne e]

/-- A request whose only segment fails (R61, R65). -/
theorem segmentFails_last {s : State} (b : (s.engine.items.map Item.id).Pairwise (· < ·)) {r : Request} {g : Segment} {off : Nat} {st : Status} (h : s.request? r.id = some r) (hs : r.segs = [g]) (ho : r.orphan = false)
    (hc : r.cancelled = false) (hf : r.first = none) (hk : g.droppable = true → g.off ≤ off) : ∃ t, s.segmentFails r.id g.id off st = { s with
    link := { tags := s.link.tags.set r.tag .free, sent := s.link.sent ++ [.completion r.tag st (r.len - 512 * off) (if st = .mediaError then some (r.lba + off) else none) r.recovered (s.mgmt.events != 0)] }
    engine := { items := s.engine.items.filter fun i => i.id != r.id, freeBuffers := s.engine.freeBuffers + g.buffers }
    scan := { s.scan with quietTimer := t }
    counters := { s.counters with streams := s.counters.streams.set r.stream (if st = .mediaError then
      { s.counters.streams[r.stream].completedOne with mediaErrors := min 4294967295 (s.counters.streams[r.stream].mediaErrors + 1) } else s.counters.streams[r.stream].completedOne) } } := by
  unfold State.segmentFails
  rw [takeFailure_kept b h hc ho hf (by intro x hx; rw [hs, List.mem_singleton] at hx; subst hx; exact hk)]
  have hq1 : (s.onRequest r.id fun q => { q with first := some ⟨off, st⟩, state := .draining }).request? r.id = some { r with first := some ⟨off, st⟩, state := .draining } :=
    request_onRequest (f := fun q => { q with first := some ⟨off, st⟩, state := .draining }) h (by intro; rfl)
  obtain ⟨t, ht⟩ := segmentEnds_last (r := { r with first := some ⟨off, st⟩, state := .draining }) hq1 hs ho (by simp) (Or.inr (Or.inl rfl))
  refine ⟨t, ?_⟩
  have ht' : ((s.onRequest r.id fun q => { q with first := some ⟨off, st⟩, state := .draining }).segmentEnds r.id g.id) = _ := ht
  rw [ht']
  dsimp only
  rw [filter_onRequest s _ _ (by intro; rfl)]
  have e1 : Request.status { r with first := some ⟨off, st⟩, state := .draining } = st := rfl
  have e2 : Request.failingLba { r with first := some ⟨off, st⟩, state := .draining } = if st = .mediaError then some (r.lba + off) else none := rfl
  have e3 : Request.residual { r with first := some ⟨off, st⟩, state := .draining } = r.len - 512 * off := rfl
  rw [e1, e2, e3]
  unfold doneCount
  rw [e1]
  rfl

/-- One segment of several changes. -/
theorem map_mid {pre post : List Segment} {g : Segment} (h : ∀ x ∈ pre ++ post, x.id ≠ g.id) (f : Segment → Segment) :
    (pre ++ g :: post).map (fun x => if x.id == g.id then f x else x) = pre ++ f g :: post := by
  have e : ∀ l : List Segment, (∀ x ∈ l, x.id ≠ g.id) → l.map (fun x => if x.id == g.id then f x else x) = l := by
    intro l hl
    conv_rhs => rw [← List.map_id l]
    exact List.map_congr_left fun x hx => by rw [if_neg (by simpa using hl x hx)]; rfl
  rw [List.map_append, List.map_cons, e pre fun x hx => h x (List.mem_append_left _ hx), e post fun x hx => h x (List.mem_append_right _ hx)]
  simp

/-- One segment of several is found. -/
theorem find_mid {pre post : List Segment} {g : Segment} (h : ∀ x ∈ pre ++ post, x.id ≠ g.id) : (pre ++ g :: post).find? (fun x => x.id == g.id) = some g := by
  rw [List.find?_append]
  have : pre.find? (fun x => x.id == g.id) = none := by
    rw [List.find?_eq_none]; intro x hx; simpa using h x (List.mem_append_left _ hx)
  rw [this]; simp

/-- The buffers of one segment of several. -/
theorem heldBy_mid (pre post : List Segment) (g : Segment) : heldBy (pre ++ g :: post) = heldBy pre + heldBy post + g.buffers := by
  unfold heldBy; simp; omega

/-- A segment offered at a port with nothing else to do is sent (R56, R79). -/
theorem offerSegment_sends {s : State} {r : Request} {g : Segment} (h : s.request? r.id = some r) (hg : r.segment? g.id = some g)
    (hs : (s.port g.unit).state.serves = true) (hr : (s.port g.unit).Rests) (ha : (s.port g.unit).attachPlace = none) :
    s.offerSegment r.id g.id = { s with
      nextId := s.nextId + 1, counters := opCounted s g.unit
      ports := s.ports.set g.unit (s.sendsFirst (s.port g.unit) (mkOp r.kind.op g.first g.count (.segment r.id g.id) s.nextId (if r.kind = .write then g.blocks else [])))
      engine := (s.onSegment r.id g.id fun g => { g with phase := .issued }).engine } := by
  unfold State.offerSegment
  rw [h]; dsimp only; rw [hg]; dsimp only
  rw [offer_sends hs hr ha]
  dsimp only
  simp only [reduceCtorEq, if_false]
  rfl

/-- The port after its only operation has ended. -/
theorem slots_emptied {s : State} {u : Fin 4} {frame f o} (h : s.Ends u frame f o) :
    { s.port u with slots := (s.port u).slots.set f.slot none } = { s.port u with slots := Four.all none } := by
  rw [h.slots, four_all_set_none]

/-- A RESULT of the operation's kind and extent is taken (R78). -/
theorem Ends.takes {s : State} {u : Fin 4} {frame f o} (h : s.Ends u frame f o) (hg : o.op.kind.gives f.outcome.toNat = true)
    (hs : f.outcome.toNat = 1 ∨ f.outcome.toNat = 2 → o.op.first ≤ f.stop.toNat ∧ f.stop.toNat < o.op.first + o.op.count) :
    (s.port u).takes o.op f (!s.loadEnded) = true := by
  have hst : (s.port u).state ≠ .attaching ∧ (s.port u).state ≠ .absent := by
    have := h.serves
    constructor <;> intro e <;> rw [e] at this <;> cases this
  unfold Port.takes
  rw [hg]
  simp only [Bool.and_eq_true, Bool.or_eq_true, decide_eq_true_eq, inRun, List.all_eq_true]
  refine ⟨⟨⟨⟨⟨h.kind, trivial⟩, ?_⟩, fun b hb => h.soft b hb⟩, Or.inl hst.1⟩, hst.2⟩
  by_cases e : f.outcome.toNat = 1 ∨ f.outcome.toNat = 2
  · exact Or.inr (hs e)
  · exact Or.inl (by simpa [not_or] using e)

/-- A port changed twice. -/
theorem onPort_set {X : State} {u : Fin 4} {p : Port} {q : Four Port} (h : X.ports = q.set u p) (f : Port → Port) :
    X.onPort u f = { X with ports := q.set u (f p) } := by
  unfold State.onPort
  rw [h, four_get_set_self, four_set_set]

/-- What the counters and the port make of a write fault (R73, R82). -/
theorem fault_counted (s : State) (u : Fin 4) (b : Nat) : State.countOutcome { s with
    nextFree := s.nextFree + 1, ports := s.ports.set u { s.port u with slots := Four.all none } } u (.writeFault b) = { s with
      nextFree := s.nextFree + 1
      counters := { s.counters with units := s.countedAt u fun c => { c with writeFaults := bump 1 c.writeFaults } }
      ports := s.ports.set u { s.port u with
        slots := Four.all none
        writeFaults := satAdd 255 1 (s.port u).writeFaults
        writeInhibit := (s.port u).writeInhibit || decide (s.mgmt.params.writeFaultLimit ≤ satAdd 255 1 (s.port u).writeFaults) } } := by
  unfold State.countOutcome State.countWriteFault
  exact onPort_set (p := { s.port u with slots := Four.all none }) (q := s.ports) rfl _

/-- The state in which the hand-back of an ended operation finds the part. -/
def atEnd (s : State) (u : Fin 4) (o : Op) (out : OpOutcome) : State := State.healthTakes (State.countOutcome { s with
  nextFree := s.nextFree + 1, ports := s.ports.set u { s.port u with slots := Four.all none } } u out) u o out

/-- The end of the only operation of a port (R78, R80). -/
theorem taken_result {s : State} {u : Fin 4} {frame f o} {out : OpOutcome} (h : s.Ends u frame f o) (hg : o.op.kind.gives f.outcome.toNat = true)
    (hs : f.outcome.toNat = 1 ∨ f.outcome.toNat = 2 → o.op.first ≤ f.stop.toNat ∧ f.stop.toNat < o.op.first + o.op.count)
    (hout : outcomeOf s.nextFree o f = out) {Y y : State}
    (hY0 : ({ atEnd s u o.op out with todo := [.takes u] } : State) = Y) (hb : State.handBack Y o.op out = y) (hy : y.todo = [.takes u])
    (hp : (y.port u).state = (s.port u).state ∧ (y.port u).served = (s.port u).served) :
    exec (.result u frame) s = .next (State.refreshIdle { y with todo := [] }) := by
  have hgo : exec (.result u frame) s = .next (s.resultTaken u f.slot o f).finish := by
    refine (whenUp_up (fun s => s.resultFrame u frame) h.up).trans ?_
    congr 1
    unfold State.resultFrame
    rw [h.frame]
    dsimp only
    unfold State.takeResult
    have : (s.port u).slots.get f.slot = some o := by rw [h.slots, Four.get_set, if_pos rfl]
    rw [this]
    dsimp only
    rw [if_pos (Ends.takes h hg hs)]
  rw [hgo]
  unfold State.resultTaken
  dsimp only
  rw [hout, if_neg h.owner]
  have e0 : ({ s with nextFree := s.nextFree + 1 } : State).onPort u (fun p => { p with slots := p.slots.set f.slot none }) =
      { s with nextFree := s.nextFree + 1, ports := s.ports.set u { s.port u with slots := Four.all none } } := by
    rw [← slots_emptied h]; rfl
  rw [e0]
  generalize hA : State.countOutcome { s with nextFree := s.nextFree + 1, ports := s.ports.set u { s.port u with slots := Four.all none } } u out = A
  have hAp : (A.port u).slots = Four.all none ∧ (A.port u).queue = [] ∧ (A.port u).scanPlace = none ∧ (A.port u).storePlace = none ∧
      (A.port u).state.serves = true ∧ A.todo = [] ∧ A.loadEnded = s.loadEnded := by
    obtain ⟨n, i, c, e⟩ : ∃ n i c, A = { s with
        nextFree := s.nextFree + 1, counters := c
        ports := s.ports.set u { s.port u with slots := Four.all none, writeFaults := n, writeInhibit := i } } := by
      rw [← hA]
      unfold State.countOutcome
      cases out with
      | writeFault b =>
        exact ⟨_, _, _, fault_counted s u b⟩
      | done => exact ⟨_, _, _, rfl⟩
      | hardRead => exact ⟨_, _, _, rfl⟩
      | notReady => exact ⟨_, _, _, rfl⟩
      | timeout => exact ⟨_, _, _, rfl⟩
      | unavailable => exact ⟨_, _, _, rfl⟩
    have ep : A.port u = { s.port u with slots := Four.all none, writeFaults := n, writeInhibit := i } := by
      rw [e]; exact four_get_set_self _ _ _
    rw [ep]
    exact ⟨rfl, h.queue, h.scan, h.store, h.serves, by rw [e]; exact h.settled, by rw [e]; rfl⟩
  obtain ⟨w, ev, st, -, hH⟩ := healthTakes_scored A u o.op out
  have hcalc : (State.later (A.healthTakes u o.op out) (.ended u o.op out)).pump u = State.later (A.healthTakes u o.op out) (.ended u o.op out) := by
    apply pump_nothing
    rw [hH]
    apply next_none_of_empty
    · exact hAp.2.2.2.2.1
    · exact hAp.2.1
    · exact hAp.2.2.1
    · exact hAp.2.2.2.1
  rw [hcalc]
  have hdo : State.doWork { (State.later (State.later (A.healthTakes u o.op out) (.ended u o.op out)) (.takes u)) with todo := [.takes u] } (.ended u o.op out) = y := by
    rw [← hb, ← hY0]
    unfold atEnd
    rw [hA]
    rfl
  have htake : State.doWork { y with todo := [] } (.takes u) = { y with todo := [] } := by
    show State.takeState _ u = _
    unfold State.takeState
    dsimp only
    rw [if_neg]
    have e1 : (State.port { y with todo := [] } u) = y.port u := rfl
    rw [e1, hp.1, hp.2, h.stays]
    simp
  congr 1
  refine finish_pair (w1 := .ended u o.op out) ?_ hdo hy htake rfl
  rw [hH]
  show (A.todo ++ [_]) ++ [_] = _
  rw [hAp.2.2.2.2.2.1]
  rfl

/-- RECOVERED where soft errors were reported (R65). -/
theorem markRecovered_eq (s : State) (id : Nat) (soft : List Nat) :
    s.markRecovered id soft = s.onRequest id fun q => { q with recovered := q.recovered || !soft.isEmpty } := by
  unfold State.markRecovered
  cases soft with
  | cons a l => simp
  | nil =>
    rw [if_pos (by rfl), onRequest_eq]
    have : s.engine.items.map (Item.onRequest id fun q => { q with recovered := q.recovered || !([] : List Nat).isEmpty }) = s.engine.items := by
      conv_rhs => rw [← List.map_id s.engine.items]
      apply List.map_congr_left
      intro i hi
      cases i with
      | reloc q => rfl
      | host q => simp [Item.onRequest]
    rw [this]

/-- One segment of a request. -/
theorem onSegment_eq (s : State) (id seg : Nat) (f : Segment → Segment) : s.onSegment id seg f = s.onRequest id fun q => q.onSegment seg f := rfl

/-- The state in which the hand-back finds the part, for an outcome that the counters count. -/
theorem atEnd_form (s : State) (u : Fin 4) (o : Op) (out : OpOutcome) (c : Four UnitCounters)
    (hc : State.countOutcome { s with nextFree := s.nextFree + 1, ports := s.ports.set u { s.port u with slots := Four.all none } } u out =
      { s with nextFree := s.nextFree + 1, ports := s.ports.set u { s.port u with slots := Four.all none }, counters := { s.counters with units := c } }) :
    ∃ w e st, atEnd s u o out = { s with
        nextFree := s.nextFree + 1, ports := s.ports.set u { s.port u with slots := Four.all none }
        counters := { s.counters with units := c }, health := { s.health with watch := w }, mgmt := { s.mgmt with events := e }, store := st } ∧
      { s.health with watch := w } = (State.healthTakes { s with
        nextFree := s.nextFree + 1, ports := s.ports.set u { s.port u with slots := Four.all none }
        counters := { s.counters with units := c } } u o out).health := by
  unfold atEnd
  rw [hc]
  obtain ⟨w, e, st, -, hH⟩ := healthTakes_scored { s with
        nextFree := s.nextFree + 1, ports := s.ports.set u { s.port u with slots := Four.all none }
        counters := { s.counters with units := c } } u o out
  exact ⟨w, e, st, hH, by rw [hH]⟩

/-- Where nothing is reported to the health monitor. -/
theorem atEnd_silent (s : State) (u : Fin 4) (o : Op) (out : OpOutcome) (h : o.reported u = false ∨ out = .notReady) : atEnd s u o out =
    State.countOutcome { s with nextFree := s.nextFree + 1, ports := s.ports.set u { s.port u with slots := Four.all none } } u out := by
  unfold atEnd State.healthTakes
  rcases h with h | h
  · rw [h]; rfl
  · rw [h]; split <;> rfl

/-- A port just set. -/
theorem port_set (s : State) (u : Fin 4) (p : Port) : State.port { s with ports := s.ports.set u p } u = p := four_get_set_self _ _ _

/-- A request's only segment. -/
theorem segment_only {r : Request} {g : Segment} (h : r.segs = [g]) : r.segment? g.id = some g := by
  unfold Request.segment?; rw [h]; simp

/-- A request's only segment, changed. -/
theorem onSegment_only {r : Request} {g : Segment} (h : r.segs = [g]) (f : Segment → Segment) : r.onSegment g.id f = { r with segs := [f g] } := by
  unfold Request.onSegment; rw [h]; simp

/-- Changes of one request that agree on it. -/
theorem onRequest_at {s : State} (o : (s.engine.items.map Item.id).Pairwise (· < ·)) {r : Request} (h : s.request? r.id = some r) {f k : Request → Request}
    (e : f r = k r) : (s.onRequest r.id f).engine.items = (s.onRequest r.id k).engine.items := by
  rw [onRequest_eq, onRequest_eq]
  apply List.map_congr_left
  intro i hi
  by_cases he : i.id = r.id
  · rw [(request_order o h).2 i hi he]; simp [Item.onRequest, e]
  · rw [onItem_ne he, onItem_ne he]

/-- A port set and left. -/
theorem same_port {s Y : State} {u : Fin 4} (h : Y.ports = s.ports.set u { s.port u with slots := Four.all none }) :
    (Y.port u).state = (s.port u).state ∧ (Y.port u).served = (s.port u).served := by
  have e : Y.port u = { s.port u with slots := Four.all none } := by unfold State.port at h ⊢; rw [h]; exact four_get_set_self _ _ _
  rw [e]; exact ⟨rfl, rfl⟩

/-- A request that completes with its last segment, whatever its flag and its completed blocks have become. -/
theorem completes_last {s Y : State} {r q : Request} {g g' : Segment} (hL : r.first = none ∧ r.cancelled = false ∧ r.orphan = false ∧ r.state = .running ∧ r.count ≤ r.cursor)
    (hq : q = { r with segs := q.segs, recovered := q.recovered, completed := q.completed }) (hs : q.segs = [g']) (hg : g'.id = g.id) (hbuf : g'.buffers = g.buffers)
    (hY : Y.request? r.id = some q) (hf : Y.engine.items.filter (fun i => i.id != r.id) = s.engine.items.filter fun i => i.id != r.id)
    (hfree : Y.engine.freeBuffers = s.engine.freeBuffers) (hlink : Y.link = s.link) :
    ∃ t a, Y.segmentEnds r.id g.id = { Y with
        link := { tags := s.link.tags.set r.tag .free, sent := s.link.sent ++ [.completion r.tag .ok 0 none q.recovered a] }
        engine := { items := s.engine.items.filter fun i => i.id != r.id, freeBuffers := s.engine.freeBuffers + g.buffers }
        scan := { Y.scan with quietTimer := t }
        counters := { Y.counters with streams := Y.counters.streams.set r.stream Y.counters.streams[r.stream].completedOne } } := by
  obtain ⟨sg, rc, cp, rfl⟩ : ∃ a b c, q = { r with segs := a, recovered := b, completed := c } := ⟨_, _, _, hq⟩
  obtain ⟨t, e⟩ := segmentEnds_last (s := Y) (g := g') hY hs hL.2.2.1 (by rw [show Request.state _ = r.state from rfl, hL.2.2.2.1]; simp) (Or.inl hL.2.2.2.2)
  have e' : Y.segmentEnds r.id g'.id = _ := e
  have st : Request.status { r with segs := sg, recovered := rc, completed := cp } = .ok := by unfold Request.status; simp [hL.1, hL.2.1]
  have rs : Request.residual { r with segs := sg, recovered := rc, completed := cp } = 0 := by unfold Request.residual; simp [hL.1, hL.2.1]
  have fl : Request.failingLba { r with segs := sg, recovered := rc, completed := cp } = none := by unfold Request.failingLba; simp [hL.1]
  unfold doneCount at e'
  dsimp only at e'
  rw [st, rs, fl, hlink, hfree, hbuf, hf, hg] at e'
  exact ⟨t, _, e'⟩

/-- A request that completes with a failure of its last segment. -/
theorem fails_last {s Y : State} (b : (Y.engine.items.map Item.id).Pairwise (· < ·)) {r q : Request} {g g' : Segment} {off : Nat} {fs : Status}
    (hL : r.first = none ∧ r.cancelled = false ∧ r.orphan = false)
    (hq : q = { r with segs := q.segs, recovered := q.recovered, completed := q.completed }) (hs : q.segs = [g']) (hg : g'.id = g.id) (hbuf : g'.buffers = g.buffers)
    (hoff : g'.off ≤ off)
    (hY : Y.request? r.id = some q) (hf : Y.engine.items.filter (fun i => i.id != r.id) = s.engine.items.filter fun i => i.id != r.id)
    (hfree : Y.engine.freeBuffers = s.engine.freeBuffers) (hlink : Y.link = s.link) :
    ∃ t a, Y.segmentFails r.id g.id off fs = { Y with
        link := { tags := s.link.tags.set r.tag .free, sent := s.link.sent ++
          [.completion r.tag fs (r.len - 512 * off) (if fs = .mediaError then some (r.lba + off) else none) q.recovered a] }
        engine := { items := s.engine.items.filter fun i => i.id != r.id, freeBuffers := s.engine.freeBuffers + g.buffers }
        scan := { Y.scan with quietTimer := t }
        counters := { Y.counters with streams := Y.counters.streams.set r.stream (if fs = .mediaError then
          { Y.counters.streams[r.stream].completedOne with mediaErrors := min 4294967295 (Y.counters.streams[r.stream].mediaErrors + 1) }
          else Y.counters.streams[r.stream].completedOne) } } := by
  obtain ⟨sg, rc, cp, rfl⟩ : ∃ a b c, q = { r with segs := a, recovered := b, completed := c } := ⟨_, _, _, hq⟩
  obtain ⟨t, e⟩ := segmentFails_last (s := Y) b (g := g') (off := off) (st := fs) hY hs hL.2.2 hL.2.1 hL.1 (fun _ => hoff)
  have e' : Y.segmentFails r.id g'.id off fs = _ := e
  dsimp only at e'
  rw [hlink, hfree, hbuf, hf, hg] at e'
  exact ⟨t, _, e'⟩

/-- A changed request keeps the order of the list. -/
theorem order_map {l : List Item} {id : Nat} {f : Request → Request} (h : (l.map Item.id).Pairwise (· < ·)) (hf : ∀ r, (f r).id = r.id := by intro; rfl) :
    (l.map (Item.id ∘ Item.onRequest id f)).Pairwise (· < ·) := by
  have : Item.id ∘ Item.onRequest id f = Item.id := by funext i; exact onItem_id hf i
  rw [this]; exact h

/-- The end of an operation leaves the load. -/
theorem atEnd_load (s : State) (u : Fin 4) (o : Op) (out : OpOutcome) (h : s.store.load = none) : (atEnd s u o out).loadEnded = s.loadEnded := by
  have e : ∀ x y : State, Scored x y → x.store.load = none → y.store.load = none := by
    rintro x y ⟨w, e, st, hl, rfl⟩ hx
    exact hl.trans hx
  unfold State.loadEnded atEnd
  rw [h, e _ _ (healthTakes_scored _ u o out)]
  cases out <;> exact h

/-- Two counts of one stream. -/
theorem streams_twice (v : Vector StreamCounters 16) (i : Fin 16) (f : StreamCounters → StreamCounters) {k : StreamCounters → StreamCounters} :
    (v.set i (f v[i])).set i (k (v.set i (f v[i]))[i]) = v.set i (k (f v[i])) := by
  apply Vector.ext
  intro j hj
  simp only [Vector.getElem_set]
  split
  · simp
  · rfl

/-- A port that sends after its only operation has ended. -/
theorem sent_port {s x Y : State} {u : Fin 4} {p : Port} {o : Op} (h : Y.ports = s.ports.set u (x.sendsFirst { p with slots := Four.all none } o)) :
    (Y.port u).state = p.state ∧ (Y.port u).served = p.served := by
  have e : Y.port u = x.sendsFirst { p with slots := Four.all none } o := by unfold State.port; rw [h]; exact four_get_set_self _ _ _
  rw [e]; exact ⟨rfl, rfl⟩

/-- A segment's first block leaves it, with its buffer (R62). -/
theorem trimFront_only {Y : State} {q : Request} {g : Segment} (k : Nat) (h : Y.request? q.id = some q) (hs : q.segs = [g]) : Y.trimFront q.id g k = { Y with engine :=
      { items := (Y.onRequest q.id fun q => { q with segs := [g.dropFront k] }).engine.items, freeBuffers := Y.engine.freeBuffers + (g.buffers - (g.dropFront k).buffers) } } := by
  have hmap : q.segs.map (fun x => if x.id == g.id then x.dropFront k else x) = [g.dropFront k] := by rw [hs]; simp
  have hb : (g.dropFront k).buffers ≤ g.buffers := Nat.sub_le _ _
  unfold State.trimFront
  rw [resegment_at h (by rw [hmap, hs, heldBy_one, heldBy_one]; omega), hmap, hs, heldBy_one, heldBy_one]
  rw [onRequest_eq]
  dsimp only
  rw [show Y.engine.freeBuffers + g.buffers - (g.dropFront k).buffers = Y.engine.freeBuffers + (g.buffers - (g.dropFront k).buffers) by omega]

/-- A request whose only segment has lost its first block guardEnds_awaited as it would have before. -/
theorem segmentEnds_trim {s : State} {r : Request} {g : Segment} (k : Nat) (h : s.request? r.id = some r) (hs : r.segs = [g]) (ho : r.orphan = false)
    (hh : r.state ≠ .held) (hd : r.count ≤ r.cursor ∨ r.state = .draining ∨ r.cancelled = true) : ∃ t, (s.trimFront r.id g k).segmentEnds r.id g.id = { s with
    link := { tags := s.link.tags.set r.tag .free, sent := s.link.sent ++ [.completion r.tag r.status r.residual r.failingLba r.recovered (s.mgmt.events != 0)] }
    engine := { items := s.engine.items.filter fun i => i.id != r.id, freeBuffers := s.engine.freeBuffers + g.buffers }
    scan := { s.scan with quietTimer := t }
    counters := { s.counters with streams := s.counters.streams.set r.stream (doneCount r s.counters.streams[r.stream]) } } := by
  rw [trimFront_only k h hs]
  have hb : (g.dropFront k).buffers ≤ g.buffers := Nat.sub_le _ _
  generalize hV : ({ s with engine := _ } : State) = V
  have hVr : V.request? r.id = some { r with segs := [g.dropFront k] } := by
    have := request_onRequest (f := fun q => { q with segs := [g.dropFront k] }) h (by intro; rfl)
    rw [← hV]; exact this
  obtain ⟨t, e⟩ := segmentEnds_last (s := V) (r := { r with segs := [g.dropFront k] }) (g := g.dropFront k) hVr rfl ho hh hd
  have e' : V.segmentEnds r.id g.id = _ := e
  refine ⟨t, e'.trans ?_⟩
  have hf : V.engine.items.filter (fun i => i.id != r.id) = s.engine.items.filter fun i => i.id != r.id := by
    rw [← hV]; exact filter_onRequest s r.id _ (by intro; rfl)
  have hfree : V.engine.freeBuffers + (g.dropFront k).buffers = s.engine.freeBuffers + g.buffers := by
    rw [← hV]; dsimp only; omega
  dsimp only
  rw [hf, hfree, ← hV]
  rfl

/-- The engine from its parts. -/
theorem engine_of (Y : State) (l : List Item) (n : Nat) (h1 : Y.engine.items = l) (h2 : Y.engine.freeBuffers = n) : Y.engine = ⟨l, n⟩ := by
  rw [← h1, ← h2]

/-- The spare write of a repair is offered at a port with nothing else to do, and sent (R62, R105). -/
theorem offerRepair_sends {Y : State} {q : Request} {h : Segment} {p : Repair} (o : (Y.engine.items.map Item.id).Pairwise (· < ·)) (hq : Y.request? q.id = some q) (hs : q.segs = [h]) (hp : h.repair = some p)
    (serves : (Y.port h.unit).state.serves = true) (rests : (Y.port h.unit).Rests) (attach : (Y.port h.unit).attachPlace = none) :
    Y.offerRepair q.id h.id = { Y with
      nextId := Y.nextId + 1, counters := opCounted Y h.unit
      ports := Y.ports.set h.unit (Y.sendsFirst (Y.port h.unit) (mkOp .write p.spare 1 (.repair q.id h.id) Y.nextId (h.blocks.take 1)))
      engine := { items := (Y.onRequest q.id fun q => { q with segs := [{ h with repair := some { p with wait := .port } }] }).engine.items, freeBuffers := Y.engine.freeBuffers } } := by
  unfold State.offerRepair
  rw [hq]
  have : (some q).bind (fun r => r.segment? h.id) = some h := segment_only hs
  rw [this]
  dsimp only
  rw [hp]
  dsimp only
  rw [offer_sends serves rests attach]
  dsimp only
  simp only [reduceCtorEq, if_false]
  rw [onSegment_eq]
  show State.mk _ (RequestEngine.mk _ _) _ _ _ _ _ _ _ _ _ _ _ _ _ _ _ _ = State.mk _ (RequestEngine.mk _ _) _ _ _ _ _ _ _ _ _ _ _ _ _ _ _ _
  congr 2
  refine onRequest_at (s := Y) o hq ?_
  rw [onSegment_only hs, hp]
  rfl

/-- A repair whose claim issues a spare sends its spare write at a port with nothing else to do (R62, R105). -/
theorem repairClaim_sends {Y : State} {r q : Request} {h : Segment} {b tried : Nat} {kind : RepairKind} (o : (Y.engine.items.map Item.id).Pairwise (· < ·)) (hid : q.id = r.id) (hq : Y.request? q.id = some q) (hs : q.segs = [h])
    (serves : (Y.port h.unit).state.serves = true) (rests : (Y.port h.unit).Rests) (attach : (Y.port h.unit).attachPlace = none)
    (hc : (Y.claim h.unit h.home).1 = .issued b) : ∃ e st, Y.repairClaim r h kind tried = { Y with
      map := (Y.claim h.unit h.home).2.map, mgmt := { Y.mgmt with events := e }, store := st
      nextId := Y.nextId + 1, counters := opCounted Y h.unit
      ports := Y.ports.set h.unit (Y.sendsFirst (Y.port h.unit) (mkOp .write b 1 (.repair r.id h.id) Y.nextId (h.blocks.take 1)))
      engine := { items := (Y.onRequest r.id fun q => { q with segs := [{ h with phase := .repairing, repair := some { kind := kind, spare := b, tried := tried + 1, marked := false, wait := .port } }] }).engine.items, freeBuffers := Y.engine.freeBuffers } } := by
  obtain ⟨m, e, st, hform⟩ := claim_eq Y h.unit h.home
  refine ⟨e, st, ?_⟩
  unfold State.repairClaim
  rw [← hid]
  have hpair : Y.claim h.unit h.home = (.issued b, (Y.claim h.unit h.home).2) := by rw [← hc]
  rw [hpair]
  dsimp only
  rw [hform]
  dsimp only
  rw [onSegment_eq]
  generalize hV : (State.onRequest ({ Y with map := m, mgmt := { Y.mgmt with events := e }, store := st } : State) q.id _) = V
  have hVr : V.request? q.id = some { q with segs := [{ h with phase := .repairing, repair := some { kind := kind, spare := b, tried := tried + 1, marked := false, wait := .port } }] } := by
    have := request_onRequest (s := ({ Y with map := m, mgmt := { Y.mgmt with events := e }, store := st } : State)) (f := fun q => q.onSegment h.id fun g => { g with phase := .repairing, repair := some { kind := kind, spare := b, tried := tried + 1, marked := false, wait := .port } }) hq (by intro; rfl)
    rw [← hV, this, onSegment_only hs]
  have hVo : (V.engine.items.map Item.id).Pairwise (· < ·) := by
    rw [← hV, onRequest_eq]; dsimp only; rw [List.map_map]; exact order_map o
  have hVp : V.port h.unit = Y.port h.unit := by rw [← hV]; rfl
  have := offerRepair_sends (Y := V) (q := { q with segs := [{ h with phase := .repairing, repair := some { kind := kind, spare := b, tried := tried + 1, marked := false, wait := .port } }] })
    (h := { h with phase := .repairing, repair := some { kind := kind, spare := b, tried := tried + 1, marked := false, wait := .port } }) hVo hVr rfl rfl (by show (V.port h.unit).state.serves = true; rw [hVp]; exact serves) (by show (V.port h.unit).Rests; rw [hVp]; exact rests) (by show (V.port h.unit).attachPlace = none; rw [hVp]; exact attach)
  refine (this : V.offerRepair q.id h.id = _).trans ?_
  have hitems : (V.onRequest q.id fun q => { q with segs := [{ h with phase := .repairing, repair := some { kind := kind, spare := b, tried := tried + 1, marked := false, wait := .port } }] }).engine.items =
      (Y.onRequest q.id fun q => { q with segs := [{ h with phase := .repairing, repair := some { kind := kind, spare := b, tried := tried + 1, marked := false, wait := .port } }] }).engine.items := by
    rw [← hV]
    show List.map _ (List.map _ Y.engine.items) = List.map _ Y.engine.items
    rw [List.map_map]
    apply List.map_congr_left
    intro i hi
    cases i with
    | reloc x => rfl
    | host x => by_cases hx : x.id = q.id <;> simp [Item.onRequest, hx, Request.onSegment]
  dsimp only at hitems ⊢
  rw [hitems, ← hV]
  rfl

/-- A request changed to itself. -/
theorem onRequest_self {s : State} (o : (s.engine.items.map Item.id).Pairwise (· < ·)) {r : Request} (h : s.request? r.id = some r) {f : Request → Request}
    (e : f r = r) : (s.onRequest r.id f).engine.items = s.engine.items := by
  rw [onRequest_eq]
  conv_rhs => rw [← List.map_id s.engine.items]
  apply List.map_congr_left
  intro i hi
  by_cases he : i.id = r.id
  · rw [(request_order o h).2 i hi he]; simp [Item.onRequest, e]
  · rw [onItem_ne he]; rfl

/-- What a repair's claim needs to find in the part. -/
structure Finds (s Z : State) (u : Fin 4) (P : Port) : Prop where
  map : Z.map = s.map
  ports : Z.ports = s.ports.set u P
  ms : Z.ms = s.ms
  params : Z.mgmt.params = s.mgmt.params
  nextId : Z.nextId = s.nextId
  serves : P.state.serves = true
  rests : P.Rests
  attach : P.attachPlace = none

/-- The port it finds. -/
theorem Finds.port {s Z : State} {u : Fin 4} {P : Port} (h : Finds s Z u P) : Z.port u = P := by
  have := h.ports
  unfold State.port at this ⊢
  rw [this]; exact four_get_set_self _ _ _

/-- What that port sends. -/
theorem Finds.sends {s Z : State} {u : Fin 4} {P : Port} (h : Finds s Z u P) (o : Op) : Z.ports.set u (Z.sendsFirst (Z.port u) o) = s.ports.set u (s.sendsFirst P o) := by
  rw [h.port, h.ports, four_set_set]
  unfold State.sendsFirst State.sentNow
  rw [h.ms, h.params]

/-- The claim and the spare write of a repair of the block after k good blocks. -/
theorem repair_path {s Z : State} {r : Request} {g : Segment} {u : Fin 4} {P : Port} {k b : Nat} {kind : RepairKind} {C : List (Nat × Nat)}
    (o : (s.engine.items.map Item.id).Pairwise (· < ·)) (L : s.Last r g) (hu : g.unit = u) (F : Finds s Z u P)
    (hZ : Z.engine = ⟨(s.onRequest r.id fun q => { q with completed := C }).engine.items, s.engine.freeBuffers⟩)
    (hc : (s.claim u (g.home + k)).1 = .issued b) :
    ∃ e st, (Z.trimFront r.id g k).repairClaim r (g.dropFront k) kind 0 = { Z with
      map := (s.claim u (g.home + k)).2.map, mgmt := { Z.mgmt with events := e }, store := st, nextId := s.nextId + 1, counters := opCounted Z u
      ports := s.ports.set u (s.sendsFirst P (mkOp .write b 1 (.repair r.id g.id) s.nextId ((g.dropFront k).blocks.take 1)))
      engine := { items := (s.onRequest r.id fun q => { q with completed := C, segs := [{ g.dropFront k with phase := .repairing, repair := some { kind := kind, spare := b, tried := 1, marked := false, wait := .port } }] }).engine.items
                  freeBuffers := s.engine.freeBuffers + (g.buffers - (g.dropFront k).buffers) } } := by
  have hZr : Z.request? r.id = some { r with completed := C } := by
    have := request_onRequest (f := fun q => { q with completed := C }) L.found (by intro; rfl)
    unfold State.request? at this ⊢
    rw [hZ]; exact this
  have htrim := trimFront_only (Y := Z) (q := { r with completed := C }) k hZr L.segs
  have htrim' : Z.trimFront r.id g k = _ := htrim
  rw [htrim']
  generalize hV : ({ Z with engine := _ } : State) = V
  have hVi : V.engine.items = (s.onRequest r.id fun q => { q with completed := C, segs := [g.dropFront k] }).engine.items := by
    rw [← hV]
    show List.map _ Z.engine.items = List.map _ s.engine.items
    rw [hZ]
    show List.map _ (List.map _ s.engine.items) = _
    rw [List.map_map]
    apply List.map_congr_left
    intro i hi
    cases i with
    | reloc x => rfl
    | host x => by_cases hx : x.id = r.id <;> simp [Item.onRequest, hx]
  have hVr : V.request? r.id = some { r with completed := C, segs := [g.dropFront k] } := by
    have := request_onRequest (f := fun q => { q with completed := C, segs := [g.dropFront k] }) L.found (by intro; rfl)
    unfold State.request? at this ⊢
    rw [hVi]; exact this
  have hVo : (V.engine.items.map Item.id).Pairwise (· < ·) := by
    rw [hVi, onRequest_eq]; dsimp only; rw [List.map_map]; exact order_map o
  have FV : Finds s V u P := by rw [← hV]; exact ⟨F.map, F.ports, F.ms, F.params, F.nextId, F.serves, F.rests, F.attach⟩
  obtain ⟨hc1, e1, st1, hc2⟩ := claim_like (x := V) FV.map u (g.home + k)
  have hgu : (g.dropFront k).unit = u := hu
  obtain ⟨e, st, hcl⟩ := repairClaim_sends (Y := V) (r := r) (q := { r with completed := C, segs := [g.dropFront k] }) (h := g.dropFront k) (b := b) (tried := 0) (kind := kind) hVo rfl hVr rfl
    (by rw [hgu, FV.port]; exact FV.serves) (by rw [hgu, FV.port]; exact FV.rests) (by rw [hgu, FV.port]; exact FV.attach) (by rw [hgu]; exact hc1.trans hc)
  refine ⟨e, st, hcl.trans ?_⟩
  have hmap : (V.claim (g.dropFront k).unit (g.dropFront k).home).2.map = (s.claim u (g.home + k)).2.map := by
    rw [hgu]; exact (congrArg State.map hc2).trans rfl
  have hports : V.ports.set (g.dropFront k).unit (V.sendsFirst (V.port (g.dropFront k).unit) (mkOp .write b 1 (.repair r.id (g.dropFront k).id) V.nextId ((g.dropFront k).blocks.take 1))) =
      s.ports.set u (s.sendsFirst P (mkOp .write b 1 (.repair r.id g.id) s.nextId ((g.dropFront k).blocks.take 1))) := by
    rw [hgu, FV.sends, FV.nextId]; rfl
  have hcnt : opCounted V (g.dropFront k).unit = opCounted Z u := by rw [hgu, ← hV]; rfl
  rw [hmap, hports, hcnt, FV.nextId]
  have hfree : V.engine.freeBuffers = s.engine.freeBuffers + (g.buffers - (g.dropFront k).buffers) := by rw [← hV]; dsimp only; rw [hZ]
  have hitems : (V.onRequest r.id fun q => { q with segs := [{ g.dropFront k with phase := .repairing, repair := some { kind := kind, spare := b, tried := 0 + 1, marked := false, wait := .port } }] }).engine.items =
      (s.onRequest r.id fun q => { q with completed := C, segs := [{ g.dropFront k with phase := .repairing, repair := some { kind := kind, spare := b, tried := 1, marked := false, wait := .port } }] }).engine.items := by
    rw [onRequest_eq]
    dsimp only
    rw [hVi]
    show List.map _ (List.map _ s.engine.items) = List.map _ s.engine.items
    rw [List.map_map]
    apply List.map_congr_left
    intro i hi
    cases i with
    | reloc x => rfl
    | host x => by_cases hx : x.id = r.id <;> simp [Item.onRequest, hx]
  rw [hitems, hfree, ← hV]

/-- A trimmed request is still there. -/
theorem trimmed_found {Y : State} {r q : Request} {g : Segment} (k : Nat) (hid : q.id = r.id) (h : Y.request? r.id = some q) (hs : q.segs = [g]) :
    ∃ q', (Y.trimFront r.id g k).request? r.id = some q' := by
  rw [← hid] at h ⊢
  rw [trimFront_only k h hs]
  exact ⟨_, request_onRequest (f := fun q => { q with segs := [g.dropFront k] }) h (by intro; rfl)⟩

/-- A request that completes with its last segment, a block of it gone before. -/
theorem completes_trim {s Y : State} {r q : Request} {g : Segment} (k : Nat) (hL : r.first = none ∧ r.cancelled = false ∧ r.orphan = false ∧ r.state = .running ∧ r.count ≤ r.cursor)
    (hq : q = { r with segs := q.segs, recovered := q.recovered, completed := q.completed }) (hs : q.segs = [g])
    (hY : Y.request? r.id = some q) (hf : Y.engine.items.filter (fun i => i.id != r.id) = s.engine.items.filter fun i => i.id != r.id)
    (hfree : Y.engine.freeBuffers = s.engine.freeBuffers) (hlink : Y.link = s.link) :
    ∃ t a, (Y.trimFront r.id g k).segmentEnds r.id g.id = { Y with
        link := { tags := s.link.tags.set r.tag .free, sent := s.link.sent ++ [.completion r.tag .ok 0 none q.recovered a] }
        engine := { items := s.engine.items.filter fun i => i.id != r.id, freeBuffers := s.engine.freeBuffers + g.buffers }
        scan := { Y.scan with quietTimer := t }
        counters := { Y.counters with streams := Y.counters.streams.set r.stream Y.counters.streams[r.stream].completedOne } } := by
  obtain ⟨sg, rc, cp, rfl⟩ : ∃ a b c, q = { r with segs := a, recovered := b, completed := c } := ⟨_, _, _, hq⟩
  obtain ⟨t, e⟩ := segmentEnds_trim (s := Y) (g := g) k hY hs hL.2.2.1 (by rw [show Request.state _ = r.state from rfl, hL.2.2.2.1]; simp) (Or.inl hL.2.2.2.2)
  have e' : (Y.trimFront r.id g k).segmentEnds r.id g.id = _ := e
  have st : Request.status { r with segs := sg, recovered := rc, completed := cp } = .ok := by unfold Request.status; simp [hL.1, hL.2.1]
  have rs : Request.residual { r with segs := sg, recovered := rc, completed := cp } = 0 := by unfold Request.residual; simp [hL.1, hL.2.1]
  have fl : Request.failingLba { r with segs := sg, recovered := rc, completed := cp } = none := by unfold Request.failingLba; simp [hL.1]
  unfold doneCount at e'
  dsimp only at e'
  rw [st, rs, fl, hlink, hfree, hf] at e'
  exact ⟨t, _, e'⟩

/-- A request that completes with a failure of its last segment, a block of it gone before. -/
theorem fails_trim {s Y : State} (b : (Y.engine.items.map Item.id).Pairwise (· < ·)) {r q : Request} {g : Segment} {fs : Status} (k : Nat)
    (hL : r.first = none ∧ r.cancelled = false ∧ r.orphan = false)
    (hq : q = { r with segs := q.segs, recovered := q.recovered, completed := q.completed }) (hs : q.segs = [g])
    (hY : Y.request? r.id = some q) (hf : Y.engine.items.filter (fun i => i.id != r.id) = s.engine.items.filter fun i => i.id != r.id)
    (hfree : Y.engine.freeBuffers = s.engine.freeBuffers) (hlink : Y.link = s.link) :
    ∃ t a, ((Y.takeFailure r.id g.off fs).trimFront r.id g k).segmentEnds r.id g.id = { Y with
        link := { tags := s.link.tags.set r.tag .free, sent := s.link.sent ++
          [.completion r.tag fs (r.len - 512 * g.off) (if fs = .mediaError then some (r.lba + g.off) else none) q.recovered a] }
        engine := { items := s.engine.items.filter fun i => i.id != r.id, freeBuffers := s.engine.freeBuffers + g.buffers }
        scan := { Y.scan with quietTimer := t }
        counters := { Y.counters with streams := Y.counters.streams.set r.stream (if fs = .mediaError then
          { Y.counters.streams[r.stream].completedOne with mediaErrors := min 4294967295 (Y.counters.streams[r.stream].mediaErrors + 1) }
          else Y.counters.streams[r.stream].completedOne) } } := by
  obtain ⟨sg, rc, cp, rfl⟩ : ∃ a b c, q = { r with segs := a, recovered := b, completed := c } := ⟨_, _, _, hq⟩
  have hs' : sg = [g] := hs
  subst hs'
  have hkept : Y.takeFailure r.id g.off fs = Y.onRequest r.id fun q => { q with first := some ⟨g.off, fs⟩, state := .draining } :=
    takeFailure_kept (r := { r with segs := [g], recovered := rc, completed := cp }) b hY hL.2.1 hL.2.2 hL.1 (by intro x hx _; rw [List.mem_singleton] at hx; subst hx; exact Nat.le_refl _)
  rw [hkept]
  have hq1 := request_onRequest (f := fun q => { q with first := some ⟨g.off, fs⟩, state := .draining }) hY (by intro; rfl)
  obtain ⟨t, e⟩ := segmentEnds_trim (r := { r with segs := [g], recovered := rc, completed := cp, first := some ⟨g.off, fs⟩, state := .draining }) (g := g) k hq1 rfl hL.2.2 (by simp) (Or.inr (Or.inl rfl))
  have e' : ((Y.onRequest r.id fun q => { q with first := some ⟨g.off, fs⟩, state := .draining }).trimFront r.id g k).segmentEnds r.id g.id = _ := e
  have st : Request.status { r with segs := [g], recovered := rc, completed := cp, first := some ⟨g.off, fs⟩, state := .draining } = fs := rfl
  have fl : Request.failingLba { r with segs := [g], recovered := rc, completed := cp, first := some ⟨g.off, fs⟩, state := .draining } = if fs = .mediaError then some (r.lba + g.off) else none := rfl
  have rs : Request.residual { r with segs := [g], recovered := rc, completed := cp, first := some ⟨g.off, fs⟩, state := .draining } = r.len - 512 * g.off := rfl
  unfold doneCount at e'
  dsimp only at e'
  rw [st, rs, fl, filter_onRequest Y r.id _ (by intro; rfl), hf] at e'
  refine ⟨t, Y.mgmt.events != 0, e'.trans ?_⟩
  show State.mk _ _ _ _ _ _ _ _ _ _ _ _ _ _ _ _ _ _ = State.mk _ _ _ _ _ _ _ _ _ _ _ _ _ _ _ _ _ _
  congr 1
  · show LinkPort.mk (Y.link.tags.set _ _) _ = _
    rw [show (Y.onRequest r.id fun q => { q with first := some ⟨g.off, fs⟩, state := .draining }).link = s.link from hlink, hlink]; rfl
  · show RequestEngine.mk _ (Y.engine.freeBuffers + g.buffers) = _
    rw [hfree]

/-- A VERIFY that runs cuts its first segment (R52, R53). -/
theorem runRequest_verify {s : State} {pre post : List Item} {r : Request} {y : Extent} {first : Nat} (hi : s.engine.items = pre ++ .host r :: post)
    (ho : (s.engine.items.map Item.id).Pairwise (· < ·)) (hk : r.kind = .verify) (hy : r.home = some y) (hyc : y.count = r.count) (hcur : r.cursor = 0)
    (hcount : 0 < r.count) (hsegs : r.segs = []) (hcan : r.cancelled = false) (horph : r.orphan = false)
    (hcuts : s.map.Cuts y.unit (fun _ => true) y.first y.count first y.count)
    (hserves : (s.port y.unit).state.serves = true) (hrests : (s.port y.unit).Rests) (hattach : (s.port y.unit).attachPlace = none) :
    ∃ g n, g.off = 0 ∧ g.unit = y.unit ∧ g.first = first ∧ g.count = y.count ∧ g.phase = .issued ∧ s.runRequest r.id = { s with
      nextId := s.nextId + 2, counters := opCounted s y.unit
      ports := s.ports.set y.unit (s.sendsFirst (s.port y.unit) (mkOp .verify first y.count (.segment r.id g.id) n []))
      engine := { s.engine with items := pre ++ .host { r with state := .running, segs := [g], cursor := y.count } :: post } } := by
  unfold State.runRequest
  have hrun : s.onRequest r.id (fun r => { r with state := .running }) = { s with engine := { s.engine with items := pre ++ .host { r with state := .running } :: post } } := by
    rw [onRequest_eq, hi, map_onItem_mid _ (hi ▸ ho) rfl]
  rw [hrun]
  generalize hq1 : ({ r with state := .running } : Request) = q1
  have hid1 : q1.id = r.id := by rw [← hq1]
  have hk1 : q1.kind = .verify := by rw [← hq1]; exact hk
  have hy1 : q1.home = some y := by rw [← hq1]; exact hy
  have hc1 : q1.cursor = 0 := by rw [← hq1]; exact hcur
  have hs1 : q1.segs = [] := by rw [← hq1]; exact hsegs
  have hn1 : q1.count = r.count := by rw [← hq1]; rfl
  generalize hW : ({ s with engine := { s.engine with items := pre ++ .host q1 :: post } } : State) = W
  have hWi : W.engine.items = pre ++ .host q1 :: post := by rw [← hW]
  have hWo : (W.engine.items.map Item.id).Pairwise (· < ·) := by rw [hWi]; exact order_mid (q := r) (by rw [← hi]; exact ho) hid1
  have hWr : W.request? r.id = some q1 := by rw [← hid1]; exact request_mid hWi hWo
  have hcq : q1.cuts = true := by
    unfold Request.cuts Config.segmentLimit
    rw [hn1, hc1, hs1, ← hq1]
    simp [hcan, horph, hcount]
  have hWp : W.port y.unit = s.port y.unit := by rw [← hW]; rfl
  generalize hg : W.nextSegment q1 y = g
  have hgf : g.unit = y.unit ∧ g.off = 0 ∧ g.first = first ∧ g.count = y.count := by
    rw [cuts_iff _ _ _ _ _ _ _ (by omega)] at hcuts
    have : s.map.cut y.unit (fun b => !(decide (q1.kind = .write) && W.pendingBlock y.unit b)) (y.first + q1.cursor) (q1.count - q1.cursor) = (first, y.count) := by
      rw [hc1, Nat.add_zero, Nat.sub_zero, hn1, ← hyc, hk1]
      simpa using hcuts
    have hmapW : W.map = s.map := by rw [← hW]
    rw [← hg]; unfold State.nextSegment
    dsimp only
    rw [hmapW, this]
    exact ⟨rfl, hc1, rfl, rfl⟩
  obtain ⟨hgu, hgo, hgfst, hgc⟩ := hgf
  generalize hq3 : ({ q1 with segs := [g], cursor := y.count } : Request) = q3
  generalize hV : ({ W with nextId := W.nextId + 1, engine := { W.engine with items := pre ++ .host q3 :: post } } : State) = V
  have hVi : V.engine.items = pre ++ .host q3 :: post := by rw [← hV]
  have hid3 : q3.id = r.id := by rw [← hq3]; exact hid1
  have hVo : (V.engine.items.map Item.id).Pairwise (· < ·) := by rw [hVi]; exact order_mid (q := r) (by rw [← hi]; exact ho) hid3
  have hstep : W.cutOnce r.id = (true, V.offerSegment r.id g.id) := by
    unfold State.cutOnce
    rw [hWr]; dsimp only; rw [hy1]; dsimp only
    rw [if_pos hcq, hWp, hk1]
    have : cutFailure (s.port y.unit).state .verify = none := by
      cases hp : (s.port y.unit).state <;> rw [hp] at hserves <;> first | rfl | cases hserves
    rw [this]
    dsimp only
    rw [if_pos rfl, hg]
    congr 2
    rw [onRequest_eq]
    dsimp only
    rw [hWi, map_onItem_mid _ (by rw [← hWi]; exact hWo) hid1, ← hV, ← hq3, hs1, hc1, hgc, Nat.zero_add]
    rfl
  have hVp : V.port g.unit = s.port y.unit := by rw [hgu, ← hWp, ← hV]; rfl
  have hreq3 : V.request? r.id = some q3 := by rw [← hid3]; exact request_mid hVi hVo
  have hseg3 : q3.segment? g.id = some g := by unfold Request.segment?; rw [← hq3]; simp
  have hk3 : q3.kind = .verify := by rw [← hq3]; exact hk1
  have hoff := offerSegment_sends (s := V) (r := q3) (g := g) (by rw [hid3]; exact hreq3) hseg3 (by rw [hVp]; exact hserves) (by rw [hVp]; exact hrests) (by rw [hVp]; exact hattach)
  rw [hid3, hk3] at hoff
  generalize hq4 : ({ q3 with segs := [{ g with phase := .issued }] } : Request) = q4
  have heng : (V.onSegment r.id g.id fun g => { g with phase := .issued }).engine = { s.engine with items := pre ++ .host q4 :: post } := by
    unfold State.onSegment
    rw [onRequest_eq, hVi, map_onItem_mid _ (by rw [← hVi]; exact hVo) hid3, ← hV, ← hW]
    have : q3.onSegment g.id (fun g => { g with phase := .issued }) = q4 := by
      unfold Request.onSegment; rw [← hq4, ← hq3]; simp
    rw [this]
  rw [heng, hVp, hgu, hgfst, hgc] at hoff
  generalize hU : V.offerSegment r.id g.id = U at hoff hstep
  have hid4 : q4.id = r.id := by rw [← hq4]; exact hid3
  have hUi : U.engine.items = pre ++ .host q4 :: post := by rw [hoff]
  have hUo : (U.engine.items.map Item.id).Pairwise (· < ·) := by rw [hUi]; exact order_mid (q := r) (by rw [← hi]; exact ho) hid4
  have hreq4 : U.request? r.id = some q4 := by rw [← hid4]; exact request_mid hUi hUo
  have hnc : q4.cuts = false := by
    unfold Request.cuts
    have : q4.cursor = q4.count := by rw [← hq4, ← hq3]; exact hyc.trans hn1.symm
    rw [this]; simp
  have hcut : W.cut r.id = U := by
    unfold State.cut
    rw [State.cutUpTo, hstep]
    dsimp only
    rw [if_pos rfl]
    unfold State.cutUpTo State.cutOnce
    rw [hreq4]
    dsimp only
    rw [show q4.home = some y by rw [← hq4, ← hq3]; exact hy1]
    dsimp only
    rw [hnc]; rfl
  have hnf : q4.finished = false := by unfold Request.finished; rw [← hq4]; simp
  refine ⟨{ g with phase := .issued }, V.nextId, hgo, hgu, hgfst, hgc, rfl, ?_⟩
  rw [hcut, tryComplete_not hreq4 hnf, hoff, ← hq4, ← hq3, ← hV, ← hW, ← hq1]
  rfl

/-- The same, with the idle timer that the end of the step leaves. -/
theorem taken_idle {s : State} {u : Fin 4} {frame f o} {out : OpOutcome} (h : s.Ends u frame f o) (hg : o.op.kind.gives f.outcome.toNat = true)
    (hs : f.outcome.toNat = 1 ∨ f.outcome.toNat = 2 → o.op.first ≤ f.stop.toNat ∧ f.stop.toNat < o.op.first + o.op.count)
    (hout : outcomeOf s.nextFree o f = out) {Y y : State}
    (hY0 : ({ atEnd s u o.op out with todo := [.takes u] } : State) = Y) (hb : State.handBack Y o.op out = y) (hy : y.todo = [.takes u])
    (hp : (y.port u).state = (s.port u).state ∧ (y.port u).served = (s.port u).served) :
    ∃ i, exec (.result u frame) s = .next { y with todo := [], modes := { y.modes with idle := i } } := by
  obtain ⟨i, hi⟩ := refreshIdle_eq ({ y with todo := [] } : State)
  exact ⟨i, (taken_result h hg hs hout hY0 hb hy hp).trans (congrArg Host.Outcome.next hi)⟩

/-- A port just set. -/
theorem port_at {s Y : State} {u : Fin 4} {p : Port} (h : Y.ports = s.ports.set u p) : Y.port u = p := by
  unfold State.port; rw [h]; exact four_get_set_self _ _ _

end Sys2Proof.Laws
end

