-- ==== Sys2Proof/Laws/EffectsEngines.lean ====
section
/-!
SUPPORT. What the erase walk, the attaches, the map store, the idle timer, the relocations and the scans leave (R77, R101, R109, R158, R177, R183).
-/

set_option linter.all false

set_option Elab.async false

namespace Sys2Proof.Laws

open Sys2Proof Sys2Proof.Machine

/-- Blocks left unerased are counted and logged (R159). -/
theorem leaveUnerased_eq (s : State) (e : EraseRecord) (h : s.guard.erase = some e) (u b n) : s.leaveUnerased u b n =
    State.report { s with guard := { s.guard with erase := some { e with unerased := e.unerased + n, firstUnerased := some (e.firstUnerased.getD ⟨u, b⟩) } } }
      { kind := .eraseBlockFailed, unit := u, block := some b, logical := none, item := none, ofSave := false } := by
  unfold State.leaveUnerased State.logErase State.onErase
  rw [h]
  have : (match e.firstUnerased with | some x => some x | none => some (⟨u, b⟩ : Phys)) = some (e.firstUnerased.getD ⟨u, b⟩) := by
    cases e.firstUnerased <;> rfl
  rw [← this]
  rfl

/-- A change of the erase record. -/
theorem onErase_eq {s : State} {e : EraseRecord} (h : s.guard.erase = some e) (f : EraseRecord → EraseRecord) :
    s.onErase f = { s with guard := { s.guard with erase := some (f e) } } := by unfold State.onErase; rw [h]; rfl

/-- A region's index. -/
theorem regionIndex_some (i : Fin 16) : regionIndex i.val = some i := by unfold regionIndex; rw [dif_pos i.isLt]

/-- Beyond the regions. -/
theorem regionIndex_none {n : Nat} (h : 16 ≤ n) : regionIndex n = none := by unfold regionIndex; rw [dif_neg (by omega)]

/-- The record after blocks left unerased (R159). -/
theorem leaveUnerased_erase (s : State) (e : EraseRecord) (h : s.guard.erase = some e) (u b n) : (s.leaveUnerased u b n).guard.erase =
    some { e with unerased := e.unerased + n, firstUnerased := some (e.firstUnerased.getD ⟨u, b⟩) } := by
  rw [leaveUnerased_eq s e h, report_guard]

/-- The walk's eraseCut_fuel does not matter once it covers the regions (R158). -/
theorem eraseCut_fuel : ∀ (n k : Nat) (s : State) (e : EraseRecord), s.guard.erase = some e → 17 - e.index ≤ n → 17 - e.index ≤ k → 1 ≤ n → 1 ≤ k →
    State.eraseCutUpTo n s = State.eraseCutUpTo k s := by
  intro n
  induction n with
  | zero => intro k s e _ _ _ h; omega
  | succ n ih =>
    intro k s e he h1 h2 _ hk
    cases k with
    | zero => omega
    | succ k =>
      unfold State.eraseCutUpTo
      rw [he]
      dsimp only
      split
      · by_cases hi : e.index < 16
        · have hreg : regionIndex e.index = some ⟨e.index, hi⟩ := by unfold regionIndex; rw [dif_pos hi]
          rw [hreg]
          dsimp only
          split
          · have hx := onErase_eq he (fun e : EraseRecord => { e with index := e.index + 1, offset := 0 })
            refine ih k _ { e with index := e.index + 1, offset := 0 } ?_ ?_ ?_ ?_ ?_
            · rw [hx]
            all_goals (try dsimp only); omega
          · split
            · have hx := onErase_eq (leaveUnerased_erase s e he (s.map.regions[(⟨e.index, hi⟩ : Fin 16)].unit) (s.map.cut s.map.regions[(⟨e.index, hi⟩ : Fin 16)].unit (fun _ => true) (s.map.regions[(⟨e.index, hi⟩ : Fin 16)].physical + e.offset) (s.map.regions[(⟨e.index, hi⟩ : Fin 16)].count - e.offset)).1 (s.map.regions[(⟨e.index, hi⟩ : Fin 16)].count - e.offset)) (fun e : EraseRecord => { e with index := e.index + 1, offset := 0 })
              refine ih k _ _ (by rw [hx]) ?_ ?_ ?_ ?_
              all_goals (try dsimp only); omega
            · rfl
        · rw [regionIndex_none (by omega)]
      · rfl

/-- An install leaves the guard. -/
theorem install_guard (s : State) (u h b k) : (s.install u h b k).guard = s.guard := by
  unfold State.install
  dsimp only
  show (State.guard _) = _
  split
  · show (State.unwatch _ u h).guard = _; rw [show ∀ (x : State) a c, (x.unwatch a c).guard = x.guard from fun x a c => (setWatch_aside x _).1.guard, onPool_eq]
  · show (State.unwatch _ u _).guard = _
    rw [show ∀ (x : State) a c, (x.unwatch a c).guard = x.guard from fun x a c => (setWatch_aside x _).1.guard]
    show (State.unwatch _ u h).guard = _; rw [show ∀ (x : State) a c, (x.unwatch a c).guard = x.guard from fun x a c => (setWatch_aside x _).1.guard, onPool_eq]

/-- The coverage of a unit (R18). -/
theorem covers_iff (m : MapUnit) (u : Fin 4) (c : Nat) : m.covers u c = true ↔ m.Covers u c := by
  have hall : ∀ {n : Nat} (l : List (Fin n)) (_ : ∀ i : Fin n, i ∈ l) (p : Fin n → Bool), l.all p = true ↔ ∀ i : Fin n, p i = true := by
    intro n l hl p
    rw [List.all_eq_true]
    exact ⟨fun h i => h i (hl i), fun h i _ => h i⟩
  have hr : ∀ i : Fin 16, i ∈ regionIndices := by decide
  have hp : ∀ i : Fin 32, i ∈ pinIndices := by decide
  unfold MapUnit.covers fits Config.storeBlocks
  simp only [Bool.and_eq_true, hall _ hr, hall _ hp, List.all_eq_true, Bool.or_eq_true, Bool.not_eq_true', decide_eq_true_eq, bne_iff_ne]
  constructor
  · rintro ⟨⟨⟨⟨h1, h2⟩, h3⟩, h4⟩, h5⟩
    refine ⟨fun i hv hu => ?_, fun i hv hu => ?_, fun e he hu => ?_, h4, fun hu => ?_⟩
    · rcases h1 i with h | h
      · have : (m.regions[i].valid && m.regions[i].unit == u) = true := by rw [Bool.and_eq_true, beq_iff_eq]; exact ⟨hv, hu⟩
        exact absurd (this.symm.trans h) (by simp)
      · exact h
    · rcases h2 i with h | h
      · have : (m.pins[i].valid && m.pins[i].unit == u) = true := by rw [Bool.and_eq_true, beq_iff_eq]; exact ⟨hv, hu⟩
        exact absurd (this.symm.trans h) (by simp)
      · exact h
    · rcases h3 e he with h | h
      · simp [hu] at h
      · exact h
    · rcases h5 with h | h
      · exact absurd hu h
      · exact h
  · intro h
    refine ⟨⟨⟨⟨fun i => ?_, fun i => ?_⟩, fun e he => ?_⟩, h.spares⟩, ?_⟩
    · by_cases k : m.regions[i].valid = true ∧ m.regions[i].unit = u
      · exact Or.inr (h.regions i k.1 k.2)
      · left
        by_contra hh
        apply k
        have : (m.regions[i].valid && m.regions[i].unit == u) = true := by simpa using hh
        simpa using this
    · by_cases k : m.pins[i].valid = true ∧ m.pins[i].unit = u
      · exact Or.inr (h.pins i k.1 k.2)
      · left
        by_contra hh
        apply k
        have : (m.pins[i].valid && m.pins[i].unit == u) = true := by simpa using hh
        simpa using this
    · by_cases k : e.unit = u
      · exact Or.inr (h.learned e he k)
      · left; simpa using k
    · by_cases k : u = 0
      · exact Or.inr (h.area k)
      · exact Or.inl k

/-- The operations held for a unit's port meet its new state, where there are none (R77). -/
theorem retries_nothing {s : State} {u : Fin 4} (hi : s.engine.items = []) (hc : s.scan.context = none) (hg : s.guard.erase = none)
    (hm : s.modes.mode ≠ .enteringStandby ∧ s.modes.mode ≠ .standby) : s.retriesDue u = s := by
  unfold State.retriesDue State.waitingOps
  rw [hi]
  dsimp only [List.flatMap_nil, List.foldl_nil]
  have h1 : s.scanRetry u = s := by unfold State.scanRetry; rw [hc]
  rw [List.flatMap_nil, List.foldl_nil, h1]
  have h2 : s.eraseRetry u = s := by unfold State.eraseRetry GuardUnit.eraseWaits; rw [hg]; rfl
  rw [h2]
  unfold State.powersDownAgain State.poweringDown
  rw [if_neg (by simp [hm.1, hm.2])]

/-- A port that fails with nothing at stake (R84). -/
theorem portReports_failed {s : State} {u : Fin 4} (hc : s.scan.context = none) (h0 : s.health.slot0 = none) (h1 : s.health.slot1 = none) (hu : u ≠ 0) :
    s.portReports u .failed = s := by
  have hl : ∀ k, s.relocLost u k = s := by
    intro k
    unfold State.relocLost
    match k with
    | 0 => rw [show s.health.slot 0 = none from h0]
    | 1 => rw [show s.health.slot 1 = none from h1]
  unfold State.portReports State.scanPort
  rw [hc]
  dsimp only
  rw [if_neg hu, if_pos (Or.inl rfl)]
  unfold slotIndices
  rw [List.foldl_cons, List.foldl_cons, List.foldl_nil, hl, hl]

/-- READY and READ_ONLY serve (R70). -/
theorem serves_of {p : PortState} (h : p = .ready ∨ p = .readOnly) : p.serves = true := by rcases h with h | h <;> rw [h] <;> rfl

/-- An ATTACHING port with an empty attach place sends from the store place, during the load (R77). -/
theorem next_attaching {p : Port} (h : p.state = .attaching) (ha : p.attachPlace = none) (b : Bool) :
    p.next b = if b = true then p.storePlace.map fun o => (.store, o) else none := by
  unfold Port.next Port.nextAttaching; rw [h, ha]

/-- A store operation offered at port 0 with nothing outstanding and nothing waiting is sent in slot 0: a serving port sends it, and an
ATTACHING one during the load (R77, R79, R183, R188). -/
theorem offerStore_sends {s : State} (hs : (s.port 0).state.serves = true ∨ ((s.port 0).state = .attaching ∧ s.loadEnded = false))
    (hr : (s.port 0).Rests) (ha : (s.port 0).attachPlace = none) (k f c d) : s.offerStore k f c d = (s.nextId, { s with
      nextId := s.nextId + 1, counters := opCounted s 0,
      ports := s.ports.set 0 (s.sendsFirst (s.port 0) (mkOp k f c .store s.nextId d)) }) := by
  have hav : (s.port 0).state.unavailable = false := by
    rcases hs with h | ⟨h, -⟩
    · exact serves_available h
    · rw [h]; rfl
  unfold State.offerStore
  dsimp only
  rw [if_neg (by rw [hav]; simp)]
  have hp : (State.onPort { s with nextId := s.nextId + 1 } 0 fun p =>
      { p with storePlace := some (mkOp k f c .store s.nextId d) }).port 0 =
      { s.port 0 with storePlace := some (mkOp k f c .store s.nextId d) } := onPort_port _ _ _
  rw [pump_one (slot := 0) (pl := .store) (o := mkOp k f c .store s.nextId d), sendOp_ports, hp, ports_onPort, four_set_set]
  · have e : ∀ (p : Port) (o : Op), p.slots = Four.all none → p.storePlace = none →
      ({ Port.without { p with storePlace := some o } .store with
        slots := (Port.without { p with storePlace := some o } .store).slots.set 0 (some (s.sentNow o)),
        sent := p.sent ++ [⟨0, o.kind, o.first, o.count, o.data⟩] } : Port) = s.sendsFirst p o := by
      intro p o h1 h2; cases p; cases h1; cases h2; rfl
    erw [e _ _ hr.slots hr.store]
    rfl
  · rw [hp]; exact freeSlot_empty hr.slots
  · rw [hp]
    rcases hs with h | ⟨h, hl⟩
    · refine (next_serving (p := { s.port 0 with storePlace := some (mkOp k f c .store s.nextId d) }) h _).trans ?_
      unfold Port.nextServing Port.notHeldBack
      have pd : ({ s.port 0 with storePlace := some (mkOp k f c .store s.nextId d) } : Port).poweringDown = none := poweringDown_empty hr.slots ha
      rw [pd]; rfl
    · refine (next_attaching (p := { s.port 0 with storePlace := some (mkOp k f c .store s.nextId d) }) h ha _).trans ?_
      show (if (!s.loadEnded) = true then _ else _) = _
      rw [hl]; rfl
  · rw [sendOp_port, hp]
    rcases hs with h | ⟨h, hl⟩
    · apply next_none_of_empty
      · exact h
      · exact hr.queue
      · exact hr.scan
      · rfl
    · rw [next_attaching (by exact h) (by exact ha)]
      split <;> rfl

/-- The header block read back (R180). -/
theorem header_back (h : Header) (h1 : 1 ≤ h.length) (h2 : h.length ≤ 63) : h.block.length = 512 ∧ readHeader h.block = some h := by
  constructor
  · unfold Header.block; simp
  · have e : h.block = le4 Config.formatMark.toNat ++ (le4 h.generation.toNat ++ (le4 h.startCount.toNat ++ (le4 h.length
      ++ (le4 h.checksum.toNat ++ zeros 492)))) := by
      unfold Header.block fit
      have : (le4 Config.formatMark.toNat ++ le4 h.generation.toNat ++ le4 h.startCount.toNat ++ le4 h.length ++ le4 h.checksum.toNat ++ zeros 512) =
        (le4 Config.formatMark.toNat ++ (le4 h.generation.toNat ++ (le4 h.startCount.toNat ++ (le4 h.length
      ++ (le4 h.checksum.toNat ++ zeros 492))))) ++ zeros 20 := by
        rw [show zeros 512 = zeros 492 ++ zeros 20 by unfold zeros; rw [← List.replicate_add]]
        simp only [List.append_assoc]
      rw [this]
      exact List.take_left' (by simp only [List.length_append, le4_length, zeros_length])
    rw [e]
    unfold readHeader
    have w : ∀ x : Word, x.toNat < 4294967296 := fun x => x.isLt
    have a0 : u4 (le4 Config.formatMark.toNat ++ (le4 h.generation.toNat ++ (le4 h.startCount.toNat ++ (le4 h.length
      ++ (le4 h.checksum.toNat ++ zeros 492))))) 0 = Config.formatMark.toNat := u4_le4 _ _ (w _)
    have a1 : u4 (le4 Config.formatMark.toNat ++ (le4 h.generation.toNat ++ (le4 h.startCount.toNat ++ (le4 h.length
      ++ (le4 h.checksum.toNat ++ zeros 492))))) 4 = h.generation.toNat := by
      rw [u4_append _ _ _ (by simp)]; exact u4_le4 _ _ (w _)
    have a2 : u4 (le4 Config.formatMark.toNat ++ (le4 h.generation.toNat ++ (le4 h.startCount.toNat ++ (le4 h.length
      ++ (le4 h.checksum.toNat ++ zeros 492))))) 8 = h.startCount.toNat := by
      rw [u4_append _ _ _ (by simp), u4_append _ _ _ (by simp)]; exact u4_le4 _ _ (w _)
    have a3 : u4 (le4 Config.formatMark.toNat ++ (le4 h.generation.toNat ++ (le4 h.startCount.toNat ++ (le4 h.length
      ++ (le4 h.checksum.toNat ++ zeros 492))))) 12 = h.length := by
      rw [u4_append _ _ _ (by simp), u4_append _ _ _ (by simp), u4_append _ _ _ (by simp)]; exact u4_le4 _ _ (by omega)
    have a4 : u4 (le4 Config.formatMark.toNat ++ (le4 h.generation.toNat ++ (le4 h.startCount.toNat ++ (le4 h.length
      ++ (le4 h.checksum.toNat ++ zeros 492))))) 16 = h.checksum.toNat := by
      rw [u4_append _ _ _ (by simp), u4_append _ _ _ (by simp), u4_append _ _ _ (by simp), u4_append _ _ _ (by simp)]; exact u4_le4 _ _ (w _)
    rw [a0, a1, a2, a3, a4]
    unfold guardOpt
    rw [if_pos (by simp [h1, h2])]
    simp only [BitVec.ofNat_toNat, BitVec.setWidth_eq]

/-- A report of a save, in a part whose load has ended and whose store is DIRTY. -/
theorem ofSave_report {s : State} (h : s.store.load = none) (hd : s.store.state = .dirty) (rep : LogReport) (hr : rep.ofSave = true) :
    s.report rep = { s with log := s.log.write (s.formEntry rep), mgmt := { s.mgmt with events := s.mgmt.events ||| Event.errorLogged.bit } } := by
  unfold State.report
  have : s.loadEnded = true := by unfold State.loadEnded; rw [h]; rfl
  dsimp only
  rw [if_pos this]
  unfold State.logEntry
  dsimp only
  rw [hr]
  unfold State.markDirtyKeepHold
  have : s.store.changed = s.store := by
    unfold StoreController.changed; rw [hd]
  dsimp only [State.raise, State.store]
  rw [if_pos rfl, this]

/-- A save that nothing waits for (R183). -/
theorem saveEnded_plain {s : State} {r : SaveRecord} (hr : s.mgmt.resetStage ≠ .save) (hm : s.modes.mode ≠ .enteringStandby)
    (h1 : r.firstOfErase = false) (h2 : r.lastOfErase = false) (h3 : r.eraseDone = false) (ok : Bool) : s.saveEnded r ok = s := by
  unfold State.saveEnded State.eraseSaveEnded
  rw [h1, h2, h3]
  simp only [Bool.false_eq_true, if_false]
  rw [if_neg (fun h : s.modes.mode = .enteringStandby ∧ s.modes.phase = .saving => hm h.1), if_neg hr]

/-- Nothing in the store place to withdraw. -/
theorem withdraw_none {Y : State} (h : (Y.port 0).storePlace = none) (r : SaveRecord) : Y.withdrawSave r = Y := by
  unfold State.withdrawSave; rw [h]; rfl

/-- A change of the load. -/
theorem load_changed {s : State} {l : Load} (hl : s.store.load = some l) (f : Load → Load) :
    (s.onStore fun c => { c with load := c.load.map f }) = { s with store := { s.store with load := some (f l) } } := by
  unfold State.onStore; dsimp only; rw [hl]; rfl

/-- The conditions of the idle timer (R177). -/
theorem idleHolds_iff (s : State) : s.idleHolds = true ↔ s.modes.mode = .service ∧ s.engine.items = [] ∧ s.scan.state ≠ .running ∧ s.store.save = none ∧
    s.health.slot0 = none ∧ s.health.slot1 = none ∧ s.nextEligible = none ∧ s.guard.state ≠ .erasing ∧ s.mgmt.params.idleCode ≠ 0 := by
  unfold State.idleHolds State.relocationWork
  simp only [Bool.and_eq_true, decide_eq_true_eq, List.isEmpty_iff, Option.isNone_iff_eq_none, Bool.not_eq_true', Bool.or_eq_false_iff, Option.isSome_eq_false_iff]
  tauto

/-- A relocation's record, with its buffer (R54). -/
theorem setReloc_at {s : State} {k : Fin 2} {r : Option Relocation} (h : slotBuffers r ≤ s.engine.freeBuffers + slotBuffers (s.health.slot k)) :
    s.setReloc k r = { s with health := s.health.withSlot r k, engine := { s.engine with freeBuffers := s.engine.freeBuffers + slotBuffers (s.health.slot k) - slotBuffers r } } := by
  unfold State.setReloc; dsimp only; rw [if_pos h]

/-- A slot just set. -/
theorem slot_withSlot (h : HealthMonitor) (r : Option Relocation) (k : Fin 2) : (h.withSlot r k).slot k = r := by
  match k with
  | 0 => rfl
  | 1 => rfl

/-- A slot set twice. -/
theorem withSlot_twice (h : HealthMonitor) (p q : Option Relocation) (k : Fin 2) : (h.withSlot p k).withSlot q k = h.withSlot q k := by
  match k with
  | 0 => rfl
  | 1 => rfl

/-- A relocation that holds its buffer guardEnds_awaited: its slot is empty, its item has left the list, its buffer is free (R101). -/
theorem relocEnds_eq {x : State} {k : Fin 2} {r : Relocation} (h : x.health.slot k = some r) (hs : r.step = .read ∨ r.step = .write) : x.relocEnds k = { x with
    health := x.health.withSlot none k
    engine := { items := x.engine.items.filter (fun i => i.request?.isSome || i.id != r.item), freeBuffers := x.engine.freeBuffers + 1 } } := by
  have hb : slotBuffers (some r) = 1 := by unfold slotBuffers; rcases hs with h | h <;> simp [h]
  unfold State.relocEnds
  rw [h]
  dsimp only
  unfold State.setReloc State.removeReloc
  dsimp only
  rw [if_pos (by exact Nat.zero_le _), h, hb]
  rfl

/-- The record of a slot changes while its buffer stays (R54). -/
theorem setReloc_kept {x : State} {k : Fin 2} {r q : Relocation} (h : x.health.slot k = some r) (hs : r.step = .read ∨ r.step = .write) (hq : q.step = .read ∨ q.step = .write) :
    x.setReloc k (some q) = { x with health := x.health.withSlot (some q) k } := by
  have hb : slotBuffers (some r) = 1 := by unfold slotBuffers; rcases hs with h | h <;> simp [h]
  have hb2 : slotBuffers (some q) = 1 := by unfold slotBuffers; rcases hq with h | h <;> simp [h]
  unfold State.setReloc
  dsimp only
  rw [h, hb, hb2, if_pos (by omega)]
  rfl

/-- The WRITE of a relocation is offered at a port with nothing else to do, and sent (R79, R103). -/
theorem offerReloc_sends {x : State} {k : Fin 2} {q : Relocation} {b : Nat} (h : x.health.slot k = some q) (hq : q.step = .write) (hb : q.spare = some b)
    (hs : (x.port q.unit).state.serves = true) (hr : (x.port q.unit).Rests) (ha : (x.port q.unit).attachPlace = none) : x.offerReloc k = { x with
      nextId := x.nextId + 1, counters := opCounted x q.unit
      health := x.health.withSlot (some { q with wait := .port }) k
      ports := x.ports.set q.unit (x.sendsFirst (x.port q.unit) (mkOp .write b 1 (.reloc k) x.nextId [q.data])) } := by
  cases q
  cases hq
  cases hb
  unfold State.offerReloc
  rw [h]
  simp only [offer_sends hs hr ha]
  rw [setReloc_kept (by exact h) (Or.inr rfl) (Or.inr rfl)]
  simp only [reduceCtorEq, if_false]

/-- The log entry of a scan (R110, R123). -/
theorem writeScanLog_eq (s : State) (c : ScanContext) (r : ScanResult) : s.writeScanLog c r = { s with
    scan := { s.scan with log := pushBounded 16 s.scan.log {
      kind := c.kind, unit := c.unit, result := r, verified := c.verified, firstFailing := c.firstFailing, stamp := s.now } }
    mgmt := { s.mgmt with events := s.mgmt.events ||| Event.scanEnded.bit }, store := s.store.dirtied } := by
  unfold State.writeScanLog
  rw [markDirty_eq]
  rfl

/-- A scan guardEnds_awaited with nothing of its own waiting (R110). -/
theorem endScan_rests {s : State} {c : ScanContext} (h : s.scan.context = some c) (hv : ∀ v, c.current = some v → (s.port v.extent.unit).scanPlace = none) (r : ScanResult) :
    s.endScan r = { s with
      scan := { s.scan with state := .idle, context := none, log := pushBounded 16 s.scan.log {
        kind := c.kind, unit := c.unit, result := r, verified := c.verified, firstFailing := c.firstFailing, stamp := s.now } }
      mgmt := { s.mgmt with events := s.mgmt.events ||| Event.scanEnded.bit }, store := s.store.dirtied } := by
  unfold State.endScan
  rw [h]
  dsimp only
  rw [writeScanLog_eq]
  unfold State.withdrawScan
  cases hc : c.current with
  | none => rfl
  | some v =>
    dsimp only
    rw [if_neg]
    unfold State.verifyWaits
    show ¬ ((s.port v.extent.unit).scanPlace.any _ = true)
    rw [hv v hc]; simp

/-- A change of the scan. -/
theorem setScan_eq {s : State} {c : ScanContext} (h : s.scan.context = some c) (d : ScanContext) : s.setScan d = { s with scan := { s.scan with context := some d } } := by
  unfold State.setScan; rw [h]; rfl

/-- A scan that no one asked to pause cuts on (R113). -/
theorem goesOn_cut {s : State} {c : ScanContext} (h : s.scan.context = some c) (hr : c.kind = .patrol → c.suspendRequested = false) : s.scanGoesOn = s.scanCut := by
  unfold State.scanGoesOn
  rw [h]
  dsimp only
  rw [if_neg]
  simp only [Bool.and_eq_true, decide_eq_true_eq]
  rintro ⟨⟨a, b⟩, -⟩
  rw [hr a] at b; cases b

/-- A patrol asked to pause pauses before its next extent (R112, R114). -/
theorem goesOn_pause {s : State} {c : ScanContext} (h : s.scan.context = some c) (hk : c.kind = .patrol) (hs : c.suspendRequested = true) (hr : s.scan.state = .running)
    (hq : s.scan.quiet = false) {y : Extent} (hp : (s.scanFind scanFuel c).2 = some y) : s.scanGoesOn = { s with scan := { s.scan with state := .suspended } } := by
  unfold State.scanGoesOn
  rw [h]
  dsimp only
  rw [if_pos (by simp [hk, hs, hr])]
  unfold State.patrolPauses
  rw [if_neg (by unfold State.passOver; rw [hp]; simp)]
  unfold State.scanSuspends
  rw [h]
  dsimp only
  unfold State.scanResume
  dsimp only
  rw [h]
  dsimp only
  rw [if_neg (by rw [hq]; simp)]

/-- The cursor rests on the map and the ports alone (R113). -/
theorem find_like {s x : State} (hm : x.map = s.map) (hp : x.ports = s.ports) (n : Nat) (c : ScanContext) : x.scanFind n c = s.scanFind n c :=
  scanFind_like hm (fun u => by unfold State.port; rw [hp]) n c

end Sys2Proof.Laws
end

