-- ==== Sys2Proof/Laws/PerInstr.lean ====
section
/-!
SUPPORT. The family Carries: for each command, that its well-formedness says exactly what the spec asks of what it carries, a frame
of its own type where the link takes one (R201, R202) or a block index of the largest request (R42).
-/

set_option Elab.async false

namespace Sys2Proof.Laws.Carries

open Sys2Proof Sys2Proof.Machine

/-- What a command carries that may be ill formed. -/
inductive Load where
  | nothing
  | linkFrame (frame : List Byte) (type : Nat)
  | unitFrame (frame : List Byte) (type : Nat)
  | index (n : Nat)
  deriving DecidableEq, Repr

/-- What the load of a command must satisfy: a frame that its link does not discard has the command's type code; an index names a
block of a request of the largest length. -/
def Load.lawful : Load → Prop
  | .nothing => True
  | .linkFrame frame type => ∀ f, LinkFrame.parse frame = some f → u1 f.body 0 = type
  | .unitFrame frame type => ∀ f, UnitFrame.parse frame = some f → u1 f.body 0 = type
  | .index n => 512 * n < Config.largestRequest

/-- The load of a command. -/
def load : Instr → Load
  | .request frame => .linkFrame frame 1
  | .writeData frame => .linkFrame frame 2
  | .cancel frame => .linkFrame frame 3
  | .linkReset frame => .linkFrame frame 4
  | .windowDataTimeout _ => .nothing
  | .dataTimeout _ n => .index n
  | .bufferClaimGrant => .nothing
  | .holdCleared => .nothing
  | .syncComplete => .nothing
  | .queuePlaceFree _ => .nothing
  | .pendingWriteRedirect => .nothing
  | .unitPresentAsserted _ => .nothing
  | .unitPresentReleased _ => .nothing
  | .unitFaultLineChange _ _ => .nothing
  | .unitData _ frame => .unitFrame frame 0x11
  | .result _ frame => .unitFrame frame 0x12
  | .unitTimeout _ _ => .nothing
  | .partReset _ => .nothing
  | .agingExpiry => .nothing
  | .quietTimerExpiry => .nothing
  | .idleTimerExpiry => .nothing
  | .relocationStart => .nothing
  | .takeSave => .nothing
  | .drainEnd => .nothing
  | .powerDown _ => .nothing
  | .poweringDownComplete => .nothing
  | .wakeSettled => .nothing
  | .eraseWaitEnd => .nothing
  | .identify => .nothing
  | .setParams => .nothing
  | .setStreams => .nothing
  | .setMode => .nothing
  | .resetPart => .nothing
  | .regionRead => .nothing
  | .regionWrite => .nothing
  | .regionClear => .nothing
  | .pinRead => .nothing
  | .pinWrite => .nothing
  | .pinClear => .nothing
  | .remapRead => .nothing
  | .remapDelete => .nothing
  | .spareRead => .nothing
  | .spareLoad => .nothing
  | .watchRead => .nothing
  | .watchClear => .nothing
  | .unitMode => .nothing
  | .unitInfo => .nothing
  | .save => .nothing
  | .scanStart => .nothing
  | .scanAbort => .nothing
  | .scanLogRead => .nothing
  | .logRead => .nothing
  | .countersRead => .nothing
  | .guardSetUser => .nothing
  | .guardSetRecovery => .nothing
  | .guardUnlock => .nothing
  | .guardDisable => .nothing
  | .erasePrepare => .nothing
  | .eraseGuarded => .nothing
  | .freeze => .nothing
  | .resetLineReleased => .nothing
  | .readDataSent _ n => .index n

/-- A command is well formed exactly when its load is lawful. -/
def Statement (i : Instr) : Prop := i.wellFormed = true ↔ (load i).lawful

theorem request (frame : List Byte) : Statement (.request frame) := by
  unfold Statement load Load.lawful Instr.wellFormed isRequestFrame
  cases h : LinkFrame.parse frame with
  | none => simp [h]
  | some f => cases f <;> simp [h, LinkFrame.body, u1]

theorem writeData (frame : List Byte) : Statement (.writeData frame) := by
  unfold Statement load Load.lawful Instr.wellFormed isWriteDataFrame
  cases h : LinkFrame.parse frame with
  | none => simp [h]
  | some f => cases f <;> simp [h, LinkFrame.body, u1]

theorem cancel (frame : List Byte) : Statement (.cancel frame) := by
  unfold Statement load Load.lawful Instr.wellFormed isCancelFrame
  cases h : LinkFrame.parse frame with
  | none => simp [h]
  | some f => cases f <;> simp [h, LinkFrame.body, u1]

theorem linkReset (frame : List Byte) : Statement (.linkReset frame) := by
  unfold Statement load Load.lawful Instr.wellFormed isLinkResetFrame
  cases h : LinkFrame.parse frame with
  | none => simp [h]
  | some f => cases f <;> simp [h, LinkFrame.body, u1]

theorem windowDataTimeout (tag : Fin 32) : Statement (.windowDataTimeout tag) := by simp [Statement, load, Load.lawful, Instr.wellFormed]

theorem dataTimeout (tag : Fin 32) (index : Nat) : Statement (.dataTimeout tag index) := by
  unfold Statement load Load.lawful Instr.wellFormed Instr.indexLimit Config.largestRequest
  rw [decide_eq_true_iff]
  omega

theorem bufferClaimGrant : Statement (.bufferClaimGrant) := by simp [Statement, load, Load.lawful, Instr.wellFormed]

theorem holdCleared : Statement (.holdCleared) := by simp [Statement, load, Load.lawful, Instr.wellFormed]

theorem syncComplete : Statement (.syncComplete) := by simp [Statement, load, Load.lawful, Instr.wellFormed]

theorem queuePlaceFree (unit : Fin 4) : Statement (.queuePlaceFree unit) := by simp [Statement, load, Load.lawful, Instr.wellFormed]

theorem pendingWriteRedirect : Statement (.pendingWriteRedirect) := by simp [Statement, load, Load.lawful, Instr.wellFormed]

theorem unitPresentAsserted (unit : Fin 4) : Statement (.unitPresentAsserted unit) := by simp [Statement, load, Load.lawful, Instr.wellFormed]

theorem unitPresentReleased (unit : Fin 4) : Statement (.unitPresentReleased unit) := by simp [Statement, load, Load.lawful, Instr.wellFormed]

theorem unitFaultLineChange (unit : Fin 4) (level : Bool) : Statement (.unitFaultLineChange unit level) := by simp [Statement, load, Load.lawful, Instr.wellFormed]

theorem unitData (unit : Fin 4) (frame : List Byte) : Statement (.unitData unit frame) := by
  unfold Statement load Load.lawful Instr.wellFormed isUnitDataFrame
  cases h : UnitFrame.parse frame with
  | none => simp [h]
  | some f => cases f <;> simp [h, UnitFrame.body, u1]

theorem result (unit : Fin 4) (frame : List Byte) : Statement (.result unit frame) := by
  unfold Statement load Load.lawful Instr.wellFormed isResultFrame
  cases h : UnitFrame.parse frame with
  | none => simp [h]
  | some f => cases f <;> simp [h, UnitFrame.body, u1]

theorem unitTimeout (unit : Fin 4) (slot : Fin 4) : Statement (.unitTimeout unit slot) := by simp [Statement, load, Load.lawful, Instr.wellFormed]

theorem partReset (event : ResetEvent) : Statement (.partReset event) := by simp [Statement, load, Load.lawful, Instr.wellFormed]

theorem agingExpiry : Statement (.agingExpiry) := by simp [Statement, load, Load.lawful, Instr.wellFormed]

theorem quietTimerExpiry : Statement (.quietTimerExpiry) := by simp [Statement, load, Load.lawful, Instr.wellFormed]

theorem idleTimerExpiry : Statement (.idleTimerExpiry) := by simp [Statement, load, Load.lawful, Instr.wellFormed]

theorem relocationStart : Statement (.relocationStart) := by simp [Statement, load, Load.lawful, Instr.wellFormed]

theorem takeSave : Statement (.takeSave) := by simp [Statement, load, Load.lawful, Instr.wellFormed]

theorem drainEnd : Statement (.drainEnd) := by simp [Statement, load, Load.lawful, Instr.wellFormed]

theorem powerDown (unit : Fin 4) : Statement (.powerDown unit) := by simp [Statement, load, Load.lawful, Instr.wellFormed]

theorem poweringDownComplete : Statement (.poweringDownComplete) := by simp [Statement, load, Load.lawful, Instr.wellFormed]

theorem wakeSettled : Statement (.wakeSettled) := by simp [Statement, load, Load.lawful, Instr.wellFormed]

theorem eraseWaitEnd : Statement (.eraseWaitEnd) := by simp [Statement, load, Load.lawful, Instr.wellFormed]

theorem identify : Statement (.identify) := by simp [Statement, load, Load.lawful, Instr.wellFormed]

theorem setParams : Statement (.setParams) := by simp [Statement, load, Load.lawful, Instr.wellFormed]

theorem setStreams : Statement (.setStreams) := by simp [Statement, load, Load.lawful, Instr.wellFormed]

theorem setMode : Statement (.setMode) := by simp [Statement, load, Load.lawful, Instr.wellFormed]

theorem resetPart : Statement (.resetPart) := by simp [Statement, load, Load.lawful, Instr.wellFormed]

theorem regionRead : Statement (.regionRead) := by simp [Statement, load, Load.lawful, Instr.wellFormed]

theorem regionWrite : Statement (.regionWrite) := by simp [Statement, load, Load.lawful, Instr.wellFormed]

theorem regionClear : Statement (.regionClear) := by simp [Statement, load, Load.lawful, Instr.wellFormed]

theorem pinRead : Statement (.pinRead) := by simp [Statement, load, Load.lawful, Instr.wellFormed]

theorem pinWrite : Statement (.pinWrite) := by simp [Statement, load, Load.lawful, Instr.wellFormed]

theorem pinClear : Statement (.pinClear) := by simp [Statement, load, Load.lawful, Instr.wellFormed]

theorem remapRead : Statement (.remapRead) := by simp [Statement, load, Load.lawful, Instr.wellFormed]

theorem remapDelete : Statement (.remapDelete) := by simp [Statement, load, Load.lawful, Instr.wellFormed]

theorem spareRead : Statement (.spareRead) := by simp [Statement, load, Load.lawful, Instr.wellFormed]

theorem spareLoad : Statement (.spareLoad) := by simp [Statement, load, Load.lawful, Instr.wellFormed]

theorem watchRead : Statement (.watchRead) := by simp [Statement, load, Load.lawful, Instr.wellFormed]

theorem watchClear : Statement (.watchClear) := by simp [Statement, load, Load.lawful, Instr.wellFormed]

theorem unitMode : Statement (.unitMode) := by simp [Statement, load, Load.lawful, Instr.wellFormed]

theorem unitInfo : Statement (.unitInfo) := by simp [Statement, load, Load.lawful, Instr.wellFormed]

theorem save : Statement (.save) := by simp [Statement, load, Load.lawful, Instr.wellFormed]

theorem scanStart : Statement (.scanStart) := by simp [Statement, load, Load.lawful, Instr.wellFormed]

theorem scanAbort : Statement (.scanAbort) := by simp [Statement, load, Load.lawful, Instr.wellFormed]

theorem scanLogRead : Statement (.scanLogRead) := by simp [Statement, load, Load.lawful, Instr.wellFormed]

theorem logRead : Statement (.logRead) := by simp [Statement, load, Load.lawful, Instr.wellFormed]

theorem countersRead : Statement (.countersRead) := by simp [Statement, load, Load.lawful, Instr.wellFormed]

theorem guardSetUser : Statement (.guardSetUser) := by simp [Statement, load, Load.lawful, Instr.wellFormed]

theorem guardSetRecovery : Statement (.guardSetRecovery) := by simp [Statement, load, Load.lawful, Instr.wellFormed]

theorem guardUnlock : Statement (.guardUnlock) := by simp [Statement, load, Load.lawful, Instr.wellFormed]

theorem guardDisable : Statement (.guardDisable) := by simp [Statement, load, Load.lawful, Instr.wellFormed]

theorem erasePrepare : Statement (.erasePrepare) := by simp [Statement, load, Load.lawful, Instr.wellFormed]

theorem eraseGuarded : Statement (.eraseGuarded) := by simp [Statement, load, Load.lawful, Instr.wellFormed]

theorem freeze : Statement (.freeze) := by simp [Statement, load, Load.lawful, Instr.wellFormed]

theorem resetLineReleased : Statement (.resetLineReleased) := by simp [Statement, load, Load.lawful, Instr.wellFormed]

theorem readDataSent (tag : Fin 32) (index : Nat) : Statement (.readDataSent tag index) := by
  unfold Statement load Load.lawful Instr.wellFormed Instr.indexLimit Config.largestRequest
  rw [decide_eq_true_iff]
  omega

end Sys2Proof.Laws.Carries
end

