-- ==== Sys2Proof/Tests/Slice0.lean ====
section
/-!
SUPPORT. Tests: an ill-formed command for each check of `Instr.wellFormed`, at most two one-step tests for each command on a small
state, and for each obligation with hypotheses a theorem that shows concrete states and operands that meet them, clause by clause.
-/

namespace Sys2Proof.Tests

set_option Elab.async false

open Sys2Proof Sys2Proof.Machine

/-! ### Small states and commands -/

/-- A running part in SERVICE with a CLEAN store, a DISABLED guard and no units. -/
def part : State :=
  { State.reset with
    inReset := false
    modes := { State.reset.modes with mode := .service }
    store := { State.reset.store with load := none, state := .clean, startCount := 8 }
    guard := { State.reset.guard with state := .disabled } }

/-- The part in a mode. -/
def inMode (m : PartMode) (s : State) : State := { s with modes := { s.modes with mode := m } }

/-- The part with a port in a state, its unit present. -/
def port (u : Fin 4) (p : PortState) (s : State) : State :=
  { s with ports := s.ports.set u { s.port u with state := p, present := true, capacity := some 100000 } }

/-- The part with its guard changed. -/
def guarded (f : GuardUnit → GuardUnit) (s : State) : State := { s with guard := f s.guard }

/-- A region that every stream may read and write. -/
def region (logical count : Nat) (u : Fin 4) (physical : Nat) : RegionEntry :=
  { valid := true, logical := logical, count := count, unit := u, physical := physical, readers := 0xFFFF, writers := 0xFFFF,
    readOnly := false, guarded := false, verifyAfter := false }

/-- The part with a region entry. -/
def withRegion (i : Fin 16) (e : RegionEntry) (s : State) : State :=
  { s with map := { s.map with regions := s.map.regions.set i e } }

/-- The part with the pool of a unit replaced. -/
def withPool (u : Fin 4) (first count : Nat) (s : State) : State :=
  { s with map := { s.map with pools := s.map.pools.set u { Pool.empty with extents := [⟨first, count⟩], loaded := count } } }

/-- A watch entry of a block. -/
def watched (u : Fin 4) (b score : Nat) (pending : Bool) : WatchEntry :=
  { block := ⟨u, b⟩, score := score, age := 0, pending := pending, due := decide (8 ≤ score) && !pending, cause := .softRead,
    stamp := ⟨some 8, 0⟩ }

/-- The part with a watch list. -/
def watching (l : List WatchEntry) (s : State) : State := { s with health := { s.health with watch := l } }

/-- A learned entry. -/
def learnt (u : Fin 4) (source target : Nat) : LearnedEntry :=
  { unit := u, source := source, target := target, cause := .promotion, stamp := ⟨some 8, 0⟩ }

/-- A taken command with its parameters and payload, from a W0 write of stream 0 that holds tag 0. -/
def ask (c : Command) (params payload : List Byte) (mode : PartMode) : Taken :=
  { code := c.code, seq := 7, stream := 0, tag := some 0,
    block := le2 c.code ++ le2 7 ++ le2 payload.length ++ zeros 2 ++ fit 24 params ++ fit 480 payload,
    mode := mode, prepared := false, record := ⟨0, .command c.code 7 ⟨some 8, 0⟩⟩, decided := false }

/-- The part whose engine has taken a command. -/
def took (t : Taken) (s : State) : State :=
  { s with
    mgmt := { s.mgmt with state := .executing, taken := some t, lastSeq := t.seq }
    link := { s.link with tags := s.link.tags.set 0 .window } }

/-- What one step makes of a state with a command in front. -/
def after (c : Instr) (s : State) (f : State → Bool) : Bool :=
  match step { s with pending := [c] } with
  | .next t => f t
  | .fault _ => false
  | .refused _ => false

/-- One step of a command changes nothing but the queue. -/
def idle (c : Instr) (s : State) : Bool := after c s fun t => decide (t = s)

/-- A management command in SERVICE mode, carried out in one step: its result and data. -/
def answers (i : Instr) (t : Taken) (s : State) (result : CmdResult) (data : List Byte) : Bool :=
  after i (took t s) fun x =>
    decide (x.mgmt.state = .idle ∧ x.mgmt.response = { seq := 7, code := t.code, result := result, data := data })

/-- The bytes of a REQUEST frame. -/
def requestFrame (kind : Byte) (tag : Fin 32) (stream : Fin 16) (lba len : Word) : List Byte :=
  (LinkFrame.request { kind := kind, tag := tag, stream := stream, lba := lba, len := len }).bytes

/-- The bytes of a RESULT frame without soft errors. -/
def resultFrame (slot : Fin 4) (kind outcome : Byte) (stop : Word) : List Byte :=
  (UnitFrame.result { slot := slot, kind := kind, outcome := outcome, stop := stop, soft := [], capacity := 0 }).bytes

/-- The part whose engine took a command awaits it. -/
theorem awaits_took (c : Command) (params payload : List Byte) (mode : PartMode) (s : State) (h : s.inReset = false ∧ s.todo = []) :
    (took (ask c params payload mode) s).Awaits c (ask c params payload mode) :=
  ⟨⟨h.1, h.2⟩, rfl, rfl, rfl⟩

/-- An item that has begun no work, as a test. -/
def waitsTest : Item → Bool
  | .host r => decide (r.segs = [] ∧ r.state ≠ .running)
  | .reloc r => r.held

theorem waits_of_test {i : Item} (h : waitsTest i = true) : i.Waits := by
  cases i with
  | host r => exact (of_decide_eq_true h : r.segs = [] ∧ r.state ≠ .running)
  | reloc r => exact h

/-- The bounds of a lawful state, as one test. -/
def boundedTest (s : State) : Bool :=
  decide (s.guard.failed ≤ 5 ∧ s.log.ring.length ≤ 5 ∧ s.log.latest ≤ 8 ∧ s.log.lifetime ≤ 65535 ∧ s.scan.log.length ≤ 16 ∧
    s.health.watch.length ≤ 64 ∧ (∀ n ∈ paramNumbers, paramInRange n (s.mgmt.params.value n) = true) ∧
    s.mgmt.events &&& 0xC000 = 0 ∧ (∀ u : Fin 4, (s.port u).writeFaults ≤ 255 ∧ (s.port u).queue.length ≤ 64) ∧ s.todo = [] ∧
    (s.engine.items.map Item.id).Pairwise (· < ·) ∧ (∀ n ∈ s.engine.items.map Item.id, n < s.nextId) ∧
    (∀ e ∈ s.health.watch, e.score ≤ 15 ∧ e.age ≤ 3) ∧ (s.scan.state = .idle ↔ s.scan.context = none) ∧
    (s.mgmt.state = .idle → s.mgmt.taken = none) ∧ s.engine.items.Pairwise fun e i => e.blocks i = true → waitsTest i = true)

/-- The buffer law and the tag law, as one test. -/
def lawsTest (s : State) : Bool :=
  decide (s.engine.freeBuffers + s.heldBuffers = 128 ∧
    (∀ i ∈ s.engine.items, ∀ j ∈ s.engine.items, ∀ g, i.liveTag = some g → j.liveTag = some g → i.id = j.id) ∧
    (∀ g : Fin 32, s.link.tags[g] = .request ↔ ∃ i ∈ s.engine.items, i.liveTag = some g) ∧ s.mgmt.tags.Nodup ∧
    ∀ g : Fin 32, s.link.tags[g] = .window ↔ g ∈ s.mgmt.tags)

/-- A lawful state, as one test. -/
def lawfulTest (s : State) : Bool := boundedTest s && lawsTest s

theorem lawful_of_test {s : State} (h : lawfulTest s = true) : s.Lawful := by
  rw [lawfulTest, Bool.and_eq_true] at h
  have ⟨h1, h2, h3, h4, h5, h6, h7, h8, h9, h10, h11, h12, h13, h14, h15, h16⟩ := of_decide_eq_true h.1
  have ⟨k1, k2, k3, k4, k5⟩ := of_decide_eq_true h.2
  exact ⟨⟨h1, h2, h3, h4, h5, h6, h7, h8, fun u => ⟨(h9 u).1, (h9 u).2⟩, by rw [h10]; simp, h11, h12, h13, h14, h15,
    h16.imp fun k e => waits_of_test (k e)⟩, k1, ⟨k2, k3, k4, k5⟩⟩

/-- A port with nothing outstanding and nothing waiting, as a test. -/
def restsTest (p : Port) : Bool :=
  decide (p.slots = Four.all none ∧ p.queue = [] ∧ p.scanPlace = none ∧ p.storePlace = none)

theorem rests_of_test {p : Port} (h : restsTest p = true) : p.Rests :=
  have ⟨h1, h2, h3, h4⟩ := of_decide_eq_true h
  ⟨h1, h2, h3, h4⟩

/-- What a RESULT needs beside a lawful state to end the operation of a port. -/
theorem ends_of {s : State} {u : Fin 4} {frame : List Byte} {f : ResultFields} {o : Outstanding} (h : lawfulTest s = true)
    (e : (s.inReset = false ∧ s.todo = [] ∧ s.store.load = none ∧ UnitFrame.parse frame = some (.result f)) ∧
      (s.port u).state.serves = true ∧ (s.port u).served = (s.port u).state ∧
      (s.port u).slots = (Four.all none).set f.slot (some o) ∧ (s.port u).queue = [] ∧ (s.port u).scanPlace = none ∧
      (s.port u).storePlace = none ∧ (s.port u).attachPlace = none ∧ f.kind.toNat = o.op.kind.code ∧ o.op.owner ≠ .port ∧
      ∀ b ∈ f.soft, o.op.first ≤ b ∧ b < o.op.first + o.op.count) : s.Ends u frame f o :=
  have ⟨⟨h1, h2, h3, h4⟩, h5, h6, h7, h8, h9, h10, h11, h12, h13, h14⟩ := e
  ⟨⟨h1, h2⟩, lawful_of_test h, h3, h4, h5, h6, h7, h8, h9, h10, h11, h12, h13, h14⟩

/-- A frame, a kind, a length and a free tag make a request that arrives. -/
theorem arrives_of {s : State} {frame : List Byte} {r : RequestFields} {k : ReqKind} (h : lawfulTest s = true)
    (up : s.inReset = false ∧ s.todo = [])
    (f : LinkFrame.parse frame = some (.request r) ∧ r.kind.toNat = k.code ∧ r.len.toNat ≤ 1048576 ∧ s.link.tags[r.tag] = .free) :
    s.Arrives frame r k :=
  ⟨⟨up.1, up.2⟩, lawful_of_test h, f.1, f.2.1, f.2.2.1, f.2.2.2⟩

/-- A frame of the host is read by its body. -/
theorem parse_link (f : LinkFrame) : LinkFrame.parse f.bytes = LinkFrame.ofBody f.body := by
  simp [LinkFrame.parse, LinkFrame.bytes]

/-- A frame of a unit is read by its body. -/
theorem parse_unit (f : UnitFrame) : UnitFrame.parse f.bytes = UnitFrame.ofBody f.body := by
  simp [UnitFrame.parse, UnitFrame.bytes]

/-- A DATA frame is no RESULT frame. -/
theorem illformed_data {frame : List Byte} {slot : Fin 4} {offset : Nat} {block : Block} (u : Fin 4)
    (h : UnitFrame.parse frame = some (.data slot offset block)) : Instr.wellFormed (.result u frame) = false := by
  simp [Instr.wellFormed, isResultFrame, h]

/-! ### Ill-formed commands -/

/-- A LINK RESET frame. -/
def linkResetFrame : List Byte := LinkFrame.linkReset.bytes

/-- A CANCEL frame for tag 3. -/
def cancelFrame : List Byte := (LinkFrame.cancel 3).bytes

/-- A DATA frame of a block of zeros for slot 0, offset 1. -/
def dataFrame : UnitFrame := .data 0 1 (zeros 512)

/-- It is read as it is written. -/
theorem parse_dataFrame : UnitFrame.parse dataFrame.bytes = some (.data 0 1 (zeros 512)) :=
  (parse_unit dataFrame).trans (by decide +kernel)

theorem test_illformed_request : Instr.wellFormed (.request cancelFrame) = false := by decide +kernel
theorem test_illformed_writeData : Instr.wellFormed (.writeData cancelFrame) = false := by decide +kernel
theorem test_illformed_cancel : Instr.wellFormed (.cancel linkResetFrame) = false := by decide +kernel
theorem test_illformed_linkReset : Instr.wellFormed (.linkReset cancelFrame) = false := by decide +kernel
theorem test_illformed_unitData : Instr.wellFormed (.unitData 0 (resultFrame 0 1 0 0)) = false := by decide +kernel
theorem test_illformed_result : Instr.wellFormed (.result 0 dataFrame.bytes) = false := illformed_data 0 parse_dataFrame
theorem test_illformed_dataTimeout : Instr.wellFormed (.dataTimeout 0 2048) = false := by decide +kernel
theorem test_illformed_readDataSent : Instr.wellFormed (.readDataSent 0 2048) = false := by decide +kernel
theorem test_wellformed : (Instr.wellFormed (.cancel cancelFrame) && Instr.wellFormed (.linkReset linkResetFrame) &&
    Instr.wellFormed (.result 0 (resultFrame 0 1 0 0)) &&
    Instr.wellFormed (.request (requestFrame 0 0 0 0 512)) && Instr.wellFormed (.dataTimeout 0 2047)) = true := by decide +kernel

/-- The check of the digits 1 to 9, with the known value for the polynomial, order and complement that 12.2 states. -/
theorem test_frameCheck : frameCheck [0x31, 0x32, 0x33, 0x34, 0x35, 0x36, 0x37, 0x38, 0x39] = 0xCBF43926 := by decide +kernel

/-- A CANCEL frame of tag 3, written out byte by byte (12.2). -/
theorem test_cancelFrame : LinkFrame.parse ([3, 3, 0, 0] ++ checkBytes [3, 3, 0, 0]) = some (.cancel 3) := by decide +kernel

/-! ### One step of each management command -/

/-- The part in CONFIG. -/
def config : State := inMode .config part

/-- The part with an open guard and a recovery code of zeros. -/
def openGuard : State := guarded (fun g => { g with state := .opened }) part

/-- The part with a locked guard and a recovery code of zeros. -/
def lockedGuard : State := guarded (fun g => { g with state := .locked }) part

theorem test_identify : after .identify (took (ask .identify [] [] .service) part) (fun x =>
    decide (x.mgmt.response.result = .done ∧ x.mgmt.response.data.take 11 = [0x31, 0x5A, 0x10, 0x04, 1, 0xFC, 0xFF, 0xFF, 0xFF, 0, 2] ∧
      x.link.tags[0] = .free)) = true := by decide +kernel

theorem test_setParams : after .setParams (took (ask .setParams [] ([5, 0, 0, 0] ++ le4 4) .service) part) (fun x =>
    decide (x.mgmt.response.result = .done ∧ x.mgmt.params = { Params.defaults with promotion := 4 } ∧ x.store.state = .dirty)) =
    true := by decide +kernel

theorem test_setStreams : after .setStreams (took (ask .setStreams (le2 3) [] .service) part) (fun x =>
    decide (x.mgmt.response.result = .done ∧ x.mgmt.streams = 3 ∧ x.mgmt.response.data = [3, 0])) = true := by decide +kernel

theorem test_setMode : after .setMode (took (ask .setMode (le1 1) [] .service) part) (fun x =>
    decide (x.modes.mode = .draining ∧ x.modes.drain = .config ∧ x.mgmt.state = .executing)) = true := by decide +kernel

theorem test_setMode_invalid : answers .setMode (ask .setMode (le1 3) [] .service) part .invalidParameter [2] = true := by
  decide +kernel

theorem test_resetPart : after .resetPart (took (ask .resetPart [] [] .service) part) (fun x =>
    decide (x.modes.mode = .draining ∧ x.modes.drain = .reset)) = true := by decide +kernel

theorem test_regionRead : answers .regionRead (ask .regionRead (le2 15) [] .service) (withRegion 15 (region 8 4 2 64) part) .done
    ([15, 1, 2, 0, 8, 0, 0, 0, 4, 0, 0, 0, 64, 0, 0, 0, 255, 255, 255, 255] ++ zeros 12) = true := by decide +kernel

theorem test_regionWrite : after .regionWrite (took (ask .regionWrite (le2 0) ((region 8 4 2 64).bytes 0) .config) config) (fun x =>
    decide (x.mgmt.response.result = .done ∧ x.map.regions[0] = region 8 4 2 64 ∧ x.store.state = .dirty)) = true := by decide +kernel

theorem test_regionWrite_overlap : after .regionWrite (took (ask .regionWrite (le2 0) ((region 8 4 2 64).bytes 0) .config)
    (withRegion 3 (region 11 1 1 0) config)) (fun x =>
    decide (x.mgmt.response.result = .conflict ∧ x.mgmt.response.data.take 4 = [0, 1, 3, 0])) = true := by decide +kernel

theorem test_regionClear : after .regionClear (took (ask .regionClear (le2 3) [] .config) (withRegion 3 (region 11 1 1 0) config))
    (fun x => decide (x.mgmt.response.result = .done ∧ x.map.regions[3].valid = false)) = true := by decide +kernel

theorem test_pinRead : answers .pinRead (ask .pinRead (le2 31) [] .service) part .emptyEntry [] = true := by decide +kernel

theorem test_pinWrite : after .pinWrite (took (ask .pinWrite (le2 4 ++ le1 1 ++ le4 5 ++ le1 1 ++ le4 90) [] .config)
    (withRegion 0 (region 0 10 1 0) config)) (fun x =>
    decide (x.mgmt.response.result = .done ∧ x.map.pins[4] = ⟨true, 1, 5, 90⟩)) = true := by decide +kernel

theorem test_pinClear : answers .pinClear (ask .pinClear (le2 31) [] .service) part .wrongMode [] = true := by decide +kernel

theorem test_remapRead : after .remapRead (took (ask .remapRead (le2 0) [] .service)
    { part with map := { part.map with learned := [learnt 1 5 90] } }) (fun x =>
    decide (x.mgmt.response.result = .done ∧ x.mgmt.response.data.take 2 = [1, 0])) = true := by decide +kernel

theorem test_remapDelete : after .remapDelete (took (ask .remapDelete (le2 0 ++ le1 1 ++ le4 5) [] .config)
    { config with map := { config.map with learned := [learnt 1 5 90, learnt 1 6 91] } }) (fun x =>
    decide (x.mgmt.response.result = .done ∧ x.map.learned = [learnt 1 6 91])) = true := by decide +kernel

theorem test_spareRead : after .spareRead (took (ask .spareRead (le1 1) [] .service) (withPool 1 70 16 part)) (fun x =>
    decide (x.mgmt.response.result = .done ∧ x.mgmt.response.data.take 10 = [1, 0, 70, 0, 0, 0, 16, 0, 0, 0] ∧
      x.mgmt.response.data.getLast? = some 1)) = true := by decide +kernel

theorem test_spareLoad : after .spareLoad (took (ask .spareLoad (le1 1) (le4 70 ++ le4 16) .config) config) (fun x =>
    decide (x.mgmt.response.result = .done ∧ (x.map.pools.get 1).remaining = 16 ∧ x.store.state = .dirty)) = true := by decide +kernel

theorem test_watchRead : after .watchRead (took (ask .watchRead (le2 0) [] .service) (watching [watched 1 5 2 false] part)) (fun x =>
    decide (x.mgmt.response.result = .done ∧ x.mgmt.response.data.take 2 = [1, 0])) = true := by decide +kernel

theorem test_watchClear : after .watchClear (took (ask .watchClear (le1 1) [] .service)
    (watching [watched 1 5 2 false, watched 1 6 2 true] part)) (fun x =>
    decide (x.mgmt.response.data = [1] ∧ x.health.watch = [watched 1 6 2 true])) = true := by decide +kernel

theorem test_unitMode : after .unitMode (took (ask .unitMode [1, 1] [] .service) (port 1 .ready part)) (fun x =>
    decide (x.mgmt.response.result = .done ∧ (x.port 1).state = .readOnly)) = true := by decide +kernel

theorem test_unitMode_offline : after .unitMode (took (ask .unitMode [1, 2] [] .service) (port 1 .ready part)) (fun x =>
    decide (x.mgmt.response.result = .done ∧ (x.port 1).state = .offline)) = true := by decide +kernel

theorem test_unitInfo : after .unitInfo (took (ask .unitInfo [1] [] .service) (port 1 .ready part)) (fun x =>
    decide (x.mgmt.response.result = .done ∧ x.mgmt.response.data.take 4 = [2, 0, 1, 0xA0])) = true := by decide +kernel

theorem test_save : answers .save (ask .save [] [] .service) part .unitUnavailable [] = true := by decide +kernel

theorem test_scanStart : after .scanStart (took (ask .scanStart [0] [] .service) part) (fun x =>
    decide (x.mgmt.response.result = .done ∧ x.scan.state = .suspended)) = true := by decide +kernel

theorem test_scanAbort : answers .scanAbort (ask .scanAbort [] [] .service) part .done [] = true := by decide +kernel

theorem test_scanLogRead : answers .scanLogRead (ask .scanLogRead (le2 0) [] .service) part .emptyEntry [0] = true := by decide +kernel

theorem test_logRead : answers .logRead (ask .logRead (le2 8) [] .service) part .emptyEntry [0, 0, 0, 0] = true := by decide +kernel

theorem test_countersRead : answers .countersRead (ask .countersRead [3, 0] [] .service)
    { part with counters := { part.counters with link := ⟨1, 2, 3, 4, 5⟩ } } .done
    [1, 0, 0, 0, 2, 0, 0, 0, 3, 0, 0, 0, 4, 0, 0, 0, 5, 0, 0, 0] = true := by decide +kernel

theorem test_guardSetUser : after .guardSetUser (took (ask .guardSetUser [0, 1] (List.replicate 32 9) .service) part) (fun x =>
    decide (x.mgmt.response.result = .done ∧ x.guard.userCode = some (List.replicate 32 9) ∧ x.guard.level = .strict ∧
      x.guard.state = .opened)) = true := by decide +kernel

theorem test_guardSetRecovery : after .guardSetRecovery (took (ask .guardSetRecovery [1] (List.replicate 32 9) .service) part)
    (fun x => decide (x.mgmt.response.result = .done ∧ x.guard.recoveryCode = List.replicate 32 9)) = true := by decide +kernel

theorem test_guardUnlock : after .guardUnlock (took (ask .guardUnlock [1] (zeros 32) .service) lockedGuard) (fun x =>
    decide (x.mgmt.response.result = .done ∧ x.guard.state = .opened)) = true := by decide +kernel

theorem test_guardUnlock_mismatch : after .guardUnlock (took (ask .guardUnlock [0] (zeros 32) .service) lockedGuard) (fun x =>
    decide (x.mgmt.response.result = .codeMismatch ∧ x.guard.failed = 1)) = true := by decide +kernel

theorem test_guardDisable : after .guardDisable (took (ask .guardDisable [1] (zeros 32) .service) openGuard) (fun x =>
    decide (x.mgmt.response.result = .done ∧ x.guard.state = .disabled)) = true := by decide +kernel

theorem test_erasePrepare : after .erasePrepare (took (ask .erasePrepare [] [] .service) part) (fun x =>
    decide (x.mgmt.response.result = .done ∧ x.guard.prepared = true)) = true := by decide +kernel

theorem test_eraseGuarded : after .eraseGuarded (took (ask .eraseGuarded [1] (zeros 32) .service) part) (fun x =>
    decide (x.mgmt.response.result = .sequenceBroken)) = true := by decide +kernel

theorem test_eraseGuarded_starts : after .eraseGuarded
    (took { ask .eraseGuarded [1] (zeros 32) .service with prepared := true } (port 0 .ready part)) (fun x =>
    decide (x.mgmt.response.result = .done ∧ x.guard.state = .erasing ∧ x.store.saveAsked = true)) = true := by decide +kernel

theorem test_freeze : after .freeze (took (ask .freeze [] [] .service) part) (fun x =>
    decide (x.mgmt.response.result = .done ∧ x.guard.frozen = true)) = true := by decide +kernel

/-! ### One step of each other command -/

/-- The part with 64 blocks of region 0 on unit 1, READY. -/
def served : State := withRegion 0 (region 0 64 1 0) (port 1 .ready part)

/-- A segment of region 0, at an offset of its request. -/
def seg (id count off : Nat) (phase : SegPhase) : Segment :=
  { id := id, unit := 1, home := 5 + off, first := 5 + off, count := count, off := off, phase := phase,
    buffers := if phase = .filling ∨ phase = .sending then count else 0, data := [], timer := .stopped, retried := false,
    pendingBlock := false, fallback := false, repair := none }

/-- A request of stream 0 for blocks of region 0 from LBA 5 on. -/
def req (id : Nat) (tag : Fin 32) (kind : ReqKind) (len : Nat) (state : ReqState) (segs : List Segment) : Request :=
  { id := id, tag := tag, stream := 0, kind := kind, lba := 5, len := len, region := some 0,
    home := some ⟨1, 5, (len + 511) / 512⟩, verifyAfter := false, state := state, cursor := if segs = [] then 0 else (len + 511) / 512,
    segs := segs, first := none, recovered := false, cancelled := false, passed := true, orphan := false, completed := [],
    record := ⟨id, .host kind 0 tag 5 len ⟨some 8, 0⟩⟩ }

/-- The part with live requests, their tags in use. -/
def listing (l : List Request) (s : State) : State :=
  { s with
    engine := { items := l.map Item.host, freeBuffers := 128 - (l.map fun r => heldBy r.segs).sum }
    link := { s.link with tags := l.foldl (fun t r => t.set r.tag .request) s.link.tags }
    nextId := 100 }

/-- The part with an operation outstanding in slot 0 of a port. -/
def outstanding (u : Fin 4) (kind : OpKind) (first count : Nat) (owner : Owner) (s : State) : State :=
  { s with ports := s.ports.set u { s.port u with
      slots := (Four.all none).set 0 (some (s.sentNow (mkOp kind first count owner 50 []))) } }

/-- The part with every slot of port 1 taken by an operation that no block waits for. -/
def slotsTaken (s : State) : State :=
  { s with ports := s.ports.set 1 { s.port 1 with
      slots := Four.all (some (s.sentNow (mkOp .verify 0 1 (.segment 90 90) 50 []))) } }

theorem test_request : after (.request (requestFrame 1 3 0 5 512)) served (fun x =>
    decide (x.link.tags[3] = .request ∧ x.engine.items.length = 1 ∧ x.counters.streams[0].refused = 0)) = true := by decide +kernel

theorem test_request_noRegion : after (.request (requestFrame 1 3 0 64 512)) served (fun x =>
    decide (x.link.sent = [.completion 3 .noRegion 512 none false false] ∧ x.link.tags[3] = .free)) = true := by decide +kernel

theorem test_writeData : after (.writeData (LinkFrame.writeData ⟨3, 0, [9]⟩).bytes)
    (listing [req 1 3 .write 1 .running [seg 2 1 0 .filling]] served) (fun x =>
    decide ((x.request? 1).map (fun r => r.segs.map fun g => g.phase) = some [.issued] ∧
      (x.port 1).sent = [⟨0, .write, 5, 1, [9 :: zeros 511]⟩])) = true := by decide +kernel

theorem test_cancel : after (.cancel cancelFrame) part (fun x => decide (x.counters.link.unknownCancels = 1)) = true := by decide +kernel

theorem test_cancel_held : after (.cancel cancelFrame) (listing [req 1 3 .write 512 .held []] served) (fun x =>
    decide (x.link.sent = [.completion 3 .cancelled 512 none false false] ∧ x.engine.items = [])) = true := by decide +kernel

theorem test_linkReset : after (.linkReset linkResetFrame) (listing [req 1 3 .write 512 .held []] served) (fun x =>
    decide (x.link = part.link ∧ x.engine.items = [])) = true := by decide +kernel

/-- The part with a W0 write of tag 2 that waits for its data. -/
def windowOpen (s : State) : State :=
  { s with
    link := { s.link with tags := s.link.tags.set 2 .window }
    mgmt := { s.mgmt with windows := [⟨2, 0, .running 0 200⟩] } }

theorem test_windowDataTimeout : after (.windowDataTimeout 2) (windowOpen part) (fun x =>
    decide (x.link.sent = [.completion 2 .dataLate 512 none false false] ∧ x.mgmt.windows = [])) = true := by decide +kernel

theorem test_dataTimeout : after (.dataTimeout 3 0)
    (listing [{ req 1 3 .write 512 .running [{ seg 2 1 0 .filling with timer := .running 0 200 }] with cursor := 1 }] served) (fun x =>
    decide (x.link.sent = [.completion 3 .dataLate 512 none false false] ∧ x.engine.freeBuffers = 128)) = true := by decide +kernel

theorem test_bufferClaimGrant : after .bufferClaimGrant (listing [req 1 3 .write 512 .running [seg 2 1 0 .claim]] served) (fun x =>
    decide (x.link.sent = [.dataRequest 3 0 1] ∧ x.engine.freeBuffers = 127)) = true := by decide +kernel

theorem test_holdCleared : after .holdCleared (listing [req 1 3 .read 512 .held []] served) (fun x =>
    decide ((x.request? 1).map (fun r => (r.state, r.segs.map fun g => g.phase)) = some (.running, [.claim]))) = true := by decide +kernel

theorem test_syncComplete : after .syncComplete (listing [{ req 1 3 .sync 0 .held [] with home := none }] served) (fun x =>
    decide (x.link.sent = [.completion 3 .ok 0 none false false] ∧ x.engine.items = [])) = true := by decide +kernel

theorem test_queuePlaceFree : after (.queuePlaceFree 1) (listing [req 1 3 .verify 512 .running [seg 2 1 0 .place]] served) (fun x =>
    decide ((x.port 1).sent = [⟨0, .verify, 5, 1, []⟩])) = true := by decide +kernel

theorem test_pendingWriteRedirect : after .pendingWriteRedirect
    (withPool 1 70 16 (listing [req 1 3 .write 1 .running [{ seg 2 1 0 (.redirect 0) with buffers := 1, data := [(0, [9])] }]] served))
    (fun x => decide ((x.port 1).sent = [⟨0, .write, 70, 1, [[9]]⟩] ∧ (x.map.pools.get 1).remaining = 15)) = true := by decide +kernel

theorem test_unitPresentAsserted : after (.unitPresentAsserted 1) part (fun x =>
    decide ((x.port 1).state = .attaching ∧ (x.port 1).sent = [⟨0, .unitReset, 0, 0, []⟩])) = true := by decide +kernel

theorem test_unitPresentReleased : after (.unitPresentReleased 1) (port 1 .ready part) (fun x =>
    decide ((x.port 1).state = .absent ∧ (x.port 1).capacity = none)) = true := by decide +kernel

theorem test_unitFaultLineChange : after (.unitFaultLineChange 1 true) (port 1 .ready part) (fun x =>
    decide ((x.port 1).state = .readOnly ∧ x.mgmt.events = 0x80)) = true := by decide +kernel

/-- What DATA of a unit does, from the frame as it is read. -/
theorem unitData_read (u : Fin 4) (frame : List Byte) (slot : Fin 4) (offset : Nat) (block : Block) (s : State)
    (h : UnitFrame.parse frame = some (.data slot offset block)) : s.unitDataFrame u frame = s.takeData u slot offset block := by
  simp [State.unitDataFrame, h]

theorem test_unitData : ((outstanding 1 .read 5 2 (.segment 1 2) part).unitDataFrame 1 dataFrame.bytes).ports =
    ((outstanding 1 .read 5 2 (.segment 1 2) part).takeData 1 0 1 (zeros 512)).ports ∧
    ((((outstanding 1 .read 5 2 (.segment 1 2) part).takeData 1 0 1 (zeros 512)).port 1).slots.get 0).map (fun o => o.arrived.map Prod.fst)
      = some [1] :=
  ⟨by rw [unitData_read 1 _ 0 1 (zeros 512) _ parse_dataFrame], by decide +kernel⟩

theorem test_result : after (.result 1 (resultFrame 0 2 0 0)) (outstanding 1 .write 5 1 (.segment 1 2)
    (listing [req 1 3 .write 512 .running [seg 2 1 0 .issued]] served)) (fun x =>
    decide (x.link.sent = [.completion 3 .ok 0 none false false] ∧ x.counters.streams[0].completed = 1)) = true := by decide +kernel

theorem test_result_writeFault : after (.result 1 (resultFrame 0 2 2 5)) (outstanding 1 .write 5 1 (.segment 1 2)
    (listing [req 1 3 .write 512 .running [seg 2 1 0 .issued]] served)) (fun x =>
    decide ((x.port 1).writeFaults = 1 ∧ x.health.watch.length = 1 ∧
      x.link.sent = [.completion 3 .mediaError 512 (some 5) false true])) = true := by decide +kernel

theorem test_unitTimeout : after (.unitTimeout 1 0) (outstanding 1 .write 5 1 (.segment 1 2)
    (listing [req 1 3 .write 512 .running [seg 2 1 0 .issued]] served)) (fun x =>
    decide ((x.port 1).state = .attaching ∧ (x.request? 1).map (fun r => r.segs.map fun g => g.phase) = some [.retry])) = true := by
  decide +kernel

theorem test_partReset : after (.partReset .resetLine) part (fun x =>
    decide (x.inReset = true ∧ x.modes.mode = .startup ∧ x.store.cause = .resetLine)) = true := by decide +kernel

theorem test_resetLineReleased : after .resetLineReleased State.reset (fun x =>
    decide (x.inReset = false ∧ x.modes.mode = .config ∧ x.guard.state = .disabled ∧ x.store.startCount = 1)) = true := by decide +kernel

theorem test_agingExpiry : after .agingExpiry (watching [{ watched 1 5 1 false with age := 3 }, watched 1 6 2 false]
    { part with health := { part.health with aging := .running 0 3600000 } }) (fun x =>
    decide (x.health.watch = [{ watched 1 6 2 false with age := 1 }])) = true := by decide +kernel

theorem test_quietTimerExpiry : after .quietTimerExpiry { part with scan := { part.scan with quietTimer := .running 0 2000 } } (fun x =>
    decide (x.scan.quiet = true)) = true := by decide +kernel

theorem test_idleTimerExpiry : after .idleTimerExpiry { part with modes := { part.modes with idle := .running 0 5000 } } (fun x =>
    decide (x.modes.mode = .enteringStandby ∧ x.modes.phase = .poweringDown)) = true := by decide +kernel

/-- The part with a due entry in the watch list, a quiet flag, and spares. -/
def relocatable : State :=
  withPool 1 70 16 (watching [watched 1 5 8 false] { served with scan := { served.scan with quiet := true } })

theorem test_relocationStart : after .relocationStart relocatable (fun x =>
    decide (x.engine.items.length = 1 ∧ x.health.slot0.map (fun r => r.spare) = some (some 70))) = true := by decide +kernel

/-- The part with a DIRTY store on a READY unit 0. -/
def dirty : State := { port 0 .ready part with store := { part.store with state := .dirty } }

theorem test_takeSave : after .takeSave dirty (fun x =>
    decide (x.store.state = .saving ∧ ((x.port 0).sent.map fun o => (o.kind, o.first)) = [(.write, 1)])) = true := by decide +kernel

/-- The part as it drains toward CONFIG. -/
def draining : State := { part with modes := { part.modes with mode := .draining, drain := .config, waiting := some .config } }

theorem test_drainEnd : after .drainEnd (took { ask .setMode [1] [] .service with decided := true } draining) (fun x =>
    decide (x.modes.mode = .config ∧ x.mgmt.response.result = .done ∧ x.mgmt.response.data = [1])) = true := by decide +kernel

/-- The part in the powering-down phase. -/
def poweringDown : State := { part with modes := { part.modes with mode := .enteringStandby, phase := .poweringDown } }

/-- A port with POWER_DOWN placed. -/
def powerDownPlaced (s : State) : State :=
  { s with ports := s.ports.set 1 { s.port 1 with attachPlace := some (mkOp .powerDown 0 0 .port 60 []) } }

theorem test_powerDown : after (.powerDown 1) (powerDownPlaced (port 1 .ready poweringDown)) (fun x =>
    decide ((x.port 1).sent = [⟨0, .powerDown, 0, 0, []⟩])) = true := by decide +kernel

theorem test_poweringDownComplete : after .poweringDownComplete poweringDown (fun x =>
    decide (x.modes.mode = .standby ∧ x.mgmt.events = 0x800)) = true := by decide +kernel

theorem test_wakeSettled : after .wakeSettled (inMode .waking part) (fun x => decide (x.modes.mode = .service)) = true := by decide +kernel

/-- An erase that waits to begin its walk, of a guarded region 0. -/
def erasing : State :=
  guarded (fun g => { g with
    state := .erasing
    erase := some { phase := .waiting, index := 0, offset := 0, write := none, tried := 0, erased := 0, unerased := 0,
                    firstUnerased := none } })
    (withRegion 0 { region 0 64 1 0 with guarded := true } served)

theorem test_eraseWaitEnd : after .eraseWaitEnd erasing (fun x =>
    decide ((x.port 1).sent.map (fun o => (o.kind, o.first, o.count)) = [(.write, 0, 32)] ∧ x.guard.inPhase .writing = true)) = true := by
  decide +kernel

theorem test_readDataSent : after (.readDataSent 3 0)
    (listing [req 1 3 .read 2 .running [{ seg 2 1 0 .sending with data := [(0, [7, 8, 9])] }]] served) (fun x =>
    decide (x.link.sent = [.readData 3 0 [7, 8], .completion 3 .ok 0 none false false])) = true := by decide +kernel

/-- The block of a window read has been sent: the COMPLETION follows, with ATTENTION for a flag that has risen since (R144). -/
theorem test_readDataSent_window : after (.readDataSent 4 0)
    { part with
      link := { part.link with tags := part.link.tags.set 4 .window }
      mgmt := { part.mgmt with reads := [⟨4, 0⟩], events := 1 } } (fun x =>
    decide (x.link.sent = [.completion 4 .ok 0 none false true] ∧ x.link.tags[4] = .free ∧ x.mgmt.reads = [])) = true := by decide +kernel

/-! ### The hypotheses of the statements can be met, clause by clause -/

theorem test_witness_StepRunsTheFrontCommand :
    ({ part with pending := [.freeze, .identify] } : State).pending = .freeze :: [.identify] ∧ part.pending = [] ∧
    part.inReset = false ∧ State.reset.pending = [] ∧ State.reset.inReset = true := ⟨rfl, rfl, rfl, rfl, rfl⟩

theorem test_witness_EveryCommandAnswersANextState : part.todo = [] := rfl

theorem test_witness_EveryStepKeepsTheStateLawful :
    part.Lawful ∧ step part = .next part.tick ∧ { guarded (fun g => { g with failed := 5 }) part with
      health := { part.health with watch := List.replicate 64 (watched 1 5 2 false) } }.Lawful :=
  ⟨lawful_of_test (by decide +kernel), rfl, lawful_of_test (by decide +kernel)⟩

/-- A pool of 65 535 spares and a watch entry. -/
theorem test_witness_EveryCommandKeepsTheLoadedLaws :
    let s := withPool 1 70 65535 (watching [watched 1 5 2 false] part)
    (∀ e, Instr.freeze ≠ .partReset e) ∧ Instr.freeze ≠ .resetLineReleased ∧ s.Sound ∧ ∃ t, exec .freeze s = .next t := by
  have k : ∀ u : Fin 4, let p := (withPool 1 70 65535 (watching [watched 1 5 2 false] part)).map.pools.get u
      p.remaining + p.consumed + p.discarded = p.loaded ∧ p.loaded ≤ 65535 ∧ p.issued.length ≤ p.consumed ∧
      ∀ x ∈ p.extents, 1 ≤ x.count := by decide +kernel
  exact ⟨fun _ => nofun, nofun,
    ⟨rfl, by decide +kernel, by decide +kernel, fun u => ⟨(k u).1, (k u).2.1, (k u).2.2.1, (k u).2.2.2⟩⟩, _, rfl⟩

/-- The fields of a REQUEST frame of stream 0. -/
def fields (kind : Byte) (tag : Fin 32) (lba len : Word) : RequestFields :=
  { kind := kind, tag := tag, stream := 0, lba := lba, len := len }

/-- The frame of these fields. -/
def frameOf (f : RequestFields) : List Byte := (LinkFrame.request f).bytes

/-- A SYNC that is admitted; FREEZE and a CANCEL; a LINK RESET with a READ of tag 31 running. -/
theorem test_witness_EveryAdmissionGetsOneCompletion :
    let s := listing [req 1 31 .write 512 .running [seg 2 1 0 .issued]] served
    (part.Arrives (requestFrame 4 0 0 0 0) (fields 4 0 0 0) .sync ∧ ∃ t, exec (.request (requestFrame 4 0 0 0 0)) part = .next t) ∧
    (part.Lawful ∧ (∀ f, Instr.cancel cancelFrame ≠ .request f) ∧ (∀ f, Instr.cancel cancelFrame ≠ .linkReset f) ∧
      (∀ e, Instr.cancel cancelFrame ≠ .partReset e) ∧ Instr.cancel cancelFrame ≠ .resetLineReleased ∧
      ∃ t, exec (.cancel cancelFrame) part = .next t) ∧
    (s.Running ∧ s.Lawful ∧ LinkFrame.parse linkResetFrame = some .linkReset ∧ ∃ t, exec (.linkReset linkResetFrame) s = .next t) :=
  ⟨⟨arrives_of (by decide +kernel) ⟨rfl, rfl⟩ (by decide +kernel), _, rfl⟩,
    ⟨lawful_of_test (by decide +kernel), fun _ => nofun, fun _ => nofun, fun _ => nofun, nofun, _, rfl⟩,
    ⟨rfl, rfl⟩, lawful_of_test (by decide +kernel), by decide +kernel, _, rfl⟩

theorem test_witness_NothingElseActsInReset :
    State.reset.inReset = true ∧ (∀ e, Instr.freeze ≠ .partReset e) ∧ Instr.freeze ≠ .resetLineReleased ∧
    (∀ u, Instr.freeze ≠ .unitPresentAsserted u ∧ Instr.freeze ≠ .unitPresentReleased u ∧
      ∀ l, Instr.freeze ≠ .unitFaultLineChange u l) :=
  ⟨rfl, fun _ => nofun, nofun, fun _ => ⟨nofun, nofun, fun _ => nofun⟩⟩

theorem test_witness_FramesReadBack :
    (LinkFrame.writeData ⟨31, 65535, [0]⟩).Sendable ∧ (LinkFrame.writeData ⟨0, 0, zeros 512⟩).Sendable ∧ LinkFrame.linkReset.Sendable ∧
    (UnitFrame.data 3 65535 (zeros 512)).Sendable ∧
    (UnitFrame.result ⟨0, 4, 0, 0, List.replicate 8 4294967295, 4294967296⟩).Sendable := by
  refine ⟨?_, ?_, trivial, ?_, ?_⟩ <;> simp [LinkFrame.Sendable, UnitFrame.Sendable]

/-- Region 15 valid, region 0 empty, and an index past the table. -/
theorem test_witness_RegionReadAnswersTheEntry :
    let s := withRegion 15 (region 8 4 2 64) part
    let t (i : Nat) := ask .regionRead (le2 i) [] .standby
    ((took (t 15) s).Awaits .regionRead (t 15) ∧ (t 15).p2 0 = 15 ∧ (took (t 15) s).map.regions[15].valid = true) ∧
    ((took (t 0) s).Awaits .regionRead (t 0) ∧ (t 0).p2 0 = 0 ∧ (took (t 0) s).map.regions[0].valid = false) ∧
    ((took (t 16) s).Awaits .regionRead (t 16) ∧ (t 16).p2 0 = 16) := by
  refine ⟨⟨awaits_took _ _ _ _ _ ⟨rfl, rfl⟩, ?_⟩, ⟨awaits_took _ _ _ _ _ ⟨rfl, rfl⟩, ?_⟩, awaits_took _ _ _ _ _ ⟨rfl, rfl⟩, ?_⟩ <;>
    decide +kernel

/-- IDENTIFY; pins, learned entries, pools, watch entries and log slots that hold something and that do not, at the ends of their tables
and beyond them. -/
theorem test_witness_ReadCommandsAnswerTheirTables :
    let e : LogEntry := ⟨.unitTimeout, 1, none, none, .service, ⟨some 8, 0⟩, none, []⟩
    let s : State := { watching [watched 1 5 2 false] part with
      map := { part.map with pins := part.map.pins.set 31 ⟨true, 1, 5, 90⟩, learned := [learnt 1 5 91] }
      log := part.log.write e }
    let t (c : Command) (i : Nat) := ask c (le2 i) [] .service
    (∀ c i, (took (t c i) s).Awaits c (t c i)) ∧
    ((t .pinRead 31).p2 0 = 31 ∧ s.map.pins[31].valid = true ∧ s.map.learnedOf 1 5 = some (0, learnt 1 5 91) ∧
      (t .pinRead 0).p2 0 = 0 ∧ s.map.pins[0].valid = false ∧ (t .pinRead 32).p2 0 = 32) ∧
    ((t .remapRead 0).p2 0 = 0 ∧ (t .remapRead 511).p2 0 = 511 ∧ (t .remapRead 512).p2 0 = 512 ∧
      s.map.learned[0]? = some (learnt 1 5 91) ∧ s.map.learned[511]? = none) ∧
    ((t .spareRead 3).p1 0 = (3 : Fin 4).val ∧ (t .spareRead 4).p1 0 = 4) ∧
    ((t .watchRead 0).p2 0 = 0 ∧ (t .watchRead 63).p2 0 = 63 ∧ (t .watchRead 64).p2 0 = 64 ∧
      s.health.watch[0]? = some (watched 1 5 2 false) ∧ s.health.watch[63]? = none) ∧
    ((t .logRead 0).p2 0 = 0 ∧ (t .logRead 1).p2 0 = 1 ∧ (t .logRead 8).p2 0 = 8 ∧ (t .logRead 9).p2 0 = 9 ∧
      s.log.slots[0] = some e ∧ s.log.slots[7] = none) :=
  ⟨fun _ _ => awaits_took _ _ _ _ _ ⟨rfl, rfl⟩, by decide +kernel⟩

/-- Good, low and exhausted pools, and a threshold of 0. -/
theorem test_witness_SpareHealthFollowsTheThreshold :
    (withPool 1 70 17 part).unitHealth 1 = .good ∧ (withPool 1 70 16 part).unitHealth 1 = .low ∧
    (withPool 1 70 1 part).unitHealth 1 = .low ∧ part.unitHealth 1 = .exhausted ∧
    ({ withPool 1 70 1 part with mgmt := { part.mgmt with params := { Params.defaults with lowSpare := 0 } } } : State).unitHealth 1
      = .good := by decide +kernel

theorem test_witness_UnitInfoAnswersThePort :
    let t (i : Nat) := ask .unitInfo (le1 i) [] .service
    (∀ i, (took (t i) part).Awaits .unitInfo (t i)) ∧ (t 3).p1 0 = (3 : Fin 4).val ∧ (t 4).p1 0 = 4 :=
  ⟨fun _ => awaits_took _ _ _ _ _ ⟨rfl, rfl⟩, by decide +kernel⟩

theorem test_witness_ScanLogReadAnswersByAge :
    let s : State := { part with scan := { part.scan with log := [⟨.patrol, none, .passed, 0, none, ⟨some 8, 0⟩⟩] } }
    let t (i : Nat) := ask .scanLogRead (le2 i) [] .service
    (∀ i, (took (t i) s).Awaits .scanLogRead (t i)) ∧ (t 0).p2 0 = 0 ∧ s.scan.log.length = 1 ∧ (t 1).p2 0 = 1 ∧ (t 15).p2 0 = 15 ∧
    (t 16).p2 0 = 16 :=
  ⟨fun _ => awaits_took _ _ _ _ _ ⟨rfl, rfl⟩, by decide +kernel⟩

theorem test_witness_CountersReadAnswersAndClears :
    let t (k i : Nat) := ask .countersRead (le1 k ++ le1 i) [] .service
    (∀ k i, (took (t k i) part).Awaits .countersRead (t k i)) ∧ (t 0 0).p1 0 = 0 ∧ (t 1 15).p1 0 = 1 ∧ (t 1 15).p1 1 = (15 : Fin 16).val ∧
    (t 2 3).p1 0 = 2 ∧ (t 2 3).p1 1 = (3 : Fin 4).val ∧ (t 3 0).p1 0 = 3 ∧ (t 4 0).p1 0 = 4 ∧ (t 1 16).p1 1 = 16 ∧ (t 2 4).p1 1 = 4 :=
  ⟨fun _ _ => awaits_took _ _ _ _ _ ⟨rfl, rfl⟩, by decide +kernel⟩

/-- A list in range (its highest promotion threshold), one with a value out of range, and two with an unknown number; a set of streams
without stream 0 and one with it. -/
theorem test_witness_ParametersAndStreamsAreReplaced :
    let t (n v : Nat) := ask .setParams [] (le4 n ++ le4 v) .service
    let l (n v : Nat) := changesOf (t n v).payload ((t n v).payloadLength / 8)
    let q (m : Nat) := ask .setStreams (le2 m) [] .service
    (∀ n v, (took (t n v) part).Awaits .setParams (t n v)) ∧ (∀ m, (took (q m) part).Awaits .setStreams (q m)) ∧
    (l 5 15 = [⟨5, 15⟩] ∧ paramInRange 5 15 = true) ∧ (l 5 16 = [⟨5, 16⟩] ∧ paramInRange 5 16 = false) ∧
    (∀ n ∈ [0, 13], l n 0 = [⟨n, 0⟩] ∧ ((l n 0).find? fun c => decide (c.number = 0 ∨ 12 < c.number)) = some ⟨n, 0⟩) ∧
    (BitVec.ofNat 16 ((q 0xFFFE).p2 0)).getLsbD (q 0xFFFE).stream.val = false ∧
    (BitVec.ofNat 16 ((q 1).p2 0)).getLsbD (q 1).stream.val = true :=
  ⟨fun _ _ => awaits_took _ _ _ _ _ ⟨rfl, rfl⟩, fun _ => awaits_took _ _ _ _ _ ⟨rfl, rfl⟩, by decide +kernel⟩

theorem test_witness_SetModeConfigDrains :
    let t := ask .setMode (le1 1) [] .service
    (∀ s : State, s.inReset = false ∧ s.todo = [] → (took t s).Awaits .setMode t) ∧ t.p1 0 = PartMode.config.code ∧
    (took t lockedGuard).guard.state = .locked ∧ (took t lockedGuard).modes.mode = .service ∧
    (took t config).guard.state = .disabled ∧ (took t config).modes.mode = .config ∧
    (took t (inMode .waking part)).modes.mode.resting = true ∧
    (took t part).guard.state = .disabled ∧ (took t part).modes.mode = .service :=
  ⟨fun _ h => awaits_took _ _ _ _ _ h, by decide +kernel⟩

/-- The part in a phase of standby entry. -/
def entering (p : StandbyPhase) (s : State) : State :=
  { s with modes := { s.modes with mode := .enteringStandby, phase := p } }

/-- A standby with unit 3 asleep, its port at rest. -/
def asleep : State := port 3 .sleeping (inMode .standby part)

theorem asleep_rests : ∀ u, (asleep.port u).state = .sleeping → (asleep.port u).desired ≠ .offline ∧ (asleep.port u).Rests := by
  have k : ∀ u, (asleep.port u).state = .sleeping → (asleep.port u).desired ≠ .offline ∧ restsTest (asleep.port u) = true := by
    decide +kernel
  exact fun u h => ⟨(k u h).1, rests_of_test (k u h).2⟩

/-- In CONFIG a validation that fails (two regions overlap) and one that passes; each standby mode; the targets that SET_MODE refuses or
finds reached; standby entered from SERVICE at rest and with a SYNC admitted. -/
theorem test_witness_SetModeServesOrRests :
    let t (m : PartMode) := ask .setMode (le1 m.code) [] .service
    let bad := withRegion 1 (region 0 1 1 0) (withRegion 0 (region 0 1 1 8) config)
    (∀ m, ∀ s : State, s.inReset = false ∧ s.todo = [] → (took (t m) s).Awaits .setMode (t m)) ∧
    ((t .service).p1 0 = PartMode.service.code ∧ (t .standby).p1 0 = PartMode.standby.code ∧
      (t .waking).p1 0 ≠ PartMode.config.code ∧ (t .waking).p1 0 ≠ PartMode.service.code ∧ (t .waking).p1 0 ≠ PartMode.standby.code) ∧
    (bad.modes.mode = .config ∧ bad.validate ≠ none) ∧
    (config.modes.mode = .config ∧ config.validate = none ∧ config.scan.context = none ∧ config.mgmt.params.autoPatrol = false) ∧
    ((entering .saving part).modes.mode = .enteringStandby ∧ (entering .saving part).modes.phase = .saving ∧
      (entering .poweringDown part).modes.phase = .poweringDown) ∧
    ((inMode .waking part).modes.mode = .waking ∧ asleep.modes.mode = .standby ∧ asleep.scan.context = none ∧
      asleep.store.save = none ∧ (asleep.port 3).state = .sleeping ∧
      ∀ u, (asleep.port u).state = .sleeping → (asleep.port u).desired ≠ .offline ∧ (asleep.port u).Rests) ∧
    ({ part with mgmt := { part.mgmt with params := { Params.defaults with standbyDisabled := true } } } : State).mgmt.params.standbyDisabled
      = true ∧
    (part.modes.mode = .service ∧ part.mgmt.params.standbyDisabled = false ∧ part.scan.context = none ∧ part.engine.items = [] ∧
      part.store.save = none ∧ (listing [req 1 3 .write 512 .held []] served).engine.items ≠ []) :=
  ⟨fun _ _ h => awaits_took _ _ _ _ _ h, by decide +kernel, by decide +kernel, by decide +kernel, by decide +kernel,
    ⟨rfl, rfl, rfl, rfl, rfl, asleep_rests⟩, rfl, by decide +kernel⟩

theorem test_witness_ResetPartDrainsOrAnswers :
    let t := ask .resetPart [] [] .service
    (∀ s : State, s.inReset = false ∧ s.todo = [] → (took t s).Awaits .resetPart t) ∧ config.modes.mode = .config ∧
    part.modes.mode = .service ∧
    ((entering .saving part).modes.phase = .saving ∧ (entering .saving part).scan.context = none ∧
      (entering .saving part).mgmt.params.autoPatrol = false) ∧
    (∀ m ∈ [PartMode.standby, .waking], (inMode m part).modes.mode = m ∧ (inMode m part).store.state ≠ .dirty ∧
      (inMode m dirty).store.state = .dirty ∧ ((inMode m dirty).port 0).state = .ready) ∧
    (entering .poweringDown dirty).modes.phase = .poweringDown :=
  ⟨fun _ h => awaits_took _ _ _ _ _ h, by decide +kernel⟩

/-- The part with a save under way. -/
def saving : State :=
  { port 0 .ready part with store := { part.store with
      state := .saving
      save := some { image := [], header := [], step := .first, stamp := none, command := none, firstOfErase := false,
                     lastOfErase := false, eraseDone := false } } }

theorem test_witness_SaveStartsOrAsksForASave :
    let t (m : PartMode) := ask .save [] [] m
    let absent : State := { port 0 .ready part with store := { part.store with state := .absent } }
    (∀ m, ∀ s : State, s.inReset = false ∧ s.todo = [] → (took (t m) s).Awaits .save (t m)) ∧ (t .standby).mode = .standby ∧
    ((t .config).mode = .config ∧ (took (t .config) absent).store.state = .absent) ∧
    ((took (t .service) part).store.state ≠ .absent ∧ ((took (t .service) part).port 0).state ≠ .ready) ∧
    ((took (t .service) saving).store.state ≠ .absent ∧ ((took (t .service) saving).port 0).state = .ready ∧
      (took (t .service) saving).store.save ≠ none) ∧
    ((took (t .service) dirty).store.state ≠ .absent ∧ ((took (t .service) dirty).port 0).state = .ready ∧
      (took (t .service) dirty).store.save = none) :=
  ⟨fun _ _ h => awaits_took _ _ _ _ _ h, by decide +kernel⟩

/-- A fresh scan context. -/
def context : ScanContext :=
  { kind := .patrol, unit := none, phase := .regions, index := 0, offset := 0, learnedPart := false, pass := 1, verified := 0, failures := 0,
    firstFailing := none, current := none, suspendRequested := false }

/-- The part with a scan. -/
def scanning (state : ScanState) (c : ScanContext) (s : State) : State :=
  { s with scan := { s.scan with state := state, context := some c } }

/-- The part with the quiet flag set. -/
def quiet (s : State) : State := { s with scan := { s.scan with quiet := true } }

/-- SCAN_START refused in each way; a PATROL over a scan under way; a PATROL and a CHECK that cut at once, and that find no coverage;
SCAN_ABORT of nothing and of a scan. -/
theorem test_witness_ScanCommandsStartAndEndScans :
    let t (k u : Nat) (m : PartMode) := ask .scanStart (le1 k ++ le1 u) [] m
    let a := ask .scanAbort [] [] .service
    let check : ScanContext := { context with kind := .checkFull, unit := some 1, pass := 0 }
    (∀ k u m, ∀ s : State, s.inReset = false ∧ s.todo = [] → (took (t k u m) s).Awaits .scanStart (t k u m)) ∧
    (∀ s : State, s.inReset = false ∧ s.todo = [] → (took a s).Awaits .scanAbort a) ∧
    ((t 0 0 .waking).mode = .waking ∧ (t 3 0 .config).mode = .config ∧ (t 3 0 .config).p1 0 = 3 ∧
      (t 1 4 .service).p1 0 = ScanKind.checkShort.code ∧ (t 1 4 .service).p1 1 = 4 ∧
      (t 2 3 .service).p1 0 = ScanKind.checkFull.code ∧ (t 2 3 .service).p1 1 = (3 : Fin 4).val ∧ (part.port 3).state.serves = false) ∧
    ((t 0 0 .service).p1 0 = ScanKind.patrol.code ∧ (scanning .running context part).scan.quiet = false ∧
      (scanning .running context part).scan.state ≠ .idle) ∧
    ((quiet served).scan.quiet = true ∧ served.modes.mode = .service ∧ served.scan.state = .idle ∧ (quiet served).scanBusy = false ∧
      ((quiet served).scanFind scanFuel context).2 = some ⟨1, 0, 32⟩ ∧ (served.port 1).attachPlace = none ∧
      (part.scanFind scanFuel context).2 = none) ∧
    ((t 2 1 .service).p1 1 = (1 : Fin 4).val ∧ (served.port 1).state.serves = true ∧
      (served.scanFind scanFuel check).2 = some ⟨1, 0, 32⟩ ∧ ((port 1 .ready part).scanFind scanFuel check).2 = none) ∧
    (part.scan.state = .idle ∧ (scanning .suspended context part).scan.state ≠ .idle ∧
      (scanning .suspended context part).scan.context = some context) ∧ (served.port 1).Rests :=
  ⟨fun _ _ _ _ h => awaits_took _ _ _ _ _ h, fun _ h => awaits_took _ _ _ _ _ h, by decide +kernel, by decide +kernel, by decide +kernel,
    by decide +kernel, by decide +kernel, rests_of_test (by decide +kernel)⟩

/-- A table command in a mode, and the parameters that each one refuses: at the ends of their ranges. -/
theorem test_witness_TableCommandsPassTheirStages :
    let t (c : Command) (p d : List Byte) := ask c p d .config
    let write (e : RegionEntry) := t .regionWrite (le2 15) (e.bytes 15)
    let load (l : List SpareExtent) := t .spareLoad (le1 3) (l.flatMap fun x => le4 x.first ++ le4 x.count)
    let held (l : List SpareExtent) := extentsOf (load l).payload ((load l).payloadLength / 8)
    (∀ (c : Command) (p d : List Byte) (m : PartMode) (s : State), s.inReset = false ∧ s.todo = [] →
      (took (ask c p d m) s).Awaits c (ask c p d m)) ∧
    ((ask .spareLoad [] [] .service).mode ≠ .config ∧ (t .spareLoad [] []).mode = .config ∧
      (guarded (fun g => { g with state := .locked }) config).guard.state = .locked ∧
      (guarded (fun g => { g with state := .erasing }) config).guard.state = .erasing ∧
      (guarded (fun g => { g with state := .eraseIncomplete }) config).guard.state = .eraseIncomplete ∧
      config.guard.state = .disabled ∧ openGuard.guard.state = .opened) ∧
    ((t .regionWrite (le2 16) []).p2 0 = 16 ∧ regionEntryOf (write (region 0 0 1 0)).payload = some (region 0 0 1 0) ∧
      regionEntryOf (write (region 4294967291 2 1 0)).payload = some (region 4294967291 2 1 0) ∧
      regionEntryOf (write (region 0 2 1 4294967295)).payload = some (region 0 2 1 4294967295)) ∧
    ((t .regionClear (le2 16) []).p2 0 = 16 ∧ (t .pinWrite (le2 32) []).p2 0 = 32 ∧
      (t .pinWrite (le2 0 ++ le1 4) []).p1 2 = 4 ∧ (t .pinWrite (le2 0 ++ le1 1 ++ le4 0 ++ le1 2) []).p1 7 ≠
        (t .pinWrite (le2 0 ++ le1 1 ++ le4 0 ++ le1 2) []).p1 2 ∧
      (t .pinClear (le2 32) []).p2 0 = 32 ∧ (t .remapDelete (le2 512) []).p2 0 = 512) ∧
    ((t .spareLoad (le1 4) []).p1 0 = 4 ∧ (held (List.replicate 9 ⟨0, 1⟩)).length = 9 ∧ held [⟨0, 0⟩] = [⟨0, 0⟩] ∧
      held [⟨4294967295, 2⟩] = [⟨4294967295, 2⟩] ∧ held [⟨0, 65535⟩, ⟨65535, 1⟩] = [⟨0, 65535⟩, ⟨65535, 1⟩]) :=
  ⟨fun _ _ _ _ _ h => awaits_took _ _ _ _ _ h, by decide +kernel, by decide +kernel, by decide +kernel, by decide +kernel⟩

/-- A write of region 15 that ends at the window and the last block of a unit, with no conflict, and one that overlaps region 0; a clear of
a valid entry and of an empty one. -/
theorem test_witness_RegionsAreWrittenAndCleared :
    let e := region 4294967291 1 3 4294967295
    let t := ask .regionWrite (le2 15) (e.bytes 15) .config
    let q (i : Nat) := ask .regionClear (le2 i) [] .config
    let s := withRegion 15 e config
    ((took t config).Awaits .regionWrite t ∧ t.mode = .config ∧ (took t config).guard.state = .disabled ∧ t.p2 0 = (15 : Fin 16).val ∧
      regionEntryOf t.payload = some e ∧ 1 ≤ e.count ∧ e.logical + e.count ≤ 4294967292 ∧ e.physical + e.count ≤ 4294967296 ∧
      (took t config).regionConflict 15 e = none) ∧
    (let s := took t (withRegion 0 e config)
     s.Awaits .regionWrite t ∧ s.regionConflict 15 e ≠ none) ∧
    (∀ i, (took (q i) s).Awaits .regionClear (q i)) ∧ (q 15).p2 0 = (15 : Fin 16).val ∧ (q 0).p2 0 = (0 : Fin 16).val ∧
    s.map.regions[15].valid = true ∧ s.map.regions[0].valid = false := by
  refine ⟨⟨awaits_took _ _ _ _ _ ⟨rfl, rfl⟩, ?_⟩, ⟨awaits_took _ _ _ _ _ ⟨rfl, rfl⟩, ?_⟩, fun _ => awaits_took _ _ _ _ _ ⟨rfl, rfl⟩, ?_⟩ <;>
    decide +kernel

/-- A pin of a mapped block, and one of a block that no region maps; a clear of a valid pin and of an empty entry. -/
theorem test_witness_PinsAreWrittenAndCleared :
    let s := withRegion 0 (region 0 10 1 0) (guarded (fun g => { g with state := .opened }) config)
    let t (source : Nat) := ask .pinWrite (le2 31 ++ le1 1 ++ le4 source ++ le1 1 ++ le4 4294967295) [] .config
    let e (source : Nat) : PinEntry := { valid := true, unit := 1, source := (t source).p4 3, target := (t source).p4 8 }
    let x : State := { s with map := { s.map with pins := s.map.pins.set 31 ⟨true, 1, 0, 90⟩ } }
    let q (i : Nat) := ask .pinClear (le2 i) [] .config
    (∀ a, (took (t a) s).Awaits .pinWrite (t a)) ∧ (∀ i, (took (q i) x).Awaits .pinClear (q i)) ∧
    ((t 5).mode = .config ∧ s.guard.state = .opened ∧ (t 5).p2 0 = (31 : Fin 32).val ∧ (t 5).p1 2 = (1 : Fin 4).val ∧
      (t 5).p1 7 = (1 : Fin 4).val ∧ firstConflict [(took (t 5) s).pinUnmapped (e 5), (took (t 5) s).pinConflict 31 (e 5)] = none ∧
      firstConflict [(took (t 10) s).pinUnmapped (e 10), (took (t 10) s).pinConflict 31 (e 10)] ≠ none) ∧
    ((q 31).p2 0 = (31 : Fin 32).val ∧ (q 0).p2 0 = (0 : Fin 32).val ∧ x.map.pins[31].valid = true ∧ x.map.pins[0].valid = false) :=
  ⟨fun _ => awaits_took _ _ _ _ _ ⟨rfl, rfl⟩, fun _ => awaits_took _ _ _ _ _ ⟨rfl, rfl⟩, by decide +kernel, by decide +kernel⟩

/-- The source at position 0, another source, a position beyond the entries, and positions 511 and 512. -/
theorem test_witness_RemapDeleteRemovesTheEntry :
    let s : State := { config with map := { config.map with learned := [learnt 1 5 90] } }
    let t (i source : Nat) := ask .remapDelete (le2 i ++ le1 1 ++ le4 source) [] .config
    (∀ i a, (took (t i a) s).Awaits .remapDelete (t i a)) ∧ (t 0 5).mode = .config ∧ s.guard.state = .disabled ∧ (t 0 5).p2 0 = 0 ∧
    s.map.learned[0]? = some (learnt 1 5 90) ∧ (t 0 5).p1 2 = (learnt 1 5 90).unit.val ∧ (t 0 5).p4 3 = 5 ∧ (t 0 6).p4 3 ≠ 5 ∧
    s.map.learned[511]? = none ∧ (t 511 5).p2 0 = 511 ∧ (t 512 5).p2 0 = 512 :=
  ⟨fun _ _ => awaits_took _ _ _ _ _ ⟨rfl, rfl⟩, by decide +kernel⟩

/-- Eight extents without a conflict, up to the last block of the unit and 65 535 spares; and a pool with a spare issued. -/
theorem test_witness_SpareLoadReplacesThePool :
    let l : List SpareExtent := [⟨0, 1⟩, ⟨2, 1⟩, ⟨4, 1⟩, ⟨6, 1⟩, ⟨8, 1⟩, ⟨10, 1⟩, ⟨12, 1⟩, ⟨4294901768, 65528⟩]
    let t := ask .spareLoad (le1 3) (l.flatMap fun x => le4 x.first ++ le4 x.count) .config
    let issued : State := { config with map := { config.map with
      pools := config.map.pools.set 3 { Pool.empty with issued := [⟨70, 5, true⟩], loaded := 1 } } }
    (∀ s : State, s.inReset = false ∧ s.todo = [] → (took t s).Awaits .spareLoad t) ∧ t.mode = .config ∧ config.guard.state = .disabled ∧
    t.p1 0 = (3 : Fin 4).val ∧ extentsOf t.payload (t.payloadLength / 8) = l ∧ l.length ≤ 8 ∧
    (∀ x ∈ l, 1 ≤ x.count ∧ x.first + x.count ≤ 4294967296) ∧ (l.map fun x => x.count).sum ≤ 65535 ∧
    firstConflict [(took t config).map.spareOutstanding 3, (took t config).extentConflict 3 (checkedExtents 0 l)] = none ∧
    firstConflict [(took t issued).map.spareOutstanding 3, (took t issued).extentConflict 3 (checkedExtents 0 l)] ≠ none :=
  ⟨fun _ h => awaits_took _ _ _ _ _ h, by decide +kernel⟩

/-- ALL; another selector and position 64; of one position: an entry of the expected block, no entry at position 63, another block, and a
block in relocation. -/
theorem test_witness_WatchClearRemovesEntries :
    let s := watching [watched 1 5 2 false] part
    let t (all i : Nat) := ask .watchClear (le1 all ++ le2 i ++ le1 1 ++ le4 5) [] .service
    let r : Relocation := { item := 1, block := 5, home := 5, unit := 1, resolution := .direct, spare := some 70, tried := 1,
                            retried := false, step := .buffer, wait := .port, data := [] }
    (∀ all i, (took (t all i) s).Awaits .watchClear (t all i)) ∧ (t 1 0).p1 0 = 1 ∧ (t 2 0).p1 0 = 2 ∧ (t 0 64).p1 0 = 0 ∧
    64 ≤ (t 0 64).p2 1 ∧ (t 0 63).p2 1 = 63 ∧ s.health.watch[63]? = none ∧ (t 0 0).p2 1 = 0 ∧
    s.health.watch[0]? = some (watched 1 5 2 false) ∧ (watched 1 5 2 false).block.unit.val = (t 0 0).p1 3 ∧
    (watched 1 5 2 false).block.block = (t 0 0).p4 4 ∧ (watched 1 6 2 false).block.block ≠ (t 0 0).p4 4 ∧
    s.health.inRelocation (watched 1 5 2 false).block = false ∧
    ({ s.health with slot0 := some r } : HealthMonitor).inRelocation (watched 1 5 2 false).block = true :=
  ⟨fun _ _ => awaits_took _ _ _ _ _ ⟨rfl, rfl⟩, by decide +kernel⟩

/-- With one region valid no two share a block; a region entry, a list of extents, and tables whose regions and extents hold a block. -/
theorem test_witness_TablesAreLookedUpAndChecked :
    let s := withPool 1 70 16 served
    let m := s.map
    (∀ i j : Fin 16, i ≠ j → m.regions[i].valid = true → m.regions[j].valid = true →
      ¬ Meet m.regions[i].logical m.regions[i].count m.regions[j].logical m.regions[j].count) ∧
    (∀ i j : Fin 16, i ≠ j → m.regions[i].valid = true → m.regions[j].valid = true → m.regions[i].unit = m.regions[j].unit →
      ¬ Meet m.regions[i].physical m.regions[i].count m.regions[j].physical m.regions[j].count) ∧
    m.regionLookup 63 1 = some 0 ∧ m.lbaOf 1 63 = some 63 ∧ 1 ≤ (region 0 1 1 0).count ∧
    (∀ x ∈ [(⟨70, 1⟩ : SpareExtent)], 1 ≤ x.count) ∧ s.Counted := by
  have k : ∀ i j : Fin 16, i ≠ j → (withPool 1 70 16 served).map.regions[i].valid = true →
      (withPool 1 70 16 served).map.regions[j].valid = true → False := by decide +kernel
  exact ⟨fun i j h a b => (k i j h a b).elim, fun i j h a b _ => (k i j h a b).elim, by decide +kernel, by decide +kernel,
    by decide, by decide, by decide +kernel, by decide +kernel⟩

/-- A loaded pool keeps lawful tables lawful. -/
theorem pooled_lawful : (withPool 1 70 16 part).map.Lawful :=
  Laws.load_lawful (s := part) Laws.reset_lawful 1 [⟨70, 16⟩] (by decide) (by decide +kernel)

/-- One of the six commands on lawful tables; a claim of the unit's pool, and an install of the spare it issued. -/
theorem test_witness_TheTableLawsAreKept :
    let s := withPool 1 70 16 part
    let x := (s.claim 1 5).2
    (Instr.regionClear ∈ [Instr.regionWrite, .regionClear, .pinWrite, .pinClear, .remapDelete, .spareLoad] ∧ config.Running ∧
      config.map.Lawful ∧ ∃ t, exec .regionClear config = .next t) ∧
    (s.map.Lawful ∧ ∀ y ∈ (s.map.pools.get 1).extents, 1 ≤ y.count) ∧
    (x.map.Lawful ∧ (x.map.pools.get 1).isIssued 70 = true ∧ x.map.sparesAt 1 5 + x.map.targetsAt 1 5 = 0) :=
  ⟨⟨.tail _ (.head _), ⟨rfl, rfl⟩, Laws.reset_lawful, _, rfl⟩, ⟨pooled_lawful, by decide +kernel⟩,
    Laws.claim_lawful pooled_lawful 1 5 (by decide +kernel), by decide +kernel, by decide +kernel⟩

/-- A pinned block; an empty pool; 512 learned entries; a returned block, an extent, and the last block of one. -/
theorem test_witness_SpareClaimsIssueInListOrder :
    let s := withPool 1 70 1 part
    let full : State := { s with map := { s.map with learned := List.replicate 512 (learnt 1 6 91) } }
    let pinned : State := { s with map := { s.map with pins := s.map.pins.set 31 ⟨true, 1, 5, 90⟩ } }
    let returned : State := { s with map := { s.map with pools := s.map.pools.set 1 { Pool.empty with returned := [77] } } }
    (∃ j : Fin 32, pinned.map.pins[j].valid = true ∧ pinned.map.pins[j].unit = 1 ∧ pinned.map.pins[j].source = 5) ∧
    (¬ ∃ j : Fin 32, s.map.pins[j].valid = true ∧ s.map.pins[j].unit = 1 ∧ s.map.pins[j].source = 5) ∧
    ((part.map.pools.get 1).returned = [] ∧ (part.map.pools.get 1).extents = []) ∧
    (¬ (∃ e ∈ full.map.learned, e.unit = 1 ∧ e.source = 5) ∧ 512 ≤ full.map.learned.length + full.map.reserved) ∧
    ((∃ e ∈ full.map.learned, e.unit = 1 ∧ e.source = 6)) ∧
    ((s.map.pools.get 1).returned = [] ∧ (s.map.pools.get 1).extents = [⟨70, 1⟩] ∧ ¬ 512 ≤ s.map.learned.length + s.map.reserved) ∧
    (returned.map.pools.get 1).returned = [77] := by
  refine ⟨⟨31, ?_⟩, ?_, ?_, ?_, ?_, ?_, ?_⟩ <;> decide +kernel

/-- An issued spare, for a block without a learned entry and for one with an entry. -/
theorem test_witness_ClaimsEndInReturnDiscardOrInstall :
    let x := ((withPool 1 70 16 part).claim 1 5).2
    let y : State := { x with map := { x.map with learned := [learnt 1 4 90, learnt 1 5 91] } }
    (x.map.pools.get 1).isIssued 70 = true ∧ (∀ e ∈ x.map.learned, ¬ (e.unit = 1 ∧ e.source = 5)) ∧
    ((y.map.pools.get 1).isIssued 70 = true ∧ y.map.learned = [learnt 1 4 90] ++ learnt 1 5 91 :: [] ∧ (learnt 1 5 91).unit = 1 ∧
      (learnt 1 5 91).source = 5 ∧ ∀ e ∈ [learnt 1 4 90], ¬ (e.unit = 1 ∧ e.source = 5)) := by decide +kernel

/-- A learned source; a watched block; a block that is new to a list with a place; full lists without and with a candidate. -/
theorem test_witness_ReportsScoreTheWatchList :
    let l (first : WatchEntry) (pending : Bool) := first :: (List.range 63).map fun n => watched 1 (100 + n) 2 pending
    let all := watching (l (watched 1 99 15 true) true) part
    let one := watching (l (watched 1 99 1 false) false) part
    let x : State := { part with map := { part.map with learned := [learnt 1 5 90] } }
    ((x.health.watch.map fun e => e.block).Nodup ∧ (x.map.learnedOf 1 5).isSome = true) ∧
    (((watching [watched 1 5 2 false] part).health.watch.map fun e => e.block).Nodup ∧
      (watching [watched 1 5 2 false] part).health.watch = [] ++ watched 1 5 2 false :: [] ∧ part.map.learnedOf 1 5 = none) ∧
    ((∀ e ∈ part.health.watch, e.block ≠ ⟨1, 5⟩) ∧ part.health.watch.length < 64) ∧
    ((all.health.watch.map fun e => e.block).Nodup ∧ 64 ≤ all.health.watch.length ∧ (∀ e ∈ all.health.watch, e.block ≠ ⟨1, 5⟩) ∧
      ∀ e ∈ all.health.watch, ¬ (e.pending = false ∧ all.health.inRelocation e.block = false)) ∧
    ((one.health.watch.map fun e => e.block).Nodup ∧ 64 ≤ one.health.watch.length ∧ (∀ e ∈ one.health.watch, e.block ≠ ⟨1, 5⟩) ∧
      one.health.watch = [] ++ watched 1 99 1 false :: (List.range 63).map (fun n => watched 1 (100 + n) 2 false) ∧
      ((watched 1 99 1 false).pending = false ∧ one.health.inRelocation (watched 1 99 1 false).block = false) ∧
      ∀ y ∈ (List.range 63).map (fun n => watched 1 (100 + n) 2 false), (y.pending = false ∧ one.health.inRelocation y.block = false) →
        (watched 1 99 1 false).score < y.score ∨ ((watched 1 99 1 false).score = y.score ∧ y.age ≤ (watched 1 99 1 false).age)) := by
  decide +kernel

/-- A pending pin target that becomes due; a pending entry that stays below the threshold. -/
theorem test_witness_GoodReadsClearPendingEntries :
    let x : State := { watching [watched 1 90 15 true] part with
      map := { part.map with pins := part.map.pins.set 0 ⟨true, 1, 5, 90⟩ } }
    let s := watching [watched 1 90 7 true] part
    let clears (e : WatchEntry) : Prop := e.pending = true ∧ e.block.unit = 1 ∧ 90 ≤ e.block.block ∧ e.block.block < 90 + 1
    ((x.health.watch.map fun e => e.block).Nodup ∧ (∀ e ∈ x.health.watch, e.pending = true → e.due = false) ∧
      ∃ e ∈ x.health.watch, clears e ∧ x.mgmt.params.promotion ≤ e.score ∧ (x.map.resolve e.block).1 = .pinTarget) ∧
    ((s.health.watch.map fun e => e.block).Nodup ∧ (∀ e ∈ s.health.watch, e.pending = true → e.due = false) ∧
      ∀ e ∈ s.health.watch, clears e → e.score < s.mgmt.params.promotion ∨ (s.map.resolve e.block).1 ≠ .pinTarget) := by
  decide +kernel

/-- A payload of 31 bytes, one of 33, and a kind of no code; a USER and a RECOVERY code in every guard state that tells them apart. -/
theorem test_witness_GuardSetCommandsSetTheirCodes :
    let t (c : Command) (k n : Nat) := ask c (le1 k ++ le1 1) (List.replicate n 9) .service
    (∀ c k n, ∀ s : State, s.inReset = false ∧ s.todo = [] → (took (t c k n) s).Awaits c (t c k n)) ∧
    (t .guardSetUser 0 31).payloadLength ≠ 32 ∧ (t .guardSetUser 0 33).payloadLength ≠ 32 ∧
    (t .guardSetRecovery 2 32).p1 0 ≠ CodeKind.user.code ∧ (t .guardSetRecovery 2 32).p1 0 ≠ CodeKind.recovery.code ∧
    (t .guardSetUser 0 32).payloadLength = 32 ∧ (t .guardSetUser 0 32).p1 0 = CodeKind.user.code ∧
    (t .guardSetUser 0 32).p1 1 = GuardLevel.strict.code ∧ (t .guardSetUser 1 32).p1 0 = CodeKind.recovery.code ∧
    part.guard.state = .disabled ∧ openGuard.guard.state = .opened ∧ lockedGuard.guard.state = .locked ∧
    (guarded (fun g => { g with frozen := true }) part).guard.frozen = true ∧
    (t .guardSetRecovery 1 32).guardCode ≠ part.guard.recoveryCode :=
  ⟨fun _ _ _ _ h => awaits_took _ _ _ _ _ h, by decide +kernel⟩

/-- The recovery code is accepted at level STANDARD. -/
theorem accepts_recovery {g : GuardUnit} {code : List Byte} {limited : Bool} (h : g.recoveryCode = code ∧ g.level = .standard) :
    g.Accepts .recovery code limited := ⟨h.1, fun _ => h.2⟩

/-- Without a user code no USER code is accepted. -/
theorem refuses_user {g : GuardUnit} {code : List Byte} {limited : Bool} (h : g.userCode = none) : ¬ g.Accepts .user code limited := by
  simp [GuardUnit.Accepts, h]

/-- The part with a guard state and failed attempts. -/
def attempted (state : GuardState) (n : Nat) : State := guarded (fun g => { g with state := state, failed := n }) part

/-- For GUARD_UNLOCK and GUARD_DISABLE: no code; another state; five attempts; a code that does not match after four, and one that does. -/
theorem test_witness_GuardUnlockAndDisableCompareCodes :
    let t (c : Command) (k : CodeKind) (n : Nat) := ask c (le1 k.code) (zeros n) .service
    (∀ c k n, ∀ s : State, s.inReset = false ∧ s.todo = [] → (took (t c k n) s).Awaits c (t c k n)) ∧
    (∀ c ∈ [Command.guardUnlock, .guardDisable], (t c .user 31).payloadLength ≠ 32 ∧ ∀ k ∈ [CodeKind.user, .recovery],
      (t c k 32).payloadLength = 32 ∧ (t c k 32).p1 0 = k.code) ∧
    (part.guard.state ≠ .locked ∧ part.guard.state ≠ .opened ∧
      (guarded (fun g => { g with frozen := true }) openGuard).guard.frozen = true) ∧
    ∀ state, (attempted state 5).guard.state = state ∧ (attempted state 5).guard.frozen = false ∧ 5 ≤ (attempted state 5).guard.failed ∧
      (attempted state 4).guard.failed < 5 ∧ ¬ (attempted state 4).guard.Accepts .user (t .guardUnlock .user 32).guardCode true ∧
      (attempted state 4).guard.Accepts .recovery (t .guardUnlock .recovery 32).guardCode true :=
  ⟨fun _ _ _ _ h => awaits_took _ _ _ _ _ h, by decide +kernel, by decide +kernel, fun _ => ⟨rfl, rfl, Nat.le_refl 5,
    Nat.lt_succ_self 4, refuses_user rfl, accepts_recovery ⟨(by decide +kernel : part.guard.recoveryCode =
      (ask .guardUnlock (le1 CodeKind.recovery.code) (zeros 32) .service).guardCode), rfl⟩⟩⟩

/-- An ERASE_GUARDED that is awaited, with the erase-prepared flag noted or not. -/
theorem awaits_erase (k : CodeKind) (m : PartMode) (noted : Bool) (s : State) (h : s.inReset = false ∧ s.todo = []) :
    let t : Taken := { ask .eraseGuarded (le1 k.code) (zeros 32) m with prepared := noted }
    (took t s).Awaits .eraseGuarded t := ⟨⟨h.1, h.2⟩, rfl, rfl, rfl⟩

/-- FREEZE, ERASE_PREPARE in ERASING and frozen, a command over a frozen part; ERASE_GUARDED at each of its stages. -/
theorem test_witness_EraseIsPreparedAndStarted :
    let t (k : CodeKind) (m : PartMode) (noted : Bool) : Taken := { ask .eraseGuarded (le1 k.code) (zeros 32) m with prepared := noted }
    let unit0 (n : Nat) := port 0 .ready (attempted .opened n)
    let absent : State := { unit0 0 with store := { part.store with state := .absent } }
    (took (ask .freeze [] [] .service) part).Awaits .freeze (ask .freeze [] [] .service) ∧
    (took (ask .erasePrepare [] [] .service) part).Awaits .erasePrepare (ask .erasePrepare [] [] .service) ∧
    ((attempted .erasing 0).guard.state = .erasing ∧ (guarded (fun g => { g with frozen := true }) part).guard.frozen = true ∧
      (∀ e, Instr.freeze ≠ .partReset e) ∧ ∃ t, exec .freeze (guarded (fun g => { g with frozen := true }) part) = .next t) ∧
    (∀ k m noted, ∀ s : State, s.inReset = false ∧ s.todo = [] → (took (t k m noted) s).Awaits .eraseGuarded (t k m noted)) ∧
    ((t .user .standby true).mode.resting = true ∧ (t .user .service false).mode.resting = false ∧
      (ask .eraseGuarded (le1 2) (zeros 32) .service).p1 0 = 2 ∧
      (t .user .service true).payloadLength = 32 ∧ (t .user .service true).p1 0 = CodeKind.user.code ∧
      (t .recovery .service true).p1 0 = CodeKind.recovery.code ∧ (t .user .service false).prepared = false ∧
      (t .user .service true).prepared = true ∧ (part.port 0).state ≠ .ready ∧ ((unit0 0).port 0).state = .ready ∧
      ¬ (absent.store.state = .clean ∨ absent.store.state = .dirty ∨ absent.store.state = .saving) ∧
      (unit0 5).store.state = .clean ∧ 5 ≤ (unit0 5).guard.failed ∧ (unit0 4).guard.failed < 5) ∧
    ¬ (unit0 4).guard.Accepts .user (t .user .service true).guardCode false ∧
    (unit0 4).guard.Accepts .recovery (t .recovery .service true).guardCode false :=
  ⟨awaits_took _ _ _ _ _ ⟨rfl, rfl⟩, awaits_took _ _ _ _ _ ⟨rfl, rfl⟩, ⟨rfl, rfl, fun _ => nofun, _, rfl⟩,
    fun k m noted s h => awaits_erase k m noted s h, by decide +kernel, refuses_user rfl, accepts_recovery (by decide +kernel)⟩

/-- An empty erase record in phase WRITING, at a region and an offset. -/
def walking (index offset unerased : Nat) : EraseRecord :=
  { phase := .writing, index := index, offset := offset, write := none, tried := 0, erased := 0, unerased := unerased,
    firstUnerased := none }

/-- The part with an erase record. -/
def walks (e : EraseRecord) (s : State) : State := guarded (fun g => { g with state := .erasing, erase := some e }) s

/-- The walk behind region 15, with nothing and with a block unerased; at an empty region, at the last run of a guarded one on a READY port
and on an OFFLINE one; a write under way, with and without a spare, of a part with spares. -/
theorem test_witness_TheEraseWalksTheGuardedRegions :
    let g := withRegion 15 { region 0 64 1 0 with guarded := true } served
    let w : EraseWrite := { unit := 1, home := 0, first := 0, count := 32, retried := false, wait := .port, repair := none }
    let p : EraseRepair := { spare := 70, marked := false }
    (∀ e, (walks e part).guard.erase = some e) ∧
    (∀ i o n, (walking i o n).phase = .writing ∧ (walking i o n).write = none ∧ (walking i o n).index = i ∧ (walking i o n).offset = o ∧
      (walking i o n).unerased = n) ∧
    (part.map.regions[0].valid = false ∧ g.map.regions[15].valid = true ∧ g.map.regions[15].guarded = true ∧
      63 < g.map.regions[15].count) ∧
    g.map.Cuts g.map.regions[15].unit (fun _ => true) (g.map.regions[15].physical + 63) (g.map.regions[15].count - 63) 63 1 ∧
    ((g.port 1).state = .ready ∧ ((port 1 .offline g).port 1).state = .offline) ∧
    ({ walking 0 0 0 with write := some w }.write = some w ∧ w.repair = none ∧ w.first ≤ 31) ∧
    (((withPool 1 70 16 part).claim 1 0).1 = .issued 70 ∧ (part.claim 1 0).1 = .exhausted ∧
      { w with repair := some p }.repair = some p) :=
  ⟨fun _ => rfl, fun _ _ _ => ⟨rfl, rfl, rfl, rfl, rfl⟩, by decide +kernel,
    (Laws.cuts_iff _ _ _ _ _ _ _ (by decide +kernel)).mpr (by decide +kernel), by decide +kernel, by decide +kernel, by decide +kernel⟩

/-- A unit above 3 and a mode of no code; each state of the port. -/
theorem test_witness_UnitModeSetsTheDesiredMode :
    let t (u m : Nat) := ask .unitMode (le1 u ++ le1 m) [] .service
    let q (s : PortState) := (port 3 s part).port 3
    (∀ u m, ∀ s : State, s.inReset = false ∧ s.todo = [] → (took (t u m) s).Awaits .unitMode (t u m)) ∧ (t 4 0).p1 0 = 4 ∧
    (∀ m : DesiredMode, (t 3 3).p1 1 ≠ m.code) ∧
    (∀ m ∈ [DesiredMode.active, .readOnly, .offline], (t 3 m.code).p1 0 = (3 : Fin 4).val ∧ (t 3 m.code).p1 1 = m.code) ∧
    (∀ s, (q s).state = s ∧ (q s).waiting = [] ∧ (q s).slots = Four.all none ∧ (q s).storePlace = none) ∧
    (part.engine.items = [] ∧ part.scan.context = none ∧ part.guard.erase = none ∧ part.store.save = none) :=
  ⟨fun _ _ _ h => awaits_took _ _ _ _ _ h, by decide +kernel, fun m => by cases m <;> decide +kernel, by decide +kernel,
    fun _ => ⟨rfl, rfl, rfl, rfl⟩, by decide +kernel⟩

/-- Frames that are discarded; a frame of no kind, one over 1 048 576 bytes, one whose tag is in use; then an admitted READ of the block
before the window. -/
theorem test_witness_RequestsAreRejectedOrRefused :
    part.Running ∧ LinkFrame.parse [] = none ∧ LinkFrame.parse [3, 3, 0, 0, 0, 0, 0, 0] = none ∧
    (LinkFrame.parse (requestFrame 5 0 0 0 0) = some (.request (fields 5 0 0 0)) ∧ (∀ k : ReqKind, (fields 5 0 0 0).kind.toNat ≠ k.code)) ∧
    (LinkFrame.parse (requestFrame 1 0 0 0 1048577) = some (.request (fields 1 0 0 1048577)) ∧
      1048576 < (fields 1 0 0 1048577).len.toNat) ∧
    (LinkFrame.parse (requestFrame 1 2 0 0 1048576) = some (.request (fields 1 2 0 1048576)) ∧
      (fields 1 2 0 1048576).kind.toNat = ReqKind.read.code ∧ (fields 1 2 0 1048576).len.toNat ≤ 1048576 ∧
      (windowOpen part).link.tags[(fields 1 2 0 1048576).tag] ≠ .free) ∧
    part.Arrives (requestFrame 1 0 0 4294967291 512) (fields 1 0 4294967291 512) .read ∧
    (part.failedCheck .read 0 4294967291 1 = some .noRegion ∧ config.failedCheck .read 0 0 1 = some .notServicing ∧
      (withRegion 0 { region 0 1 1 0 with readers := 0xFFFE } part).failedCheck .read 0 0 1 = some .accessDenied ∧
      (withRegion 0 { region 0 1 1 0 with guarded := true } lockedGuard).failedCheck .read 0 0 1 = some .locked ∧
      (withRegion 0 { region 0 1 1 0 with guarded := true } (attempted .erasing 0)).failedCheck .read 0 0 1 = some .erasing ∧
      (withRegion 0 { region 0 1 1 0 with readOnly := true } part).failedCheck .write 0 0 1 = some .writeProtected ∧
      (withRegion 0 (region 0 1 1 0) part).failedCheck .read 0 0 1 = some .unitUnavailable) :=
  ⟨⟨rfl, rfl⟩, by decide +kernel, by decide +kernel, ⟨by decide +kernel, fun k => by cases k <;> decide⟩, by decide +kernel,
    by decide +kernel, arrives_of (by decide +kernel) ⟨rfl, rfl⟩ (by decide +kernel), by decide +kernel⟩

/-- Requests of a region in every mode that lets them pass: of length 0; that run at once; that overlap a WRITE of the list in their last
block; and a VERIFY whose port has nothing else to do. -/
theorem test_witness_RequestsThatPassRunOrAreHeld :
    let a (kind : Byte) (k : ReqKind) (len : Word) (s : State) : Prop :=
      s.Arrives (requestFrame kind 0 0 5 len) (fields kind 0 5 len) k
    let rests := withRegion 0 (region 0 64 1 0) (port 1 .ready asleep)
    let s := listing [req 1 3 .write 1024 .running [seg 2 2 0 .filling]] served
    (∀ x ∈ [served, inMode .waking served, entering .poweringDown served, entering .saving served, rests],
      a 1 .read 0 x ∧ a 1 .read 512 x ∧ a 2 .write 512 x ∧ x.map.regionLookup 5 1 = some 0 ∧ x.failedCheck .read 0 5 1 = none ∧
        x.failedCheck .write 0 5 1 = none ∧ x.map.regionLookup 5 0 = some 0 ∧ x.failedCheck .read 0 5 0 = none ∧
        x.scan.context = none ∧ x.store.save = none ∧ x.mgmt.params.autoPatrol = false ∧ x.engine.items = []) ∧
    (rests.modes.mode = .standby ∧ (rests.port 3).state = .sleeping ∧
      ∀ u, (rests.port u).state = .sleeping → (rests.port u).desired ≠ .offline ∧ (rests.port u).Rests) ∧
    (s.Arrives (requestFrame 1 0 0 6 512) (fields 1 0 6 512) .read ∧ s.map.regionLookup 6 1 = some 0 ∧
      s.failedCheck .read 0 6 1 = none ∧
      ∃ b ∈ s.engine.items, ∃ y, b.home = some y ∧ (b.writing = true ∨ ReqKind.read = .write) ∧ y.overlaps ⟨1, 0 + 6 - 0, 1⟩ = true) ∧
    (a 3 .verify 512 served ∧ served.map.Cuts 1 (fun _ => true) 5 1 5 1 ∧ (served.port 1).state.serves = true ∧
      (served.port 1).Rests ∧ (served.port 1).attachPlace = none) := by
  have k : ∀ u, ((withRegion 0 (region 0 64 1 0) (port 1 .ready asleep)).port u).state = .sleeping →
      ((withRegion 0 (region 0 64 1 0) (port 1 .ready asleep)).port u).desired ≠ .offline ∧
        restsTest ((withRegion 0 (region 0 64 1 0) (port 1 .ready asleep)).port u) = true := by decide +kernel
  refine ⟨fun x h => ?_, ⟨rfl, rfl, fun u h => ⟨(k u h).1, rests_of_test (k u h).2⟩⟩,
    ⟨arrives_of (by decide +kernel) ⟨rfl, rfl⟩ (by decide +kernel), by decide +kernel, by decide +kernel,
      .host (req 1 3 .write 1024 .running [seg 2 2 0 .filling]), List.Mem.head _, ⟨1, 5, 2⟩, rfl, .inl rfl, by decide +kernel⟩,
    arrives_of (by decide +kernel) ⟨rfl, rfl⟩ (by decide +kernel),
    (Laws.cuts_iff _ _ _ _ _ _ _ (by decide)).mpr (by decide +kernel), rfl, rests_of_test (by decide +kernel), rfl⟩
  simp only [List.mem_cons, List.not_mem_nil, or_false] at h
  rcases h with rfl | rfl | rfl | rfl | rfl <;>
    exact ⟨arrives_of (by decide +kernel) ⟨rfl, rfl⟩ (by decide +kernel), arrives_of (by decide +kernel) ⟨rfl, rfl⟩ (by decide +kernel),
      arrives_of (by decide +kernel) ⟨rfl, rfl⟩ (by decide +kernel), by decide +kernel⟩

/-- The part with a window read of tag 4 whose COMPLETION is owed. -/
def windowOwed : State :=
  { part with
    link := { part.link with tags := part.link.tags.set 4 .window }
    mgmt := { part.mgmt with reads := [⟨4, 0⟩] } }

/-- Every stage: in STARTUP, a VERIFY, a length of 511, a range that begins below the window, a stream outside the set, a READ of W0, a
WRITE of W1; then READs of W1, W2 and W3, a WRITE of W0 with the engine EXECUTING and IDLE; a window read whose block is sent, and WRITE
DATA for its tag. -/
theorem test_witness_WindowAccessesAreServed :
    let a (s : State) (f : RequestFields) (k : ReqKind) : Prop := s.Arrives (frameOf f) f k
    (a (inMode .startup part) (fields 1 0 4294967293 512) .read ∧ a part (fields 3 0 4294967293 512) .verify ∧
    a part (fields 1 0 4294967293 511) .read ∧ a part (fields 1 0 4294967291 1024) .read ∧
    (a part { fields 1 0 4294967293 512 with stream := 1 } .read ∧ part.mgmt.streams.getLsbD 1 = false ∧
      part.mgmt.streams.getLsbD 0 = true) ∧
    a part (fields 1 0 4294967292 512) .read ∧ a part (fields 2 0 4294967293 512) .write ∧
    a part (fields 1 0 4294967293 512) .read ∧ a part (fields 1 0 4294967294 512) .read ∧ a part (fields 1 0 4294967295 512) .read ∧
    (let s : State := { part with mgmt := { part.mgmt with state := .executing } }
     a s (fields 2 0 4294967292 512) .write ∧ s.mgmt.state = .executing) ∧
    a part (fields 2 0 4294967292 512) .write ∧ part.mgmt.state = .idle) ∧
    windowOwed.Running ∧ (windowOwed.mgmt.reads.find? fun x => x.tag == 4) = some ⟨4, 0⟩ ∧ windowOwed.Lawful ∧
    LinkFrame.parse (LinkFrame.writeData ⟨4, 0, [9]⟩).bytes = some (.writeData ⟨4, 0, [9]⟩) := by
  refine ⟨?_, ⟨rfl, rfl⟩, by decide +kernel, lawful_of_test (by decide +kernel), by decide +kernel⟩
  refine ⟨?_, ?_, ?_, ?_, ⟨?_, by decide⟩, ?_, ?_, ?_, ?_, ?_, ⟨?_, rfl⟩, ?_, rfl⟩ <;>
    exact arrives_of (by decide +kernel) ⟨rfl, rfl⟩ (by decide +kernel)

/-- The WRITE DATA of a W0 write of tag 2 that carries a command. -/
def commandFrame (code payload : Nat) : LinkFrame :=
  .writeData ⟨2, 0, le2 code ++ le2 7 ++ le2 payload ++ zeros 506⟩

/-- WRITE DATA of one byte for block 1, and of 511 bytes, is read as it is written. -/
theorem parse_odd : ∀ f ∈ ([⟨2, 1, [9]⟩, ⟨0, 1, [9]⟩, ⟨2, 0, zeros 511⟩] : List WriteFields),
    LinkFrame.parse (LinkFrame.writeData f).bytes = some (.writeData f) := by
  intro f hf
  rw [parse_link]
  revert f
  decide +kernel

/-- WRITE DATA that carries a command is read as it is written. -/
theorem parse_command : ∀ code ∈ [0, 1, 32, 33], ∀ payload ∈ [480, 481],
    LinkFrame.parse (commandFrame code payload).bytes = some (commandFrame code payload) := by
  intro code hc payload hp
  rw [parse_link]
  revert code payload
  decide +kernel

/-- No W0 write of the tag; one with the engine IDLE and EXECUTING; codes and payload lengths at the ends of their ranges; a block index of
1 for a waiting W0 write and for the tag of a taken command; a frame of 511 bytes. -/
theorem test_witness_CommandsAreTakenFromW0 :
    part.Running ∧ (part.mgmt.windows.find? fun x => x.tag == 2) = none ∧
    (∀ engine, let s : State := { windowOpen part with mgmt := { (windowOpen part).mgmt with state := engine } }
      s.Running ∧ (s.mgmt.windows.find? fun x => x.tag == 2) = some ⟨2, 0, .running 0 200⟩ ∧ s.link.tags[2] = .window ∧
      s.mgmt.state = engine ∧ s.mgmt.taken.bind (fun t => t.tag) ≠ some 2) ∧
    (∀ code ∈ [0, 1, 32, 33], ∀ payload ∈ [480, 481],
      LinkFrame.parse (commandFrame code payload).bytes = some (commandFrame code payload)) ∧
    (le2 32 ++ le2 7 ++ le2 481 ++ zeros 506).length = 512 ∧
    (∀ f ∈ ([⟨2, 1, [9]⟩, ⟨0, 1, [9]⟩, ⟨2, 0, zeros 511⟩] : List WriteFields),
      LinkFrame.parse (LinkFrame.writeData f).bytes = some (.writeData f)) ∧
    (let t := ask .save [] [] .service
     (took t part).Running ∧ ((took t part).mgmt.windows.find? fun x => x.tag == 0) = none ∧ (took t part).mgmt.taken = some t ∧
      t.tag = some 0 ∧ (took t part).link.tags[(0 : Fin 32)] = .window) := by
  exact ⟨⟨rfl, rfl⟩, rfl, fun _ => ⟨⟨rfl, rfl⟩, rfl, rfl, rfl, nofun⟩, parse_command, by decide +kernel, parse_odd,
    ⟨⟨rfl, rfl⟩, rfl, rfl, rfl, by decide +kernel⟩⟩

/-- WRITE DATA of one byte for tag 3 is read as it is written. -/
theorem parse_short : ∀ f ∈ ([⟨3, 0, [9]⟩, ⟨3, 1, [9]⟩, ⟨3, 2, [9]⟩] : List WriteFields),
    LinkFrame.parse (LinkFrame.writeData f).bytes = some (.writeData f) := by
  intro f hf
  rw [parse_link]
  revert f
  decide +kernel

/-- WRITE DATA of a free tag; of a block that is not requested; of a block beyond a request that holds a segment at its port, and one that
holds none; the first block of two of a FILLING segment, the last of one, and that of a pending block. The data timer of a segment without
data, and of one with its first block. -/
theorem test_witness_WriteDataIsStoredOrLate :
    let g := seg 2 2 0 .filling
    let r := req 1 3 .write 513 .running [g]
    let s := listing [r] served
    let one := seg 2 1 0 .filling
    let q := req 1 3 .write 1 .running [one]
    let x := listing [q] served
    let due := { one with pendingBlock := true }
    let z := watching [watched 1 5 2 true] (listing [{ q with segs := [due] }] served)
    let none' := { req 1 3 .write 513 .running [] with cursor := 2 }
    let half := { g with data := [(0, zeros 512)] }
    let f (i : Half) : WriteFields := ⟨3, i, [9]⟩
    (∀ y ∈ [s, x, z, listing [none'] served, listing [{ r with segs := [half] }] served], y.Running ∧ y.Lawful) ∧
    (∀ f ∈ ([⟨3, 0, [9]⟩, ⟨3, 1, [9]⟩, ⟨3, 2, [9]⟩] : List WriteFields),
      LinkFrame.parse (LinkFrame.writeData f).bytes = some (.writeData f)) ∧
    part.link.tags[(f 0).tag] = .free ∧
    (s.link.tags[(f 0).tag] = .request ∧ s.liveRequest? (f 0).tag = some r ∧ r.requesting 1 = some g ∧ r.segment? g.id = some g ∧
      (f 1).data.length = r.len - 512 * (r.count - 1) ∧ 1 + 1 = r.count ∧ none'.requesting 1 = none ∧ (f 0).data.length ≠ 512) ∧
    (r.count ≤ 2 ∧ r.segs ≠ [] ∧ (∀ h ∈ [seg 2 2 0 .issued], h.droppable = true → h.off = 0) ∧ none'.count ≤ 2 ∧ none'.first = none ∧
      none'.cancelled = false) ∧
    (∃ i < g.count, g.off + i ≠ 1 ∧ ∀ d ∈ g.data, d.1 ≠ g.off + i) ∧
    (x.liveRequest? 3 = some q ∧ q.requesting 0 = some one ∧ q.segment? one.id = some one ∧
      (∀ i < one.count, one.off + i = 0) ∧ one.pendingBlock = false ∧ q.kind = .write ∧ (served.port 1).state.serves = true ∧
      restsTest (x.port 1) = true ∧ (x.port 1).attachPlace = none) ∧
    (due.pendingBlock = true ∧ z.pendingBlock due.unit due.first = true) ∧
    (s.liveRequest? r.tag = some r ∧ r.segs = [g] ∧ g.phase = .filling ∧ (∀ d ∈ g.data, d.1 ≠ g.off) ∧ 1 ≤ g.count ∧
      r.cancelled = false ∧ r.first = none ∧ r.state = .running) ∧
    (1 < half.count ∧ (∀ i < 1, ∃ d ∈ half.data, d.1 = half.off + i) ∧ (∀ d ∈ half.data, d.1 ≠ half.off + 1) ∧
      half.pendingBlock = false) := by
  refine ⟨fun y h => ?_, parse_short, by decide +kernel, by decide +kernel, by decide +kernel, ⟨0, by decide, by decide, nofun⟩,
    by decide +kernel, by decide +kernel, by decide +kernel, by decide +kernel⟩
  simp only [List.mem_cons, List.not_mem_nil, or_false] at h
  rcases h with rfl | rfl | rfl | rfl | rfl <;> exact ⟨⟨rfl, rfl⟩, lawful_of_test (by decide +kernel)⟩

/-- The first of two blocks, and the last block of a request. -/
theorem test_witness_ReadDataFramesAreSent :
    let g := { seg 2 2 0 .sending with data := [(0, zeros 512), (1, zeros 512)] }
    let r := req 1 3 .read 513 .running [g]
    let s := listing [r] served
    let h := { seg 2 1 0 .sending with data := [(0, zeros 512)] }
    let q := req 1 3 .read 1 .running [h]
    let x := listing [q] served
    (s.Running ∧ s.Lawful ∧ s.liveRequest? r.tag = some r ∧ r.sendingAt g.off = some g ∧ r.segs = [] ++ g :: [] ∧
      g.blocks = zeros 512 :: [zeros 512] ∧ 2 ≤ g.count ∧ ∀ x ∈ s.mgmt.reads, x.tag ≠ r.tag) ∧
    (x.Running ∧ x.Lawful ∧ x.liveRequest? q.tag = some q ∧ q.sendingAt h.off = some h ∧ q.segs = [] ++ h :: [] ∧
      h.blocks = zeros 512 :: [] ∧ h.count = 1 ∧ q.first = none ∧ q.cancelled = false ∧ q.state = .running ∧ q.count ≤ q.cursor ∧
      ∀ y ∈ x.mgmt.reads, y.tag ≠ q.tag) := by
  refine ⟨⟨⟨rfl, rfl⟩, lawful_of_test (by decide +kernel), ?_⟩, ⟨rfl, rfl⟩, lawful_of_test (by decide +kernel), ?_⟩ <;> decide +kernel

/-- A free tag, the tag of a window access; a request already cancelled, one whose segment is at its port, and one without a segment that
has its first block completed. -/
theorem test_witness_CancelEndsRequests :
    let r := { req 1 3 .write 1024 .held [] with completed := [(0, 1)] }
    let c := { r with cancelled := true }
    let q := req 1 3 .write 512 .running [seg 2 1 0 .issued]
    LinkFrame.parse cancelFrame = some (.cancel 3) ∧ part.Running ∧ part.link.tags[(3 : Fin 32)] = .free ∧
    ({ part with link := { part.link with tags := part.link.tags.set 3 .window } } : State).link.tags[(3 : Fin 32)] = .window ∧
    (∀ y ∈ [r, c, q], (listing [y] served).Running ∧ (listing [y] served).Lawful ∧
      (listing [y] served).link.tags[(3 : Fin 32)] = .request ∧ (listing [y] served).liveRequest? 3 = some y) ∧
    (r.cancelled = false ∧ r.segs = [] ∧ r.first = none) ∧ c.cancelled = true ∧
    (q.cancelled = false ∧ (∀ g ∈ q.segs, g.droppable = false) ∧ q.segs ≠ []) := by
  refine ⟨by decide +kernel, ⟨rfl, rfl⟩, rfl, by decide +kernel, fun y h => ?_, by decide +kernel, rfl, by decide +kernel⟩
  simp only [List.mem_cons, List.not_mem_nil, or_false] at h
  rcases h with rfl | rfl | rfl <;> exact ⟨⟨rfl, rfl⟩, lawful_of_test (by decide +kernel), by decide +kernel⟩

theorem test_witness_LinkResetLeavesOrphans :
    let s := listing [req 1 3 .write 512 .running [seg 2 1 0 .issued]] served
    s.Running ∧ s.Lawful ∧ LinkFrame.parse linkResetFrame = some .linkReset :=
  ⟨⟨rfl, rfl⟩, lawful_of_test (by decide +kernel), by decide +kernel⟩

/-- A READ of tag 9 that holds all but n buffers. -/
def holder (n : Nat) : Request :=
  { req 90 9 .read 512 .running [{ seg 91 1 0 .issued with buffers := 128 - n }] with home := some ⟨2, 0, 1⟩ }

/-- The part whose issue queue of port 1 holds n operations. -/
def queued (n : Nat) (s : State) : State :=
  { s with ports := s.ports.set 1 { s.port 1 with queue := List.replicate n (mkOp .verify 0 1 (.segment 90 90) 50 []) } }

/-- A relocation of block 5 of unit 1 in a step. -/
def relocating (step : RelocStep) (buffered : Nat) (s : State) : State :=
  { s with
    engine := { items := [.reloc ⟨1, 0, ⟨1, 5, 1⟩, false⟩], freeBuffers := 128 - buffered }
    health := { s.health with slot0 := some {
      item := 1, block := 5, home := 5, unit := 1, resolution := .direct, spare := some 70, tried := 1, retried := false, step := step,
      wait := .port, data := [] } }
    nextId := 100 }

/-- No claim; a claim of two on one buffer and on two, of a WRITE, of a READ and of a relocation; a queue with 64 operations; one with 63
and a VERIFY that waits, a port at rest, and one that is OFFLINE. -/
theorem test_witness_ClaimsAndPlacesAreGrantedInOrder :
    let g := seg 2 2 0 .claim
    let r := req 1 3 .write 1024 .running [g]
    let s (n : Nat) := listing [r, holder n] served
    let c := listing [req 1 3 .read 1024 .running [g]] served
    let l := relocating .buffer 0 served
    let h := seg 2 1 0 .place
    let q := req 1 3 .verify 512 .running [h]
    let v := listing [q] served
    let x := queued 63 (slotsTaken v)
    let z := listing [q] (port 1 .offline served)
    (∀ y ∈ [part, s 1, s 2, c, l, v, x, z], y.Running ∧ y.Lawful) ∧ part.bufferClaims = [] ∧
    ((s 1).bufferClaims = .segment 1 2 2 :: [] ∧ (s 1).engine.freeBuffers < (BufferClaim.segment 1 2 2).size) ∧
    ((s 2).bufferClaims = .segment r.id g.id g.count :: [] ∧ g.count ≤ (s 2).engine.freeBuffers ∧ (s 2).request? r.id = some r ∧
      r.segs = [] ++ g :: [] ∧ g.buffers = 0 ∧ r.kind = .write) ∧
    (c.bufferClaims = .segment 1 2 2 :: [] ∧ (c.port 1).state.serves = true ∧ restsTest (c.port 1) = true ∧
      (c.port 1).attachPlace = none) ∧
    (l.bufferClaims = .reloc 0 :: [] ∧ 1 ≤ l.engine.freeBuffers ∧ (l.health.slot 0).map (fun r => (r.step, r.unit)) = some (.buffer, 1)) ∧
    64 ≤ ((queued 64 served).port 1).queue.length ∧
    (∀ y ∈ [x, v, z], (y.port 1).queue.length < 64 ∧ (y.waitingOps 1 fun w => decide (w = .place)) = .segment q.id h.id :: [] ∧
      y.request? q.id = some q ∧ q.segment? h.id = some h ∧ h.phase = .place ∧ h.unit = 1 ∧ q.kind ≠ .write ∧ q.kind ≠ .sync) ∧
    ((x.port 1).state.serves = true ∧ (x.port 1).slots.toList.all (fun o => o.isSome) = true ∧ restsTest (v.port 1) = true) ∧
    ((z.port 1).state.unavailable = true ∧ z.guard.eraseWantsPlace 1 = false ∧ q.segs = [h] ∧ q.orphan = false ∧ q.cancelled = false ∧
      q.first = none) := by
  refine ⟨fun y h => ?_, rfl, by decide +kernel, by decide +kernel, by decide +kernel, by decide +kernel, by decide +kernel,
    by decide +kernel, by decide +kernel, by decide +kernel⟩
  simp only [List.mem_cons, List.not_mem_nil, or_false] at h
  rcases h with rfl | rfl | rfl | rfl | rfl | rfl | rfl | rfl <;> exact ⟨⟨rfl, rfl⟩, lawful_of_test (by decide +kernel)⟩

/-- One HELD READ behind a running WRITE of other blocks, and one HELD VERIFY whose port has nothing else to do; a SYNC at the head; SYNCs of
a length, and of none on an empty list and not. -/
theorem test_witness_HeldItemsAndSyncsGoOn :
    let w := { req 1 3 .write 512 .running [seg 2 1 0 .filling] with home := some ⟨1, 40, 1⟩ }
    let r := req 4 5 .read 512 .held []
    let v := req 4 5 .verify 512 .held []
    let s := listing [w, r] served
    let x := listing [w, v] served
    let y := { req 1 3 .sync 0 .held [] with home := none }
    (part.Running ∧ ∀ pre i post, part.engine.items = pre ++ i :: post → i.held = true → part.holds pre i = true) ∧
    (s.Running ∧ s.Lawful ∧ s.engine.items = [.host w] ++ .host r :: [] ∧
      (∀ before i after, [Item.host w] = before ++ i :: after → i.held = true → s.holds before i = true) ∧
      (Item.host r).held = true ∧ s.holds [.host w] (.host r) = false ∧ r.kind = .read ∧ r.home = some ⟨1, 5, 1⟩ ∧
      (s.port 1).state = .ready ∧ r.cursor = 0 ∧ 0 < r.count ∧ r.segs = [] ∧ r.cancelled = false ∧ r.orphan = false) ∧
    (x.Running ∧ x.Lawful ∧ x.engine.items = [.host w] ++ .host v :: [] ∧ (Item.host v).held = true ∧
      x.holds [.host w] (.host v) = false ∧ v.kind = .verify ∧ v.home = some ⟨1, 5, 1⟩ ∧ (x.port 1).state.serves = true ∧
      restsTest (x.port 1) = true ∧ (x.port 1).attachPlace = none) ∧ x.map.Cuts 1 (fun _ => true) 5 1 5 1 ∧
    ((listing [y] part).Running ∧ (listing [y] part).Lawful ∧ (listing [y] part).engine.items = .host y :: [] ∧ y.kind = .sync ∧
      y.orphan = false ∧ y.segs = [] ∧ y.first = none ∧ y.cancelled = false) ∧
    (∀ q l, part.engine.items = .host q :: l → q.kind ≠ .sync) ∧
    part.Arrives (requestFrame 4 0 0 0 1) (fields 4 0 0 1) .sync ∧ part.Arrives (requestFrame 4 0 0 0 0) (fields 4 0 0 0) .sync ∧
    part.engine.items = [] ∧ s.Arrives (requestFrame 4 0 0 0 0) (fields 4 0 0 0) .sync ∧ s.engine.items ≠ [] := by
  refine ⟨⟨⟨rfl, rfl⟩, fun pre i post h => ?_⟩, ⟨⟨rfl, rfl⟩, lawful_of_test (by decide +kernel), by decide +kernel, fun before i after h => ?_,
    by decide +kernel⟩, ⟨⟨rfl, rfl⟩, lawful_of_test (by decide +kernel), by decide +kernel⟩,
    (Laws.cuts_iff _ _ _ _ _ _ _ (by decide)).mpr (by decide +kernel),
    ⟨⟨rfl, rfl⟩, lawful_of_test (by decide +kernel), by decide +kernel⟩, fun q l h => ?_, ?_, ?_, rfl, ?_, by decide +kernel⟩
  · cases pre <;> cases h
  · cases before with
    | nil => cases h; exact nofun
    | cons b l => cases l <;> cases h
  · cases h
  all_goals exact arrives_of (by decide +kernel) ⟨rfl, rfl⟩ (by decide +kernel)

/-- The part with one operation outstanding in slot 0 of port 1. -/
def holding (o : Outstanding) (s : State) : State :=
  { s with ports := s.ports.set 1 { s.port 1 with slots := (Four.all none).set 0 (some o) } }

/-- An operation of segment 2 of request 1 over blocks from 5 on, with the data that has arrived. -/
def working (kind : OpKind) (count : Nat) (data : List (Nat × Block)) : Outstanding :=
  { part.sentNow (mkOp kind 5 count (.segment 1 2) 50 []) with arrived := data }

/-- The part with a request and the operation of its segment. -/
def ending (r : Request) (o : Outstanding) : State := holding o (listing [r] served)

/-- A RESULT for slot 0 without soft errors. -/
def resultOf (kind outcome : Byte) (stop : Word) : ResultFields :=
  { slot := 0, kind := kind, outcome := outcome, stop := stop, soft := [], capacity := 0 }

/-- What makes a segment the last of a live request, as a test. -/
theorem last_of {s : State} {r : Request} {g : Segment} (h : s.request? r.id = some r ∧ r.segs = [g] ∧ r.first = none ∧
    r.cancelled = false ∧ r.orphan = false ∧ r.state = .running ∧ r.count ≤ r.cursor) : s.Last r g :=
  have ⟨h1, h2, h3, h4, h5, h6, h7⟩ := h
  ⟨h1, h2, h3, h4, h5, h6, h7⟩

/-- A READ of two blocks DONE with all its data, DONE with one block of it, HARD at its second block and at its first, and NOT_READY; a
VERIFY DONE and HARD; a WRITE DONE, with verify-after-write and without, and its VERIFY DONE; an orphan's WRITE DONE. -/
theorem test_witness_HostOperationsEnd :
    let ends (r : Request) (o : Outstanding) (f : ResultFields) : Prop :=
      (ending r o).Ends 1 (resultFrame 0 f.kind f.outcome f.stop) f o ∧ o.op.owner = .segment r.id 2
    let g := { seg 2 2 0 .issued with buffers := 2 }
    let r := req 1 3 .read 1024 .running [g]
    let all := working .read 2 [(0, zeros 512), (1, zeros 512)]
    let half := working .read 2 [(0, zeros 512)]
    let v := req 1 3 .verify 512 .running [seg 2 1 0 .issued]
    let w := req 1 3 .write 512 .running [seg 2 1 0 .issued]
    let x := { w with verifyAfter := true }
    let orphan := { w with orphan := true }
    let left : State := { ending orphan (working .write 1 []) with link := part.link }
    (ends r all (resultOf 1 0 0) ∧ (ending r all).LastAt r g all.op ∧
      ∀ i < g.count, (all.arrived.find? fun d => d.1 == i) = some (i, zeros 512)) ∧
    (ends r half (resultOf 1 0 0) ∧ (ending r half).LastAt r g half.op ∧ ∃ i < g.count, ∀ d ∈ half.arrived, d.1 ≠ i) ∧
    ends r half (resultOf 1 1 6) ∧ ends r half (resultOf 1 1 5) ∧ ends r half (resultOf 1 3 0) ∧
    (ends v (working .verify 1 []) (resultOf 3 0 0) ∧ ends v (working .verify 1 []) (resultOf 3 1 5) ∧
      (ending v (working .verify 1 [])).LastAt v (seg 2 1 0 .issued) (working .verify 1 []).op) ∧
    (ends w (working .write 1 []) (resultOf 2 0 0) ∧ (ending w (working .write 1 [])).LastAt w (seg 2 1 0 .issued) (working .write 1 []).op) ∧
    (ends x (working .write 1 []) (resultOf 2 0 0) ∧ ends x (working .verify 1 []) (resultOf 3 0 0) ∧
      (ending x (working .verify 1 [])).LastAt x (seg 2 1 0 .issued) (working .verify 1 []).op) ∧
    (left.Ends 1 (resultFrame 0 2 0 0) (resultOf 2 0 0) (working .write 1 []) ∧ left.request? 1 = some orphan ∧
      orphan.segs = [seg 2 1 0 .issued]) := by
  refine ⟨⟨⟨?_, rfl⟩, ⟨last_of ?_, rfl, rfl⟩, by decide +kernel⟩, ⟨⟨?_, rfl⟩, ⟨last_of ?_, rfl, rfl⟩, 1, by decide, by decide⟩, ⟨?_, rfl⟩,
    ⟨?_, rfl⟩, ⟨?_, rfl⟩, ⟨⟨?_, rfl⟩, ⟨?_, rfl⟩, last_of ?_, rfl, rfl⟩, ⟨⟨?_, rfl⟩, last_of ?_, rfl, rfl⟩,
    ⟨⟨?_, rfl⟩, ⟨?_, rfl⟩, last_of ?_, rfl, rfl⟩, ?_, rfl, rfl⟩ <;>
    first
    | exact ends_of (by decide +kernel) ⟨⟨rfl, rfl, rfl, by decide +kernel⟩, by decide +kernel⟩
    | decide +kernel

/-- The part with a spare of unit 1 issued for block 5, and the rest of its pool. -/
def claimed (s : State) : State :=
  { s with map := ((withPool 1 70 16 part).claim 1 5).2.map, ports := s.ports }

/-- A WRITE and its VERIFY that end at their second block, with spares to claim; a spare write of each kind that ends, a first and a last
time, with spares to claim and without; a fallback write. -/
theorem test_witness_WriteFaultsAreRepaired :
    let ends (s : State) (o : Outstanding) (f : ResultFields) : Prop := s.Ends 1 (resultFrame 0 f.kind f.outcome f.stop) f o
    let g := { seg 2 2 0 .issued with buffers := 2 }
    let r := req 1 3 .write 1024 .running [g]
    let w := withPool 1 70 16 (ending r (working .write 2 []))
    let v := withPool 1 70 16 (ending r (working .verify 2 []))
    let p (tried : Nat) (marked : Bool) : Repair := { kind := .inlineFault, spare := 70, tried := tried, marked := marked, wait := .port }
    let h (p : Repair) := { seg 2 1 0 .repairing with repair := some p, buffers := 1 }
    let q (p : Repair) := req 1 3 .write 512 .running [h p]
    let o := part.sentNow (mkOp .write 70 1 (.repair 1 2) 50 [])
    let s (p : Repair) : State := claimed (ending (q p) o)
    let fallback := { seg 2 1 0 .issued with fallback := true }
    let l := req 1 3 .write 512 .running [fallback]
    (ends w (working .write 2 []) (resultOf 2 2 6) ∧ w.Last r g ∧ (w.claim 1 (g.home + 1)).1 = .issued 70) ∧
    (ends v (working .verify 2 []) (resultOf 3 1 6) ∧ v.Last r g ∧ (v.claim 1 (g.home + 1)).1 = .issued 70) ∧
    ((w.port 1).writeFaults + 1 < w.mgmt.params.writeFaultLimit ∧ g.fallback = false ∧ r.kind = .write) ∧
    (∀ x ∈ [p 1 false, p 3 true],
      ends (s x) o (resultOf 2 0 0) ∧ ends (s x) o (resultOf 2 2 70) ∧ ends (s x) o (resultOf 2 3 0) ∧ (s x).Last (q x) (h x) ∧
      o.op.owner = .repair (q x).id (h x).id ∧ (h x).repair = some x ∧ o.op.first = x.spare ∧ o.op.count = 1 ∧ (h x).count = 1) ∧
    ((((s (p 1 false)).discardSpare 1 70).claim 1 5).1 = .issued 71 ∧ 3 ≤ (p 3 true).tried ∧ (part.claim 1 5).1 = .exhausted) ∧
    (ends (ending l (working .write 1 [])) (working .write 1 []) (resultOf 2 0 0) ∧ (ending l (working .write 1 [])).Last l fallback ∧
      l.verifyAfter = false ∧ fallback.count = 1) := by
  refine ⟨⟨?_, last_of ?_, ?_⟩, ⟨?_, last_of ?_, ?_⟩, ?_, ?repairs, ?_, ?_, last_of ?_, ?_⟩
  case repairs =>
    intro x hx
    simp only [List.mem_cons, List.not_mem_nil, or_false] at hx
    rcases hx with rfl | rfl <;>
      exact ⟨ends_of (by decide +kernel) ⟨⟨rfl, rfl, rfl, by decide +kernel⟩, by decide +kernel⟩,
        ends_of (by decide +kernel) ⟨⟨rfl, rfl, rfl, by decide +kernel⟩, by decide +kernel⟩,
        ends_of (by decide +kernel) ⟨⟨rfl, rfl, rfl, by decide +kernel⟩, by decide +kernel⟩, last_of (by decide +kernel),
        rfl, rfl, rfl, rfl, rfl⟩
  all_goals
    first
    | exact ends_of (by decide +kernel) ⟨⟨rfl, rfl, rfl, by decide +kernel⟩, by decide +kernel⟩
    | decide +kernel

/-- The part held in reset; an ABSENT port; a port in each other case of the lines; the unit-fault line of a READY port. -/
theorem test_witness_UnitLinesMoveThePort :
    State.reset.inReset = true ∧ part.Running ∧ (served.Running ∧ (1 : Fin 4) ≠ 0) ∧
    ((part.port 0).state = .absent ∧ (part.port 0).slots = Four.all none ∧ (part.port 0).storePlace = none ∧
      (∀ c, part.scan.context = some c → c.kind = .patrol) ∧ part.store.save = none) ∧
    ((served.port 1).state ≠ .absent ∧ (served.port 1).slots = Four.all none ∧ (served.port 1).waiting = [] ∧ served.engine.items = [] ∧
      served.scan.context = none ∧ served.health.slot0 = none ∧ served.health.slot1 = none ∧ served.guard.erase = none) ∧
    ((served.port 1).state = .ready ∧ (served.port 1).desired = .active ∧ (served.port 1).writeInhibit = false) :=
  ⟨rfl, ⟨rfl, rfl⟩, ⟨⟨rfl, rfl⟩, by decide⟩, ⟨rfl, rfl, rfl, nofun, rfl⟩, by decide +kernel, by decide +kernel⟩

/-- The part with the UNIT_RESET of an attach outstanding in slot 3 of port 1. -/
def attaching : State :=
  { part with ports := part.ports.set 1 { part.port 1 with
      state := .attaching, attempts := 1
      slots := (Four.all none).set 3 (some (part.sentNow (mkOp .unitReset 0 0 .port 50 []))) } }

/-- Frames that are discarded; DATA for an empty slot and for the last block of a READ; a RESULT for an empty slot and of a UNIT_RESET; their
timeouts, and that of a segment's operation at a port that serves. -/
theorem test_witness_UnitFramesAndTimeoutsEndOperations :
    let o := part.sentNow (mkOp .unitReset 0 0 .port 50 [])
    let d := part.sentNow (mkOp .read 5 2 (.segment 1 2) 50 [])
    let g := seg 2 1 0 .issued
    let r := req 1 3 .write 512 .running [g]
    let s := ending r (working .write 1 [])
    part.Running ∧ UnitFrame.parse [0x11] = none ∧ UnitFrame.parse dataFrame.bytes = some (.data 0 1 (zeros 512)) ∧
    (part.port 1).slots.get 0 = none ∧
    ((outstanding 1 .read 5 2 (.segment 1 2) part).Running ∧ ((outstanding 1 .read 5 2 (.segment 1 2) part).port 1).slots.get 0 = some d ∧
      d.op.kind = .read ∧ 1 < d.op.count) ∧
    UnitFrame.parse (resultFrame 3 7 0 0) = some (.result ⟨3, 7, 0, 0, [], 0⟩) ∧ (part.port 1).slots.get 3 = none ∧
    (attaching.Running ∧ (attaching.port 1).state = .attaching ∧ (attaching.port 1).attachPlace = none ∧
      (attaching.port 1).storePlace = none ∧ (attaching.port 1).slots = (Four.all none).set 3 (some o) ∧ o.op.kind = .unitReset ∧
      o.op.owner = .port ∧ o.op.count = 0 ∧ attaching.store.load = none ∧ (attaching.port 1).attempts < 2 ∧ (1 : Fin 4) ≠ 0) ∧
    (s.Running ∧ s.Lawful ∧ s.store.load = none ∧ (s.port 1).state.serves = true ∧
      (s.port 1).slots = (Four.all none).set 0 (some (working .write 1 [])) ∧ (s.port 1).storePlace = none ∧ s.scan.context = none ∧
      (working .write 1 []).op.owner = .segment r.id g.id ∧ (working .write 1 []).op.kind = r.kind.op ∧
      (working .write 1 []).op.count ≠ 0 ∧ r.kind ≠ .sync ∧ s.request? r.id = some r ∧ r.segment? g.id = some g ∧ r.orphan = false ∧
      r.cancelled = false ∧ g.retried = false) :=
  ⟨⟨rfl, rfl⟩, by decide +kernel, parse_dataFrame, rfl, ⟨⟨rfl, rfl⟩, by decide +kernel⟩, by decide +kernel, rfl,
    ⟨⟨rfl, rfl⟩, by decide +kernel⟩, ⟨rfl, rfl⟩, lawful_of_test (by decide +kernel), by decide +kernel⟩

/-- The part with the IDENTIFY of an attach outstanding in slot 0 of port 1, its port changed. -/
def identifying (f : Port → Port) : State :=
  let s := withRegion 0 (region 0 64 1 0) part
  { s with ports := s.ports.set 1 (f { s.port 1 with
      state := .attaching, present := true
      slots := (Four.all none).set 0 (some (part.sentNow (mkOp .identify 0 0 .port 50 []))) }) }

/-- An IDENTIFY that covers the unit's region to its last block and one that is a block short, at a port of each desired mode, with the
fault line asserted, and in a wake. -/
theorem test_witness_AttachesEndByCoverage :
    let o := part.sentNow (mkOp .identify 0 0 .port 50 [])
    let f (capacity : Nat) : ResultFields := { resultOf 4 0 0 with capacity := capacity }
    (∀ p ∈ [fun p => p, fun p => { p with fault := true }, fun p => { p with desired := .readOnly }, fun p => { p with desired := .offline },
        fun p : Port => { p with waking := true, sleepRecord := some .ready }],
      ∀ capacity ∈ [64, 63],
      (identifying p).Identifies 1 (UnitFrame.result (f capacity)).bytes (f capacity) o) ∧
    (∀ p, (identifying p).map.Covers 1 64) ∧ ∀ p, ¬ (identifying p).map.Covers 1 63 := by
  refine ⟨fun p hp c hc => ?_, fun p => ?_, fun p h => ?_⟩
  · simp only [List.mem_cons, List.not_mem_nil, or_false] at hp hc
    rcases hp with rfl | rfl | rfl | rfl | rfl <;> rcases hc with rfl | rfl <;>
      exact ⟨⟨rfl, rfl⟩, rfl, by decide +kernel, rfl, rfl, rfl, by decide, rfl, rfl, rfl, rfl, rfl, rfl, rfl, rfl, ⟨rfl, rfl⟩, .inl rfl⟩
  · exact ⟨(by decide +kernel : ∀ i : Fin 16, served.map.regions[i].valid = true → served.map.regions[i].unit = 1 →
      served.map.regions[i].physical + served.map.regions[i].count ≤ 64), (by decide +kernel : ∀ i : Fin 32,
      part.map.pins[i].valid = true → part.map.pins[i].unit = 1 → part.map.pins[i].target + 1 ≤ 64), nofun, nofun, nofun⟩
  · exact absurd (h.regions 0 rfl rfl) (by decide : ¬ 0 + 64 ≤ 63)

theorem test_witness_ResetsAndStartUp :
    part.inReset = false ∧ State.reset.inReset = true ∧ part.mgmt.resetStage ≠ .due ∧
    ({ part with mgmt := { part.mgmt with resetStage := .due } } : State).mgmt.resetStage = .due := by decide +kernel

/-- A running save in a step, with an image of n blocks, whose write is the operation outstanding at port 0. -/
def savingAt (step : SaveStep) (n : Nat) : State :=
  { saving with
    store := { saving.store with save := some {
      image := List.replicate n (zeros 512), header := zeros 512, step := step, stamp := some 50, command := none, firstOfErase := false,
      lastOfErase := false, eraseDone := false } }
    ports := saving.ports.set 0 { saving.port 0 with
      slots := (Four.all none).set 0 (some (part.sentNow (mkOp .write 1 32 .store 50 []))) } }

/-- The fresh saved items as an image. -/
def freshImage : List Block := imageBlocks 1 Saved.fresh.length Saved.fresh.stream

/-- An image that was formed is read back. -/
theorem fresh_read : readImage (headerOf 1 1 freshImage) freshImage = some Saved.fresh := by decide +kernel

/-- The header of an image of 64 blocks is none. -/
theorem long_header : readHeader (Header.block { generation := 1, startCount := 1, length := 64, checksum := 0 }) = none := by
  simp only [readHeader, guardOpt]
  rw [if_neg]
  intro h
  rw [Bool.and_eq_true] at h
  exact absurd h.2 (by decide +kernel)

/-- A part in STARTUP whose load has a step under way. -/
def loading (step : LoadStep) (h : Option Header) (s : State) : State :=
  { s with store := { s.store with load := some { step := step, stamp := some 50, header := h, image := [] } } }

/-- Headers of the shortest and the longest image; the writes of a save in each step, DONE, NOT_READY and faulted; the reads of a load in
each step, of a header and an image that are good and of others; the end of the load, and the end of STARTUP. -/
theorem test_witness_LoadsAndSavesEnd :
    let o := part.sentNow (mkOp .write 1 32 .store 50 [])
    let h (n : Nat) : Header := { generation := 1, startCount := 1, length := n, checksum := 0 }
    let up : State := { port 0 .attaching (inMode .startup part) with store := part.store }
    ((1 ≤ (h 1).length ∧ (h 1).length ≤ 63) ∧ (1 ≤ (h 63).length ∧ (h 63).length ≤ 63)) ∧
    (∀ s ∈ [savingAt .first 33, savingAt .first 32, savingAt .second 33, savingAt .header 33],
      s.Ends 0 (resultFrame 0 2 0 0) (resultOf 2 0 0) o ∧ s.Ends 0 (resultFrame 0 2 3 0) (resultOf 2 3 0) o ∧
      s.Ends 0 (resultFrame 0 2 2 1) (resultOf 2 2 1) o ∧ s.store.save.map (fun r => r.stamp) = some (some o.op.stamp) ∧
      (s.port 0).writeFaults + 1 < s.mgmt.params.writeFaultLimit ∧ s.mgmt.resetStage ≠ .save ∧ s.modes.mode ≠ .enteringStandby ∧
      s.store.generation.toNat < 4294967295 ∧ o.op.owner = .store ∧ o.op.first ≤ 1 ∧ 1 < o.op.first + o.op.count) ∧
    (∀ step head, (loading step head up).store.load = some { step := step, stamp := some o.op.stamp, header := head, image := [] }) ∧
    (readHeader (h 64).block = none ∧ readHeader (h 33).block = some (h 33) ∧ 32 < (h 33).length) ∧
    ((up.port 0).state = .attaching ∧ restsTest (up.port 0) = true ∧ (up.port 0).attachPlace = none) ∧
    (readImage (headerOf 1 1 freshImage) freshImage = some Saved.fresh ∧ readImage (h 5) freshImage = none ∧ freshImage.length ≤ 32) ∧
    ((loading .first none part).loadEnded = false ∧ part.log.held = [] ∧
      (∀ u, (part.port u).state ≠ .attaching ∨ (part.port u).identified = false) ∧ (h 5).startCount.toNat < 4294967295) ∧
    (part.scan.context = none ∧ part.mgmt.params.autoPatrol = false) := by
  refine ⟨by decide, fun s hs => ?_, fun _ _ => rfl,
    ⟨long_header, (Laws.header_back _ (by decide) (by decide)).2, by decide⟩, by decide +kernel, ⟨fresh_read, by decide +kernel, by decide +kernel⟩,
    by decide +kernel, by decide +kernel⟩
  simp only [List.mem_cons, List.not_mem_nil, or_false] at hs
  rcases hs with rfl | rfl | rfl | rfl <;>
    exact ⟨ends_of (by decide +kernel) ⟨⟨rfl, rfl, rfl, by decide +kernel⟩, by decide +kernel⟩,
      ends_of (by decide +kernel) ⟨⟨rfl, rfl, rfl, by decide +kernel⟩, by decide +kernel⟩,
      ends_of (by decide +kernel) ⟨⟨rfl, rfl, rfl, by decide +kernel⟩, by decide +kernel⟩, by decide +kernel⟩

/-- Timers stopped and running; a quiet timer with no scan, a running one and a suspended PATROL; the idle timer with standby disabled, with
a save to make, with none, and with autosave off; the idle condition where it holds and where it does not. -/
theorem test_witness_TimersExpire :
    let timed : State := { part with scan := { part.scan with quietTimer := .running 0 2000 } }
    let p : Params := Params.defaults
    let idling : State := { part with mgmt := { part.mgmt with params := { p with idleCode := 200 } } }
    (part.Running ∧ part.health.aging = .stopped ∧ part.scan.quietTimer = .stopped ∧ ∀ a b, part.modes.idle ≠ .running a b) ∧
    (({ part with health := { part.health with aging := .running 0 3600000 } } : State).health.aging = .running 0 3600000 ∧
      part.mgmt.params.agingPeriod ≠ 0) ∧
    (timed.Running ∧ timed.scan.quietTimer = .running 0 2000 ∧ timed.scan.context = none) ∧
    (∀ state, (scanning state context timed).Running ∧ (scanning state context timed).scan.quietTimer = .running 0 2000 ∧
      (scanning state context timed).scan.context = some context ∧ (scanning state context timed).scan.state = state ∧
      (scanning state context timed).modes.mode = .service ∧ context.current = none) ∧
    (∀ s : State, s.Running → (State.Running { s with modes := { s.modes with idle := .running 0 5000 } })) ∧
    { p with standbyDisabled := true }.standbyDisabled = true ∧ p.standbyDisabled = false ∧
    (dirty.Running ∧ dirty.scan.context = none ∧ dirty.store.state = .dirty ∧ dirty.mgmt.params.autosave = true ∧
      (dirty.port 0).state = .ready) ∧
    (served.store.state ≠ .dirty ∧ (served.port 0).state.serves = false ∧ (served.port 1).state.serves = true ∧
      (served.port 1).queue = [] ∧ (served.port 1).scanPlace = none ∧ (served.port 1).storePlace = none) ∧
    { p with autosave := false }.autosave = false ∧
    (idling.Running ∧ idling.modes.mode = .service ∧ idling.engine.items = [] ∧ idling.scan.state ≠ .running ∧ idling.store.save = none ∧
      idling.health.slot0 = none ∧ idling.health.slot1 = none ∧ idling.nextEligible = none ∧ idling.guard.state ≠ .erasing ∧
      idling.mgmt.params.idleCode ≠ 0 ∧ idling.modes.idle = .stopped) ∧ config.modes.mode ≠ .service :=
  ⟨⟨⟨rfl, rfl⟩, rfl, rfl, nofun⟩, ⟨rfl, by decide⟩, ⟨⟨rfl, rfl⟩, rfl, rfl⟩, fun _ => ⟨⟨rfl, rfl⟩, rfl, rfl, rfl, rfl, rfl⟩,
    fun _ h => ⟨h.up, h.settled⟩, rfl, rfl, ⟨⟨rfl, rfl⟩, by decide +kernel⟩, by decide +kernel, rfl,
    ⟨⟨rfl, rfl⟩, by decide +kernel⟩, by decide +kernel⟩

/-- The part as it drains toward a target, with a SET_MODE or a RESET_PART that waits or without. -/
def drains (target : DrainTarget) (waiting : Option PartMode) (s : State) : State :=
  { s with modes := { s.modes with mode := .draining, drain := target, waiting := waiting } }

/-- Each of the four steps where it does nothing; the end of a drain toward each target, with a command and without; a POWER_DOWN that is
sent; the end of the powering-down phase in STANDBY and, with a wake requested, in WAKING; the end of WAKING. -/
theorem test_witness_ModeStepsMoveTheMode :
    let t (c : Command) : Taken := { ask c [1] [] .service with decided := true }
    let d (target : DrainTarget) := took (t .setMode) (drains target (some .config) part)
    let r := took (t .resetPart) (drains .reset none part)
    let placed := powerDownPlaced (port 1 .ready poweringDown)
    let down := port 3 .sleeping poweringDown
    let woken : State := { down with modes := { down.modes with wakeRequested := true } }
    let waking := inMode .waking part
    (part.Running ∧ part.modes.mode ≠ .draining ∧ part.modes.mode ≠ .enteringStandby ∧ part.modes.mode ≠ .waking) ∧
    (∀ target, (d target).Running ∧ (d target).modes.mode = .draining ∧ (d target).modes.drain = target ∧ (d target).engine.items = [] ∧
      (d target).store.save = none ∧ (d target).scan.context = none ∧ (d target).mgmt.taken = some (t .setMode) ∧
      (d target).modes.waiting = some .config ∧ (drains target none part).modes.waiting = none) ∧
    (r.Running ∧ r.modes.drain = .reset ∧ r.mgmt.taken = some (t .resetPart) ∧ r.store.state ≠ .dirty ∧ dirty.store.state = .dirty ∧
      (dirty.port 0).state = .ready) ∧
    ((part.port 1).attachPlace = none ∧ ((slotsTaken part).port 1).slots ≠ Four.all none) ∧
    (placed.Running ∧ (placed.port 1).attachPlace = some (mkOp .powerDown 0 0 .port 60 []) ∧ (placed.port 1).state.serves = true ∧
      (placed.port 1).slots = Four.all none ∧ (placed.port 1).queue = [] ∧ (placed.port 1).scanPlace = none ∧
      (placed.port 1).storePlace = none) ∧
    ((port 3 .attaching poweringDown).port 3).state = .attaching ∧
    (down.Running ∧ down.modes.mode = .enteringStandby ∧ down.modes.phase = .poweringDown ∧ down.engine.items = [] ∧
      down.modes.wakeRequested = false ∧ down.guard.state ≠ .erasing ∧ (down.port 3).state = .sleeping ∧
      ∀ u, (down.port u).state = .absent ∨ (down.port u).state = .sleeping) ∧
    (woken.Running ∧ woken.modes.wakeRequested = true ∧ woken.store.save = none ∧ woken.scan.context = none ∧
      ∀ u, (woken.port u).state = .absent ∨
        ((woken.port u).state = .sleeping ∧ (woken.port u).desired ≠ .offline ∧ restsTest (woken.port u) = true)) ∧
    ((port 3 .sleeping waking).port 3).state = .sleeping ∧
    (waking.Running ∧ waking.modes.mode = .waking ∧
      (∀ u : Fin 4, (waking.port u).state ≠ .sleeping ∧ (waking.port u).state ≠ .attaching) ∧
      waking.scan.context = none ∧ waking.mgmt.params.autoPatrol = false ∧ waking.modes.waiting = none) :=
  ⟨⟨⟨rfl, rfl⟩, by decide +kernel⟩, fun _ => ⟨⟨rfl, rfl⟩, rfl, rfl, rfl, rfl, rfl, rfl, rfl, rfl⟩, ⟨⟨rfl, rfl⟩, by decide +kernel⟩,
    by decide +kernel, ⟨⟨rfl, rfl⟩, by decide +kernel⟩, by decide +kernel, ⟨⟨rfl, rfl⟩, by decide +kernel⟩,
    ⟨⟨rfl, rfl⟩, by decide +kernel⟩, by decide +kernel, ⟨rfl, rfl⟩, by decide +kernel⟩

/-- An empty erase record in phase WAITING. -/
def waitingErase : EraseRecord := { walking 0 0 0 with phase := .waiting }

/-- A save not taken and one taken; an erase that waits and one that goes on; a relocation without an empty slot, without an eligible
entry, HELD, started, and refused a spare; a redirect without a place, with one, at a port with nothing else to do, and refused a spare. -/
theorem test_witness_WorkStartsWhenItMay :
    let busy := relocating .read 1 served
    let both : State := { busy with health := { busy.health with slot1 := busy.health.slot0 } }
    let held := { relocatable with engine := { relocatable.engine with items :=
      [.host (req 1 3 .read 512 .running [seg 2 1 0 .issued])] } }
    let full : State := { relocatable with map := { relocatable.map with learned := List.replicate 512 (learnt 2 6 91) } }
    let e := slotsTaken (queued 63 erasing)
    let g : Segment := { seg 2 1 0 (.redirect 2) with buffers := 1, data := [(0, [9])] }
    let r := req 1 3 .write 1 .running [g]
    let y := listing [r] served
    let z := withPool 1 70 16 y
    let x := slotsTaken (queued 63 z)
    (part.Running ∧ (part.port 0).state ≠ .ready) ∧
    (dirty.Running ∧ dirty.store.state = .dirty ∧ (dirty.port 0).state = .ready ∧ dirty.modes.mode = .service ∧
      dirty.mgmt.params.autosave = true ∧ dirty.store.retryHold = false) ∧
    (part.guard.inPhase .waiting = false) ∧
    (e.Running ∧ e.guard.erase = some waitingErase ∧ e.guardedWork = false ∧
      e.map.regions[0].valid = true ∧ e.map.regions[0].guarded = true ∧ 0 < e.map.regions[0].count ∧
      (e.port 1).state.unavailable = false ∧ (e.port 1).queue.length < 64 ∧ (e.port 1).slots.toList.all (fun o => o.isSome) = true) ∧
    (both.Running ∧ both.health.slot0 ≠ none ∧ both.health.slot1 ≠ none) ∧ (part.nextEligible = none) ∧
    (held.Running ∧ held.nextEligible = some (watched 1 5 8 false, 5, .direct) ∧ held.health.slot0 = none ∧
      held.holds held.engine.items (.reloc ⟨held.nextId, 0, ⟨1, 5, 1⟩, true⟩) = true) ∧
    (relocatable.Running ∧ relocatable.Lawful ∧ relocatable.nextEligible = some (watched 1 5 8 false, 5, .direct) ∧
      relocatable.health.slot0 = none ∧
      relocatable.holds relocatable.engine.items (.reloc ⟨relocatable.nextId, 0, ⟨1, 5, 1⟩, true⟩) = false ∧
      (relocatable.claim 1 5).1 = .issued 70) ∧
    (full.Lawful ∧ (full.claim 1 5).1 = .tableFull ∧ full.nextEligible = some (watched 1 5 8 false, 5, .direct)) ∧
    (∀ s, Item.host s ∈ (queued 64 y).engine.items → ∀ g ∈ s.segs,
      (∀ n, g.phase ≠ .redirect n) ∨ 64 ≤ ((queued 64 y).port g.unit).queue.length) ∧
    (∀ s ∈ [x, y, z], s.Running ∧ s.Lawful ∧ s.engine.items.findSome? s.redirectOf = some (r, g, 2) ∧ s.request? r.id = some r ∧
      r.segment? g.id = some g ∧ r.kind = .write ∧ (s.port g.unit).state.serves = true ∧ (s.port g.unit).queue.length < 64) ∧
    ((x.port 1).slots.toList.all (fun o => o.isSome) = true ∧ (x.claim 1 5).1 = .issued 70 ∧ (z.claim 1 5).1 = .issued 70 ∧
      (y.claim 1 5).1 = .exhausted ∧ restsTest (y.port 1) = true ∧ restsTest (z.port 1) = true ∧ (y.port 1).attachPlace = none) := by
  refine ⟨⟨⟨rfl, rfl⟩, by decide +kernel⟩, ⟨⟨rfl, rfl⟩, by decide +kernel⟩, rfl, ⟨⟨rfl, rfl⟩, by decide +kernel⟩,
    ⟨⟨rfl, rfl⟩, by decide +kernel⟩, by decide +kernel, ⟨⟨rfl, rfl⟩, by decide +kernel⟩,
    ⟨⟨rfl, rfl⟩, lawful_of_test (by decide +kernel), by decide +kernel⟩, ⟨lawful_of_test (by decide +kernel), by decide +kernel⟩,
    fun y h g hg => .inr ?_, fun s hs => ?_, by decide +kernel⟩
  · cases h with
    | head => cases hg with
      | head => decide +kernel
      | tail _ h => cases h
    | tail _ h => cases h
  · simp only [List.mem_cons, List.not_mem_nil, or_false] at hs
    rcases hs with rfl | rfl | rfl <;> exact ⟨⟨rfl, rfl⟩, lawful_of_test (by decide +kernel), by decide +kernel⟩

/-- A relocation in each step, with a spare issued; the claims that follow a fault, issued and refused; a RESULT for each step. -/
theorem test_witness_RelocationsEndByTheirOutcomes :
    let s (step : RelocStep) := claimed (relocating step 1 served)
    let o (kind : OpKind) := part.sentNow (mkOp kind 5 1 (.reloc 0) 50 [])
    let x (step : RelocStep) (kind : OpKind) := holding (o kind) (s step)
    (∀ step, ((s step).health.slot 0).map (fun r => (r.spare, r.step, r.retried, r.tried, r.unit)) = some (some 70, step, false, 1, 1)) ∧
    (((s .read).port 1).state.serves = true ∧ restsTest ((s .read).port 1) = true ∧ ((s .read).port 1).attachPlace = none) ∧
    ((((s .write).discardSpare 1 70).claim 1 5).1 = .issued 71 ∧
      (({ s .write with map := (withPool 1 70 1 part).map } : State).claim 1 5).1 = .issued 70 ∧ (part.claim 1 5).1 = .exhausted) ∧
    ((x .write .write).Ends 1 (resultFrame 0 2 0 0) (resultOf 2 0 0) (o .write) ∧
      (x .write .write).Ends 1 (resultFrame 0 2 3 0) (resultOf 2 3 0) (o .write) ∧
      (x .read .read).Ends 1 (resultFrame 0 1 3 0) (resultOf 1 3 0) (o .read) ∧ (o .read).op.owner = .reloc 0 ∧ (o .read).op.count = 1) := by
  refine ⟨fun _ => rfl, by decide +kernel, by decide +kernel, ?_, ?_, ?_, rfl, rfl⟩ <;>
    exact ends_of (by decide +kernel) ⟨⟨rfl, rfl, rfl, by decide +kernel⟩, by decide +kernel⟩

/-- A PATROL and a CHECK with a VERIFY under way, and without: that finds the next extent, that ends its coverage with something verified
and with nothing, under auto-patrol and not, and that is asked to suspend with more to come. -/
theorem test_witness_ScansGoOnByTheirOutcomes :
    let o := mkOp .verify 0 32 .scan 50 []
    let v : ScanVerify := { extent := ⟨1, 0, 32⟩, retried := false, stamp := some 50 }
    let c := { context with current := some v }
    let check := { c with kind := .checkFull, unit := some 1 }
    let asked := { c with suspendRequested := true }
    let past := { context with index := 16, verified := 32 }
    (∀ s d, (scanning .running d s).scan.context = some d ∧ (scanning .running d s).scan.state = .running) ∧
    (c.current = some v ∧ v.stamp = some o.stamp ∧ (served.port v.extent.unit).scanPlace = none ∧ c.kind = .patrol ∧
      c.suspendRequested = false ∧ check.kind ≠ .patrol ∧ asked.suspendRequested = true ∧ served.scan.quiet = false) ∧
    (served.scanFind scanFuel { asked with offset := 32, current := none, verified := 32 }).2 = some ⟨1, 32, 32⟩ ∧
    ((scanning .running context served).scanBusy = false ∧ served.modes.mode = .service ∧
      ((scanning .running context served).scanFind scanFuel context).2 = some ⟨1, 0, 32⟩ ∧
      ((scanning .running past served).scanFind scanFuel past).2 = none ∧ past.verified ≠ 0 ∧ context.verified = 0 ∧
      ((scanning .running context part).scanFind scanFuel context).2 = none ∧ (scanning .running context part).scanBusy = false ∧
      served.mgmt.params.autoPatrol = false ∧ { Params.defaults with autoPatrol := true }.autoPatrol = true) ∧
    ((served.port 1).state.serves = true ∧ restsTest (served.port 1) = true ∧ (served.port 1).attachPlace = none) ∧
    ({ check with current := none }.unit = some 1 ∧ PortState.failed.serves = false ∧ PortState.readOnly.serves = true) := by
  refine ⟨fun _ _ => ⟨rfl, rfl⟩, ?_, ?_, ?_, ?_, ?_⟩ <;> decide +kernel

end Sys2Proof.Tests
end

section
/-!
PROOFS. Regions and the logical address space: REGION_READ (R9).
-/

namespace Sys2Proof.Proofs.Regions

open Sys2Proof Sys2Proof.Machine Sys2Proof.Laws

/-- An awaited management command acts on the taken command alone (R133). -/
theorem whenUp_carry_awaited {s : State} {c : Command} {t : Taken} (h : s.Awaits c t) (f : State → Taken → State) :
    whenUp s (fun s => s.carry c f) = .next (f s t) := carry_awaited h f

/-- REGION_READ, once taken, reads the region its first parameter names. -/
theorem exec_regionRead_awaited {s : State} {t : Taken} (h : s.Awaits .regionRead t) :
    exec .regionRead s = .next (s.regionRead (t.p2 0)) :=
  whenUp_carry_awaited h fun s t => s.regionRead (t.p2 0)

theorem regionRead_index (s : State) (i : Fin 16) :
    s.regionRead i.val =
      if s.map.regions[i].valid then s.respond .done (s.map.regions[i].bytes i.val) else s.respond .emptyEntry [] := by
  unfold State.regionRead; rw [regionIndex_some]

theorem regionRead_beyond (s : State) {n : Nat} (h : 16 ≤ n) : s.regionRead n = s.respond .invalidParameter [] := by
  unfold State.regionRead; rw [regionIndex_none h]

/-- Settles O10, by the three results of R9: the index is in the table or beyond it, and every result is one answer to the
taken command, which leaves what `State.answered` says. -/
theorem regionReadAnswersTheEntry : Obligations.RegionReadAnswersTheEntry := by
  unfold Obligations.RegionReadAnswersTheEntry
  intro s t awaits
  rw [exec_regionRead_awaited awaits]
  by_cases inTable : t.p2 0 < 16
  · have answer := regionRead_index s ⟨t.p2 0, inTable⟩
    rw [respond_awaited awaits, respond_awaited awaits] at answer
    rw [dif_pos inTable]
    exact congrArg Host.Outcome.next answer
  · rw [dif_neg inTable, regionRead_beyond s (Nat.le_of_not_lt inTable), respond_awaited awaits]

end Sys2Proof.Proofs.Regions
end

section
/-!
PROOFS. The health of a unit's spares: its threshold, where it is shown, and its events (R38, R39).
-/

namespace Sys2Proof.Proofs.SpareHealth

open Sys2Proof Sys2Proof.Machine Sys2Proof.Laws

/-! ### The threshold (R38) -/

@[simp] theorem healthOf_exhausted_iff {n low : Nat} : healthOf n low = .exhausted ↔ n = 0 := by
  by_cases empty : n = 0
  · simp [healthOf, empty]
  · by_cases within : n ≤ low <;> simp [healthOf, empty, within]

@[simp] theorem healthOf_low_iff {n low : Nat} : healthOf n low = .low ↔ 1 ≤ n ∧ n ≤ low := by
  by_cases empty : n = 0
  · simp [healthOf, empty]
  · by_cases within : n ≤ low <;> simp [healthOf, empty, within, Nat.one_le_iff_ne_zero]

@[simp] theorem healthOf_good_iff {n low : Nat} : healthOf n low = .good ↔ low < n ∧ 0 < n := by
  by_cases empty : n = 0
  · simp [healthOf, empty]
  · by_cases within : n ≤ low
    · simp [healthOf, empty, within]
    · simp [healthOf, empty, within, Nat.not_le.mp within, Nat.pos_of_ne_zero empty]

/-- With a threshold of 0 no number of spares lies from 1 up to it. -/
theorem healthOf_zero_ne_low (n : Nat) : healthOf n 0 ≠ .low := by
  rw [Ne, healthOf_low_iff]
  omega

/-! ### Where the health is shown (12.4, R37) -/

theorem unitStatus_health (s : State) (u : Fin 4) :
    (s.unitStatus u)[2]? = some (BitVec.ofNat 8 (s.unitHealth u).code) := rfl

theorem spareData_health (s : State) (u : Fin 4) :
    (s.spareData u).getLast? = some (BitVec.ofNat 8 (s.unitHealth u).code) := List.getLast?_concat

/-- Settles O12: R38 read off `healthOf` at the unit's remaining spares and its threshold, the two places it is shown in, and
the law of an evaluation's events (R39). -/
theorem spareHealthFollowsTheThreshold : Obligations.SpareHealthFollowsTheThreshold := by
  unfold Obligations.SpareHealthFollowsTheThreshold
  intro s u n low
  have never_low_at_zero (zero : low = 0) : s.unitHealth u ≠ .low := by
    change healthOf n low ≠ .low
    rw [zero]
    exact healthOf_zero_ne_low n
  exact ⟨healthOf_good_iff, healthOf_low_iff, healthOf_exhausted_iff, never_low_at_zero, rfl,
    unitStatus_health s u, spareData_health s u, evaluateHealth_events s u⟩

end Sys2Proof.Proofs.SpareHealth
end

section
/-!
PROOFS. Unit ports: UNIT_INFO (R75).
-/

namespace Sys2Proof.Proofs.UnitPorts

open Sys2Proof Sys2Proof.Machine Sys2Proof.Laws

/-! ### The unit a parameter names -/

theorem unitOf_val (u : Fin 4) : unitOf u.val = some u := dif_pos u.isLt

theorem unitOf_beyond {n : Nat} (beyond : 4 ≤ n) : unitOf n = none := dif_neg (Nat.not_lt.mpr beyond)

/-! ### The record of a port (R75) -/

/-- The operations outstanding are as many as the slots that hold one (R78). -/
theorem outstanding_length (p : Port) : p.outstanding.length = (p.slots.toList.filter fun o => o.isSome).length := by
  unfold Port.outstanding
  simp only [List.length_filterMap_eq_countP, Option.isSome_map, List.countP_eq_length_filter]

/-! ### UNIT_INFO (R75) -/

/-- UNIT_INFO, once taken, shows the unit its first parameter names. -/
theorem exec_unitInfo_awaited {s : State} {t : Taken} (awaits : s.Awaits .unitInfo t) :
    exec .unitInfo s = .next (s.unitInfo (t.p1 0)) :=
  Regions.whenUp_carry_awaited awaits fun s t => s.unitInfo (t.p1 0)

theorem unitInfo_unit (s : State) (u : Fin 4) : s.unitInfo u.val = s.respond .done (s.port u).record := by
  unfold State.unitInfo
  rw [unitOf_val]

theorem unitInfo_beyond (s : State) {n : Nat} (beyond : 4 ≤ n) : s.unitInfo n = s.respond .invalidParameter [] := by
  unfold State.unitInfo
  rw [unitOf_beyond beyond]

/-- Settles O13, by the two results of R75: the parameter names a unit, whose record is answered with its slots counted
(`outstanding_length`), or it is above 3; either result is one answer to the taken command and leaves what `State.answered`
says. -/
theorem unitInfoAnswersThePort : Obligations.UnitInfoAnswersThePort := by
  unfold Obligations.UnitInfoAnswersThePort
  intro s t awaits
  rw [exec_unitInfo_awaited awaits]
  constructor
  · intro u names
    have answer := unitInfo_unit s u
    rw [respond_awaited awaits, Port.record, outstanding_length] at answer
    rw [names]
    exact congrArg Host.Outcome.next answer
  · intro beyond
    rw [unitInfo_beyond s beyond, respond_awaited awaits]

end Sys2Proof.Proofs.UnitPorts
end

section
/-!
PROOFS. Scans: SCAN_LOG_READ (R126).
-/

namespace Sys2Proof.Proofs.Scans

open Sys2Proof Sys2Proof.Machine Sys2Proof.Laws

/-! ### The scan log by age (R126): the log is oldest first, and age 0 is its last entry -/

theorem scanLogRead_above (s : State) {age : Nat} (above : 15 < age) :
    s.scanLogRead age = s.respond .invalidParameter [] := if_pos above

/-- An age up to 15 within the log reads the entry that is so many places before the newest. -/
theorem scanLogRead_held (s : State) {age : Nat} (inRange : ¬ 15 < age) (held : age < s.scan.log.length) :
    s.scanLogRead age =
      s.respond .done (le1 s.scan.log.length ++ (s.scan.log[s.scan.log.length - 1 - age]).bytes) := by
  have entry : s.scan.log.reverse[age]? = some s.scan.log[s.scan.log.length - 1 - age] := by
    rw [List.getElem?_reverse held, List.getElem?_eq_getElem]
  unfold State.scanLogRead
  rw [if_neg inRange, entry]

/-- An age up to 15 at or beyond the number of entries finds none. -/
theorem scanLogRead_beyond (s : State) {age : Nat} (inRange : ¬ 15 < age) (beyond : s.scan.log.length ≤ age) :
    s.scanLogRead age = s.respond .emptyEntry (le1 s.scan.log.length) := by
  have noEntry : s.scan.log.reverse[age]? = none :=
    List.getElem?_eq_none (List.length_reverse.trans_le beyond)
  unfold State.scanLogRead
  rw [if_neg inRange, noEntry]

/-! ### SCAN_LOG_READ (R126) -/

/-- SCAN_LOG_READ, once taken, reads the scan log at the age its first parameter gives. -/
theorem exec_scanLogRead_awaited {s : State} {t : Taken} (awaits : s.Awaits .scanLogRead t) :
    exec .scanLogRead s = .next (s.scanLogRead (t.p2 0)) :=
  Regions.whenUp_carry_awaited awaits fun s t => s.scanLogRead (t.p2 0)

/-- Settles O14, by the three results of R126 in their order: an age above 15, an age the log holds, and an age at or beyond
the number of entries; each is one answer to the taken command and leaves what `State.answered` says. -/
theorem scanLogReadAnswersByAge : Obligations.ScanLogReadAnswersByAge := by
  unfold Obligations.ScanLogReadAnswersByAge
  intro s t awaits n
  rw [exec_scanLogRead_awaited awaits]
  by_cases above : 15 < t.p2 0
  · rw [if_pos above, scanLogRead_above s above, respond_awaited awaits]
  · rw [if_neg above]
    by_cases held : t.p2 0 < n
    · rw [dif_pos held, scanLogRead_held s above held, respond_awaited awaits]
    · rw [dif_neg held, scanLogRead_beyond s above (Nat.le_of_not_lt held), respond_awaited awaits]

end Sys2Proof.Proofs.Scans
end

section
/-!
PROOFS. Steps, reset and what every state keeps: totality, the laws of the state, the completion law, a part in reset.
-/

namespace Sys2Proof.Proofs.Steps

open Sys2Proof Sys2Proof.Machine Sys2Proof.Laws

/-! ### One step -/

theorem step_command {s : State} {c : Instr} {rest : List Instr} (h : s.pending = c :: rest) :
    step s = exec c { s with pending := rest } := by
  unfold step; rw [h]

theorem step_idle {s : State} (h : s.pending = []) : step s = .next s.tick := by
  unfold step; rw [h]

theorem tick_eq (s : State) : s.tick = { s with ms := if s.inReset then s.ms else s.ms + 1 } := by
  unfold State.tick
  split <;> rfl

/-- Settles O1, by the two forms of the queue. -/
theorem stepRunsTheFrontCommand : Obligations.StepRunsTheFrontCommand := by
  unfold Obligations.StepRunsTheFrontCommand
  exact fun s => ⟨fun _ _ front => step_command front, fun empty => (step_idle empty).trans (congrArg _ (tick_eq s))⟩

/-- Settles O6: the state after reset is the state right after a reset of the power-on cause. -/
theorem resetIsLawful : Obligations.ResetIsLawful := by
  unfold Obligations.ResetIsLawful
  exact atReset_lawful ..

/-- Settles O2: part of what `exec_any` says of every command. -/
theorem everyCommandAnswersANextState : Obligations.EveryCommandAnswersANextState := by
  unfold Obligations.EveryCommandAnswersANextState
  intro c s
  obtain ⟨t, answers, -, keeps⟩ := exec_any c s
  exact ⟨t, answers, keeps⟩

/-! ### The laws of the state -/

/-- The queue of commands matters to no law. -/
theorem lawful_pending {s : State} (h : s.Lawful) (l : List Instr) : State.Lawful { s with pending := l } :=
  { h with failed := h.failed, tagLaw := { h.tagLaw with one := h.tagLaw.one } }

/-- The time matters to no law. -/
theorem lawful_ms {s : State} (h : s.Lawful) (n : Word) : State.Lawful { s with ms := n } :=
  { h with failed := h.failed, tagLaw := { h.tagLaw with one := h.tagLaw.one } }

/-- A command leads from a lawful state to a lawful one. -/
theorem exec_lawful {c : Instr} {s t : State} (h : s.Lawful) (e : exec c s = .next t) : t.Lawful := by
  obtain ⟨x, answers, lawful, -⟩ := exec_any c s
  rw [answers] at e
  cases e
  exact lawful h

/-- Settles O3: a step is a command on the state with the queue's rest, or a tick; neither the queue nor the time matters to a law,
and every command keeps them all (`exec_any`). -/
theorem everyStepKeepsTheStateLawful : Obligations.EveryStepKeepsTheStateLawful := by
  unfold Obligations.EveryStepKeepsTheStateLawful
  intro s t lawful steps
  match front : s.pending with
  | [] =>
    rw [step_idle front, tick_eq] at steps
    cases steps
    exact lawful_ms lawful _
  | c :: rest =>
    rw [step_command front] at steps
    exact exec_lawful (lawful_pending lawful rest) steps

/-- Settles O4: what every operation short of a part reset keeps (`Evolves`) has the laws of the loaded records among it. -/
theorem everyCommandKeepsTheLoadedLaws : Obligations.EveryCommandKeepsTheLoadedLaws := by
  unfold Obligations.EveryCommandKeepsTheLoadedLaws
  intro c s t noReset noRelease sound runs
  obtain ⟨x, answers, evolves⟩ := exec_evolves c s noReset noRelease
  rw [answers] at runs
  cases runs
  exact evolves.sound sound

/-! ### The completion law -/

/-- An admission opens the account of its tag, and of no other. -/
theorem ledger_arrives {s t : State} {frame : List Byte} {r : RequestFields} {k : ReqKind} (h : s.Arrives frame r k)
    (runs : exec (.request frame) s = .next t) (g : Fin 32) : t.ledger g = s.ledger g + if g = r.tag then 1 else 0 := by
  rw [exec_request h.toRunning h.frame] at runs
  cases runs
  exact ledger_takeRequest h.lawful r (reqKind_ofCode h.kind) h.length h.tag g

/-- A command that neither admits, nor resets the link or the part, keeps every account. -/
theorem ledger_kept {c : Instr} {s t : State} (lawful : s.Lawful) (keeps : KeepsAccounts c) (noReset : ∀ e, c ≠ .partReset e)
    (noRelease : c ≠ .resetLineReleased) (runs : exec c s = .next t) (g : Fin 32) : t.ledger g = s.ledger g := by
  obtain ⟨x, answers, evolves⟩ := exec_evolves c s noReset noRelease
  rw [answers] at runs
  cases runs
  exact evolves.ledger keeps lawful g

theorem exec_linkReset {s : State} {frame : List Byte} (running : s.Running) (h : LinkFrame.parse frame = some .linkReset) :
    exec (.linkReset frame) s = .next s.takeLinkReset.finish := by
  refine (whenUp_up (fun s => s.linkResetFrame frame) running.up).trans ?_
  unfold State.linkResetFrame
  rw [h]

/-- A LINK RESET frees every tag and leaves no work. -/
theorem finish_takeLinkReset {s : State} (running : s.Running) (b : s.Bounded) :
    s.takeLinkReset.finish = s.takeLinkReset.refreshIdle :=
  finish_of_todo_nil ((takeLinkReset_spec b).1.todo.trans running.settled)

/-- Settles O5, by its three parts: the account that an admission opens, the accounts that every other command keeps, and the tags that
a LINK RESET frees with nothing sent. -/
theorem everyAdmissionGetsOneCompletion : Obligations.EveryAdmissionGetsOneCompletion := by
  unfold Obligations.EveryAdmissionGetsOneCompletion
  refine ⟨fun s t frame r k arrives runs => ledger_arrives arrives runs,
    fun c s t lawful noRequest noLinkReset noReset noRelease runs =>
      ledger_kept lawful ⟨noRequest, noLinkReset⟩ noReset noRelease runs, ?_⟩
  intro s t frame running lawful parsed runs
  rw [exec_linkReset running parsed, finish_takeLinkReset running lawful.toBounded] at runs
  cases runs
  rw [refreshIdle_link, (takeLinkReset_spec lawful.toBounded).1.link]
  rfl

/-! ### A part in reset -/

/-- Settles O8: every command but those of the reset and the unit lines acts only outside reset. -/
theorem nothingElseActsInReset : Obligations.NothingElseActsInReset := by
  unfold Obligations.NothingElseActsInReset
  intro c s held noReset noRelease noLine
  cases c
  case partReset e => exact absurd rfl (noReset e)
  case resetLineReleased => exact absurd rfl noRelease
  case unitPresentAsserted u => exact absurd rfl (noLine u).1
  case unitPresentReleased u => exact absurd rfl (noLine u).2.1
  case unitFaultLineChange u l => exact absurd rfl ((noLine u).2.2 l)
  all_goals exact congrArg Host.Outcome.next (if_pos held)

end Sys2Proof.Proofs.Steps
end

section
/-!
PROOFS. Frames: the bytes that a host or a unit sends are read back field by field (12.2, 12.3).
-/

namespace Sys2Proof.Proofs.Frames

open Sys2Proof Sys2Proof.Machine Sys2Proof.Laws

/-! ### A field behind the bytes before it -/

theorem u2_at {l : List Byte} {off n : Nat} (place : l.length = off) (bound : n < 65536) (m : List Byte) :
    u2 (l ++ (le2 n ++ m)) off = n := by
  subst place
  rw [u2_append _ _ _ (Nat.le_refl _), Nat.sub_self, u2_le2 n m bound]

theorem u4_at {l : List Byte} {off n : Nat} (place : l.length = off) (bound : n < 4294967296) (m : List Byte) :
    u4 (l ++ (le4 n ++ m)) off = n := by
  subst place
  rw [u4_append _ _ _ (Nat.le_refl _), Nat.sub_self, u4_le4 n m bound]

theorem u8_at {l : List Byte} {off n : Nat} (place : l.length = off) (bound : n < 18446744073709551616) (m : List Byte) :
    u8 (l ++ (le8 n ++ m)) off = n := by
  subst place
  rw [u8_append _ _ _ (Nat.le_refl _), Nat.sub_self, u8_le8 n m bound]

/-- A list of four-byte fields reads back behind the bytes before it. -/
theorem words_at (fields : List Nat) (bounds : ∀ n ∈ fields, n < 4294967296) (l : List Byte) :
    words (l ++ fields.flatMap le4) l.length fields.length = fields := by
  induction fields generalizing l with
  | nil => rfl
  | cons n rest ih =>
    have later := ih (fun k hk => bounds k (List.mem_cons_of_mem _ hk)) (l ++ le4 n)
    rw [List.length_append, le4_length] at later
    rw [List.flatMap_cons, List.length_cons, words, u4_at rfl (bounds n List.mem_cons_self), ← List.append_assoc, later]

theorem flatMap_le4_length (fields : List Nat) : (fields.flatMap le4).length = 4 * fields.length := by
  induction fields with
  | nil => rfl
  | cons n rest ih => rw [List.flatMap_cons, List.length_append, ih, le4_length, List.length_cons]; omega

/-! ### Tags, streams and slots in a byte -/

theorem tagOf_ofNat (g : Fin 32) : tagOf (BitVec.ofNat 8 g.val) = g := by
  apply Fin.ext
  simp only [tagOf, Fin.ofNat, BitVec.toNat_ofNat]
  omega

theorem streamOf_ofNat (i : Fin 16) : streamOf (BitVec.ofNat 8 i.val) = i := by
  apply Fin.ext
  simp only [streamOf, Fin.ofNat, BitVec.toNat_ofNat]
  omega

/-! ### Frames of the host (12.2) -/

theorem linkFrame_parse_bytes (f : LinkFrame) : LinkFrame.parse f.bytes = LinkFrame.ofBody f.body := by
  unfold LinkFrame.parse LinkFrame.bytes
  rw [checked_withCheck]
  rfl

theorem ofBody_request (r : RequestFields) : LinkFrame.ofBody (LinkFrame.request r).body = some (.request r) := by
  have lba : u4 (LinkFrame.request r).body 4 = r.lba.toNat := by
    simp only [LinkFrame.body, List.append_assoc]
    exact u4_at rfl r.lba.isLt _
  have len : u4 (LinkFrame.request r).body 8 = r.len.toNat := by
    have read := u4_at (l := [1, r.kind, BitVec.ofNat 8 r.tag.val, BitVec.ofNat 8 r.stream.val] ++ le4 r.lba.toNat) rfl r.len.isLt []
    rwa [List.append_nil] at read
  have fields : LinkFrame.ofBody (LinkFrame.request r).body =
      some (.request ⟨r.kind, tagOf (BitVec.ofNat 8 r.tag.val), streamOf (BitVec.ofNat 8 r.stream.val),
        BitVec.ofNat 32 (u4 (LinkFrame.request r).body 4), BitVec.ofNat 32 (u4 (LinkFrame.request r).body 8)⟩) := rfl
  rw [fields, lba, len, tagOf_ofNat, streamOf_ofNat, BitVec.ofNat_toNat, BitVec.ofNat_toNat, BitVec.setWidth_eq, BitVec.setWidth_eq]

theorem ofBody_writeData (w : WriteFields) (nonempty : 1 ≤ w.data.length) (bound : w.data.length ≤ 512) :
    LinkFrame.ofBody (LinkFrame.writeData w).body = some (.writeData w) := by
  have body : (LinkFrame.writeData w).body =
      [2, BitVec.ofNat 8 w.tag.val] ++ (le2 w.index.toNat ++ (le2 w.data.length ++ ([0, 0] ++ w.data))) := by
    simp only [LinkFrame.body, List.append_assoc]
  have index : u2 (LinkFrame.writeData w).body 2 = w.index.toNat := by rw [body]; exact u2_at rfl w.index.isLt _
  have count : u2 (LinkFrame.writeData w).body 4 = w.data.length := by
    rw [body, ← List.append_assoc]
    exact u2_at rfl (by omega) _
  have length : (LinkFrame.writeData w).body.length = 8 + w.data.length := by
    rw [body]
    simp only [List.length_append, le2_length, List.length_cons, List.length_nil]
    omega
  have fields : LinkFrame.ofBody (LinkFrame.writeData w).body =
      if 1 ≤ u2 (LinkFrame.writeData w).body 4 ∧ u2 (LinkFrame.writeData w).body 4 ≤ 512 ∧
          (LinkFrame.writeData w).body.length = 8 + u2 (LinkFrame.writeData w).body 4 then
        some (.writeData ⟨tagOf (BitVec.ofNat 8 w.tag.val), BitVec.ofNat 16 (u2 (LinkFrame.writeData w).body 2), w.data⟩)
      else none := rfl
  rw [fields, count, index, if_pos ⟨nonempty, bound, length⟩, tagOf_ofNat, BitVec.ofNat_toNat, BitVec.setWidth_eq]

theorem ofBody_cancel (g : Fin 32) : LinkFrame.ofBody (LinkFrame.cancel g).body = some (.cancel g) := by
  have fields : LinkFrame.ofBody (LinkFrame.cancel g).body = some (.cancel (tagOf (BitVec.ofNat 8 g.val))) := rfl
  rw [fields, tagOf_ofNat]

/-- Every frame of a host is read back, by its four types. -/
theorem linkFrame_readsBack (f : LinkFrame) (sendable : f.Sendable) : LinkFrame.parse f.bytes = some f := by
  rw [linkFrame_parse_bytes]
  cases f with
  | request r => exact ofBody_request r
  | writeData w => exact ofBody_writeData w sendable.1 sendable.2
  | cancel g => exact ofBody_cancel g
  | linkReset => rfl

/-! ### Frames of a unit (12.3) -/

theorem unitFrame_parse_bytes (f : UnitFrame) : UnitFrame.parse f.bytes = UnitFrame.ofBody f.body := by
  unfold UnitFrame.parse UnitFrame.bytes
  rw [checked_withCheck]
  rfl

/-- A slot byte names its slot. -/
theorem slot_toNat (k : Fin 4) : (BitVec.ofNat 8 k.val).toNat = k.val := by
  rw [BitVec.toNat_ofNat]
  omega

theorem ofBody_data (slot : Fin 4) (offset : Nat) (block : Block) (bound : offset < 65536) (whole : block.length = 512) :
    UnitFrame.ofBody (UnitFrame.data slot offset block).body = some (.data slot offset block) := by
  have body : (UnitFrame.data slot offset block).body = [0x11, BitVec.ofNat 8 slot.val] ++ (le2 offset ++ block) := by
    simp only [UnitFrame.body, List.append_assoc]
  have slotByte : u1 (UnitFrame.data slot offset block).body 1 = slot.val := slot_toNat slot
  have place : u2 (UnitFrame.data slot offset block).body 2 = offset := by rw [body]; exact u2_at rfl bound _
  have length : (UnitFrame.data slot offset block).body.length = 516 := by
    rw [body]
    simp only [List.length_append, le2_length, List.length_cons, List.length_nil, whole]
  have type : u1 (UnitFrame.data slot offset block).body 0 = 0x11 := rfl
  have rest : (UnitFrame.data slot offset block).body.drop 4 = block := rfl
  unfold UnitFrame.ofBody
  simp only [slotByte, slot.isLt, dif_pos, type, length, if_true, place, rest]

theorem ofBody_result (r : ResultFields) (few : r.soft.length ≤ 8) (softs : ∀ b ∈ r.soft, b < 4294967296)
    (capacity : r.capacity < 18446744073709551616) : UnitFrame.ofBody (UnitFrame.result r).body = some (.result r) := by
  have slotByte : u1 (UnitFrame.result r).body 1 = r.slot.val := slot_toNat r.slot
  have type : u1 (UnitFrame.result r).body 0 = 0x12 := rfl
  have count : u1 (UnitFrame.result r).body 8 = r.soft.length := by
    show (BitVec.ofNat 8 r.soft.length).toNat = _
    rw [BitVec.toNat_ofNat]
    omega
  have stop : u4 (UnitFrame.result r).body 4 = r.stop.toNat := by
    simp only [UnitFrame.body, List.append_assoc]
    exact u4_at rfl r.stop.isLt _
  have split : (UnitFrame.result r).body = ([0x12, BitVec.ofNat 8 r.slot.val, r.kind, r.outcome] ++ le4 r.stop.toNat
      ++ le1 r.soft.length ++ [0, 0, 0]) ++ (le8 r.capacity ++ r.soft.flatMap le4) := List.append_assoc ..
  have capacityBack : u8 (UnitFrame.result r).body 12 = r.capacity := by
    rw [split]
    exact u8_at rfl capacity _
  have length : (UnitFrame.result r).body.length = 20 + 4 * r.soft.length := by
    unfold UnitFrame.body
    rw [List.length_append, flatMap_le4_length]
    rfl
  have softBack : words (UnitFrame.result r).body 20 r.soft.length = r.soft := words_at r.soft softs _
  have kind : (UnitFrame.result r).body.getD 2 0 = r.kind := rfl
  have outcome : (UnitFrame.result r).body.getD 3 0 = r.outcome := rfl
  unfold UnitFrame.ofBody
  simp only [slotByte, r.slot.isLt, dif_pos, type, count, length, few, and_self, if_true, stop, capacityBack, softBack, kind, outcome,
    BitVec.ofNat_toNat, BitVec.setWidth_eq]

/-- Every frame of a unit is read back, by its two types. -/
theorem unitFrame_readsBack (f : UnitFrame) (sendable : f.Sendable) : UnitFrame.parse f.bytes = some f := by
  rw [unitFrame_parse_bytes]
  cases f with
  | data slot offset block => exact ofBody_data slot offset block sendable.1 sendable.2
  | result r => exact ofBody_result r sendable.1 sendable.2.1 sendable.2.2

/-- Settles O9: the check placed at the end of a frame passes, and the body of every type is read back field by field. -/
theorem framesReadBack : Obligations.FramesReadBack := by
  unfold Obligations.FramesReadBack
  exact ⟨linkFrame_readsBack, unitFrame_readsBack⟩

end Sys2Proof.Proofs.Frames
end

section
/-!
PROOFS. The commands that read: IDENTIFY, PIN_READ, REMAP_READ, SPARE_READ, WATCH_READ, LOG_READ and COUNTERS_READ.
-/

namespace Sys2Proof.Proofs.Reads

open Sys2Proof Sys2Proof.Machine Sys2Proof.Laws

/-! ### What an index names -/

theorem pinIndex_val (i : Fin 32) : pinIndex i.val = some i := dif_pos i.isLt

theorem pinIndex_beyond {n : Nat} (beyond : ¬ n < 32) : pinIndex n = none := dif_neg beyond

theorem slotIndex_val {n : Nat} (inLog : 1 ≤ n ∧ n ≤ 8) : slotIndex n = some ⟨n - 1, by omega⟩ := dif_pos inLog

theorem slotIndex_beyond {n : Nat} (beyond : ¬ (1 ≤ n ∧ n ≤ 8)) : slotIndex n = none := dif_neg beyond

theorem streamIndex_val (i : Fin 16) : streamIndex i.val = some i := dif_pos i.isLt

theorem streamIndex_beyond {n : Nat} (beyond : 16 ≤ n) : streamIndex n = none := dif_neg (Nat.not_lt.mpr beyond)

theorem learnedPosition_eq (n : Nat) : learnedPosition n = decide (n < 512) := rfl

theorem watchPosition_eq (n : Nat) : watchPosition n = decide (n < 64) := rfl

/-! ### The tables, entry by entry (R25, R30, R37, R96, R197) -/

theorem pinRead_index (s : State) (i : Fin 32) :
    s.pinRead i.val = if s.map.pins[i].valid then s.respond .done (s.map.pins[i].bytes ++ s.map.pinFacts s.map.pins[i])
      else s.respond .emptyEntry [] := by
  unfold State.pinRead; rw [pinIndex_val]

theorem pinRead_beyond (s : State) {n : Nat} (beyond : ¬ n < 32) : s.pinRead n = s.respond .invalidParameter [] := by
  unfold State.pinRead; rw [pinIndex_beyond beyond]

theorem remapRead_held (s : State) {n : Nat} {e : LearnedEntry} (inRange : n < 512) (held : s.map.learned[n]? = some e) :
    s.remapRead n = s.respond .done (le2 s.map.learned.length ++ e.bytes ++ flag (s.map.pinOf e.unit e.source).isSome
      ++ flag (!s.map.mapped e.unit e.source)) := by
  unfold State.remapRead; simp [learnedPosition_eq, inRange, held]

theorem remapRead_empty (s : State) {n : Nat} (inRange : n < 512) (empty : s.map.learned[n]? = none) :
    s.remapRead n = s.respond .emptyEntry (le2 s.map.learned.length) := by
  unfold State.remapRead; rw [if_neg (by simp [learnedPosition_eq, inRange]), empty]

theorem remapRead_beyond (s : State) {n : Nat} (beyond : ¬ n < 512) : s.remapRead n = s.respond .invalidParameter [] := by
  unfold State.remapRead; simp [learnedPosition_eq, beyond]

theorem spareRead_unit (s : State) (u : Fin 4) : s.spareRead u.val = s.respond .done (s.spareData u) := by
  unfold State.spareRead; rw [UnitPorts.unitOf_val]

theorem spareRead_beyond (s : State) {n : Nat} (beyond : 4 ≤ n) : s.spareRead n = s.respond .invalidParameter [] := by
  unfold State.spareRead; rw [UnitPorts.unitOf_beyond beyond]

theorem watchRead_held (s : State) {n : Nat} {e : WatchEntry} (inRange : n < 64) (held : s.health.watch[n]? = some e) :
    s.watchRead n = s.respond .done (le1 s.health.watch.length ++ le1 s.health.pendingCount ++ e.bytes
      ++ flag (s.health.inRelocation e.block) ++ resolutionBytes e.block.unit (s.map.resolve e.block)) := by
  unfold State.watchRead; simp [watchPosition_eq, inRange, held]

theorem watchRead_empty (s : State) {n : Nat} (inRange : n < 64) (empty : s.health.watch[n]? = none) :
    s.watchRead n = s.respond .emptyEntry (le1 s.health.watch.length) := by
  unfold State.watchRead; rw [if_neg (by simp [watchPosition_eq, inRange]), empty]

theorem watchRead_beyond (s : State) {n : Nat} (beyond : ¬ n < 64) : s.watchRead n = s.respond .invalidParameter [] := by
  unfold State.watchRead; simp [watchPosition_eq, beyond]

theorem logRead_beyond (s : State) {n : Nat} (beyond : ¬ (1 ≤ n ∧ n ≤ 8)) : s.logRead n = s.respond .invalidParameter [] := by
  unfold State.logRead; rw [slotIndex_beyond beyond]

theorem logRead_slot (s : State) {n : Nat} (inLog : 1 ≤ n ∧ n ≤ 8) :
    s.logRead n = match s.log.slots[n - 1] with
      | none => s.respond .emptyEntry (le2 s.log.latest ++ le2 s.log.lifetime)
      | some e => s.respond .done (le2 s.log.latest ++ le2 s.log.lifetime ++ e.bytes) := by
  unfold State.logRead; rw [slotIndex_val inLog]; rfl

/-! ### The read commands, once taken -/

variable {s : State} {t : Taken}

theorem exec_identify_awaited (awaits : s.Awaits .identify t) : exec .identify s = .next (s.answered t .done s.identity) := by
  rw [← respond_awaited awaits]
  exact Regions.whenUp_carry_awaited awaits fun s _ => s.respond .done s.identity

theorem exec_pinRead_awaited (awaits : s.Awaits .pinRead t) : exec .pinRead s = .next (s.pinRead (t.p2 0)) :=
  Regions.whenUp_carry_awaited awaits fun s t => s.pinRead (t.p2 0)

theorem exec_remapRead_awaited (awaits : s.Awaits .remapRead t) : exec .remapRead s = .next (s.remapRead (t.p2 0)) :=
  Regions.whenUp_carry_awaited awaits fun s t => s.remapRead (t.p2 0)

theorem exec_spareRead_awaited (awaits : s.Awaits .spareRead t) : exec .spareRead s = .next (s.spareRead (t.p1 0)) :=
  Regions.whenUp_carry_awaited awaits fun s t => s.spareRead (t.p1 0)

theorem exec_watchRead_awaited (awaits : s.Awaits .watchRead t) : exec .watchRead s = .next (s.watchRead (t.p2 0)) :=
  Regions.whenUp_carry_awaited awaits fun s t => s.watchRead (t.p2 0)

theorem exec_logRead_awaited (awaits : s.Awaits .logRead t) : exec .logRead s = .next (s.logRead (t.p2 0)) :=
  Regions.whenUp_carry_awaited awaits fun s t => s.logRead (t.p2 0)

theorem exec_countersRead_awaited (awaits : s.Awaits .countersRead t) :
    exec .countersRead s = .next (s.countersRead (t.p1 0) (t.p1 1)) :=
  Regions.whenUp_carry_awaited awaits fun s t => s.countersRead (t.p1 0) (t.p1 1)

end Sys2Proof.Proofs.Reads

namespace Sys2Proof.Proofs.Reads

open Sys2Proof Sys2Proof.Machine Sys2Proof.Laws

/-- Settles O11, command by command: an index in range and held, in range and empty, or out of range; each result is one answer to
the taken command and leaves what `State.answered` says. -/
theorem readCommandsAnswerTheirTables : Obligations.ReadCommandsAnswerTheirTables := by
  unfold Obligations.ReadCommandsAnswerTheirTables
  intro s t
  refine ⟨fun awaits => exec_identify_awaited awaits, fun awaits => ?pins, fun awaits => ?learned,
    fun awaits => ⟨fun u names => ?pool, fun beyond => ?noPool⟩, fun awaits => ?watch, fun awaits => ?log⟩
  case pins =>
    rw [exec_pinRead_awaited awaits]
    by_cases inTable : t.p2 0 < 32
    · have answer := pinRead_index s ⟨t.p2 0, inTable⟩
      rw [respond_awaited awaits, respond_awaited awaits, MapUnit.pinFacts, ← List.append_assoc] at answer
      rw [dif_pos inTable]
      exact congrArg Host.Outcome.next answer
    · rw [dif_neg inTable, pinRead_beyond s inTable, respond_awaited awaits]
  case learned =>
    rw [exec_remapRead_awaited awaits]
    by_cases inTable : t.p2 0 < 512
    · rw [if_pos inTable]
      cases entry : s.map.learned[t.p2 0]? with
      | none => rw [remapRead_empty s inTable entry, respond_awaited awaits]
      | some e => rw [remapRead_held s inTable entry, respond_awaited awaits]
    · rw [if_neg inTable, remapRead_beyond s inTable, respond_awaited awaits]
  case pool =>
    rw [exec_spareRead_awaited awaits, names, spareRead_unit, respond_awaited awaits]
    rfl
  case noPool => rw [exec_spareRead_awaited awaits, spareRead_beyond s beyond, respond_awaited awaits]
  case watch =>
    rw [exec_watchRead_awaited awaits]
    by_cases inTable : t.p2 0 < 64
    · rw [if_pos inTable]
      cases entry : s.health.watch[t.p2 0]? with
      | none => rw [watchRead_empty s inTable entry, respond_awaited awaits]
      | some e =>
        rw [watchRead_held s inTable entry, respond_awaited awaits, resolutionBytes, ← List.append_assoc]
        rfl
    · rw [if_neg inTable, watchRead_beyond s inTable, respond_awaited awaits]
  case log =>
    intro head
    rw [exec_logRead_awaited awaits]
    by_cases inLog : 1 ≤ t.p2 0 ∧ t.p2 0 ≤ 8
    · rw [dif_pos inLog, logRead_slot s inLog]
      cases s.log.slots[t.p2 0 - 1] with
      | none => exact congrArg _ (respond_awaited awaits _ _)
      | some e => exact congrArg _ (respond_awaited awaits _ _)
    · rw [dif_neg inLog, logRead_beyond s inLog, respond_awaited awaits]

/-! ### COUNTERS_READ (R199) -/

theorem countersRead_other (s : State) {selection : Nat} (other : 3 < selection) (item : Nat) :
    s.countersRead selection item = s.respond .invalidParameter [] := by
  match selection with
  | n + 4 => rfl

/-- Settles O15, by the four selections, and a selection or an item that names nothing. -/
theorem countersReadAnswersAndClears : Obligations.CountersReadAnswersAndClears := by
  unfold Obligations.CountersReadAnswersAndClears
  intro s t awaits
  rw [exec_countersRead_awaited awaits]
  refine ⟨fun all => ?all, fun i stream names => ?stream, fun u unit names => ?unit, fun link => ?link, fun refused => ?refused⟩
  case all =>
    rw [all]
    exact congrArg _ (respond_awaited_of (x := s.setCounters s.counters.cleared) awaits rfl _ _)
  case stream =>
    rw [stream, names]
    show Host.Outcome.next (s.readStream i.val) = _
    unfold State.readStream
    rw [streamIndex_val]
    exact congrArg _ (respond_awaited_of (x := s.onStream i fun _ => StreamCounters.zero) awaits rfl _ _)
  case unit =>
    rw [unit, names]
    show Host.Outcome.next (s.readUnit u.val) = _
    unfold State.readUnit
    rw [UnitPorts.unitOf_val]
    exact congrArg _ (respond_awaited_of (x := s.onUnitCounters u fun _ => UnitCounters.zero) awaits rfl _ _)
  case link =>
    rw [link]
    exact congrArg _ (respond_awaited_of (x := s.onLinkCounters fun _ => LinkCounters.zero) awaits rfl _ _)
  case refused =>
    rw [← respond_awaited awaits]
    rcases refused with other | ⟨stream, beyond⟩ | ⟨unit, beyond⟩
    · rw [countersRead_other s other]
    · rw [stream]
      show Host.Outcome.next (s.readStream (t.p1 1)) = _
      unfold State.readStream
      rw [streamIndex_beyond beyond]
    · rw [unit]
      show Host.Outcome.next (s.readUnit (t.p1 1)) = _
      unfold State.readUnit
      rw [UnitPorts.unitOf_beyond beyond]

end Sys2Proof.Proofs.Reads
end

section
/-!
PROOFS. Parameters and streams: SET_PARAMS and SET_STREAMS (R138 to R140), after what every ended step keeps of an answer.
-/

namespace Sys2Proof.Proofs.Params

open Sys2Proof Sys2Proof.Machine Sys2Proof.Laws

/-! ### Answers after other changes -/

/-- An operation that keeps the link and the taken command, and then answers and ends its step, leaves an answer. -/
theorem answers_finish {s x : State} {c : Command} {t : Taken} (awaits : s.Awaits c t) (taken : x.mgmt.taken = s.mgmt.taken)
    (link : x.link = s.link) (todo : x.todo = s.todo) (r : CmdResult) (d : List Byte) :
    s.Answers (x.respond r d).finish t r d := by
  rw [respond_finish_awaited awaits taken todo]
  refine ⟨?_, ?_, ?_, x.mgmt.events != 0, ?_⟩
  · rw [refreshIdle_mgmt]; rfl
  · rw [refreshIdle_mgmt]; rfl
  · rw [refreshIdle_mgmt]; rfl
  · rw [refreshIdle_link, State.answered]
    cases t.tag <;> simp [link]

/-! ### The change list of SET_PARAMS (R138) -/

/-- A change of a list names a parameter with a value out of its range. -/
def OutOfRange (l : List Change) (n : Nat) : Prop := ∃ c ∈ l, c.number = n ∧ paramInRange c.number c.value = false

theorem paramNumbers_eq : paramNumbers = List.range' 1 12 := rfl

theorem paramNumbers_contains (n : Nat) : paramNumbers.contains n = decide (1 ≤ n ∧ n ≤ 12) := by
  rw [paramNumbers_eq, Bool.eq_iff_iff, List.contains_iff_mem, List.mem_range'_1, decide_eq_true_iff]
  omega

/-- A number that names no parameter has no value in range. -/
theorem paramInRange_unnamed {n : Nat} (unnamed : ¬ (1 ≤ n ∧ n ≤ 12)) (v : Nat) : paramInRange n v = false := by
  match n with
  | 0 => rfl
  | n + 13 => rfl

/-- The test that `firstOutOfRange` makes at each number of the table. -/
theorem outOfRange_iff (l : List Change) (n : Nat) :
    (l.any fun c => c.number == n && !paramInRange n c.value) = true ↔ OutOfRange l n := by
  simp only [List.any_eq_true, Bool.and_eq_true, beq_iff_eq, Bool.not_eq_true', OutOfRange]
  exact exists_congr fun c => and_congr_right fun _ => and_congr_right fun named => by rw [named]

theorem firstOutOfRange_none {l : List Change} (inRange : ∀ n, ¬ OutOfRange l n) : firstOutOfRange l = none := by
  have table : (paramNumbers.find? fun n => l.any fun c => c.number == n && !paramInRange n c.value) = none :=
    List.find?_eq_none.mpr fun n _ => (outOfRange_iff l n).not.mpr (inRange n)
  have rest : (l.find? fun c => !paramNumbers.contains c.number) = none := by
    refine List.find?_eq_none.mpr fun c mem unnamed => inRange c.number ⟨c, mem, rfl, paramInRange_unnamed ?_ _⟩
    rwa [paramNumbers_contains, Bool.not_eq_true', decide_eq_false_iff_not] at unnamed
  unfold firstOutOfRange
  rw [table, rest]
  rfl

theorem firstOutOfRange_named {l : List Change} {n : Nat} (low : 1 ≤ n) (high : n ≤ 12) (out : OutOfRange l n)
    (least : ∀ m, 1 ≤ m → m < n → ¬ OutOfRange l m) : firstOutOfRange l = some n := by
  have table : (paramNumbers.find? fun n => l.any fun c => c.number == n && !paramInRange n c.value) = some n := by
    rw [paramNumbers_eq, List.find?_range'_eq_some]
    refine ⟨(outOfRange_iff l n).mpr out, List.mem_range'_1.mpr (by omega), fun m lower before => ?_⟩
    rw [Bool.not_eq_true', Bool.eq_false_iff]
    exact (outOfRange_iff l m).not.mpr (least m lower before)
  unfold firstOutOfRange
  rw [table]

theorem firstOutOfRange_unnamed {l : List Change} {c : Change} (inRange : ∀ m, 1 ≤ m → m ≤ 12 → ¬ OutOfRange l m)
    (first : (l.find? fun c => decide (c.number = 0 ∨ 12 < c.number)) = some c) : firstOutOfRange l = some c.number := by
  have table : (paramNumbers.find? fun n => l.any fun c => c.number == n && !paramInRange n c.value) = none := by
    refine List.find?_eq_none.mpr fun n mem => (outOfRange_iff l n).not.mpr (inRange n ?_ ?_) <;>
    · rw [paramNumbers_eq, List.mem_range'_1] at mem
      omega
  have test : (fun c : Change => !paramNumbers.contains c.number) = fun c => decide (c.number = 0 ∨ 12 < c.number) := by
    funext c
    rw [paramNumbers_contains, ← decide_not]
    exact decide_eq_decide.mpr (by omega)
  unfold firstOutOfRange
  rw [table, test, first]
  rfl

/-! ### What changed parameters do to the running part (R139) -/

/-- One state is another but for its watch list, events, store and idle timer. -/
def Reviewed (s x : State) : Prop :=
  ∃ w e i, x = { s with
    health := { s.health with watch := w }, mgmt := { s.mgmt with events := e }, modes := { s.modes with idle := i } }

theorem Reviewed.refl (s : State) : Reviewed s s := ⟨_, _, _, rfl⟩

theorem Reviewed.trans {a b c : State} (first : Reviewed a b) (second : Reviewed b c) : Reviewed a c := by
  obtain ⟨_, _, _, rfl⟩ := first
  obtain ⟨_, _, _, rfl⟩ := second
  exact ⟨_, _, _, rfl⟩

/-- A review that is made only on a condition. -/
theorem Reviewed.unless {s y z : State} {c : Prop} [Decidable c] (first : Reviewed s y) (then_ : Reviewed y z) :
    Reviewed s (if c then y else z) := by
  split
  · exact first
  · exact first.trans then_

theorem reviewed_raise (s : State) (e : Event) : Reviewed s (s.raise e) := ⟨_, _, _, rfl⟩

theorem reviewed_stopIdle (s : State) : Reviewed s s.restartIdle := ⟨_, _, _, rfl⟩

theorem reviewed_suspectDue (s : State) (before : List WatchEntry) : Reviewed s (s.suspectDue before) := by
  unfold State.suspectDue
  split
  · exact reviewed_raise _ _
  · exact .refl _

/-- The due flags are evaluated on a store that is already marked. -/
theorem reviewed_reevaluate {s : State} (marked : s.store.dirtied = s.store) : Reviewed s s.reevaluate := by
  refine Reviewed.trans (b := s.setWatch (s.health.watch.map fun e => e.evaluated s.mgmt.params.promotion)) ?_ ?_
  · rw [setWatch_eq, marked, ite_self]
    exact ⟨_, _, _, rfl⟩
  · exact reviewed_suspectDue _ _

theorem reviewed_evaluateHealth (s : State) (before : SpareHealth) (u : Fin 4) : Reviewed s (s.evaluateHealth before u) := by
  rw [evaluateHealth_events]
  split
  · exact .refl _
  · exact ⟨_, _, _, rfl⟩

theorem reviewed_evaluateAll (health : Four SpareHealth) (l : List (Fin 4)) (s : State) :
    Reviewed s (l.foldl (fun s u => s.evaluateHealth (health.get u) u) s) := by
  induction l generalizing s with
  | nil => exact .refl _
  | cons u l ih => exact (reviewed_evaluateHealth _ _ _).trans (ih _)

/-- A part whose aging timer is set for new parameters (R139). -/
def aged (s : State) (old : Params) : State := { s with health := { s.health with
  aging := if s.mgmt.params.agingPeriod = old.agingPeriod then s.health.aging else s.agingTimer } }

theorem aged_eq (s : State) (old : Params) :
    (if s.mgmt.params.agingPeriod = old.agingPeriod then s else { s with health := { s.health with aging := s.agingTimer } }) =
      aged s old := by
  unfold aged
  split <;> rfl

/-- The effects of changed parameters on a marked store: the aging timer, then what `Reviewed` says. -/
theorem paramEffects_reviewed {s : State} (marked : s.store.dirtied = s.store) (old : Params) (health : Four SpareHealth) :
    Reviewed (aged s old) (s.paramEffects old health) := by
  have markedStill : (aged s old).store.dirtied = (aged s old).store := marked
  unfold State.paramEffects
  dsimp only
  rw [aged_eq]
  generalize aged s old = x at markedStill ⊢
  exact (((Reviewed.refl _).unless (reviewed_reevaluate markedStill)).unless (reviewed_evaluateAll _ _ _)).unless
    (reviewed_stopIdle _)

/-- What parameters that become a set leave of a state (R138, R139). -/
structure ParamsSet (s x : State) (p : Params) : Prop where
  params : x.mgmt.params = p
  store : x.store = if p = s.mgmt.params then s.store else s.store.dirtied
  aging : x.health.aging = if p.agingPeriod = s.mgmt.params.agingPeriod then s.health.aging
    else if p.agingPeriod = 0 then .stopped else .running s.ms (p.agingPeriod * 60000)
  slots : x.health.slot0 = s.health.slot0 ∧ x.health.slot1 = s.health.slot1
  taken : x.mgmt.taken = s.mgmt.taken
  streams : x.mgmt.streams = s.mgmt.streams
  mode : x.modes.mode = s.modes.mode
  rest : x.link = s.link ∧ x.map = s.map ∧ x.ports = s.ports ∧ x.engine = s.engine ∧ x.guard = s.guard ∧ x.log = s.log ∧
    x.scan = s.scan ∧ x.todo = s.todo

theorem setParams_set (s : State) (p : Params) : ParamsSet s (s.setParams p) p := by
  unfold State.setParams
  by_cases same : p = s.mgmt.params
  · subst same
    rw [if_pos rfl]
    exact ⟨rfl, (if_pos rfl).symm, (if_pos rfl).symm, ⟨rfl, rfl⟩, rfl, rfl, rfl, rfl, rfl, rfl, rfl, rfl, rfl, rfl, rfl⟩
  · rw [if_neg same, markDirty_eq]
    obtain ⟨w, e, i, reviewed⟩ := paramEffects_reviewed
      (s := { s with mgmt := { s.mgmt with params := p }, store := s.store.dirtied }) (dirtied_twice s.store) s.mgmt.params
      ⟨s.unitHealth 0, s.unitHealth 1, s.unitHealth 2, s.unitHealth 3⟩
    dsimp only
    rw [reviewed]
    exact ⟨rfl, (if_neg same).symm, rfl, ⟨rfl, rfl⟩, rfl, rfl, rfl, rfl, rfl, rfl, rfl, rfl, rfl, rfl, rfl⟩

/-! ### SET_PARAMS and SET_STREAMS -/

theorem exec_setParams_awaited {s : State} {t : Taken} (awaits : s.Awaits .setParams t) :
    exec .setParams s = .next (s.changeParams (changesOf t.payload (t.payloadLength / 8))) :=
  Regions.whenUp_carry_awaited awaits fun s t => s.changeParams (changesOf t.payload (t.payloadLength / 8))

theorem exec_setStreams_awaited {s : State} {t : Taken} (awaits : s.Awaits .setStreams t) :
    exec .setStreams s = .next (s.changeStreams t (BitVec.ofNat 16 (t.p2 0))) :=
  Regions.whenUp_carry_awaited awaits fun s t => s.changeStreams t (BitVec.ofNat 16 (t.p2 0))

theorem changeParams_refused {s : State} {t : Taken} (awaits : s.Awaits .setParams t) {l : List Change} {n : Nat}
    (out : firstOutOfRange l = some n) : s.changeParams l = s.answered t .invalidParameter (le1 n) := by
  unfold State.changeParams
  rw [out]
  exact respond_awaited awaits _ _

theorem changeParams_applied (s : State) {l : List Change} (inRange : firstOutOfRange l = none) :
    s.changeParams l = ((s.setParams (s.mgmt.params.changed l)).respond .done
      (s.setParams (s.mgmt.params.changed l)).mgmt.params.bytes).finish := by
  unfold State.changeParams
  rw [inRange]

theorem setStreams_eq (s : State) (mask : Half) : s.setStreams mask = { s with
    mgmt := { s.mgmt with streams := mask }, store := if mask = s.mgmt.streams then s.store else s.store.dirtied } := by
  unfold State.setStreams
  by_cases same : mask = s.mgmt.streams
  · rw [if_pos same, if_pos same, same]
  · rw [if_neg same, if_neg same, markDirty_eq]

theorem changeStreams_barred {s : State} {t : Taken} (awaits : s.Awaits .setStreams t) {mask : Half}
    (barred : mask.getLsbD t.stream.val = false) : s.changeStreams t mask = s.answered t .invalidParameter [] := by
  unfold State.changeStreams
  rw [if_pos (show hasStream mask t.stream = false from barred), respond_awaited awaits]

theorem changeStreams_own {s : State} {t : Taken} (awaits : s.Awaits .setStreams t) {mask : Half}
    (own : mask.getLsbD t.stream.val = true) : s.changeStreams t mask = State.refreshIdle (State.answered { s with
      mgmt := { s.mgmt with streams := mask }
      store := if mask = s.mgmt.streams then s.store else s.store.dirtied } t .done (le2 mask.toNat)) := by
  have allowed : ¬ hasStream mask t.stream = false := by
    rw [hasStream, own]
    exact Bool.noConfusion
  have taken : (s.setStreams mask).mgmt.taken = s.mgmt.taken := by rw [setStreams_eq]
  have todo : (s.setStreams mask).todo = s.todo := by rw [setStreams_eq]
  unfold State.changeStreams
  rw [if_neg allowed, respond_finish_awaited awaits taken todo, setStreams_eq]

/-- Settles O16: the change list is in range or names its first number out of range (`firstOutOfRange`); parameters in range act as
`setParams_set` says; a stream set with the command's own stream replaces the set. -/
theorem parametersAndStreamsAreReplaced : Obligations.ParametersAndStreamsAreReplaced := by
  unfold Obligations.ParametersAndStreamsAreReplaced
  intro s t
  refine ⟨fun awaits => ?params, fun awaits => ⟨fun barred => ?barred, fun open_ => ?streams⟩⟩
  case params =>
    rw [exec_setParams_awaited awaits]
    refine ⟨fun inRange => ?_, fun n low high out least => ?_, fun c inRange first => ?_⟩
    · rw [changeParams_applied s (firstOutOfRange_none inRange)]
      have set := setParams_set s (s.mgmt.params.changed (changesOf t.payload (t.payloadLength / 8)))
      rw [set.params]
      generalize s.setParams _ = x at set ⊢
      obtain ⟨link, map, ports, engine, guard, log, scan, todo⟩ := set.rest
      refine ⟨_, rfl, answers_finish awaits set.taken link todo _ _, ?_⟩
      rw [respond_finish_awaited awaits set.taken todo]
      simp only [refreshIdle_mgmt, refreshIdle_store, refreshIdle_health, refreshIdle_map, refreshIdle_ports, refreshIdle_engine,
        refreshIdle_guard, refreshIdle_log, refreshIdle_scan, refreshIdle_modes_mode]
      exact ⟨set.params, set.store, set.aging, map, ports, engine, guard, log, scan, set.mode, set.streams, set.slots⟩
    · exact congrArg _ (changeParams_refused awaits (firstOutOfRange_named low high out least))
    · exact congrArg _ (changeParams_refused awaits (firstOutOfRange_unnamed inRange first))
  case barred => rw [exec_setStreams_awaited awaits, changeStreams_barred awaits barred]
  case streams => rw [exec_setStreams_awaited awaits, changeStreams_own awaits open_]

end Sys2Proof.Proofs.Params
end

section
/-!
PROOFS. The commands of the part mode: SET_MODE and RESET_PART (R141, R165 to R174).
-/

namespace Sys2Proof.Proofs.ModeCommands

open Sys2Proof Sys2Proof.Machine Sys2Proof.Laws

/-! ### The ends of a SET_MODE (R165) -/

theorem modeEnds_awaited {s : State} {c : Command} {t : Taken} (awaits : s.Awaits c t) (r : CmdResult) :
    s.modeEnds r = s.answered t r (le1 s.modes.mode.code) := respond_awaited awaits _ _

theorem modeWaits_taken {s : State} {t : Taken} (taken : s.mgmt.taken = some t) (target : PartMode) :
    s.modeWaits target = { s with
      mgmt := { s.mgmt with taken := some { t with decided := true } }, modes := { s.modes with waiting := some target } } := by
  unfold State.modeWaits State.markDecided State.onModes
  dsimp only
  rw [taken]
  rfl

/-- A SET_MODE that waits ends its step with the command decided (R165). -/
theorem modeWaits_finish {x : State} {t : Taken} (taken : x.mgmt.taken = some t) (todo : x.todo = []) (target : PartMode) :
    (x.modeWaits target).finish = State.refreshIdle { x with
      mgmt := { x.mgmt with taken := some { t with decided := true } }, modes := { x.modes with waiting := some target } } := by
  have still : (x.modeWaits target).todo = [] := todo
  rw [finish_of_todo_nil still, modeWaits_taken taken]

theorem refusesConfig_iff (g : GuardState) : g.refusesConfig = true ↔ g = .locked ∨ g = .eraseIncomplete := by
  cases g <;> simp [GuardState.refusesConfig]

theorem changeMode_config (s : State) {target : Nat} (h : target = PartMode.config.code) : s.changeMode target = s.toConfig := by
  subst h; rfl

theorem changeMode_service (s : State) {target : Nat} (h : target = PartMode.service.code) : s.changeMode target = s.askService := by
  subst h; rfl

theorem changeMode_standby (s : State) {target : Nat} (h : target = PartMode.standby.code) : s.changeMode target = s.toStandby := by
  subst h; rfl

/-- A target that is none of CONFIG, SERVICE and STANDBY is refused. -/
theorem changeMode_other (s : State) {target : Nat} (config : target ≠ PartMode.config.code) (service : target ≠ PartMode.service.code)
    (standby : target ≠ PartMode.standby.code) : s.changeMode target = s.modeEnds .invalidParameter := by
  unfold PartMode.code at config service standby
  match target with
  | 0 => rfl
  | 1 => exact absurd rfl config
  | 2 => exact absurd rfl service
  | 3 => rfl
  | 4 => rfl
  | 5 => exact absurd rfl standby
  | 6 => rfl
  | n + 7 => rfl

theorem exec_setMode_awaited {s : State} {t : Taken} (awaits : s.Awaits .setMode t) :
    exec .setMode s = .next (s.changeMode (t.p1 0)) :=
  Regions.whenUp_carry_awaited awaits fun s t => s.changeMode (t.p1 0)

theorem exec_resetPart_awaited {s : State} {t : Taken} (awaits : s.Awaits .resetPart t) :
    exec .resetPart s = .next s.markDecided.resetBegins.finish :=
  Regions.whenUp_carry_awaited awaits fun s _ => s.markDecided.resetBegins.finish

/-! ### DRAINING (R167, R169) -/

/-- A drain that ends the scan under way (R122): what it changes beside the mode. -/
theorem enterDraining_aborts (s : State) {target : DrainTarget} (other : target ≠ .standby) : ∃ p m e st,
    s.enterDraining target = { s with
      modes := { s.modes with mode := .draining, phase := .none, drain := target }
      ports := p, scan := m, mgmt := { s.mgmt with events := e }, store := st } ∧
    (m.state = .idle ∨ s.scan.context = none) ∧ (s.scan.context = none → e = s.mgmt.events) := by
  unfold State.enterDraining State.scanAborts
  dsimp only
  rw [if_neg other]
  cases scan : s.scan.context with
  | none => exact ⟨_, _, _, _, endScan_none (s := s.onModes _) scan _, .inr rfl, fun _ => rfl⟩
  | some c =>
    obtain ⟨p, ends⟩ := endScan_some
      (s := s.onModes fun m => { m with mode := .draining, phase := .none, drain := target }) scan .abortedByMode
    exact ⟨_, _, _, _, ends, .inl rfl, fun none => nomatch none⟩

/-- A drain toward STANDBY without a scan under way changes the mode alone. -/
theorem enterDraining_standby {s : State} (scan : s.scan.context = none) : s.enterDraining .standby = { s with
    modes := { s.modes with mode := .draining, phase := .none, drain := .standby } } := by
  unfold State.enterDraining
  dsimp only
  rw [if_pos rfl, standsBy_none (s := s.onModes _) scan]
  rfl

theorem drained_iff (s : State) : s.drained = true ↔ s.engine.items = [] ∧ s.store.save = none := by
  unfold State.drained
  rw [Bool.and_eq_true, List.isEmpty_iff, Option.isNone_iff_eq_none]

/-! ### SET_MODE CONFIG -/

theorem toConfig_barred {s : State} {t : Taken} (awaits : s.Awaits .setMode t)
    (barred : s.guard.state = .locked ∨ s.guard.state = .eraseIncomplete)
    (mode : s.modes.mode = .config ∨ s.modes.mode = .service) : s.toConfig = s.answered t .locked (le1 s.modes.mode.code) := by
  have refused := (refusesConfig_iff _).mpr barred
  rw [← modeEnds_awaited awaits]
  unfold State.toConfig
  rcases mode with mode | mode <;> rw [mode] <;> exact if_pos refused

theorem toConfig_config {s : State} {t : Taken} (awaits : s.Awaits .setMode t)
    (open_ : ¬ (s.guard.state = .locked ∨ s.guard.state = .eraseIncomplete)) (mode : s.modes.mode = .config) :
    s.toConfig = s.answered t .done (le1 PartMode.config.code) := by
  rw [← mode, ← modeEnds_awaited awaits]
  unfold State.toConfig
  rw [mode]
  exact if_neg ((refusesConfig_iff _).not.mpr open_)

theorem toConfig_resting {s : State} {t : Taken} (awaits : s.Awaits .setMode t) (rests : s.modes.mode.resting = true) :
    s.toConfig = s.answered t .wrongMode (le1 s.modes.mode.code) := by
  rw [← modeEnds_awaited awaits]
  unfold State.toConfig
  cases mode : s.modes.mode <;> simp [mode, PartMode.resting] at rests ⊢

theorem toConfig_service {s : State} (open_ : ¬ (s.guard.state = .locked ∨ s.guard.state = .eraseIncomplete))
    (mode : s.modes.mode = .service) : s.toConfig = ((s.enterDraining .config).modeWaits .config).finish := by
  unfold State.toConfig
  rw [mode]
  exact if_neg ((refusesConfig_iff _).not.mpr open_)

/-- Settles O17, by the part mode: the guard bars CONFIG and SERVICE, the standby modes refuse, and an open guard in SERVICE drains. -/
theorem setModeConfigDrains : Obligations.SetModeConfigDrains := by
  unfold Obligations.SetModeConfigDrains
  intro s t awaits target barred
  rw [exec_setMode_awaited awaits, changeMode_config s target]
  refine ⟨fun ⟨barred, mode⟩ => congrArg _ (toConfig_barred awaits barred mode),
    fun ⟨open_, mode⟩ => congrArg _ (toConfig_config awaits open_ mode),
    fun rests => congrArg _ (toConfig_resting awaits rests), fun ⟨open_, mode⟩ => ?_⟩
  obtain ⟨p, m, e, st, drains, scan, -⟩ := enterDraining_aborts s (target := .config) (by decide)
  refine ⟨_, congrArg _ (toConfig_service open_ mode), ?_⟩
  have taken : (s.enterDraining .config).mgmt.taken = some t := by rw [drains]; exact awaits.taken
  have todo : (s.enterDraining .config).todo = [] := by rw [drains]; exact awaits.settled
  rw [modeWaits_finish taken todo, drains]
  simp only [refreshIdle_modes_mode, refreshIdle_modes_drain, refreshIdle_modes_waiting, refreshIdle_mgmt, refreshIdle_link,
    refreshIdle_engine, refreshIdle_map, refreshIdle_guard, refreshIdle_scan]
  exact ⟨trivial, trivial, trivial, trivial, trivial, trivial, trivial, trivial, trivial, scan⟩

/-! ### SET_MODE SERVICE -/

theorem toService_fails {s : State} {t : Taken} (awaits : s.Awaits .setMode t) {v : ValidationFailure} (mode : s.modes.mode = .config)
    (fails : s.validate = some v) : s.askService = s.answered t .conflict
      (le1 PartMode.config.code ++ le1 v.table.code ++ le2 v.index ++ v.report.bytes) := by
  unfold State.askService State.toService
  rw [mode]
  dsimp only
  rw [fails]
  dsimp only
  rw [respond_awaited awaits, ValidationFailure.bytes, ← List.append_assoc, ← List.append_assoc]

/-- SERVICE entered by a command, with no scan under way and no automatic patrol. -/
theorem enterService_ends {s : State} {t : Taken} (awaits : s.Awaits .setMode t) (scan : s.scan.context = none)
    (patrol : s.mgmt.params.autoPatrol = false) : (s.enterService.modeEnds .done).finish = State.refreshIdle
      (State.answered { s with modes := { s.modes with mode := .service, phase := .none, drain := .none } } t .done
        (le1 PartMode.service.code)) := by
  have taken : s.enterService.mgmt.taken = s.mgmt.taken := by rw [enterService_quiet scan patrol]
  have todo : s.enterService.todo = s.todo := by rw [enterService_quiet scan patrol]
  unfold State.modeEnds
  rw [respond_finish_awaited awaits taken todo, enterService_quiet scan patrol]

theorem askService_enters {s : State} {t : Taken} (awaits : s.Awaits .setMode t)
    (mode : (s.modes.mode = .config ∧ s.validate = none) ∨ (s.modes.mode = .enteringStandby ∧ s.modes.phase = .saving))
    (scan : s.scan.context = none) (patrol : s.mgmt.params.autoPatrol = false) : s.askService = State.refreshIdle
      (State.answered { s with modes := { s.modes with mode := .service, phase := .none, drain := .none } } t .done
        (le1 PartMode.service.code)) := by
  rw [← enterService_ends awaits scan patrol]
  rcases mode with ⟨mode, passes⟩ | ⟨mode, phase⟩
  · unfold State.askService State.toService
    rw [mode]
    dsimp only
    rw [passes]
  · unfold State.askService State.abandonStandby
    rw [mode]
    dsimp only
    rw [phase]

theorem askService_service {s : State} {t : Taken} (awaits : s.Awaits .setMode t) (mode : s.modes.mode = .service) :
    s.askService = s.answered t .done (le1 s.modes.mode.code) := by
  rw [← modeEnds_awaited awaits]
  unfold State.askService
  rw [mode]

theorem askService_poweringDown {s : State} {t : Taken} (awaits : s.Awaits .setMode t) (mode : s.modes.mode = .enteringStandby)
    (phase : s.modes.phase = .poweringDown) : s.askService = { s with
      mgmt := { s.mgmt with taken := some { t with decided := true } }
      modes := { s.modes with wakeRequested := true, waiting := some .service } } := by
  have asks : s.askService = (s.onModes fun m => { m with wakeRequested := true }).modeWaits .service := by
    unfold State.askService
    rw [mode]
    dsimp only
    rw [phase]
  rw [asks]
  exact modeWaits_taken (s := s.onModes fun m => { m with wakeRequested := true }) awaits.taken .service

theorem askService_waking {s : State} {t : Taken} (awaits : s.Awaits .setMode t) (mode : s.modes.mode = .waking) :
    s.askService = { s with
      mgmt := { s.mgmt with taken := some { t with decided := true } }, modes := { s.modes with waiting := some .service } } := by
  unfold State.askService
  rw [mode]
  exact modeWaits_taken awaits.taken .service

theorem askService_standby {s : State} (mode : s.modes.mode = .standby) :
    s.askService = ((s.modeWaits .service).enterWaking).finish := by
  unfold State.askService
  rw [mode]

/-- The part as WAKING begins, before its ports wake: the mode, and MODE_CHANGE (R173). -/
def wakeBegun (s : State) : State :=
  (s.onModes fun m => { m with mode := .waking, phase := .none, wakeRequested := false }).raise .modeChange

/-- WAKING wakes the sleeping ports and changes nothing else of what `wakeBegun` leaves but serial numbers and counters. -/
theorem enterWaking_wakes {s : State} (scan : ∀ c, s.scan.context = some c → c.kind = .patrol) (save : s.store.save = none)
    (rests : ∀ u, (s.port u).state = .sleeping → (s.port u).desired ≠ .offline ∧ (s.port u).Rests) :
    (∃ n p c, s.enterWaking = { wakeBegun s with nextId := n, ports := p, counters := c }) ∧
    ∀ u, ((s.port u).state ≠ .sleeping → s.enterWaking.port u = s.port u) ∧
      ((s.port u).state = .sleeping → ∃ n, s.enterWaking.port u = s.attachBegun (s.port u) true n) := by
  obtain ⟨⟨n, p, c, wakes, -⟩, ports⟩ := wakeAll_wakes (s := wakeBegun s) scan save rests
  exact ⟨⟨n, p, c, wakes⟩, ports⟩

/-! ### SET_MODE STANDBY -/

theorem toStandby_refused {s : State} {t : Taken} (awaits : s.Awaits .setMode t)
    (mode : s.modes.mode = .config ∨ s.modes.mode = .waking ∨ (s.modes.mode = .service ∧ s.mgmt.params.standbyDisabled = true)) :
    s.toStandby = s.answered t .wrongMode (le1 s.modes.mode.code) := by
  rw [← modeEnds_awaited awaits]
  unfold State.toStandby
  rcases mode with mode | mode | ⟨mode, disabled⟩ <;> rw [mode]
  exact if_pos disabled

theorem toStandby_reached {s : State} {t : Taken} (awaits : s.Awaits .setMode t)
    (mode : s.modes.mode = .enteringStandby ∨ s.modes.mode = .standby) :
    s.toStandby = s.answered t .done (le1 s.modes.mode.code) := by
  rw [← modeEnds_awaited awaits]
  unfold State.toStandby
  rcases mode with mode | mode <;> rw [mode]

theorem toStandby_enters {s : State} (mode : s.modes.mode = .service) (enabled : s.mgmt.params.standbyDisabled = false)
    (drained : s.drained = true) : s.toStandby = (s.enterStandby.modeEnds .done).finish := by
  unfold State.toStandby
  rw [mode]
  dsimp only
  rw [if_neg (by rw [enabled]; exact Bool.false_ne_true), if_pos drained]

theorem toStandby_drains {s : State} {t : Taken} (awaits : s.Awaits .setMode t) (mode : s.modes.mode = .service)
    (enabled : s.mgmt.params.standbyDisabled = false) (scan : s.scan.context = none) (busy : ¬ s.drained = true) :
    s.toStandby = { s with
      mgmt := { s.mgmt with taken := some { t with decided := true } }
      modes := { s.modes with
        mode := .draining, phase := .none, drain := .standby, waiting := some .standby, idle := .stopped } } := by
  unfold State.toStandby
  rw [mode]
  dsimp only
  have taken : (s.enterDraining .standby).mgmt.taken = some t := by rw [enterDraining_standby scan]; exact awaits.taken
  have todo : (s.enterDraining .standby).todo = [] := by rw [enterDraining_standby scan]; exact awaits.settled
  rw [if_neg (by rw [enabled]; exact Bool.false_ne_true), if_neg busy, modeWaits_finish taken todo, enterDraining_standby scan,
    refreshIdle_rests (by exact PartMode.noConfusion)]

/-- A SET_MODE STANDBY that enters standby at once: standby is entered, and the command ends DONE. -/
theorem enterStandby_ends {s : State} {t : Taken} (awaits : s.Awaits .setMode t) (scan : s.scan.context = none) :
    s.EntersStandby (s.enterStandby.modeEnds .done).finish ∧
    s.Answers (s.enterStandby.modeEnds .done).finish t .done (le1 PartMode.enteringStandby.code) ∧
    (s.enterStandby.modeEnds .done).finish.mgmt.events = s.mgmt.events := by
  obtain ⟨enters, ph, p, c, st, n, form⟩ := enterStandby_enters scan
  have taken : s.enterStandby.mgmt.taken = s.mgmt.taken := by rw [form]
  have todo : s.enterStandby.todo = s.todo := by rw [form]
  have link : s.enterStandby.link = s.link := by rw [form]
  have events : s.enterStandby.mgmt.events = s.mgmt.events := by rw [form]
  have mode : le1 s.enterStandby.modes.mode.code = le1 PartMode.enteringStandby.code := by rw [enters.mode]
  have answers := Params.answers_finish awaits taken link todo .done (le1 s.enterStandby.modes.mode.code)
  unfold State.modeEnds
  rw [mode] at answers ⊢
  refine ⟨?_, answers, ?_⟩ <;> rw [respond_finish_awaited awaits taken todo]
  · exact enters_like enters (refreshIdle_modes_mode _) (refreshIdle_modes_drain _) (refreshIdle_modes_phase _) (refreshIdle_engine _)
      (refreshIdle_map _) (refreshIdle_health _) (refreshIdle_scan _) (refreshIdle_log _) (refreshIdle_ports _) (refreshIdle_store _)
  · rw [refreshIdle_mgmt]
    exact events

/-- Settles O18, by the target and the part mode at the command's own step: one lemma above for each pair that the statement
distinguishes. -/
theorem setModeServesOrRests : Obligations.SetModeServesOrRests := by
  unfold Obligations.SetModeServesOrRests
  intro s t awaits mode data waits entered
  rw [exec_setMode_awaited awaits]
  refine ⟨fun ⟨config, service, standby⟩ => ?_, fun target => ?_, fun target => ?_⟩
  · exact congrArg _ ((changeMode_other s config service standby).trans (modeEnds_awaited awaits _))
  · rw [changeMode_service s target]
    refine ⟨fun v config fails => congrArg _ (toService_fails awaits config fails),
      fun enters scan patrol => congrArg _ (askService_enters awaits enters scan patrol),
      fun service => congrArg _ (askService_service awaits service),
      fun entering phase => congrArg _ (askService_poweringDown awaits entering phase),
      fun waking => congrArg _ (askService_waking awaits waking), fun standby scan save rests => ?_⟩
    rw [askService_standby standby, modeWaits_taken awaits.taken]
    obtain ⟨⟨n, p, c, wakes⟩, ports⟩ := enterWaking_wakes (s := { s with
      mgmt := { s.mgmt with taken := some { t with decided := true } }, modes := { s.modes with waiting := some .service } })
      scan save rests
    refine ⟨_, rfl, ?_⟩
    rw [finish_of_todo_nil (by rw [wakes]; exact awaits.settled)]
    simp only [refreshIdle_modes_mode, refreshIdle_modes_wakeRequested, refreshIdle_modes_waiting, refreshIdle_mgmt, refreshIdle_link,
      refreshIdle_engine, refreshIdle_map, refreshIdle_guard, refreshIdle_store, refreshIdle_port]
    refine ⟨?_, ?_, ?_, ?_, ?_, ?_, ?_, ?_, ?_, ports⟩ <;> rw [wakes] <;> rfl
  · rw [changeMode_standby s target]
    refine ⟨fun refused => congrArg _ (toStandby_refused awaits refused), fun reached => congrArg _ (toStandby_reached awaits reached),
      fun service enabled scan => ⟨fun items save => ?_, fun busy => ?_⟩⟩
    · exact ⟨_, congrArg _ (toStandby_enters service enabled ((drained_iff s).mpr ⟨items, save⟩)), enterStandby_ends awaits scan⟩
    · refine congrArg _ (toStandby_drains awaits service enabled scan fun drained => ?_)
      obtain ⟨items, save⟩ := (drained_iff s).mp drained
      exact busy.elim (· items) (· save)

/-! ### RESET_PART (R141, R169) -/

/-- The part with its command decided and its RESET_PART at a stage. -/
def decided (s : State) (t : Taken) (stage : ResetStage) : State :=
  { s with mgmt := { s.mgmt with taken := some { t with decided := true }, resetStage := stage } }

theorem markDecided_taken {s : State} {t : Taken} (taken : s.mgmt.taken = some t) :
    s.markDecided = decided s t s.mgmt.resetStage := by
  unfold State.markDecided decided
  rw [taken]
  rfl

/-- RESET_PART drains in CONFIG, in SERVICE, and in the saving phase of standby entry, which it abandons (R169). -/
theorem resetBegins_drains {s : State} (mode : s.modes.mode = .config ∨ s.modes.mode = .service ∨
      (s.modes.mode = .enteringStandby ∧ s.modes.phase = .saving ∧ s.scan.context = none ∧ s.mgmt.params.autoPatrol = false)) :
    ∃ modes, s.resetBegins = State.enterDraining
      { s with mgmt := { s.mgmt with resetStage := .drain }, modes := modes } .reset := by
  unfold State.resetBegins
  rcases mode with mode | mode | ⟨mode, phase, scan, patrol⟩ <;> rw [mode]
  · exact ⟨_, rfl⟩
  · exact ⟨_, rfl⟩
  · dsimp only
    rw [phase]
    dsimp only
    rw [State.abandonStandby, enterService_quiet scan patrol]
    exact ⟨_, rfl⟩

/-- The modes in which RESET_PART goes to its save step at once (R169). -/
theorem resetBegins_rests {s : State}
    (rests : (s.modes.mode = .enteringStandby ∧ s.modes.phase = .poweringDown) ∨ s.modes.mode = .standby ∨ s.modes.mode = .waking) :
    s.resetBegins = s.resetSave := by
  unfold State.resetBegins
  rcases rests with ⟨mode, phase⟩ | mode | mode <;> rw [mode]
  dsimp only
  rw [phase]

theorem resetSave_answers {s : State} (clean : ¬ (s.store.state = .dirty ∧ (s.port 0).state = .ready)) :
    s.resetSave = s.respondReset (s.resetData false false) := by
  unfold State.resetSave
  exact if_neg clean

theorem resetSave_saves {s : State} {t : Taken} (taken : s.mgmt.taken = some t)
    (saves : s.store.state = .dirty ∧ (s.port 0).state = .ready) :
    s.resetSave = State.startSave { s with mgmt := { s.mgmt with resetStage := .save } } (some t.record) := by
  unfold State.resetSave
  rw [if_pos saves, taken]
  rfl

/-- What the answer of RESET_PART leaves (R141, log entry 24): the response, its COMPLETION and the part reset due; all else stays but
the counters. -/
theorem respondReset_taken {s : State} {t : Taken} (taken : s.mgmt.taken = some t) (data : List Byte) : ∃ c,
    s.respondReset data = { s with
      mgmt := { s.mgmt with
        taken := none, resetStage := .due, response := { seq := t.seq, code := t.code, result := .done, data := data } }
      link := (s.answered t .done []).link, counters := c } := by
  unfold State.respondReset State.completeW0 State.answered
  rw [taken]
  dsimp only
  cases t.tag <;> exact ⟨_, rfl⟩

/-- Settles O19, by the part mode: the drain, and the save step with a save to make or without one. -/
theorem resetPartDrainsOrAnswers : Obligations.ResetPartDrainsOrAnswers := by
  unfold Obligations.ResetPartDrainsOrAnswers
  intro s t awaits mode rests saves
  rw [exec_resetPart_awaited awaits, markDecided_taken awaits.taken]
  refine ⟨fun drains => ?drains, fun rests clean => ?answers, fun rests saves => ?saves⟩
  case drains =>
    obtain ⟨modes, begins⟩ := resetBegins_drains (s := decided s t s.mgmt.resetStage) drains
    obtain ⟨p, m, e, st, form, -, events⟩ := enterDraining_aborts
      { decided s t s.mgmt.resetStage with
        mgmt := { (decided s t s.mgmt.resetStage).mgmt with resetStage := .drain }, modes := modes } (target := .reset) (by decide)
    rw [begins, form]
    refine ⟨_, rfl, ?_⟩
    rw [finish_of_todo_nil (by exact awaits.settled)]
    simp only [refreshIdle_modes_mode, refreshIdle_modes_drain, refreshIdle_mgmt, refreshIdle_link, refreshIdle_engine,
      refreshIdle_map, refreshIdle_guard]
    exact ⟨trivial, trivial, trivial, rfl, rfl, rfl, rfl, rfl, events⟩
  case answers =>
    obtain ⟨c, form⟩ := respondReset_taken (s := decided s t s.mgmt.resetStage) rfl
      ((decided s t s.mgmt.resetStage).resetData false false)
    rw [resetBegins_rests (s := decided s t _) rests, resetSave_answers (s := decided s t _) clean, form]
    refine ⟨_, rfl, ?_⟩
    rw [finish_of_todo_nil (by exact awaits.settled)]
    simp only [refreshIdle_modes_mode, refreshIdle_mgmt, refreshIdle_link, refreshIdle_engine, refreshIdle_map, refreshIdle_ports,
      refreshIdle_store]
    exact ⟨trivial, rfl, trivial, rfl, rfl, rfl, rfl, rfl, rfl, rfl⟩
  case saves =>
    obtain ⟨p, c, st, n, form, saving, -, -, -, -, -, -, -, r, save, step, command, -⟩ :=
      startSave_eq (s := decided s t .save) saves.2 (some t.record)
    have begins := (resetBegins_rests (s := decided s t s.mgmt.resetStage) rests).trans
      ((resetSave_saves (s := decided s t s.mgmt.resetStage) rfl saves).trans form)
    refine ⟨_, r, rfl, ?_⟩
    rw [begins, finish_of_todo_nil (by exact awaits.settled)]
    simp only [refreshIdle_modes_mode, refreshIdle_mgmt, refreshIdle_link, refreshIdle_engine, refreshIdle_map, refreshIdle_store]
    exact ⟨rfl, rfl, rfl, saving, save, step, command, rfl, rfl, rfl, rfl⟩

end Sys2Proof.Proofs.ModeCommands
end

section
/-!
PROOFS. The commands of saves and scans: SAVE (R185), SCAN_START (R124) and SCAN_ABORT (R125).
-/

namespace Sys2Proof.Proofs.SaveAndScanCommands

open Sys2Proof Sys2Proof.Machine Sys2Proof.Laws

/-! ### SAVE (R185) -/

theorem exec_save_awaited {s : State} {t : Taken} (awaits : s.Awaits .save t) : exec .save s = .next (s.saveCommand t) :=
  Regions.whenUp_carry_awaited awaits State.saveCommand

/-- The mode stage of SAVE and SCAN_START, as their meanings test it. -/
theorem barred_iff (m : PartMode) : (m ≠ .config ∧ m ≠ .service) ↔ ¬ (m = .config ∨ m = .service) := not_or.symm

theorem saveCommand_accepted {s : State} {t : Taken} (allowed : t.mode = .config ∨ t.mode = .service)
    (store : s.store.state ≠ .absent) (ready : (s.port 0).state = .ready) : s.saveCommand t = s.saveAccepted := by
  unfold State.saveCommand
  rw [if_neg ((barred_iff _).not_left.mpr allowed), if_neg store, if_neg (not_not.mpr ready)]

/-- The part whose retry hold an accepted SAVE has cleared. -/
def unheld (s : State) : State := { s with store := { s.store with retryHold := false } }

theorem saveAccepted_asks {s : State} {t : Taken} (awaits : s.Awaits .save t) {r : SaveRecord} (runs : s.store.save = some r) :
    s.saveAccepted = State.answered { s with store := { s.store with retryHold := false, saveAsked := true } } t .done
      (flag false ++ le1 s.store.state.code ++ le4 s.store.generation.toNat) := by
  unfold State.saveAccepted
  dsimp only
  split
  · next none => exact nomatch runs.symm.trans none
  · exact respond_awaited_of (x := (unheld s).askSave) awaits rfl _ _

theorem saveAccepted_starts {s : State} (rests : s.store.save = none) : s.saveAccepted =
    (((unheld s).startSave none).respond .done (((unheld s).startSave none).saveData true)).finish := by
  unfold State.saveAccepted
  dsimp only
  split
  · rfl
  · next running => exact nomatch rests.symm.trans running

/-- Settles O20, by the stages of R185: the refusals in their order, a save that runs, and a save that starts (`startSave_eq`). -/
theorem saveStartsOrAsksForASave : Obligations.SaveStartsOrAsksForASave := by
  unfold Obligations.SaveStartsOrAsksForASave
  intro s t awaits allowed accepted
  rw [exec_save_awaited awaits]
  refine ⟨fun barred => ?mode, fun ⟨allowed, absent⟩ => ?store, fun ⟨allowed, present, unready⟩ => ?unit,
    fun r ⟨⟨allowed, present, ready⟩, runs⟩ => ?runs, fun ⟨⟨allowed, present, ready⟩, rests⟩ => ?starts⟩
  case mode => rw [State.saveCommand, if_pos ((barred_iff _).mpr barred), respond_awaited awaits]
  case store =>
    rw [State.saveCommand, if_neg ((barred_iff _).not_left.mpr allowed), if_pos absent, respond_awaited awaits]
  case unit =>
    rw [State.saveCommand, if_neg ((barred_iff _).not_left.mpr allowed), if_neg present, if_pos unready, respond_awaited awaits]
  case runs => rw [saveCommand_accepted allowed present ready, saveAccepted_asks awaits runs]
  case starts =>
    rw [saveCommand_accepted allowed present ready, saveAccepted_starts rests]
    obtain ⟨p, c, st, n, form, saving, asked, -, hold, generation, -, -, -, r, save, step, -, image⟩ :=
      startSave_eq (s := unheld s) ready none
    have data : ((unheld s).startSave none).saveData true =
        flag true ++ le1 StoreState.saving.code ++ le4 s.store.generation.toNat := by
      rw [State.saveData, form, saving, generation]
      rfl
    have taken : ((unheld s).startSave none).mgmt.taken = s.mgmt.taken := by rw [form]; rfl
    have todo : ((unheld s).startSave none).todo = s.todo := by rw [form]; rfl
    have link : ((unheld s).startSave none).link = s.link := by rw [form]; rfl
    rw [data]
    refine ⟨_, r, rfl, Params.answers_finish awaits taken link todo _ _, ?_⟩
    rw [respond_finish_awaited awaits taken todo, form]
    simp only [refreshIdle_store, refreshIdle_map, refreshIdle_guard, refreshIdle_engine, refreshIdle_health, refreshIdle_log]
    exact ⟨saving, save, hold, asked, generation, step, image, rfl, rfl, rfl, rfl, rfl⟩

/-! ### A scan that starts (R124) -/

/-- The part with a new scan in a state. -/
def scanning (s : State) (state : ScanState) (kind : ScanKind) (unit : Option (Fin 4)) : State :=
  { s with scan := { s.scan with state := state, context := some (ScanContext.fresh kind unit) } }

/-- A PATROL that starts while the quiet flag is clear is SUSPENDED and cuts nothing. -/
theorem startScan_suspended {s : State} (unquiet : s.scan.quiet = false) (unit : Option (Fin 4)) :
    s.startScan .patrol unit = scanning s .suspended .patrol unit := by
  have state : (if ScanKind.patrol = .patrol ∧ s.scan.quiet = false then ScanState.suspended else .running) = .suspended :=
    if_pos ⟨rfl, unquiet⟩
  have waits : ¬ ScanState.suspended = .running := nofun
  unfold State.startScan
  dsimp only
  rw [state, if_neg waits]
  exact scanCut_suspended (scanning s .suspended .patrol unit) rfl

/-- Any other scan starts RUNNING and cuts. -/
theorem startScan_running {s : State} {kind : ScanKind} (runs : ¬ (kind = .patrol ∧ s.scan.quiet = false)) (unit : Option (Fin 4)) :
    s.startScan kind unit = (scanning s .running kind unit).stopIdle.scanCut := by
  unfold State.startScan
  dsimp only
  rw [if_neg runs, if_pos rfl]
  rfl

/-- What a started scan needs to cut: a mode that scans, and no VERIFY of an earlier scan still about (R110, R112). -/
structure MayCut (s : State) : Prop where
  mode : s.modes.mode = .config ∨ s.modes.mode = .service
  free : s.scanBusy = false

theorem MayCut.scans {s : State} (may : MayCut s) : s.modes.mode.scans = true := by
  rcases may.mode with mode | mode <;> rw [mode] <;> rfl

/-- A scan that starts RUNNING and finds an extent at a unit at rest sends its VERIFY there. -/
theorem scanning_sends {s : State} {kind : ScanKind} {unit : Option (Fin 4)} (may : MayCut s) {c : ScanContext} {y : Extent}
    (finds : s.scanFind scanFuel (ScanContext.fresh kind unit) = (c, some y)) (serves : (s.port y.unit).state.serves = true)
    (rests : (s.port y.unit).Rests) (attach : (s.port y.unit).attachPlace = none) :
    (scanning s .running kind unit).stopIdle.scanCut = { s with
      scan := { s.scan with
        state := .running, context := some { c with current := some { extent := y, retried := false, stamp := some s.nextId } } }
      modes := { s.modes with idle := .stopped }
      nextId := s.nextId + 1, counters := opCounted s y.unit
      ports := s.ports.set y.unit (s.sendsFirst (s.port y.unit) (mkOp .verify y.first y.count .scan s.nextId [])) } := by
  have finds' := (find_like (s := s) (x := (scanning s .running kind unit).stopIdle) rfl rfl scanFuel _).trans finds
  rw [scanCut_finds (s := (scanning s .running kind unit).stopIdle) rfl rfl rfl may.scans rfl may.free finds',
    offerScan_sends (s := (scanning s .running kind unit).stopIdle) serves rests attach]
  rfl

/-- A scan that starts RUNNING and finds nothing ends NO_COVERAGE. -/
theorem scanning_ends {s : State} {kind : ScanKind} {unit : Option (Fin 4)} (may : MayCut s) {c : ScanContext}
    (finds : s.scanFind scanFuel (ScanContext.fresh kind unit) = (c, none)) :
    (scanning s .running kind unit).stopIdle.scanCut = { s with
      scan := { s.scan with state := .idle, context := none,
                            log := pushBounded 16 s.scan.log (endEntry s (ScanContext.fresh kind unit) .noCoverage) }
      modes := { s.modes with idle := .stopped }
      mgmt := { s.mgmt with events := s.mgmt.events ||| Event.scanEnded.bit }, store := s.store.dirtied } := by
  have finds' := (find_like (s := s) (x := (scanning s .running kind unit).stopIdle) rfl rfl scanFuel _).trans finds
  rw [scanCut_ends (s := (scanning s .running kind unit).stopIdle) rfl rfl rfl may.scans rfl may.free finds' rfl,
    endScan_rests (s := (scanning s .running kind unit).stopIdle) rfl (by intro v none; exact nomatch none)]
  rfl

/-! ### SCAN_START (R124) -/

theorem exec_scanStart_awaited {s : State} {t : Taken} (awaits : s.Awaits .scanStart t) :
    exec .scanStart s = .next (s.scanStart t) := Regions.whenUp_carry_awaited awaits State.scanStart

theorem exec_scanAbort_awaited {s : State} {t : Taken} (awaits : s.Awaits .scanAbort t) :
    exec .scanAbort s = .next s.scanAbort := Regions.whenUp_carry_awaited awaits fun s _ => s.scanAbort

theorem scanStart_barred {s : State} {t : Taken} (barred : ¬ (t.mode = .config ∨ t.mode = .service)) :
    s.scanStart t = s.respond .wrongMode [] := by
  unfold State.scanStart
  rw [if_pos ((barred_iff _).mpr barred)]

theorem scanStart_noKind {s : State} {t : Taken} (allowed : t.mode = .config ∨ t.mode = .service)
    (noKind : ScanKind.ofCode (t.p1 0) = none) : s.scanStart t = s.respond .invalidParameter [] := by
  unfold State.scanStart
  rw [if_neg ((barred_iff _).not_left.mpr allowed), noKind]

theorem scanStart_patrol {s : State} {t : Taken} (allowed : t.mode = .config ∨ t.mode = .service)
    (patrol : t.p1 0 = ScanKind.patrol.code) : s.scanStart t = s.scanAccepted .patrol none := by
  unfold State.scanStart
  rw [if_neg ((barred_iff _).not_left.mpr allowed), patrol]
  rfl

/-- A CHECK by the unit it names (R124). -/
theorem scanStart_check {s : State} {t : Taken} (allowed : t.mode = .config ∨ t.mode = .service) {kind : ScanKind}
    (names : ScanKind.ofCode (t.p1 0) = some kind) (check : kind ≠ .patrol) : s.scanStart t =
      match unitOf (t.p1 1) with
      | none => s.respond .invalidParameter []
      | some u => if (s.port u).state.serves then s.scanAccepted kind (some u) else s.respond .unitUnavailable [] := by
  unfold State.scanStart
  rw [if_neg ((barred_iff _).not_left.mpr allowed), names]
  exact if_neg check

theorem kind_ofCode (kind : ScanKind) : ScanKind.ofCode kind.code = some kind := by cases kind <;> rfl

/-- An accepted SCAN_START on an engine that is IDLE. -/
theorem scanAccepted_idle {s : State} (idle : s.scan.state = .idle) {kind : ScanKind} (unit : Option (Fin 4))
    (runs : ¬ (kind = .patrol ∧ s.scan.quiet = false)) : s.scanAccepted kind unit =
      ((scanning s .running kind unit).stopIdle.scanCut.respond .done
        (le1 kind.code ++ optionalUnit unit ++ le1 ScanState.running.code)).finish := by
  unfold State.scanAccepted
  dsimp only
  rw [if_pos idle, if_neg runs, startScan_running runs]

/-- A state after a change of the scan engine, the ports, the events and the store alone. -/
structure ScanChanged (s x : State) : Prop where
  taken : x.mgmt.taken = s.mgmt.taken
  link : x.link = s.link
  todo : x.todo = s.todo
  map : x.map = s.map
  engine : x.engine = s.engine
  guard : x.guard = s.guard
  mode : x.modes.mode = s.modes.mode

/-- An accepted PATROL while the quiet flag is clear: the scan under way ends, if there is one, and the new one is SUSPENDED. -/
theorem scanAccepted_suspended {s : State} (unquiet : s.scan.quiet = false) : ∃ x, s.scanAccepted .patrol none =
      (x.respond .done (le1 ScanKind.patrol.code ++ zeros 2 ++ le1 ScanState.suspended.code)).finish ∧ ScanChanged s x ∧
    x.scan.state = .suspended ∧ x.scan.context = some (ScanContext.fresh .patrol none) ∧
    (s.scan.state ≠ .idle → ∀ c, s.scan.context = some c →
      x.scan.log = pushBounded 16 s.scan.log (endEntry s c .abortedByCommand)) := by
  unfold State.scanAccepted
  dsimp only
  by_cases idle : s.scan.state = .idle
  · rw [if_pos idle, if_pos ⟨rfl, unquiet⟩, startScan_suspended unquiet]
    exact ⟨_, rfl, ⟨rfl, rfl, rfl, rfl, rfl, rfl, rfl⟩, rfl, rfl, fun busy => absurd idle busy⟩
  · rw [if_neg idle]
    cases scan : s.scan.context with
    | none =>
      rw [endScan_none scan, if_pos ⟨rfl, unquiet⟩, startScan_suspended unquiet]
      exact ⟨_, rfl, ⟨rfl, rfl, rfl, rfl, rfl, rfl, rfl⟩, rfl, rfl, fun _ c held => nomatch held⟩
    | some c =>
      obtain ⟨p, ends⟩ := endScan_some scan .abortedByCommand
      rw [ends, if_pos ⟨rfl, unquiet⟩, startScan_suspended (by exact unquiet)]
      exact ⟨_, rfl, ⟨rfl, rfl, rfl, rfl, rfl, rfl, rfl⟩, rfl, rfl, fun _ d held => by rw [← Option.some.inj held]; rfl⟩

/-! ### SCAN_ABORT (R125) -/

theorem scanAbort_idle {s : State} (idle : s.scan.state = .idle) : s.scanAbort = s.respond .done [] := if_pos idle

/-- The newest entry of a log that receives one is that one. -/
theorem getLast_pushBounded {α : Type} {n : Nat} (some_ : 0 < n) (l : List α) (x : α) : (pushBounded n l x).getLast? = some x := by
  unfold pushBounded
  rw [List.getLast?_drop, if_neg (by rw [List.length_append, List.length_singleton]; omega), List.getLast?_concat]

theorem scanAbort_ends {s : State} (busy : s.scan.state ≠ .idle) {c : ScanContext} (held : s.scan.context = some c) :
    ∃ p x, x = { s with
      ports := p
      scan := { s.scan with
        state := .idle, context := none, log := pushBounded 16 s.scan.log (endEntry s c .abortedByCommand) }
      mgmt := { s.mgmt with events := s.mgmt.events ||| Event.scanEnded.bit }
      store := s.store.dirtied } ∧
    s.scanAbort = (x.respond .done (endEntry s c .abortedByCommand).bytes).finish := by
  obtain ⟨p, ends⟩ := endScan_some held .abortedByCommand
  refine ⟨p, _, ends, ?_⟩
  have newest : (s.endScan .abortedByCommand).scan.log.getLast? = some (endEntry s c .abortedByCommand) := by
    rw [ends]
    exact getLast_pushBounded (by decide) _ _
  unfold State.scanAbort
  rw [if_neg busy]
  dsimp only
  rw [newest]
  rfl

/-! ### The two commands -/

/-- The two forms of a scan that starts RUNNING are accepted. -/
theorem scanStart_running {s : State} {t : Taken} (allowed : t.mode = .config ∨ t.mode = .service) {kind : ScanKind}
    {unit : Option (Fin 4)} (names : t.p1 0 = kind.code)
    (form : (kind = .patrol ∧ unit = none ∧ s.scan.quiet = true) ∨
      (kind ≠ .patrol ∧ ∃ u : Fin 4, unit = some u ∧ t.p1 1 = u.val ∧ (s.port u).state.serves = true)) :
    s.scanStart t = s.scanAccepted kind unit ∧ ¬ (kind = .patrol ∧ s.scan.quiet = false) := by
  rcases form with ⟨patrol, noUnit, quiet⟩ | ⟨check, u, isUnit, inParameter, serves⟩
  · subst patrol noUnit
    exact ⟨scanStart_patrol allowed names, fun ⟨_, unquiet⟩ => nomatch quiet.symm.trans unquiet⟩
  · subst isUnit
    rw [scanStart_check allowed (by rw [names, kind_ofCode]) check, inParameter, UnitPorts.unitOf_val]
    exact ⟨if_pos serves, fun ⟨patrol, _⟩ => check patrol⟩

/-- Settles O21: the stages of SCAN_START in their order, a PATROL that starts SUSPENDED, a scan that starts RUNNING and sends its first
VERIFY or ends without coverage, and SCAN_ABORT of an IDLE engine and of a scan under way. -/
theorem scanCommandsStartAndEndScans : Obligations.ScanCommandsStartAndEndScans := by
  unfold Obligations.ScanCommandsStartAndEndScans
  intro s t allowed check fresh ended
  refine ⟨fun awaits => ?start, fun awaits => ?abort⟩
  case start =>
    rw [exec_scanStart_awaited awaits]
    refine ⟨fun barred => ?mode, fun allowed refused => ?parameter, fun u allowed check inParameter down => ?unit,
      fun allowed patrol unquiet => ?suspended, fun kind unit form allowed mode names idle free => ?running⟩
    case mode => rw [scanStart_barred barred, respond_awaited awaits]
    case parameter =>
      rw [← respond_awaited awaits]
      rcases refused with ⟨noPatrol, noCheck⟩ | ⟨check, beyond⟩
      · rw [scanStart_noKind allowed (kindOf_none noPatrol noCheck)]
      · obtain ⟨kind, names, isCheck⟩ := kindOf_check check
        rw [scanStart_check allowed names isCheck, UnitPorts.unitOf_beyond beyond]
    case unit =>
      obtain ⟨kind, names, isCheck⟩ := kindOf_check check
      have refuses : ¬ (s.port u).state.serves = true := by rw [down]; exact Bool.false_ne_true
      rw [scanStart_check allowed names isCheck, inParameter, UnitPorts.unitOf_val]
      dsimp only
      rw [if_neg refuses, respond_awaited awaits]
    case suspended =>
      obtain ⟨x, accepted, changed, state, context, log⟩ := scanAccepted_suspended unquiet
      rw [scanStart_patrol allowed patrol, accepted]
      refine ⟨_, rfl, Params.answers_finish awaits changed.taken changed.link changed.todo _ _, ?_⟩
      rw [respond_finish_awaited awaits changed.taken changed.todo]
      simp only [refreshIdle_scan, refreshIdle_map, refreshIdle_engine, refreshIdle_guard, refreshIdle_modes_mode]
      exact ⟨state, context, changed.map, changed.engine, changed.guard, changed.mode, log⟩
    case running =>
      obtain ⟨accepts, runs⟩ := scanStart_running allowed names form
      intro data
      have same : data = le1 kind.code ++ optionalUnit unit ++ le1 ScanState.running.code := by
        rcases form with ⟨-, rfl, -⟩ | ⟨-, u, rfl, -⟩ <;> rfl
      rw [accepts, scanAccepted_idle idle unit runs, same]
      refine ⟨fun c y finds serves rests attach => ?_, fun c finds => ?_⟩
      · have sends := scanning_sends ⟨mode, free⟩ finds serves rests attach
        have taken : (scanning s .running kind unit).stopIdle.scanCut.mgmt.taken = s.mgmt.taken := by rw [sends]
        have link : (scanning s .running kind unit).stopIdle.scanCut.link = s.link := by rw [sends]
        have todo : (scanning s .running kind unit).stopIdle.scanCut.todo = s.todo := by rw [sends]
        refine ⟨_, rfl, Params.answers_finish awaits taken link todo _ _, ?_⟩
        rw [respond_finish_awaited awaits taken todo, sends]
        simp only [refreshIdle_scan, refreshIdle_map, refreshIdle_engine, refreshIdle_guard, refreshIdle_modes_mode, refreshIdle_ports]
        exact ⟨rfl, rfl, rfl, rfl, rfl, rfl, rfl, rfl⟩
      · have ends := scanning_ends ⟨mode, free⟩ finds
        have taken : (scanning s .running kind unit).stopIdle.scanCut.mgmt.taken = s.mgmt.taken := by rw [ends]
        have link : (scanning s .running kind unit).stopIdle.scanCut.link = s.link := by rw [ends]
        have todo : (scanning s .running kind unit).stopIdle.scanCut.todo = s.todo := by rw [ends]
        refine ⟨_, rfl, Params.answers_finish awaits taken link todo _ _, ?_⟩
        rw [respond_finish_awaited awaits taken todo, ends]
        simp only [refreshIdle_scan, refreshIdle_map, refreshIdle_engine, refreshIdle_guard, refreshIdle_mgmt, refreshIdle_ports]
        exact ⟨rfl, rfl, rfl, rfl, rfl, rfl, rfl, rfl⟩
  case abort =>
    rw [exec_scanAbort_awaited awaits]
    refine ⟨fun idle => by rw [scanAbort_idle idle, respond_awaited awaits], fun c busy held => ?_⟩
    obtain ⟨p, x, form, aborts⟩ := scanAbort_ends busy held
    have taken : x.mgmt.taken = s.mgmt.taken := by rw [form]
    have link : x.link = s.link := by rw [form]
    have todo : x.todo = s.todo := by rw [form]
    rw [aborts]
    refine ⟨_, rfl, Params.answers_finish awaits taken link todo _ _, ?_⟩
    rw [respond_finish_awaited awaits taken todo, form]
    simp only [refreshIdle_scan, refreshIdle_map, refreshIdle_engine, refreshIdle_guard, refreshIdle_mgmt, refreshIdle_store]
    exact ⟨rfl, rfl, rfl, rfl, rfl, rfl, rfl, rfl, rfl⟩

end Sys2Proof.Proofs.SaveAndScanCommands
end

section
/-!
PROOFS. The commands that change the tables: their stages (R136, R148), regions (R5 to R8), pins (R22 to R25), learned entries (R31),
spare pools (R36) and the watch list (R97).
-/

namespace Sys2Proof.Proofs.TableCommands

open Sys2Proof Sys2Proof.Machine Sys2Proof.Laws

variable {s : State} {t : Taken}

/-! ### The commands, once taken -/

theorem exec_regionWrite_awaited (awaits : s.Awaits .regionWrite t) : exec .regionWrite s = .next (s.regionWrite t) :=
  Regions.whenUp_carry_awaited awaits State.regionWrite

theorem exec_regionClear_awaited (awaits : s.Awaits .regionClear t) : exec .regionClear s = .next (s.regionClear t) :=
  Regions.whenUp_carry_awaited awaits State.regionClear

theorem exec_pinWrite_awaited (awaits : s.Awaits .pinWrite t) : exec .pinWrite s = .next (s.pinWrite t) :=
  Regions.whenUp_carry_awaited awaits State.pinWrite

theorem exec_pinClear_awaited (awaits : s.Awaits .pinClear t) : exec .pinClear s = .next (s.pinClear t) :=
  Regions.whenUp_carry_awaited awaits State.pinClear

theorem exec_remapDelete_awaited (awaits : s.Awaits .remapDelete t) : exec .remapDelete s = .next (s.remapDelete t) :=
  Regions.whenUp_carry_awaited awaits State.remapDelete

theorem exec_spareLoad_awaited (awaits : s.Awaits .spareLoad t) : exec .spareLoad s = .next (s.spareLoad t) :=
  Regions.whenUp_carry_awaited awaits State.spareLoad

theorem exec_watchClear_awaited (awaits : s.Awaits .watchClear t) : exec .watchClear s = .next (s.watchClear t) :=
  Regions.whenUp_carry_awaited awaits State.watchClear

/-! ### The stages of mode and guard (R136, R148) -/

/-- A command that the stages of mode and guard answer before it reads anything else. -/
def Staged (f : State → Taken → State) : Prop := ∀ s t r, s.tableStages t = some r → f s t = s.respond r []

theorem regionWrite_staged : Staged State.regionWrite := fun _ _ _ stopped => by unfold State.regionWrite; rw [stopped]

theorem regionClear_staged : Staged State.regionClear := fun _ _ _ stopped => by unfold State.regionClear; rw [stopped]

theorem pinWrite_staged : Staged State.pinWrite := fun _ _ _ stopped => by unfold State.pinWrite; rw [stopped]

theorem pinClear_staged : Staged State.pinClear := fun _ _ _ stopped => by unfold State.pinClear; rw [stopped]

theorem remapDelete_staged : Staged State.remapDelete := fun _ _ _ stopped => by unfold State.remapDelete; rw [stopped]

theorem spareLoad_staged : Staged State.spareLoad := fun _ _ _ stopped => by unfold State.spareLoad; rw [stopped]

/-- The answers of a staged command before it meets its table, where `Bad` is what its parameter stage refuses. -/
theorem staged_answers {i : Instr} {c : Command} {f : State → Taken → State} {Bad : Prop} (awaits : s.Awaits c t)
    (runs : exec i s = .next (f s t)) (staged : Staged f)
    (refuses : s.tableStages t = none → Bad → f s t = s.respond .invalidParameter []) :
    (t.mode ≠ .config → exec i s = .next (s.answered t .wrongMode [])) ∧
    (t.mode = .config → s.guard.state = .locked ∨ s.guard.state = .erasing ∨ s.guard.state = .eraseIncomplete →
      exec i s = .next (s.answered t .locked [])) ∧
    (t.mode = .config → s.guard.state = .disabled ∨ s.guard.state = .opened → Bad →
      exec i s = .next (s.answered t .invalidParameter [])) := by
  simp only [runs, ← respond_awaited awaits]
  refine ⟨fun mode => ?_, fun mode guarded => ?_, fun mode open_ bad => ?_⟩
  · rw [staged _ _ _ (stages_mode mode)]
  · rw [staged _ _ _ (stages_guard mode guarded)]
  · rw [refuses (stages_none mode open_) bad]

/-! ### The parameter stages -/

theorem regionIndex_beyond {n : Nat} (beyond : 16 ≤ n) : regionIndex n = none := dif_neg (Nat.not_lt.mpr beyond)

theorem inRange_iff (e : RegionEntry) :
    e.inRange = true ↔ 1 ≤ e.count ∧ e.logical + e.count ≤ 4294967292 ∧ e.physical + e.count ≤ 4294967296 := by
  simp only [RegionEntry.inRange, Bool.and_eq_true, decide_eq_true_eq, and_assoc]
  rfl

theorem regionWriteOf_beyond {n : Nat} {payload : List Byte} (bad : 16 ≤ n ∨ regionEntryOf payload = none ∨ ∃ e,
    regionEntryOf payload = some e ∧ (e.count = 0 ∨ 4294967292 < e.logical + e.count ∨ 4294967296 < e.physical + e.count)) :
    regionWriteOf n payload = none := by
  unfold regionWriteOf
  rcases bad with index | noEntry | ⟨e, entry, outside⟩
  · simp [regionIndex_beyond index]
  · simp [noEntry]
  · have notInRange : ¬ e.inRange = true := by rw [inRange_iff]; omega
    simp [entry, notInRange]

theorem regionWriteOf_inRange (i : Fin 16) {payload : List Byte} {e : RegionEntry} (entry : regionEntryOf payload = some e)
    (inRange : e.inRange = true) : regionWriteOf i.val payload = some (i, e) := by
  simp [regionWriteOf, regionIndex_some, entry, inRange]

theorem regionWrite_refuses (passed : s.tableStages t = none) (bad : 16 ≤ t.p2 0 ∨ regionEntryOf t.payload = none ∨ ∃ e,
    regionEntryOf t.payload = some e ∧ (e.count = 0 ∨ 4294967292 < e.logical + e.count ∨ 4294967296 < e.physical + e.count)) :
    s.regionWrite t = s.respond .invalidParameter [] := by
  unfold State.regionWrite; rw [passed, regionWriteOf_beyond bad]

theorem regionWrite_at (passed : s.tableStages t = none) {i : Fin 16} (index : t.p2 0 = i.val) {e : RegionEntry}
    (entry : regionEntryOf t.payload = some e) (inRange : e.inRange = true) : s.regionWrite t = s.regionWriteAt i e := by
  unfold State.regionWrite; rw [passed, index, regionWriteOf_inRange i entry inRange]

theorem regionClear_refuses (passed : s.tableStages t = none) (bad : 16 ≤ t.p2 0) :
    s.regionClear t = s.respond .invalidParameter [] := by
  unfold State.regionClear; rw [passed, regionIndex_beyond bad]

theorem regionClear_at (passed : s.tableStages t = none) {i : Fin 16} (index : t.p2 0 = i.val) :
    s.regionClear t = if s.map.regions[i].valid
      then ((s.setRegion i { s.map.regions[i] with valid := false }).respond .done (s.map.regions[i].bytes i.val)).finish
      else s.respond .emptyEntry [] := by
  unfold State.regionClear; rw [passed, index, regionIndex_some]

theorem pinWriteOf_beyond (bad : 32 ≤ t.p2 0 ∨ 4 ≤ t.p1 2 ∨ t.p1 7 ≠ t.p1 2) : t.pinWriteOf = none := by
  unfold Taken.pinWriteOf
  rcases bad with index | unit | units
  · simp [Reads.pinIndex_beyond (Nat.not_lt.mpr index)]
  · simp [UnitPorts.unitOf_beyond unit]
  · by_cases unit : t.p1 2 < 4
    · have named : unitOf (t.p1 2) = some ⟨t.p1 2, unit⟩ := UnitPorts.unitOf_val ⟨t.p1 2, unit⟩
      simp [named, units]
    · simp [UnitPorts.unitOf_beyond (Nat.not_lt.mp unit)]

theorem pinWriteOf_onUnit {i : Fin 32} {u : Fin 4} (index : t.p2 0 = i.val) (source : t.p1 2 = u.val) (target : t.p1 7 = u.val) :
    t.pinWriteOf = some (i, { valid := true, unit := u, source := t.p4 3, target := t.p4 8 }) := by
  unfold Taken.pinWriteOf
  rw [index, source, target, Reads.pinIndex_val, UnitPorts.unitOf_val]
  simp

theorem pinWrite_refuses (passed : s.tableStages t = none) (bad : 32 ≤ t.p2 0 ∨ 4 ≤ t.p1 2 ∨ t.p1 7 ≠ t.p1 2) :
    s.pinWrite t = s.respond .invalidParameter [] := by
  unfold State.pinWrite; rw [passed, pinWriteOf_beyond bad]

theorem pinWrite_at (passed : s.tableStages t = none) {i : Fin 32} {e : PinEntry} (params : t.pinWriteOf = some (i, e)) :
    s.pinWrite t = s.pinWriteAt i e := by
  unfold State.pinWrite; rw [passed, params]

theorem pinClear_refuses (passed : s.tableStages t = none) (bad : 32 ≤ t.p2 0) :
    s.pinClear t = s.respond .invalidParameter [] := by
  unfold State.pinClear; rw [passed, Reads.pinIndex_beyond (Nat.not_lt.mpr bad)]

theorem pinClear_at (passed : s.tableStages t = none) {i : Fin 32} (index : t.p2 0 = i.val) :
    s.pinClear t = if s.map.pins[i].valid
      then ((s.setPin i { s.map.pins[i] with valid := false }).respond .done s.map.pins[i].bytes).finish
      else s.respond .emptyEntry [] := by
  unfold State.pinClear; rw [passed, index, Reads.pinIndex_val]

theorem remapDelete_refuses (passed : s.tableStages t = none) (bad : 512 ≤ t.p2 0) :
    s.remapDelete t = s.respond .invalidParameter [] := by
  unfold State.remapDelete; rw [passed]; simp [Reads.learnedPosition_eq, bad]

theorem extentsInRange_iff (l : List SpareExtent) : extentsInRange l = true ↔
    l.length ≤ 8 ∧ (∀ x ∈ l, 1 ≤ x.count ∧ x.first + x.count ≤ 4294967296) ∧ (l.map fun x => x.count).sum ≤ 65535 := by
  simp only [extentsInRange, Bool.and_eq_true, decide_eq_true_eq, List.all_eq_true, and_assoc]
  rfl

theorem spareLoad_refuses (passed : s.tableStages t = none)
    (bad : 4 ≤ t.p1 0 ∨ 8 < (extentsOf t.payload (t.payloadLength / 8)).length ∨
      (∃ x ∈ extentsOf t.payload (t.payloadLength / 8), x.count = 0 ∨ 4294967296 < x.first + x.count) ∨
      65535 < ((extentsOf t.payload (t.payloadLength / 8)).map fun x => x.count).sum) :
    s.spareLoad t = s.respond .invalidParameter [] := by
  unfold State.spareLoad
  rw [passed]
  dsimp only
  by_cases unit : t.p1 0 < 4
  · have outside : ¬ extentsInRange (extentsOf t.payload (t.payloadLength / 8)) = true := by
      rw [extentsInRange_iff]
      rintro ⟨many, inRange, sum⟩
      rcases bad with far | long | ⟨x, mem, outside⟩ | large
      · omega
      · omega
      · obtain ⟨blocks, last⟩ := inRange x mem
        omega
      · omega
    have named : unitOf (t.p1 0) = some ⟨t.p1 0, unit⟩ := UnitPorts.unitOf_val ⟨t.p1 0, unit⟩
    rw [named]
    exact if_neg outside
  · rw [UnitPorts.unitOf_beyond (Nat.not_lt.mp unit)]

theorem spareLoad_at (passed : s.tableStages t = none) {u : Fin 4} (unit : t.p1 0 = u.val)
    (inRange : extentsInRange (extentsOf t.payload (t.payloadLength / 8)) = true) :
    s.spareLoad t = s.spareLoadAt u (extentsOf t.payload (t.payloadLength / 8)) := by
  unfold State.spareLoad
  rw [passed]
  dsimp only
  rw [unit, UnitPorts.unitOf_val]
  exact if_pos inRange

/-- Settles O22, command by command: mode and guard come first (`staged_answers`), then the command's own parameter stage. -/
theorem tableCommandsPassTheirStages : Obligations.TableCommandsPassTheirStages := by
  unfold Obligations.TableCommandsPassTheirStages
  intro s t l p command awaits
  simp only [List.mem_cons, List.not_mem_nil, or_false] at command
  rcases command with rfl | rfl | rfl | rfl | rfl | rfl
  · exact staged_answers awaits (exec_regionWrite_awaited awaits) regionWrite_staged regionWrite_refuses
  · exact staged_answers awaits (exec_regionClear_awaited awaits) regionClear_staged regionClear_refuses
  · exact staged_answers awaits (exec_pinWrite_awaited awaits) pinWrite_staged pinWrite_refuses
  · exact staged_answers awaits (exec_pinClear_awaited awaits) pinClear_staged pinClear_refuses
  · exact staged_answers awaits (exec_remapDelete_awaited awaits) remapDelete_staged remapDelete_refuses
  · exact staged_answers awaits (exec_spareLoad_awaited awaits) spareLoad_staged spareLoad_refuses

/-! ### Regions and pins -/

/-- Settles O23, by `setRegion_answered` where the region is written or cleared. -/
theorem regionsAreWrittenAndCleared : Obligations.RegionsAreWrittenAndCleared := by
  unfold Obligations.RegionsAreWrittenAndCleared
  intro s t i mode guardOpen index old set
  have passed := stages_none mode guardOpen
  refine ⟨fun awaits e entry blocks logical physical => ?_, fun awaits => ?_⟩
  · rw [exec_regionWrite_awaited awaits, regionWrite_at passed index entry ((inRange_iff e).mpr ⟨blocks, logical, physical⟩),
      State.regionWriteAt]
    refine ⟨fun c conflict => ?_, fun clear => ?_⟩
    · rw [conflict, ← respond_awaited awaits]
    · rw [clear]
      exact congrArg _ (setRegion_answered awaits i e _ _)
  · rw [exec_regionClear_awaited awaits, regionClear_at passed index]
    by_cases valid : s.map.regions[i].valid = true
    · rw [if_pos valid, if_pos valid]
      exact congrArg _ (setRegion_answered awaits i _ _ _)
    · rw [if_neg valid, if_neg valid, respond_awaited awaits]

/-- Settles O24, by `setPin_answered` where the pin is written or cleared. -/
theorem pinsAreWrittenAndCleared : Obligations.PinsAreWrittenAndCleared := by
  unfold Obligations.PinsAreWrittenAndCleared
  intro s t i mode guardOpen index old set
  have passed := stages_none mode guardOpen
  refine ⟨fun u awaits source target => ?_, fun awaits => ?_⟩
  · intro e conflict
    rw [exec_pinWrite_awaited awaits, pinWrite_at passed (pinWriteOf_onUnit index source target), State.pinWriteAt]
    refine ⟨fun c found => ?_, fun clear => ?_⟩
    · rw [show firstConflict [s.pinUnmapped e, s.pinConflict i e] = some c from found, ← respond_awaited awaits]
    · rw [show firstConflict [s.pinUnmapped e, s.pinConflict i e] = none from clear]
      exact congrArg _ (setPin_answered awaits i e _ _)
  · rw [exec_pinClear_awaited awaits, pinClear_at passed index]
    by_cases valid : s.map.pins[i].valid = true
    · rw [if_pos valid, if_pos valid]
      exact congrArg _ (setPin_answered awaits i _ _ _)
    · rw [if_neg valid, if_neg valid, respond_awaited awaits]

/-! ### Learned entries -/

theorem remapDelete_at (passed : s.tableStages t = none) (inRange : t.p2 0 < 512) :
    s.remapDelete t = match s.map.learned[t.p2 0]? with
      | none => s.respond .emptyEntry []
      | some e =>
        if e.unit.val = t.p1 2 ∧ e.source = t.p4 3 then ((s.forget (t.p2 0)).respond .done e.bytes).finish
        else s.respond .conflict (Conflict.naming .sourceMismatch ⟨e.unit, e.source⟩).bytes := by
  unfold State.remapDelete
  rw [passed]
  exact if_neg (by simp [Reads.learnedPosition_eq, inRange])

/-- The part with a learned entry removed and the table-full hold cleared. -/
def forgotten (s : State) (n : Nat) : State :=
  { s with map := { s.map with learned := s.map.learned.eraseIdx n }, health := { s.health with tableFull := false } }

theorem forget_answered {c : Command} (awaits : s.Awaits c t) (n : Nat) (r : CmdResult) (d : List Byte) :
    ((s.forget n).respond r d).finish =
      State.refreshIdle (State.answered { forgotten s n with store := s.store.dirtied } t r d) :=
  dirtied_answered (x := forgotten s n) awaits rfl rfl r d

/-- Settles O25: what stands at the position decides the answer, and `forget_answered` is the entry's removal. -/
theorem remapDeleteRemovesTheEntry : Obligations.RemapDeleteRemovesTheEntry := by
  unfold Obligations.RemapDeleteRemovesTheEntry
  intro s t awaits mode guardOpen inRange
  rw [exec_remapDelete_awaited awaits, remapDelete_at (stages_none mode guardOpen) inRange]
  refine congrArg _ ?_
  cases s.map.learned[t.p2 0]? with
  | none => exact respond_awaited awaits _ _
  | some e =>
    dsimp only
    by_cases expected : e.unit.val = t.p1 2 ∧ e.source = t.p4 3
    · rw [if_pos expected, if_pos expected, forget_answered awaits]
      rfl
    · rw [if_neg expected, if_neg expected, respond_awaited awaits]
      rfl

/-! ### Spare pools -/

/-- A load of a pool: the pool is loaded with the extents, the store is DIRTY on a difference, and events may be raised. -/
theorem loadPool_form (s : State) (u : Fin 4) (l : List SpareExtent) : ∃ events, s.loadPool u l = { s with
    map := { s.map with pools := s.map.pools.set u ((s.map.pools.get u).loadedWith l) }
    store := if (s.map.pools.get u).loadedWith l = s.map.pools.get u then s.store else s.store.dirtied
    mgmt := { s.mgmt with events := events } } := by
  unfold State.loadPool
  by_cases same : (s.map.pools.get u).loadedWith l = s.map.pools.get u
  · refine ⟨s.mgmt.events, ?_⟩
    dsimp only
    rw [if_pos same, if_pos same, same, four_set_get]
  · obtain ⟨events, raised⟩ := evaluateHealth_ev (s.onPool u fun p => p.loadedWith l) (s.unitHealth u) u
    refine ⟨events, ?_⟩
    dsimp only
    rw [if_neg same, if_neg same, raised, onPool_eq]

theorem loadPool_pool (s : State) (u : Fin 4) (l : List SpareExtent) :
    (s.loadPool u l).map.pools.get u = (s.map.pools.get u).loadedWith l := by
  obtain ⟨events, form⟩ := loadPool_form s u l
  rw [form]
  exact four_get_set_self _ _ _

/-- Settles O26: the two checks of the load decide, and `loadPool_form` says what the load changes. -/
theorem spareLoadReplacesThePool : Obligations.SpareLoadReplacesThePool := by
  unfold Obligations.SpareLoadReplacesThePool
  intro s t u awaits mode guardOpen unit l pool many inRange sum
  have loads : exec .spareLoad s = .next (s.spareLoadAt u l) := by
    rw [exec_spareLoad_awaited awaits,
      spareLoad_at (stages_none mode guardOpen) unit ((extentsInRange_iff _).mpr ⟨many, inRange, sum⟩)]
  refine ⟨fun c conflict => ?_, fun clear => ?_⟩
  · rw [loads, State.spareLoadAt, conflict]
    exact congrArg _ (respond_awaited awaits _ _)
  · obtain ⟨events, form⟩ := loadPool_form s u l
    have taken : (s.loadPool u l).mgmt.taken = s.mgmt.taken := by rw [form]
    have todo : (s.loadPool u l).todo = s.todo := by rw [form]
    have link : (s.loadPool u l).link = s.link := by rw [form]
    have ends : s.spareLoadAt u l = ((s.loadPool u l).respond .done pool.bytes).finish := by
      rw [State.spareLoadAt, clear]
      dsimp only
      rw [loadPool_pool]
      rfl
    refine ⟨_, loads, ?_⟩
    rw [ends]
    refine ⟨Proofs.Params.answers_finish awaits taken link todo _ _, ?_⟩
    rw [respond_finish_awaited awaits taken todo]
    simp only [refreshIdle_map, refreshIdle_store, refreshIdle_health, refreshIdle_engine, refreshIdle_ports, refreshIdle_guard]
    rw [form]
    refine ⟨four_get_set_self _ _ _, fun v other => ?_, rfl, rfl, rfl, rfl, rfl, rfl, rfl, rfl⟩
    exact (Four.get_set _ _ _ _).trans (if_neg other)

/-! ### The watch list -/

/-- The part with a watch list; a difference from the one that stood marks the store DIRTY (R88). -/
def watching (s : State) (l : List WatchEntry) : State :=
  { s with health := { s.health with watch := l }, store := if l = s.health.watch then s.store else s.store.dirtied }

theorem setWatch_answered {c : Command} (awaits : s.Awaits c t) (l : List WatchEntry) (r : CmdResult) (d : List Byte) :
    ((s.setWatch l).respond r d).finish = State.refreshIdle ((watching s l).answered t r d) := by
  rw [setWatch_eq]
  exact respond_finish_awaited (x := watching s l) awaits rfl rfl r d

theorem watchClear_one (one : t.p1 0 = 0) : s.watchClear t = s.watchClearOne t := by
  unfold State.watchClear; simp [one]

theorem watchClear_all (all : t.p1 0 = 1) : s.watchClear t = s.watchClearAll := by
  unfold State.watchClear; simp [all]

theorem watchClear_refuses (bad : 1 < t.p1 0 ∨ (t.p1 0 = 0 ∧ 64 ≤ t.p2 1)) :
    s.watchClear t = s.respond .invalidParameter [] := by
  rcases bad with marker | ⟨one, beyond⟩
  · unfold State.watchClear
    split
    · omega
    · omega
    · rfl
  · rw [watchClear_one one, State.watchClearOne, if_pos (by simp [Reads.watchPosition_eq, beyond])]

theorem watchClearOne_empty (inRange : t.p2 1 < 64) (empty : s.health.watch[t.p2 1]? = none) :
    s.watchClearOne t = s.respond .emptyEntry [] := by
  rw [State.watchClearOne, if_neg (by simp [Reads.watchPosition_eq, inRange]), empty]

theorem watchClearOne_held (inRange : t.p2 1 < 64) {e : WatchEntry} (held : s.health.watch[t.p2 1]? = some e) :
    s.watchClearOne t =
      if ¬(e.block.unit.val = t.p1 3 ∧ e.block.block = t.p4 4) then
        s.respond .conflict (Conflict.naming .blockMismatch e.block).bytes
      else if s.health.inRelocation e.block then s.respond .conflict (Conflict.bare .inRelocation).bytes
      else ((s.setWatch (s.health.watch.eraseIdx (t.p2 1))).respond .done e.bytes).finish := by
  rw [State.watchClearOne, if_neg (by simp [Reads.watchPosition_eq, inRange]), held]

/-- Settles O27, by the marker and by what stands at the position; `setWatch_answered` is the removal. -/
theorem watchClearRemovesEntries : Obligations.WatchClearRemovesEntries := by
  unfold Obligations.WatchClearRemovesEntries
  intro s t awaits kept without
  simp only [exec_watchClear_awaited awaits]
  refine ⟨fun bad => ?_, fun all => ?_, fun one inRange => ⟨fun empty => ?_, fun e held => ⟨fun other => ?_, fun unit block => ?_⟩⟩⟩
  · rw [watchClear_refuses bad, respond_awaited awaits]
  · rw [watchClear_all all]
    exact congrArg _ (setWatch_answered awaits kept _ _)
  · rw [watchClear_one one, watchClearOne_empty inRange empty, respond_awaited awaits]
  · rw [watchClear_one one, watchClearOne_held inRange held, if_pos (by tauto), respond_awaited awaits]
    rfl
  · rw [watchClear_one one, watchClearOne_held inRange held, if_neg (not_not.mpr ⟨unit, block⟩)]
    refine ⟨fun moving => ?_, fun still => ?_⟩
    · rw [if_pos moving, respond_awaited awaits]
      rfl
    · rw [if_neg (by simp [still])]
      exact congrArg _ (setWatch_answered awaits _ _ _)

end Sys2Proof.Proofs.TableCommands
end

section
/-!
PROOFS. The tables themselves: their look-ups and checks in order (R6, R11, R12, R19, R20, R23, R36), and the two laws that every
command and every claim keeps.
-/

namespace Sys2Proof.Proofs.TableLaws

open Sys2Proof Sys2Proof.Machine Sys2Proof.Laws

/-! ### Look-ups (R11, R12, R20) -/

/-- Of a test that at most one index passes, the search in order finds that index. -/
theorem find_finRange_iff {n : Nat} {p : Fin n → Bool} (unique : ∀ i j, p i = true → p j = true → i = j) (i : Fin n) :
    (List.finRange n).find? p = some i ↔ p i = true := by
  refine ⟨List.find?_some, fun holds => ?_⟩
  cases found : (List.finRange n).find? p with
  | none => exact absurd holds (List.find?_eq_none.mp found i (List.mem_finRange i))
  | some j => rw [unique i j holds (List.find?_some found)]

theorem holdsLba_iff (r : RegionEntry) (x : Nat) : r.holdsLba x = true ↔ r.valid = true ∧ Within r.logical r.count x := by
  rw [RegionEntry.holdsLba, Bool.and_eq_true, inRun_iff]

theorem regionLookup_iff (m : MapUnit) (lba n : Nat) (i : Fin 16) : m.regionLookup lba n = some i ↔
    regionIndices.find? (fun i => m.regions[i].holdsLba lba) = some i ∧
      (n = 0 ∨ m.regions[i].holdsLba (lba + n - 1) = true) := by
  unfold MapUnit.regionLookup
  cases regionIndices.find? (fun i => m.regions[i].holdsLba lba) with
  | none => simp
  | some j =>
    by_cases whole : n = 0 ∨ m.regions[j].holdsLba (lba + n - 1) = true
    · simp only [if_pos whole, Option.some.injEq]
      exact ⟨fun same => ⟨same, same ▸ whole⟩, fun both => both.1⟩
    · simp only [if_neg whole, Option.some.injEq, reduceCtorEq, false_iff]
      exact fun ⟨same, held⟩ => whole (same ▸ held)

/-- A range of LBAs belongs to the valid region that holds it whole, where no two of them share an LBA (R12). -/
theorem regionLookup_unique {m : MapUnit} (apart : ∀ i j : Fin 16, i ≠ j → m.regions[i].valid = true → m.regions[j].valid = true →
      ¬ Meet m.regions[i].logical m.regions[i].count m.regions[j].logical m.regions[j].count) (lba n : Nat) (i : Fin 16) :
    m.regionLookup lba n = some i ↔ m.regions[i].valid = true ∧ m.regions[i].logical ≤ lba ∧
      lba < m.regions[i].logical + m.regions[i].count ∧ lba + n ≤ m.regions[i].logical + m.regions[i].count := by
  have unique : ∀ i j : Fin 16, m.regions[i].holdsLba lba = true → m.regions[j].holdsLba lba = true → i = j := by
    intro i j holdsI holdsJ
    obtain ⟨validI, firstI, lastI⟩ := (holdsLba_iff _ _).mp holdsI
    obtain ⟨validJ, firstJ, lastJ⟩ := (holdsLba_iff _ _).mp holdsJ
    by_contra other
    exact apart i j other validI validJ ⟨lba, firstI, lastI, firstJ, lastJ⟩
  rw [regionLookup_iff, regionIndices, find_finRange_iff unique, holdsLba_iff, holdsLba_iff]
  constructor
  · rintro ⟨⟨valid, first, last⟩, rest⟩
    refine ⟨valid, first, last, ?_⟩
    rcases rest with none | ⟨-, -, whole⟩
    · omega
    · omega
  · rintro ⟨valid, first, last, whole⟩
    refine ⟨⟨valid, first, last⟩, or_iff_not_imp_left.mpr fun some => ⟨valid, ?_, ?_⟩⟩
    · omega
    · omega

/-- A block of a valid region serves the LBA at its distance, where no two regions of a unit share a block (R11). -/
theorem lbaOf_unique {m : MapUnit} (apart : ∀ i j : Fin 16, i ≠ j → m.regions[i].valid = true → m.regions[j].valid = true →
      m.regions[i].unit = m.regions[j].unit →
      ¬ Meet m.regions[i].physical m.regions[i].count m.regions[j].physical m.regions[j].count) (u : Fin 4) (b x : Nat) :
    m.lbaOf u b = some x ↔ ∃ i, m.MapsAt i u b ∧ x = m.regions[i].logical + (b - m.regions[i].physical) := by
  have unique : ∀ i j : Fin 16, m.regions[i].maps u b = true → m.regions[j].maps u b = true → i = j := by
    intro i j mapsI mapsJ
    obtain ⟨validI, unitI, firstI, lastI⟩ := (maps_iff m i u b).mp mapsI
    obtain ⟨validJ, unitJ, firstJ, lastJ⟩ := (maps_iff m j u b).mp mapsJ
    by_contra other
    exact apart i j other validI validJ (unitI.trans unitJ.symm) ⟨b, firstI, lastI, firstJ, lastJ⟩
  unfold MapUnit.lbaOf MapUnit.regionOf regionIndices
  simp only [Option.map_eq_some_iff, find_finRange_iff unique, maps_iff]
  refine exists_congr fun i => and_congr_right fun ⟨_, _, first, _⟩ => ?_
  omega

theorem findPos_find {α : Type} (p : α → Bool) : ∀ (l : List α) (n : Nat), (findPos p l n).map (fun y => y.2) = l.find? p
  | [], _ => rfl
  | x :: l, n => by
    unfold findPos
    by_cases holds : p x = true
    · rw [if_pos holds, List.find?_cons_of_pos holds]
      rfl
    · rw [if_neg holds, List.find?_cons_of_neg holds, findPos_find p l]

/-- The look-up of a home block is its pin, else its learned entry, else the block itself (R20). -/
theorem lookup_or (m : MapUnit) (u : Fin 4) (h : Nat) : some (m.lookup u h) =
    (((m.pinOf u h).map fun j => (m.pins[j].target, Route.pin)).or
      ((m.learned.find? fun e => e.unit == u && e.source == h).map fun e => (e.target, Route.learned))).or
      (some (h, Route.direct)) := by
  rw [← findPos_find (fun e : LearnedEntry => e.unit == u && e.source == h) m.learned 0]
  unfold MapUnit.lookup MapUnit.learnedOf
  cases m.pinOf u h with
  | some j => rfl
  | none => cases findPos (fun e : LearnedEntry => e.unit == u && e.source == h) m.learned 0 <;> rfl

theorem lookup_first (m : MapUnit) (u : Fin 4) (h : Nat) : FirstOf (some (m.lookup u h))
    ((pinIndices.map fun j => ((m.pins[j].target, Route.pin),
        m.pins[j].valid = true ∧ m.pins[j].unit = u ∧ m.pins[j].source = h)) ++
      (m.learned.map fun e => ((e.target, Route.learned), e.unit = u ∧ e.source = h)) ++ [((h, Route.direct), True)]) := by
  rw [lookup_or]
  refine firstOf_append (firstOf_append ?pins ?learned) ?direct
  case pins => exact firstOf_find (fun j => by simp [and_assoc]) _
  case learned => exact firstOf_find (fun e => by simp) _
  case direct => exact ⟨fun _ => rfl, fun never => absurd trivial never⟩

/-! ### Checks in order -/

theorem firstConflict_pair (a b : Option Conflict) : firstConflict [a, b] = a.or b := by
  rw [firstConflict_cons, firstConflict_cons, firstConflict_nil, Option.or_none]

theorem spareOutstanding_first (m : MapUnit) (u : Fin 4) : FirstOf (m.spareOutstanding u)
    ((m.pools.get u).issued.head?.toList.map fun c =>
      ((⟨.spareOutstanding, .block, none, some ⟨u, c.source⟩⟩ : Conflict), True)) := by
  unfold MapUnit.spareOutstanding
  cases (m.pools.get u).issued.head? with
  | none => rfl
  | some c => exact ⟨fun _ => rfl, fun never => absurd trivial never⟩

/-- Settles O28: each look-up and each list of checks is the first of its table's conditions that holds. -/
theorem tablesAreLookedUpAndChecked : Obligations.TablesAreLookedUpAndChecked := by
  unfold Obligations.TablesAreLookedUpAndChecked
  intro s m
  refine ⟨regionLookup_unique, lbaOf_unique, lookup_first m, region_first s, pinCommand_first s, fun u l blocks => ?_,
    validate_first s⟩
  rw [firstConflict_pair]
  exact firstOf_append (spareOutstanding_first m u) (extent_first s u _ (checked_count l 0 blocks))

/-! ### The laws of the tables -/

variable {s : State} {t : Taken}

theorem setRegion_map (s : State) (i : Fin 16) (e : RegionEntry) :
    (s.setRegion i e).map = { s.map with regions := s.map.regions.set i e } := by
  unfold State.setRegion
  by_cases same : e = s.map.regions[i]
  · rw [if_pos same, same, vector_set_self]
  · rw [if_neg same, markDirty_eq]

theorem setPin_map (s : State) (i : Fin 32) (e : PinEntry) :
    (s.setPin i e).map = { s.map with pins := s.map.pins.set i e } := by
  unfold State.setPin
  by_cases same : e = s.map.pins[i]
  · rw [if_pos same, same, vector_set_self]
  · rw [if_neg same, markDirty_eq]

theorem setPin_todo (s : State) (i : Fin 32) (e : PinEntry) : (s.setPin i e).todo = s.todo := by
  unfold State.setPin
  split <;> rfl

/-- A refusal keeps the law of the tables. -/
theorem respond_lawful (law : s.map.Lawful) (r : CmdResult) (d : List Byte) : (s.respond r d).map.Lawful := by
  rw [respond_map]; exact law

/-- So does the answer that ends a step. -/
theorem finish_lawful (settled : s.todo = []) (law : s.map.Lawful) (r : CmdResult) (d : List Byte) :
    (s.respond r d).finish.map.Lawful := by
  rw [fin_map settled]; exact law

theorem regionWriteAt_lawful (law : s.map.Lawful) (settled : s.todo = []) (i : Fin 16) {e : RegionEntry} (inRange : e.inRange = true) :
    (s.regionWriteAt i e).map.Lawful := by
  unfold State.regionWriteAt
  cases conflict : s.regionConflict i e with
  | some c => exact respond_lawful law _ _
  | none =>
    refine finish_lawful ((setRegion_todo s i e).trans settled) ?_ _ _
    rw [setRegion_map]
    exact set_region_lawful law i e inRange conflict

theorem regionWriteOf_some {n : Nat} {payload : List Byte} {i : Fin 16} {e : RegionEntry}
    (params : regionWriteOf n payload = some (i, e)) : e.inRange = true := by
  unfold regionWriteOf at params
  obtain ⟨_, -, found⟩ := Option.bind_eq_some_iff.mp params
  obtain ⟨_, -, checked⟩ := Option.bind_eq_some_iff.mp found
  split at checked
  · next inRange => cases checked; exact inRange
  · cases checked

theorem regionWrite_lawful (law : s.map.Lawful) (settled : s.todo = []) (t : Taken) : (s.regionWrite t).map.Lawful := by
  unfold State.regionWrite
  split
  · exact respond_lawful law _ _
  · split
    · exact respond_lawful law _ _
    · next params => exact regionWriteAt_lawful law settled _ (regionWriteOf_some params)

theorem regionClear_lawful (law : s.map.Lawful) (settled : s.todo = []) (t : Taken) : (s.regionClear t).map.Lawful := by
  unfold State.regionClear
  split
  · exact respond_lawful law _ _
  · split
    · exact respond_lawful law _ _
    · next i _ =>
      dsimp only
      split
      · refine finish_lawful ((setRegion_todo s i _).trans settled) ?_ _ _
        rw [setRegion_map]
        exact clear_region_lawful law i
      · exact respond_lawful law _ _

theorem pinWriteOf_some {i : Fin 32} {e : PinEntry} (params : t.pinWriteOf = some (i, e)) : e.valid = true := by
  unfold Taken.pinWriteOf at params
  obtain ⟨_, -, found⟩ := Option.bind_eq_some_iff.mp params
  obtain ⟨_, -, checked⟩ := Option.bind_eq_some_iff.mp found
  split at checked
  · cases checked; rfl
  · cases checked

theorem pinWriteAt_lawful (law : s.map.Lawful) (settled : s.todo = []) (i : Fin 32) {e : PinEntry} (valid : e.valid = true) :
    (s.pinWriteAt i e).map.Lawful := by
  unfold State.pinWriteAt
  cases conflict : firstConflict [s.pinUnmapped e, s.pinConflict i e] with
  | some c => exact respond_lawful law _ _
  | none =>
    refine finish_lawful ((setPin_todo s i e).trans settled) ?_ _ _
    rw [setPin_map]
    exact set_pin_lawful law i e valid conflict

theorem pinWrite_lawful (law : s.map.Lawful) (settled : s.todo = []) (t : Taken) : (s.pinWrite t).map.Lawful := by
  unfold State.pinWrite
  split
  · exact respond_lawful law _ _
  · split
    · exact respond_lawful law _ _
    · next params => exact pinWriteAt_lawful law settled _ (pinWriteOf_some params)

theorem pinClear_lawful (law : s.map.Lawful) (settled : s.todo = []) (t : Taken) : (s.pinClear t).map.Lawful := by
  unfold State.pinClear
  split
  · exact respond_lawful law _ _
  · split
    · exact respond_lawful law _ _
    · next i _ =>
      dsimp only
      split
      · refine finish_lawful ((setPin_todo s i _).trans settled) ?_ _ _
        rw [setPin_map]
        exact clear_pin_lawful law i
      · exact respond_lawful law _ _

theorem remapDelete_lawful (law : s.map.Lawful) (settled : s.todo = []) (t : Taken) : (s.remapDelete t).map.Lawful := by
  unfold State.remapDelete
  split
  · exact respond_lawful law _ _
  · split
    · exact respond_lawful law _ _
    · split
      · exact respond_lawful law _ _
      · split
        · exact finish_lawful (s := s.forget (t.p2 0)) settled (forget_lawful law _) _ _
        · exact respond_lawful law _ _

theorem spareLoadAt_lawful (law : s.map.Lawful) (settled : s.todo = []) (u : Fin 4) {l : List SpareExtent}
    (inRange : extentsInRange l = true) : (s.spareLoadAt u l).map.Lawful := by
  obtain ⟨-, blocks, -⟩ := (TableCommands.extentsInRange_iff l).mp inRange
  obtain ⟨events, form⟩ := TableCommands.loadPool_form s u l
  unfold State.spareLoadAt
  cases conflict : firstConflict [s.map.spareOutstanding u, s.extentConflict u (checkedExtents 0 l)] with
  | some c => exact respond_lawful law _ _
  | none =>
    refine finish_lawful (by rw [form]; exact settled) ?_ _ _
    rw [form]
    exact load_lawful law u l (fun x mem => (blocks x mem).1) conflict

theorem spareLoad_lawful (law : s.map.Lawful) (settled : s.todo = []) (t : Taken) : (s.spareLoad t).map.Lawful := by
  unfold State.spareLoad
  split
  · exact respond_lawful law _ _
  · dsimp only
    split
    · exact respond_lawful law _ _
    · split
      · next inRange => exact spareLoadAt_lawful law settled _ inRange
      · exact respond_lawful law _ _

/-- A command that keeps the law when it is carried out keeps it in any step. -/
theorem carried_lawful {x : State} {c : Command} {f : State → Taken → State} (law : s.map.Lawful)
    (keeps : ∀ t, (f s t).map.Lawful) (runs : whenUp s (fun s => s.carry c f) = .next x) : x.map.Lawful := by
  cases up : s.inReset with
  | true =>
    rw [whenUp_reset _ up] at runs
    cases runs
    exact law
  | false =>
    rw [whenUp_up _ up] at runs
    cases runs
    unfold State.carry
    split
    · exact law
    · split
      · exact keeps _
      · exact law

/-- Settles O29: the law after reset, then command by command (`carried_lawful`), then each way a claim runs. -/
theorem theTableLawsAreKept : Obligations.TheTableLawsAreKept := by
  unfold Obligations.TheTableLawsAreKept
  refine ⟨reset_lawful, fun s x c command running law runs => ?_, fun s u h b k law => ?_⟩
  · have settled := running.settled
    simp only [List.mem_cons, List.not_mem_nil, or_false] at command
    rcases command with rfl | rfl | rfl | rfl | rfl | rfl
    · exact carried_lawful law (regionWrite_lawful law settled) runs
    · exact carried_lawful law (regionClear_lawful law settled) runs
    · exact carried_lawful law (pinWrite_lawful law settled) runs
    · exact carried_lawful law (pinClear_lawful law settled) runs
    · exact carried_lawful law (remapDelete_lawful law settled) runs
    · exact carried_lawful law (spareLoad_lawful law settled) runs
  · exact ⟨claim_lawful law u h, return_lawful law u b, discard_lawful law u b, install_lawful law u h b k⟩

end Sys2Proof.Proofs.TableLaws
end

section
/-!
PROOFS. The spare claims (R27, R33) and their three ends: return, discard and install (R28, R29, R34, R35).
-/

namespace Sys2Proof.Proofs.Claims

open Sys2Proof Sys2Proof.Machine Sys2Proof.Laws

/-! ### The next spare of a pool (R33) -/

theorem take_returned {p : Pool} {b : Nat} {l : List Nat} (front : p.returned = b :: l) :
    p.take = some (b, { p with returned := l }) := by
  unfold Pool.take; rw [front]

theorem take_extent {p : Pool} {x : SpareExtent} {l : List SpareExtent} (none : p.returned = []) (front : p.extents = x :: l) :
    p.take = some (x.first,
      { p with extents := if x.count ≤ 1 then l else { first := x.first + 1, count := x.count - 1 } :: l }) := by
  unfold Pool.take
  rw [none, front]
  dsimp only
  split <;> rfl

theorem take_empty {p : Pool} (none : p.returned = []) (empty : p.extents = []) : p.take = .none := by
  unfold Pool.take; rw [none, empty]

theorem take_nonempty {p : Pool} (some : p.returned ≠ [] ∨ p.extents ≠ []) : ∃ b q, p.take = .some (b, q) := by
  cases returned : p.returned with
  | cons b l => exact ⟨_, _, take_returned returned⟩
  | nil =>
    cases extents : p.extents with
    | cons x l => exact ⟨_, _, take_extent returned extents⟩
    | nil => exact absurd some (by simp [returned, extents])

/-! ### A claim (R27) -/

/-- A home block has a learned entry. -/
def Learned (s : State) (u : Fin 4) (h : Nat) : Prop := ∃ e ∈ s.map.learned, e.unit = u ∧ e.source = h

/-- The learned table has no place for another claim. -/
def Full (s : State) (u : Fin 4) (h : Nat) : Prop := ¬ Learned s u h ∧ 512 ≤ s.map.learned.length + s.map.reserved

theorem place_iff (s : State) (u : Fin 4) (h : Nat) : (s.map.learnedOf u h).isNone = true ↔ ¬ Learned s u h := learned_none

theorem full_iff (s : State) (u : Fin 4) (h : Nat) :
    ((s.map.learnedOf u h).isNone && decide (Config.learnedLimit ≤ s.map.learned.length + s.map.reserved)) = true ↔ Full s u h := by
  rw [Bool.and_eq_true, place_iff, decide_eq_true_eq]
  rfl

theorem claim_empty {s : State} {u : Fin 4} {h : Nat} (unpinned : ¬ (s.map.pinOf u h).isSome = true)
    (empty : (s.map.pools.get u).take = none) : s.claim u h = (.exhausted, s) := by
  rw [State.claim, if_neg unpinned, empty]

theorem claim_full {s : State} {u : Fin 4} {h b : Nat} {q : Pool} (unpinned : ¬ (s.map.pinOf u h).isSome = true)
    (takes : (s.map.pools.get u).take = some (b, q)) (full : Full s u h) :
    s.claim u h = (.tableFull, s.raise .spareExhausted) := by
  rw [State.claim, if_neg unpinned, takes]
  exact if_pos ((full_iff s u h).mpr full)

theorem claim_issues {s : State} {u : Fin 4} {h b : Nat} {q : Pool} (unpinned : ¬ (s.map.pinOf u h).isSome = true)
    (takes : (s.map.pools.get u).take = some (b, q)) (free : ¬ Full s u h) : s.claim u h = (.issued b, State.evaluateHealth
      { s with
        map := { s.map with pools := s.map.pools.set u { q with
          issued := q.issued ++ [{ spare := b, source := h, place := (s.map.learnedOf u h).isNone }]
          consumed := min 65535 (q.consumed + 1) } }
        store := s.store.dirtied } (s.unitHealth u) u) := by
  rw [State.claim, if_neg unpinned, takes]
  refine (if_neg ((full_iff s u h).not.mpr free)).trans ?_
  exact congrArg (fun x : State => (ClaimOutcome.issued b, x.evaluateHealth (s.unitHealth u) u)) (onPool_eq s u _)

/-- Settles O30: the refusals of R27 in their order, and the spare that the pool gives next (`take_returned`, `take_extent`). -/
theorem spareClaimsIssueInListOrder : Obligations.SpareClaimsIssueInListOrder := by
  unfold Obligations.SpareClaimsIssueInListOrder
  intro s u h p learned pinned full issues
  have pinned_iff : (s.map.pinOf u h).isSome = true ↔ pinned := pin_some
  refine ⟨fun isPinned => if_pos (pinned_iff.mpr isPinned), fun notPinned => ?_⟩
  have unpinned := pinned_iff.not.mpr notPinned
  refine ⟨fun none empty => claim_empty unpinned (take_empty none empty), fun some isFull => ?_, fun free => ⟨?_, ?_⟩⟩
  · obtain ⟨b, q, takes⟩ := take_nonempty some
    exact claim_full unpinned takes isFull
  · intro b l front
    exact ⟨_, place_iff s u h, claim_issues unpinned (take_returned front) free⟩
  · intro x l none front
    exact ⟨_, place_iff s u h, claim_issues unpinned (take_extent none front) free⟩

/-! ### The ends of a claim -/

theorem returnSpare_issued {s : State} {u : Fin 4} {b : Nat} (issued : (s.map.pools.get u).isIssued b = true) :
    s.returnSpare u b = (State.evaluateHealth (s.onPool u fun p =>
      { p.unissue b with returned := b :: p.returned, consumed := p.consumed - 1 }) (s.unitHealth u) u).clearTableFull :=
  if_pos issued

theorem discardSpare_issued {s : State} {u : Fin 4} {b : Nat} (issued : (s.map.pools.get u).isIssued b = true) :
    s.discardSpare u b = (s.onPool u fun p =>
      { p.unissue b with consumed := p.consumed - 1, discarded := satAdd 65535 1 p.discarded }).clearTableFull :=
  if_pos issued

/-- The relocation counts of a unit after an install (R198, R200). -/
def relocationCounted (c : CounterBank) (u : Fin 4) : CounterBank := { c with
  units := c.units.set u { c.units.get u with relocations := min 4294967295 ((c.units.get u).relocations + 1) }
  lifetime := c.lifetime.set u (min 4294967295 (c.lifetime.get u + 1)) }

theorem onPool_counters (s : State) (u : Fin 4) (f : Pool → Pool) : (s.onPool u f).counters = s.counters := by rw [onPool_eq]

theorem unwatch_counters (s : State) (u : Fin 4) (b : Nat) : (s.unwatch u b).counters = s.counters := by
  rw [State.unwatch, setWatch_eq]

theorem install_counters (s : State) (u : Fin 4) (h b : Nat) (k : LearnedCause) :
    (s.install u h b k).counters = relocationCounted s.counters u := by
  unfold State.install State.onUnitCounters
  cases s.map.learnedOf u h with
  | none =>
    dsimp only
    rw [unwatch_counters, onPool_counters]
    rfl
  | some found =>
    dsimp only
    rw [unwatch_counters]
    dsimp only
    rw [unwatch_counters, onPool_counters]
    rfl

/-- The learned entry that an install leaves for a home block. -/
def installed (s : State) (u : Fin 4) (h b : Nat) (k : LearnedCause) : LearnedEntry :=
  { unit := u, source := h, target := b, cause := k, stamp := s.now }

/-- The part after an install that leaves a learned table and the watch entries that a test lets stay. -/
def installs (s : State) (u : Fin 4) (b : Nat) (learned : List LearnedEntry) (stays : WatchEntry → Bool) : State :=
  { s with
    map := { s.map with learned := learned, pools := s.map.pools.set u ((s.map.pools.get u).unissue b) }
    health := { s.health with watch := s.health.watch.filter stays }
    store := s.store.dirtied, counters := relocationCounted s.counters u }

theorem install_new {s : State} {u : Fin 4} {h : Nat} (unlearned : ∀ e ∈ s.map.learned, ¬ (e.unit = u ∧ e.source = h)) (b : Nat)
    (k : LearnedCause) :
    s.install u h b k = installs s u b (s.map.learned ++ [installed s u h b k]) fun w => w.block != ⟨u, h⟩ := by
  have none : s.map.learnedOf u h = none := by
    rw [← Option.isNone_iff_eq_none, learned_none]
    rintro ⟨e, mem, names⟩
    exact unlearned e mem names
  obtain ⟨c, form, -⟩ := install_eq s u h b k
  have counts : relocationCounted s.counters u = c := by rw [← install_counters s u h b k, form]
  rw [form, none, installs, counts]
  rfl

theorem learnedOf_first {m : MapUnit} {u : Fin 4} {h : Nat} {l r : List LearnedEntry} {e : LearnedEntry}
    (table : m.learned = l ++ e :: r) (unit : e.unit = u) (source : e.source = h)
    (first : ∀ x ∈ l, ¬ (x.unit = u ∧ x.source = h)) : m.learnedOf u h = some (l.length, e) := by
  unfold MapUnit.learnedOf
  rw [table, findPos_at (by simp [unit, source]) (fun x mem => by simpa using first x mem), Nat.zero_add]

theorem install_again {s : State} {u : Fin 4} {h : Nat} {l r : List LearnedEntry} {e : LearnedEntry}
    (table : s.map.learned = l ++ e :: r) (unit : e.unit = u) (source : e.source = h)
    (first : ∀ x ∈ l, ¬ (x.unit = u ∧ x.source = h)) (b : Nat) (k : LearnedCause) :
    s.install u h b k = installs s u b (l ++ installed s u h b k :: r)
      fun w => w.block != ⟨u, e.target⟩ && w.block != ⟨u, h⟩ := by
  obtain ⟨c, form, -⟩ := install_eq s u h b k
  have counts : relocationCounted s.counters u = c := by rw [← install_counters s u h b k, form]
  have replaced : s.map.learned.set l.length (installed s u h b k) = l ++ installed s u h b k :: r := by
    rw [table, List.set_append_right _ _ (Nat.le_refl _), Nat.sub_self, List.set_cons_zero]
  rw [form, learnedOf_first table unit source first, installs, counts]
  dsimp only
  rw [List.filter_filter]
  rw [show s.map.learned.set l.length { unit := u, source := h, target := b, cause := k, stamp := s.now } =
    l ++ installed s u h b k :: r from replaced]

/-- Settles O31: the return, the discard, and the install with and without an entry of its source. -/
theorem claimsEndInReturnDiscardOrInstall : Obligations.ClaimsEndInReturnDiscardOrInstall := by
  unfold Obligations.ClaimsEndInReturnDiscardOrInstall
  intro s u b isIssued
  refine ⟨?_, ?_, fun h k => ⟨fun unlearned => install_new unlearned b k,
    fun l r e table unit source first => install_again table unit source first b k⟩⟩
  · rw [returnSpare_issued isIssued, clearTableFull_eq, onPool_eq]
    rfl
  · rw [discardSpare_issued isIssued, clearTableFull_eq, onPool_eq]
    rfl

end Sys2Proof.Proofs.Claims
end

section
/-!
PROOFS. The watch list: reports (R89 to R91, R93, R94, R99) and good reads (R92).
-/

namespace Sys2Proof.Proofs.WatchList

open Sys2Proof Sys2Proof.Machine Sys2Proof.Laws

/-- The part with a watch list and events; a list that differs from the one that stood marks the store DIRTY (R88). -/
def watched (s : State) (l : List WatchEntry) (events : Half) : State :=
  { s with health := { s.health with watch := l }, store := if l = s.health.watch then s.store else s.store.dirtied
           mgmt := { s.mgmt with events := events } }

/-- The events with PIN_TARGET_SUSPECT raised. -/
def suspected (s : State) : Half := s.mgmt.events ||| Event.pinTargetSuspect.bit

theorem raised_watched (s : State) (e : Event) : s.raise e = watched s s.health.watch (s.mgmt.events ||| e.bit) := by
  rw [watched, if_pos rfl]
  rfl

/-! ### Reports -/

/-- The entry that a report leaves for a block that was not watched. -/
def recorded (s : State) (a : Phys) (kind : WatchCause) (score : Nat) (pending due : Bool) : WatchEntry :=
  { block := a, score := score, age := 0, pending := pending, due := due, cause := kind, stamp := s.now }

/-- The same condition in two forms chooses the same events. -/
theorem hard_events {kind : WatchCause} {pinTarget becomesDue : Prop} [Decidable pinTarget] [Decidable becomesDue] (a b : Half) :
    (if pinTarget ∧ (kind.hard = true ∨ becomesDue) then a else b) =
      if pinTarget ∧ ((kind = .hardRead ∨ kind = .verifyFail ∨ kind = .writeFaultNoSpare) ∨ becomesDue) then a else b :=
  if_congr (and_congr_right fun _ => or_congr (cause_hard kind) Iff.rfl) rfl rfl

theorem applyError_learned {s : State} {a : Phys} (kind : WatchCause) (learned : (s.map.learnedOf a.unit a.block).isSome = true) :
    s.applyError a kind = s := if_pos learned

theorem watched_none {s : State} {a : Phys} (unwatched : ∀ e ∈ s.health.watch, e.block ≠ a) : s.watched a = none :=
  List.find?_eq_none.mpr fun e mem => by simpa using unwatched e mem

/-- A block that the full list has no place for is not recorded (R94). -/
theorem applyError_overflow {s : State} {a : Phys} (kind : WatchCause) (unlearned : s.map.learnedOf a.unit a.block = none)
    (unwatched : ∀ e ∈ s.health.watch, e.block ≠ a) (refused : ∀ fresh, s.insertWatch fresh = (false, s.raise .watchOverflow)) :
    s.applyError a kind = s.raise .watchOverflow := by
  unfold State.applyError
  rw [if_neg (by simp [unlearned]), watched_none unwatched]
  dsimp only
  rw [refused]
  exact if_neg Bool.false_ne_true

theorem insertWatch_room {s : State} (room : s.health.watch.length < 64) (fresh : WatchEntry) :
    s.insertWatch fresh = (true, s.setWatch (s.health.watch ++ [fresh])) := if_pos room

theorem insertWatch_full {s : State} (full : 64 ≤ s.health.watch.length) (none : s.health.eviction = none) (fresh : WatchEntry) :
    s.insertWatch fresh = (false, s.raise .watchOverflow) := by
  unfold State.insertWatch Config.watchLimit
  rw [if_neg (Nat.not_lt.mpr full), none]

theorem insertWatch_evicts {s : State} (full : 64 ≤ s.health.watch.length) {x : WatchEntry} (evicts : s.health.eviction = some x)
    (fresh : WatchEntry) :
    s.insertWatch fresh = (true, s.setWatch ((s.health.watch.filter fun y => y.block != x.block) ++ [fresh])) := by
  unfold State.insertWatch Config.watchLimit
  rw [if_neg (Nat.not_lt.mpr full), evicts]

theorem eviction_none {h : HealthMonitor} (none : ∀ e ∈ h.watch, ¬ (e.pending = false ∧ h.inRelocation e.block = false)) :
    h.eviction = .none := by
  unfold HealthMonitor.eviction
  rw [List.filter_eq_nil_iff.mpr fun e mem => by simpa using none e mem]

/-- Without doubles, the list without an entry's block is the list around that entry. -/
theorem filter_around {l r : List WatchEntry} {x : WatchEntry} (nodup : ((l ++ x :: r).map fun e => e.block).Nodup) :
    ((l ++ x :: r).filter fun y => y.block != x.block) = l ++ r := by
  obtain ⟨before, after⟩ := nodup_apart nodup
  rw [List.filter_append, List.filter_cons_of_neg (by simp), List.filter_eq_self.mpr fun y mem => by simpa using before y mem,
    List.filter_eq_self.mpr fun y mem => by simpa using after y mem]

/-- Settles O32: a watched block by `applyError_known`, another by `applyError_new` with what `insertWatch` does to the list. -/
theorem reportsScoreTheWatchList : Obligations.ReportsScoreTheWatchList := by
  unfold Obligations.ReportsScoreTheWatchList
  intro s a kind nodup hard weight due raising becomes
  have weighs : kind.weight = weight := cause_weight kind
  have decided : decide hard = kind.hard := decide_hard kind
  refine ⟨applyError_learned kind, fun unlearned => ⟨?known, fun unwatched => ?fresh⟩⟩
  case known =>
    intro l r e list block score pending d
    refine (applyError_known s a kind nodup unlearned l r e list block score pending d ?_ ?_ rfl).trans ?_
    · rw [weighs]
    · rw [← decided]
    · exact congrArg (watched s _) (hard_events _ _)
  case fresh =>
    have joins : ∀ L : List WatchEntry, (∀ y ∈ L, y ∈ s.health.watch) →
        (∀ fresh, s.insertWatch fresh = (true, s.setWatch (L ++ [fresh]))) →
        s.applyError a kind = becomes (L ++ [recorded s a kind weight (decide hard) (due weight (decide hard))])
          (raising .pinTargetSuspect ((s.map.resolve a).1 = .pinTarget ∧ (hard ∨ due weight (decide hard) = true))) := by
      intro L stays inserts
      refine (applyError_new s a kind unlearned unwatched (due weight (decide hard)) ?_ L stays inserts).trans ?_
      · rw [weighs, ← decided]
      · rw [weighs, ← decided]
        refine congrArg (watched s _) (if_congr (and_congr_right fun _ => or_congr ?_ Iff.rfl) rfl rfl)
        exact decide_eq_true_iff
    intro d fresh candidate events
    refine ⟨fun room => joins _ (fun _ mem => mem) (insertWatch_room room), fun full => ⟨fun none => ?_, ?_⟩⟩
    · rw [applyError_overflow kind unlearned unwatched (insertWatch_full full (eviction_none none)), raised_watched]
      rfl
    · intro l r x list takes before after
      have evicts := eviction_is list takes before after
      have around : (s.health.watch.filter fun y => y.block != x.block) = l ++ r := by
        rw [list] at nodup ⊢
        exact filter_around nodup
      refine joins (l ++ r) (fun y mem => ?_) fun fresh => ?_
      · rw [← around] at mem
        exact List.mem_of_mem_filter mem
      · rw [insertWatch_evicts full evicts, around]

/-! ### Good reads -/

/-- A pending entry whose block a good read of a run has read. -/
def Clears (u : Fin 4) (first count : Nat) (e : WatchEntry) : Prop :=
  e.pending = true ∧ e.block.unit = u ∧ first ≤ e.block.block ∧ e.block.block < first + count

theorem clears_iff (u : Fin 4) (first count : Nat) (e : WatchEntry) :
    (e.pending && e.block.unit == u && inRun first count e.block.block) = true ↔ Clears u first count e := by
  rw [Bool.and_eq_true, Bool.and_eq_true, beq_iff_eq, inRun_iff, and_assoc]
  rfl

/-- The entry after a good read has cleared its pending flag (R92, R93). -/
def clearedAt (promotion : Nat) (e : WatchEntry) : WatchEntry := { e with pending := false, due := decide (promotion ≤ e.score) }

/-- An entry of the list after a good read of a run. -/
def afterRead (promotion : Nat) (u : Fin 4) (first count : Nat) (e : WatchEntry) : WatchEntry :=
  e.changedTo promotion (if e.pending && e.block.unit == u && inRun first count e.block.block then { e with pending := false } else e)

theorem afterRead_clears {promotion : Nat} {u : Fin 4} {first count : Nat} {e : WatchEntry} (clears : Clears u first count e) :
    afterRead promotion u first count e = clearedAt promotion e := by
  rw [afterRead, if_pos ((clears_iff u first count e).mpr clears), WatchEntry.changedTo, if_neg (by simp [clears.1])]
  simp [WatchEntry.evaluated, clearedAt]

theorem afterRead_stays {promotion : Nat} {u : Fin 4} {first count : Nat} {e : WatchEntry} (stays : ¬ Clears u first count e) :
    afterRead promotion u first count e = e := by
  rw [afterRead, if_neg ((clears_iff u first count e).not.mpr stays), changedTo_same]

/-- An entry of the list after a good read whose block is a pin target and was not due before (R93, R99). -/
def NewlyDue (s : State) (x : WatchEntry) : Prop :=
  (x.due && s.isPinTarget x.block && !(s.health.watch.any fun y => y.block == x.block && y.due)) = true

theorem newlyDue_iff (s : State) (x : WatchEntry) : NewlyDue s x ↔
    x.due = true ∧ (s.map.resolve x.block).1 = .pinTarget ∧ ∀ y ∈ s.health.watch, y.block = x.block → y.due = false := by
  unfold NewlyDue
  rw [Bool.and_eq_true, Bool.and_eq_true, isPinTarget_iff, Bool.not_eq_true', List.any_eq_false, and_assoc]
  simp

/-- A good read makes an entry of a pin's target newly due exactly where it clears it and its score reaches the threshold. -/
theorem afterRead_newlyDue {s : State} (nodup : (s.health.watch.map fun e => e.block).Nodup)
    (pendingNotDue : ∀ e ∈ s.health.watch, e.pending = true → e.due = false) {u : Fin 4} {first count : Nat} {e : WatchEntry}
    (mem : e ∈ s.health.watch) : NewlyDue s (afterRead s.mgmt.params.promotion u first count e) ↔
      Clears u first count e ∧ s.mgmt.params.promotion ≤ e.score ∧ (s.map.resolve e.block).1 = .pinTarget := by
  rw [newlyDue_iff]
  by_cases clears : Clears u first count e
  · have alone : ∀ y ∈ s.health.watch, y.block = e.block → y.due = false := fun y other same => by
      rw [List.inj_on_of_nodup_map nodup other mem same]
      exact pendingNotDue e mem clears.1
    simp only [afterRead_clears clears, clearedAt, decide_eq_true_eq, clears, true_and]
    exact and_congr_right fun _ => and_iff_left alone
  · simp only [afterRead_stays clears, clears, false_and, iff_false]
    rintro ⟨due, -, alone⟩
    exact absurd due (by simp [alone e mem rfl])

theorem readGood_none {s : State} {u : Fin 4} {first count : Nat} (none : ∀ e ∈ s.health.watch, ¬ Clears u first count e) :
    s.readGood u first count = s := by
  refine if_neg ?_
  rw [List.any_eq_true]
  rintro ⟨e, mem, clears⟩
  exact none e mem ((clears_iff u first count e).mp clears)

/-- A good read that clears an entry. -/
theorem readGood_some {s : State} {u : Fin 4} {first count : Nat} {e : WatchEntry} (mem : e ∈ s.health.watch)
    (clears : Clears u first count e) (suspect : Prop) [Decidable suspect] (suspects : suspect ↔
      ∃ e ∈ s.health.watch, NewlyDue s (afterRead s.mgmt.params.promotion u first count e)) :
    s.readGood u first count = watched s (s.health.watch.map (afterRead s.mgmt.params.promotion u first count))
      (if suspect then suspected s else s.mgmt.events) := by
  have any : ((s.health.watch.map (afterRead s.mgmt.params.promotion u first count)).any fun x =>
      x.due && s.isPinTarget x.block && !(s.health.watch.any fun y => y.block == x.block && y.due)) = true ↔ suspect := by
    rw [suspects, List.any_map, List.any_eq_true]
    rfl
  unfold State.readGood
  rw [if_pos (List.any_eq_true.mpr ⟨e, mem, (clears_iff u first count e).mpr clears⟩), State.rewatch, setWatch_eq]
  refine (suspectDue_ite s _ _ _ suspect any).trans ?_
  split <;> rfl

/-- Settles O33: the list changes entry by entry (`afterRead`), and what becomes due is `afterRead_newlyDue`. -/
theorem goodReadsClearPendingEntries : Obligations.GoodReadsClearPendingEntries := by
  classical
  unfold Obligations.GoodReadsClearPendingEntries
  intro s u first count nodup pendingNotDue clears cleared
  by_cases some : ∃ e ∈ s.health.watch, Clears u first count e
  · obtain ⟨e, mem, isCleared⟩ := some
    have form := readGood_some mem isCleared _ Iff.rfl
    refine ⟨_, _, form, ?_, fun ⟨e, mem, isCleared, reaches, target⟩ => ?_, fun low => ?_⟩
    · rw [List.forall₂_map_right_iff, List.forall₂_same]
      exact fun e _ => ⟨afterRead_clears, afterRead_stays⟩
    · exact if_pos ⟨e, mem, (afterRead_newlyDue nodup pendingNotDue mem).mpr ⟨isCleared, reaches, target⟩⟩
    · refine if_neg ?_
      rintro ⟨e, mem, newly⟩
      obtain ⟨isCleared, reaches, target⟩ := (afterRead_newlyDue nodup pendingNotDue mem).mp newly
      rcases low e mem isCleared with less | other
      · omega
      · exact other target
  · have none : ∀ e ∈ s.health.watch, ¬ Clears u first count e := fun e mem isCleared => some ⟨e, mem, isCleared⟩
    refine ⟨s.health.watch, s.mgmt.events, ?_, ?_, fun ⟨e, mem, isCleared, _⟩ => absurd isCleared (none e mem), fun _ => rfl⟩
    · rw [readGood_none none, if_pos rfl]
    · exact List.forall₂_same.mpr fun e mem => ⟨fun isCleared => absurd isCleared (none e mem), fun _ => rfl⟩

end Sys2Proof.Proofs.WatchList
end

section
/-!
PROOFS. The guard commands: codes (R150, R151), unlock and disable (R152, R153), FREEZE (R154) and the start of an erase (R155, R156).
-/

namespace Sys2Proof.Proofs.GuardCommands

open Sys2Proof Sys2Proof.Machine Sys2Proof.Laws

variable {s : State} {t : Taken}

/-! ### The commands, once taken -/

theorem exec_guardSetUser_awaited (awaits : s.Awaits .guardSetUser t) : exec .guardSetUser s = .next (s.guardSetUser t) :=
  Regions.whenUp_carry_awaited awaits State.guardSetUser

theorem exec_guardSetRecovery_awaited (awaits : s.Awaits .guardSetRecovery t) :
    exec .guardSetRecovery s = .next (s.guardSetRecovery t) :=
  Regions.whenUp_carry_awaited awaits State.guardSetRecovery

theorem exec_guardUnlock_awaited (awaits : s.Awaits .guardUnlock t) : exec .guardUnlock s = .next (s.guardUnlock t) :=
  Regions.whenUp_carry_awaited awaits State.guardUnlock

theorem exec_guardDisable_awaited (awaits : s.Awaits .guardDisable t) : exec .guardDisable s = .next (s.guardDisable t) :=
  Regions.whenUp_carry_awaited awaits State.guardDisable

theorem exec_freeze_awaited (awaits : s.Awaits .freeze t) : exec .freeze s = .next s.freeze :=
  Regions.whenUp_carry_awaited awaits fun s _ => s.freeze

theorem exec_erasePrepare_awaited (awaits : s.Awaits .erasePrepare t) : exec .erasePrepare s = .next s.erasePrepare :=
  Regions.whenUp_carry_awaited awaits fun s _ => s.erasePrepare

theorem exec_eraseGuarded_awaited (awaits : s.Awaits .eraseGuarded t) : exec .eraseGuarded s = .next (s.eraseGuarded t) :=
  Regions.whenUp_carry_awaited awaits State.eraseGuarded

/-! ### A change of the guard's record (R147, R181) -/

/-- The guard's record changes, and the store is DIRTY unless its saved items stay, which `Same` says. -/
theorem changeGuard_eq (s : State) (f : GuardUnit → GuardUnit) (Same : Prop) [Decidable Same]
    (saves : (f s.guard).savesAs s.guard = true ↔ Same) :
    s.changeGuard f = { s with guard := f s.guard, store := if Same then s.store else s.store.dirtied } := by
  unfold State.changeGuard State.onGuard
  by_cases same : Same
  · rw [if_pos (saves.mpr same), if_pos same]
  · rw [if_neg (saves.not.mpr same), if_neg same, markDirty_eq]

theorem changeGuard_answered {c : Command} (awaits : s.Awaits c t) (f : GuardUnit → GuardUnit) (Same : Prop) [Decidable Same]
    (saves : (f s.guard).savesAs s.guard = true ↔ Same) :
    ((s.changeGuard f).guardEnds .done).finish = State.refreshIdle (State.answered
      { s with guard := f s.guard, store := if Same then s.store else s.store.dirtied } t .done (f s.guard).report) := by
  rw [changeGuard_eq s f Same saves]
  exact respond_finish_awaited (x := { s with guard := f s.guard, store := if Same then s.store else s.store.dirtied })
    awaits rfl rfl _ _

/-- A change of the guard's record that touches no saved item, and its answer. -/
theorem onGuard_answered {c : Command} (awaits : s.Awaits c t) (f : GuardUnit → GuardUnit) (r : CmdResult) :
    (s.onGuard f).guardEnds r = State.answered { s with guard := f s.guard } t r (f s.guard).report :=
  guardEnds_awaited (x := { s with guard := f s.guard }) awaits rfl r

theorem stored_open {g : GuardUnit} (state : g.state = .disabled ∨ g.state = .opened ∨ g.state = .locked) :
    g.stored = if g.userCode.isNone then .disabled else .set := by
  unfold GuardUnit.stored
  rcases state with state | state | state <;> rw [state]

theorem stored_eraseIncomplete_iff (g : GuardUnit) : g.stored = .eraseIncomplete ↔ g.state = .erasing ∨ g.state = .eraseIncomplete := by
  unfold GuardUnit.stored
  cases g.state <;> cases g.userCode <;> simp

/-! ### Stages -/

theorem unlessFrozen_frozen {c : Command} (awaits : s.Awaits c t) (frozen : s.guard.frozen = true) (f : State → State) :
    s.unlessFrozen f = s.answered t .frozen s.guard.report := by
  rw [State.unlessFrozen, if_pos frozen]
  exact guardEnds_awaited awaits rfl _

theorem unlessFrozen_free (free : s.guard.frozen = false) (f : State → State) : s.unlessFrozen f = f s := by
  rw [State.unlessFrozen, if_neg (ne_true_of_eq_false free)]

theorem unlessFrozen_ite {c : Command} (awaits : s.Awaits c t) (f : State → State) :
    s.unlessFrozen f = if s.guard.frozen then s.answered t .frozen s.guard.report else f s := by
  cases frozen : s.guard.frozen with
  | true => rw [unlessFrozen_frozen awaits frozen, if_pos rfl]
  | false => rw [unlessFrozen_free frozen, if_neg Bool.false_ne_true]

theorem withKind_none {c : Command} (awaits : s.Awaits c t)
    (noCode : t.payloadLength ≠ 32 ∨ (t.p1 0 ≠ CodeKind.user.code ∧ t.p1 0 ≠ CodeKind.recovery.code)) (f : State → CodeKind → State) :
    s.withKind t f = s.answered t .invalidParameter [] := by
  rw [State.withKind, codeKind_none noCode]
  exact respond_awaited awaits _ _

theorem withKind_some {kind : CodeKind} (length : t.payloadLength = 32) (code : t.p1 0 = kind.code) (f : State → CodeKind → State) :
    s.withKind t f = f s kind := by
  rw [State.withKind, codeKind_some length code]

/-! ### GUARD_SET_USER and GUARD_SET_RECOVERY (R150, R151) -/

theorem level_ofCode (level : GuardLevel) : GuardLevel.ofCode level.code = some level := by cases level <;> rfl

theorem userLevel_none (noCode : t.payloadLength ≠ 32 ∨ (t.p1 0 ≠ CodeKind.user.code ∧ t.p1 0 ≠ CodeKind.recovery.code)) :
    t.userLevel = none := by
  rw [Taken.userLevel, codeKind_none noCode]

theorem userLevel_recovery (length : t.payloadLength = 32) (code : t.p1 0 = CodeKind.recovery.code) : t.userLevel = none := by
  rw [Taken.userLevel, codeKind_some length code]

theorem userLevel_user (length : t.payloadLength = 32) (code : t.p1 0 = CodeKind.user.code) {level : GuardLevel}
    (named : t.p1 1 = level.code) : t.userLevel = some level := by
  rw [Taken.userLevel, codeKind_some length code, named, level_ofCode]

theorem guardSetUser_refuses (awaits : s.Awaits .guardSetUser t) (none : t.userLevel = none) :
    s.guardSetUser t = s.answered t .invalidParameter [] := by
  rw [State.guardSetUser, none]
  exact respond_awaited awaits _ _

theorem setsUser_iff (g : GuardState) : g.setsUser = true ↔ g = .disabled ∨ g = .opened := by
  cases g <;> simp [GuardState.setsUser]

/-- A user code saves as before where the code and the level are those held. -/
theorem setUser_saves {g : GuardUnit} (state : g.state = .disabled ∨ g.state = .opened) (level : GuardLevel) (code : List Byte) :
    GuardUnit.savesAs { g with userCode := some code, level := level, state := .opened } g = true ↔
      g.userCode = some code ∧ g.level = level := by
  rw [savesAs_iff, stored_open (g := g) (by tauto), stored_open (by simp)]
  constructor
  · rintro ⟨-, sameLevel, sameCode, -⟩
    exact ⟨sameCode.symm, sameLevel.symm⟩
  · rintro ⟨sameCode, sameLevel⟩
    simp [sameCode, sameLevel]

theorem guardSetUser_level (awaits : s.Awaits .guardSetUser t) {level : GuardLevel} (params : t.userLevel = some level) :
    s.guardSetUser t =
      if s.guard.state = .disabled ∨ s.guard.state = .opened then
        if s.guard.frozen then s.answered t .frozen s.guard.report else s.setUser level t.guardCode
      else s.answered t .wrongMode s.guard.report := by
  rw [State.guardSetUser, params]
  dsimp only
  rw [unlessFrozen_ite awaits, guardEnds_awaited awaits rfl]
  exact ite_iff (setsUser_iff _) _ _

theorem guardSetRecovery_refuses (awaits : s.Awaits .guardSetRecovery t) (other : t.codeKind ≠ some .recovery) :
    s.guardSetRecovery t = s.answered t .invalidParameter [] := by
  rw [← respond_awaited awaits, State.guardSetRecovery]
  cases kind : t.codeKind with
  | none => rfl
  | some k =>
    cases k with
    | user => rfl
    | recovery => exact absurd kind other

theorem guardSetRecovery_code (awaits : s.Awaits .guardSetRecovery t) (kind : t.codeKind = some .recovery) : s.guardSetRecovery t =
    if s.guard.state = .locked then s.answered t .locked s.guard.report
    else if s.guard.frozen then s.answered t .frozen s.guard.report else s.setRecovery t.guardCode := by
  rw [State.guardSetRecovery, kind]
  dsimp only
  rw [unlessFrozen_ite awaits, guardEnds_awaited awaits rfl]

theorem setRecovery_saves (g : GuardUnit) (code : List Byte) :
    GuardUnit.savesAs { g with recoveryCode := code } g = true ↔ code = g.recoveryCode := by
  rw [savesAs_iff]
  exact ⟨fun ⟨_, _, _, same⟩ => same, fun same => ⟨rfl, rfl, rfl, same⟩⟩

/-- Settles O34, by the stages of each command; what is held marks the store by `setUser_saves` and `setRecovery_saves`. -/
theorem guardSetCommandsSetTheirCodes : Obligations.GuardSetCommandsSetTheirCodes := by
  unfold Obligations.GuardSetCommandsSetTheirCodes
  intro s t g
  refine ⟨fun noCode => ⟨fun awaits => ?_, fun awaits => ?_⟩, fun length code awaits => ?_, fun length code awaits => ?_,
    fun level awaits length code named => ?_, fun awaits length code => ?_⟩
  · rw [exec_guardSetUser_awaited awaits, guardSetUser_refuses awaits (userLevel_none noCode)]
  · rw [exec_guardSetRecovery_awaited awaits, guardSetRecovery_refuses awaits (by simp [codeKind_none noCode])]
  · rw [exec_guardSetUser_awaited awaits, guardSetUser_refuses awaits (userLevel_recovery length code)]
  · rw [exec_guardSetRecovery_awaited awaits, guardSetRecovery_refuses awaits (by simp [codeKind_some length code])]
  · rw [exec_guardSetUser_awaited awaits, guardSetUser_level awaits (userLevel_user length code named)]
    by_cases allowed : s.guard.state = .disabled ∨ s.guard.state = .opened
    · rw [if_pos allowed, if_pos allowed]
      exact congrArg _ (congrArg _ (changeGuard_answered awaits _ _ (setUser_saves allowed level t.guardCode)))
    · rw [if_neg allowed, if_neg allowed]
  · rw [exec_guardSetRecovery_awaited awaits, guardSetRecovery_code awaits (codeKind_some length code)]
    refine congrArg _ (congrArg _ (congrArg _ ?_))
    exact changeGuard_answered awaits _ _ (setRecovery_saves s.guard t.guardCode)

/-! ### GUARD_UNLOCK and GUARD_DISABLE (R152, R153) -/

theorem guardUnlock_kind (awaits : s.Awaits .guardUnlock t) {kind : CodeKind} (length : t.payloadLength = 32)
    (code : t.p1 0 = kind.code) : s.guardUnlock t =
      if s.guard.state = .locked then s.withCode kind t.guardCode true State.unlock else s.answered t .wrongMode s.guard.report := by
  rw [State.guardUnlock, withKind_some length code, guardEnds_awaited awaits rfl]

theorem guardDisable_kind (awaits : s.Awaits .guardDisable t) {kind : CodeKind} (length : t.payloadLength = 32)
    (code : t.p1 0 = kind.code) : s.guardDisable t =
      if s.guard.state = .opened then
        if s.guard.frozen then s.answered t .frozen s.guard.report
        else s.withCode kind t.guardCode true State.disableGuard
      else s.answered t .wrongMode s.guard.report := by
  rw [State.guardDisable, withKind_some length code, guardEnds_awaited awaits rfl, unlessFrozen_ite awaits]

/-- The guard after GUARD_DISABLE. -/
def disabled (g : GuardUnit) : GuardUnit := { g with userCode := none, level := .standard, state := .disabled }

/-- A disabled guard saves as the OPEN one where no user code was held and the level was STANDARD. -/
theorem disable_saves {g : GuardUnit} (state : g.state = .opened) :
    (disabled g).savesAs g = true ↔ g.userCode = none ∧ g.level = .standard := by
  rw [savesAs_iff, stored_open (g := g) (by simp [state]), stored_open (g := disabled g) (by simp [disabled])]
  constructor
  · rintro ⟨-, sameLevel, sameCode, -⟩
    exact ⟨sameCode.symm, sameLevel.symm⟩
  · rintro ⟨sameCode, sameLevel⟩
    simp [sameCode, sameLevel, disabled]

/-- Settles O35: the stages before the code, then the attempts and the comparison (`withCode_exceeded`, `withCode_mismatch`,
`withCode_accepted`). -/
theorem guardUnlockAndDisableCompareCodes : Obligations.GuardUnlockAndDisableCompareCodes := by
  unfold Obligations.GuardUnlockAndDisableCompareCodes
  intro s t g
  refine ⟨fun noCode => ⟨fun awaits => ?_, fun awaits => ?_⟩, fun kind length code => ?_⟩
  · rw [exec_guardUnlock_awaited awaits, State.guardUnlock, withKind_none awaits noCode]
  · rw [exec_guardDisable_awaited awaits, State.guardDisable, withKind_none awaits noCode]
  intro counted
  refine ⟨fun awaits => ?unlock, fun awaits => ?disable⟩
  case unlock =>
    rw [exec_guardUnlock_awaited awaits, guardUnlock_kind awaits length code]
    refine ⟨fun other => ?_, fun locked many => ?_, fun locked few wrong => ?_, fun locked few right => ⟨?_, rfl⟩⟩
    · rw [if_neg other]
    · rw [if_pos locked, withCode_exceeded awaits _ _ _ _ many]
    · rw [if_pos locked, withCode_mismatch awaits _ _ _ _ few wrong]
    · rw [if_pos locked, withCode_accepted _ _ _ _ few right]
      exact congrArg _ (onGuard_answered awaits _ _)
  case disable =>
    rw [exec_guardDisable_awaited awaits, guardDisable_kind awaits length code]
    refine ⟨fun other => ?_, fun opened frozen => ?_, fun opened free many => ?_, fun opened free few wrong => ?_,
      fun opened free few right => ?_⟩
    · rw [if_neg other]
    · rw [if_pos opened, if_pos frozen]
    · rw [if_pos opened, if_neg (ne_true_of_eq_false free), withCode_exceeded awaits _ _ _ _ many]
    · rw [if_pos opened, if_neg (ne_true_of_eq_false free), withCode_mismatch awaits _ _ _ _ few wrong]
    · rw [if_pos opened, if_neg (ne_true_of_eq_false free), withCode_accepted _ _ _ _ few right]
      exact congrArg _ (changeGuard_answered awaits disabled _ (disable_saves opened))

/-! ### FREEZE and the start of an erase (R154 to R156) -/

/-- A frozen guard stays frozen over every command but a part reset (R154). -/
theorem frozen_stays {c : Instr} {s x : State} (noReset : ∀ e, c ≠ .partReset e) (frozen : s.guard.frozen = true)
    (runs : exec c s = .next x) : x.guard.frozen = true := by
  by_cases release : c = .resetLineReleased
  · subst release
    cases runs
    split
    · exact (startUp_evolves True s).frozen frozen
    · exact frozen
  · obtain ⟨y, answers, evolves⟩ := exec_evolves c s noReset release
    rw [answers] at runs
    cases runs
    exact evolves.frozen frozen

theorem erases_iff (c : StoreState) : c.erases = true ↔ c = .clean ∨ c = .dirty ∨ c = .saving := by
  cases c <;> simp [StoreState.erases]

theorem eraseGuarded_kind {kind : CodeKind} (awake : t.mode.resting = false) (length : t.payloadLength = 32)
    (code : t.p1 0 = kind.code) : s.eraseGuarded t = s.eraseStages t kind := by
  rw [State.eraseGuarded, if_neg (by simp [awake]), withKind_some length code]

/-- The erase is prepared and unit 0 and the store can take it: the code decides. -/
theorem eraseStages_code {kind : CodeKind} (prepared : t.prepared = true) (ready : (s.port 0).state = .ready)
    (storable : s.store.state = .clean ∨ s.store.state = .dirty ∨ s.store.state = .saving) :
    s.eraseStages t kind = s.withCode kind t.guardCode false State.startErase := by
  rw [State.eraseStages, if_neg (by simp [prepared]), if_neg (not_not.mpr ready), if_neg (by simp [(erases_iff _).mpr storable])]

/-- The guard of a fresh erase. -/
def erasing (g : GuardUnit) : GuardUnit := { g with state := .erasing, erase := some EraseRecord.fresh }

theorem erasing_saves (g : GuardUnit) : (erasing g).savesAs g = true ↔ g.state = .erasing ∨ g.state = .eraseIncomplete := by
  rw [← stored_eraseIncomplete_iff, savesAs_iff]
  exact ⟨fun ⟨stored, _, _, _⟩ => stored.symm, fun stored => ⟨stored.symm, rfl, rfl, rfl⟩⟩

/-- The part at the start of an erase: the guard ERASING with a fresh record, and a save asked for. -/
def eraseBegun (s : State) : State :=
  { s with guard := erasing s.guard
           store := { (if s.guard.state = .erasing ∨ s.guard.state = .eraseIncomplete then s.store else s.store.dirtied) with
             saveAsked := true } }

theorem startErase_answered {c : Command} (awaits : s.Awaits c t) :
    s.startErase = State.refreshIdle ((eraseBegun s).answered t .done (erasing s.guard).report) := by
  show ((s.changeGuard erasing).askSave.guardEnds .done).finish = _
  rw [changeGuard_eq s _ _ (erasing_saves s.guard)]
  exact respond_finish_awaited (x := eraseBegun s) awaits rfl rfl _ _

/-- Settles O36: FREEZE and ERASE_PREPARE change one flag, a frozen guard stays frozen, and ERASE_GUARDED runs through its stages. -/
theorem eraseIsPreparedAndStarted : Obligations.EraseIsPreparedAndStarted := by
  unfold Obligations.EraseIsPreparedAndStarted
  refine ⟨fun s t => ?prepare, fun c s x noReset frozen runs => frozen_stays noReset frozen runs, fun s t awaits => ?erase⟩
  case prepare =>
    intro g
    refine ⟨fun awaits => ?_, fun awaits => ?_⟩
    · rw [exec_freeze_awaited awaits]
      exact congrArg _ (onGuard_answered awaits _ _)
    · rw [exec_erasePrepare_awaited awaits, State.erasePrepare, unlessFrozen_ite awaits, guardEnds_awaited awaits rfl, State.prepare,
        onGuard_answered awaits]
  case erase =>
    intro g storable
    rw [exec_eraseGuarded_awaited awaits]
    refine ⟨fun rests => ?_, fun awake noCode => ?_, fun kind awake length code => ?_⟩
    · rw [State.eraseGuarded, if_pos rests, guardEnds_awaited awaits rfl]
    · rw [State.eraseGuarded, if_neg (by simp [awake]), withKind_none awaits noCode]
    rw [eraseGuarded_kind awake length code]
    refine ⟨fun unprepared => ?_, fun prepared unready => ?_, fun prepared ready unstorable => ?_, fun prepared ready isStorable => ?_⟩
    · rw [State.eraseStages, if_pos unprepared, guardEnds_awaited awaits rfl]
    · rw [State.eraseStages, if_neg (by simp [prepared]), if_pos unready, guardEnds_awaited awaits rfl]
    · have refuses : s.store.state.erases = false := Bool.eq_false_iff.mpr ((erases_iff _).not.mpr unstorable)
      rw [State.eraseStages, if_neg (by simp [prepared]), if_neg (not_not.mpr ready), if_pos refuses, guardEnds_awaited awaits rfl]
    rw [eraseStages_code prepared ready isStorable]
    refine ⟨fun many => ?_, fun few wrong => ?_, fun few right => ?_⟩
    · rw [withCode_exceeded awaits _ _ _ _ many]
    · exact congrArg _ (withCode_mismatch awaits _ _ _ _ few wrong)
    · rw [withCode_accepted _ _ _ _ few right]
      exact congrArg _ (startErase_answered awaits)

end Sys2Proof.Proofs.GuardCommands
end

section
/-!
PROOFS. The walk of an erase (R158 to R160): its cuts, the ends of its writes, its spare claims and the ends of its spare writes.
-/

namespace Sys2Proof.Proofs.EraseWalk

open Sys2Proof Sys2Proof.Machine Sys2Proof.Laws

/-! ### The record of the erase -/

/-- The part with an erase record. -/
def put (x : State) (e : EraseRecord) : State := { x with guard := { x.guard with erase := some e } }

/-- The record with blocks left unerased. -/
def left (e : EraseRecord) (u : Fin 4) (b n : Nat) : EraseRecord :=
  { e with unerased := e.unerased + n, firstUnerased := some (e.firstUnerased.getD ⟨u, b⟩) }

/-- ERASE_BLOCK_FAILED reported for a block. -/
def reported (x : State) (u : Fin 4) (b : Nat) : State :=
  x.report { kind := .eraseBlockFailed, unit := u, block := some b, logical := none, item := none, ofSave := false }

/-- The cursor of a record moves over blocks whose write is over. -/
def past (e : EraseRecord) (n : Nat) : EraseRecord := { e with write := none, offset := e.offset + n }

/-- The part after the block of a write has been given up: unerased, reported, entered pending, and the next write cut. -/
def givenUp (x : State) (e : EraseRecord) (w : EraseWrite) : State :=
  (put ((reported (put x (left e w.unit w.first 1)) w.unit w.first).applyError ⟨w.unit, w.first⟩ .writeFaultNoSpare)
    (past (left e w.unit w.first 1) 0)).eraseCut

variable {s : State} {e : EraseRecord}

theorem onErase_put (record : s.guard.erase = some e) (f : EraseRecord → EraseRecord) : s.onErase f = put s (f e) :=
  onErase_eq record f

theorem leaveUnerased_reported (record : s.guard.erase = some e) (u : Fin 4) (b n : Nat) :
    s.leaveUnerased u b n = reported (put s (left e u b n)) u b := leaveUnerased_eq s e record u b n

theorem reported_guard (x : State) (u : Fin 4) (b : Nat) : (reported x u b).guard = x.guard := report_guard _ _

theorem scored_guard {a b : State} (scored : Scored a b) : b.guard = a.guard := by
  obtain ⟨w, ev, st, -, form⟩ := scored
  rw [form]

theorem claim_guard (s : State) (u : Fin 4) (h : Nat) : (s.claim u h).2.guard = s.guard := by
  unfold State.claim
  split
  · rfl
  · split
    · rfl
    · dsimp only
      split
      · rfl
      · obtain ⟨ev, form⟩ := evaluateHealth_ev (s.onPool u fun _ => _) (s.unitHealth u) u
        rw [form, onPool_eq]

theorem discardSpare_guard (s : State) (u : Fin 4) (b : Nat) : (s.discardSpare u b).guard = s.guard := by
  obtain ⟨m, held, st, -, form⟩ := discard_form s u b
  rw [form]

theorem eraseMoves_put (record : s.guard.erase = some e) (n : Nat) : s.eraseMoves n = (put s (past e n)).eraseCut := by
  rw [State.eraseMoves, onErase_put record]
  rfl

theorem eraseGivesUp_givenUp (record : s.guard.erase = some e) (w : EraseWrite) : s.eraseGivesUp w = givenUp s e w := by
  rw [State.eraseGivesUp, leaveUnerased_reported record]
  refine eraseMoves_put ?_ 0
  rw [scored_guard (applyError_scored _ _ _), reported_guard]
  rfl

theorem eraseUnwritten_left (record : s.guard.erase = some e) (w : EraseWrite) : s.eraseUnwritten w =
    (put (reported (put s (left e w.unit w.first w.count)) w.unit w.first) (past (left e w.unit w.first w.count) w.count)).eraseCut := by
  rw [State.eraseUnwritten, leaveUnerased_reported record]
  refine eraseMoves_put ?_ w.count
  rw [reported_guard]
  rfl

theorem countErased_put (record : s.guard.erase = some e) (n : Nat) :
    s.countErased n = put s { e with erased := e.erased + n } := onErase_put record _

/-! ### The cut (R158) -/

/-- A cut with fuel left, while no write is under way. -/
theorem eraseCut_writing (record : s.guard.erase = some e) (writing : e.phase = .writing) (idle : e.write = none) : s.eraseCut =
    match regionIndex e.index with
    | none => s.eraseWalkEnds
    | some i =>
      let r := s.map.regions[i]
      let nextRegion (e : EraseRecord) : EraseRecord := { e with index := e.index + 1, offset := 0 }
      if !r.valid || !r.guarded || decide (r.count ≤ e.offset) then State.eraseCutUpTo 16 (s.onErase nextRegion)
      else
        let found := s.map.cut r.unit (fun _ => true) (r.physical + e.offset) (r.count - e.offset)
        if (s.port r.unit).state.unavailable then
          State.eraseCutUpTo 16 ((s.leaveUnerased r.unit found.1 (r.count - e.offset)).onErase nextRegion)
        else
          let w : EraseWrite :=
            { unit := r.unit, home := r.physical + e.offset, first := found.1, count := found.2, retried := false,
              wait := .port, repair := none }
          (s.onErase fun e => { e with write := some w, tried := 0 }).offerErase := by
  unfold State.eraseCut State.eraseCutUpTo
  rw [record]
  exact if_pos ⟨writing, idle⟩

/-- The record at the start of the next region. -/
def nextRegion (e : EraseRecord) : EraseRecord := { e with index := e.index + 1, offset := 0 }

/-- One region passed, the fuel of a whole cut still covers the regions left. -/
theorem eraseCut_next {x : State} (record : x.guard.erase = some (nextRegion e)) : State.eraseCutUpTo 16 x = x.eraseCut :=
  eraseCut_fuel 16 17 x _ record (by show 17 - (e.index + 1) ≤ 16; omega) (by omega) (by omega) (by omega)

theorem eraseCut_passes (record : s.guard.erase = some e) (writing : e.phase = .writing) (idle : e.write = none) {i : Fin 16}
    (index : e.index = i.val)
    (passed : s.map.regions[i].valid = false ∨ s.map.regions[i].guarded = false ∨ s.map.regions[i].count ≤ e.offset) :
    s.eraseCut = (put s (nextRegion e)).eraseCut := by
  rw [eraseCut_writing record writing idle, show regionIndex e.index = some i by rw [index, regionIndex_some]]
  dsimp only
  rw [if_pos (by simpa [or_assoc] using passed), onErase_put record]
  exact eraseCut_next (e := e) rfl

theorem not_passed {r : RegionEntry} {n : Nat} (valid : r.valid = true) (guarded : r.guarded = true) (inside : n < r.count) :
    ¬ (!r.valid || !r.guarded || decide (r.count ≤ n)) = true := by
  simp [valid, guarded, inside]

theorem unavailable_iff (p : PortState) : p.unavailable = true ↔ p = .offline ∨ p = .failed ∨ p = .absent := by
  cases p <;> simp [PortState.unavailable]

theorem eraseCut_leaves (record : s.guard.erase = some e) (writing : e.phase = .writing) (idle : e.write = none) {i : Fin 16}
    (index : e.index = i.val) (valid : s.map.regions[i].valid = true) (guarded : s.map.regions[i].guarded = true)
    (inside : e.offset < s.map.regions[i].count) {first count : Nat}
    (cut : s.map.cut s.map.regions[i].unit (fun _ => true) (s.map.regions[i].physical + e.offset)
      (s.map.regions[i].count - e.offset) = (first, count))
    (gone : (s.port s.map.regions[i].unit).state.unavailable = true) :
    s.eraseCut = (put (reported (put s (left e s.map.regions[i].unit first (s.map.regions[i].count - e.offset)))
      s.map.regions[i].unit first)
      (nextRegion (left e s.map.regions[i].unit first (s.map.regions[i].count - e.offset)))).eraseCut := by
  rw [eraseCut_writing record writing idle, show regionIndex e.index = some i by rw [index, regionIndex_some]]
  dsimp only
  rw [if_neg (not_passed valid guarded inside), if_pos gone, cut, leaveUnerased_reported record]
  rw [onErase_put (e := left e s.map.regions[i].unit first (s.map.regions[i].count - e.offset)) (by rw [reported_guard]; rfl)]
  exact eraseCut_next (e := left e s.map.regions[i].unit first (s.map.regions[i].count - e.offset)) rfl

theorem eraseCut_writes (record : s.guard.erase = some e) (writing : e.phase = .writing) (idle : e.write = none) {i : Fin 16}
    (index : e.index = i.val) (valid : s.map.regions[i].valid = true) (guarded : s.map.regions[i].guarded = true)
    (inside : e.offset < s.map.regions[i].count) {first count : Nat}
    (cut : s.map.cut s.map.regions[i].unit (fun _ => true) (s.map.regions[i].physical + e.offset)
      (s.map.regions[i].count - e.offset) = (first, count))
    (there : (s.port s.map.regions[i].unit).state.unavailable = false) :
    s.eraseCut = State.offerErase (put s { e with
      write := some { unit := s.map.regions[i].unit, home := s.map.regions[i].physical + e.offset, first := first, count := count,
                      retried := false, wait := .port, repair := none }
      tried := 0 }) := by
  rw [eraseCut_writing record writing idle, show regionIndex e.index = some i by rw [index, regionIndex_some]]
  dsimp only
  rw [if_neg (not_passed valid guarded inside), if_neg (ne_true_of_eq_false there), cut]
  exact congrArg State.offerErase (onErase_put record _)

/-! ### The end of the walk (R160) -/

/-- The guard of a walk that left nothing unerased. -/
def erased (g : GuardUnit) : GuardUnit := { g with state := .disabled, level := .standard, userCode := none }

theorem erased_saves (g : GuardUnit) : (erased g).savesAs g = true ↔ g.stored = .disabled ∧ g.level = .standard ∧ g.userCode = none := by
  have stored : (erased g).stored = .disabled := rfl
  rw [savesAs_iff, stored]
  exact ⟨fun ⟨a, b, c, _⟩ => ⟨a.symm, b.symm, c.symm⟩, fun ⟨a, b, c⟩ => ⟨a.symm, b.symm, c.symm, rfl⟩⟩

theorem eraseCut_ends (record : s.guard.erase = some e) (writing : e.phase = .writing) (idle : e.write = none) (beyond : 16 ≤ e.index) :
    s.eraseCut = s.eraseWalkEnds := by
  rw [eraseCut_writing record writing idle, regionIndex_none beyond]

theorem eraseWalkEnds_done (record : s.guard.erase = some e) (all : e.unerased = 0) :
    s.eraseWalkEnds = { s with
      guard := { s.guard with state := .disabled, level := .standard, userCode := none, erase := some { e with phase := .savingEnd } }
      store := { (if s.guard.stored = .disabled ∧ s.guard.level = .standard ∧ s.guard.userCode = none then s.store
        else s.store.dirtied) with saveAsked := true, eraseDoneAsked := true } } := by
  rw [State.eraseWalkEnds, onErase_put record]
  have any : ((put s { e with phase := .savingEnd }).guard.erase.any fun e => e.unerased == 0) = true := by simp [put, all]
  dsimp only
  rw [if_pos any]
  exact congrArg (fun x : State => (x.onStore fun c => { c with eraseDoneAsked := true }).askSave)
    (GuardCommands.changeGuard_eq _ erased _ (erased_saves _))

theorem eraseWalkEnds_left (record : s.guard.erase = some e) (some : e.unerased ≠ 0) :
    s.eraseWalkEnds = { s with
      guard := { s.guard with state := .eraseIncomplete, erase := .some { e with phase := .savingEnd } }
      mgmt := { s.mgmt with events := s.mgmt.events ||| Event.eraseFailed.bit }, store := { s.store with saveAsked := true } } := by
  rw [State.eraseWalkEnds, onErase_put record]
  have none : ¬ ((put s { e with phase := .savingEnd }).guard.erase.any fun e => e.unerased == 0) = true := by simp [put, some]
  dsimp only
  rw [if_neg none]
  rfl

/-! ### Claims and ends of writes (R159) -/

theorem eraseClaims_issued (record : s.guard.erase = some e) (w : EraseWrite) (tried : Nat) {b : Nat}
    (issued : (s.claim w.unit w.home).1 = .issued b) : s.eraseClaims w tried = State.offerErase (put (s.claim w.unit w.home).2
      { e with write := some { w with repair := some { spare := b, marked := false } }, tried := tried + 1 }) := by
  have kept := claim_guard s w.unit w.home
  unfold State.eraseClaims
  generalize s.claim w.unit w.home = asked at *
  obtain ⟨outcome, x⟩ := asked
  cases issued
  exact congrArg State.offerErase (onErase_put (kept ▸ record) _)

theorem eraseClaims_pinned (record : s.guard.erase = some e) (w : EraseWrite) (tried : Nat)
    (pinned : (s.claim w.unit w.home).1 = .pinned) :
    s.eraseClaims w tried = givenUp ((s.claim w.unit w.home).2.raise .pinTargetSuspect) e w := by
  have kept := claim_guard s w.unit w.home
  unfold State.eraseClaims
  generalize s.claim w.unit w.home = asked at *
  obtain ⟨outcome, x⟩ := asked
  cases pinned
  exact eraseGivesUp_givenUp (s := x.raise .pinTargetSuspect) (kept ▸ record) w

theorem eraseClaims_refused (record : s.guard.erase = some e) (w : EraseWrite) (tried : Nat)
    (refused : (s.claim w.unit w.home).1 = .exhausted ∨ (s.claim w.unit w.home).1 = .tableFull) :
    s.eraseClaims w tried = givenUp (s.claim w.unit w.home).2 e w := by
  have kept := claim_guard s w.unit w.home
  unfold State.eraseClaims
  generalize s.claim w.unit w.home = asked at *
  obtain ⟨outcome, x⟩ := asked
  rcases refused with refused | refused
  all_goals
    cases refused
    exact eraseGivesUp_givenUp (kept ▸ record) w

theorem eraseEnded_write (record : s.guard.erase = some e) {w : EraseWrite} (write : e.write = some w) (plain : w.repair = none)
    (out : OpOutcome) : s.eraseEnded out = s.eraseWriteEnded w out := by
  unfold State.eraseEnded
  rw [record]
  dsimp only
  rw [write]
  dsimp only
  rw [plain]

theorem eraseEnded_spare (record : s.guard.erase = some e) {w : EraseWrite} (write : e.write = some w) {p : EraseRepair}
    (repair : w.repair = some p) (out : OpOutcome) : s.eraseEnded out = s.eraseSpareEnded w p e.tried out := by
  unfold State.eraseEnded
  rw [record]
  dsimp only
  rw [write]
  dsimp only
  rw [repair]

theorem eraseWriteEnded_done (record : s.guard.erase = some e) (w : EraseWrite) (l : List Nat) (c : List (Nat × Block)) (m : Nat) :
    s.eraseWriteEnded w (.done l c m) = (put s (past { e with erased := e.erased + w.count } w.count)).eraseCut := by
  show (s.countErased w.count).eraseMoves w.count = _
  rw [countErased_put record]
  exact eraseMoves_put (s := put s _) rfl _

/-- A write fault: the blocks before the faulting one count as erased, the cursor passes it, and a spare is claimed for it. -/
theorem eraseWriteEnded_fault (record : s.guard.erase = some e) (w : EraseWrite) {b : Nat} (inside : w.first ≤ b) :
    s.eraseWriteEnded w (.writeFault b) = State.eraseClaims
      (put s { e with erased := e.erased + (b - w.first), offset := e.offset + (b - w.first) + 1 })
      { w with home := w.home + (b - w.first), first := b, count := 1 } 0 := by
  show State.eraseClaims ((s.countErased (b - w.first)).onErase _) { w with
    home := w.home + (b - w.first), first := w.first + (b - w.first), count := 1 } 0 = _
  rw [countErased_put record, Nat.add_sub_cancel' inside, onErase_put (s := put s _) rfl]
  rfl

theorem eraseWriteEnded_timeout (record : s.guard.erase = some e) (w : EraseWrite) : s.eraseWriteEnded w .timeout =
    if w.retried then s.eraseUnwritten w else put s { e with write := some { w with retried := true, wait := .retry } } := by
  exact congrArg (fun x => if w.retried then s.eraseUnwritten w else x) (onErase_put record _)

theorem eraseSpareEnded_done (record : s.guard.erase = some e) (w : EraseWrite) (p : EraseRepair) (tried : Nat) (l : List Nat)
    (c : List (Nat × Block)) (m : Nat) : s.eraseSpareEnded w p tried (.done l c m) =
      (put (s.install w.unit w.home p.spare .writeFault) (past { e with erased := e.erased + 1 } 0)).eraseCut := by
  show ((s.install w.unit w.home p.spare .writeFault).countErased 1).eraseMoves 0 = _
  rw [countErased_put (by rw [install_guard]; exact record)]
  exact eraseMoves_put (s := put _ _) rfl 0

theorem discarded_givesUp (record : s.guard.erase = some e) (w : EraseWrite) (b : Nat) :
    (s.discardSpare w.unit b).eraseGivesUp w = givenUp (s.discardSpare w.unit b) e w :=
  eraseGivesUp_givenUp (by rw [discardSpare_guard]; exact record) w

theorem eraseRetries_ite (record : s.guard.erase = some e) (w : EraseWrite) (p : EraseRepair) (atOnce : Bool) :
    s.eraseRetries w p atOnce =
      if p.marked then givenUp (s.discardSpare w.unit p.spare) e w
      else if atOnce then (put s { e with write := some { w with repair := some { p with marked := true }, wait := .retry } }).offerErase
      else put s { e with write := some { w with repair := some { p with marked := true }, wait := .retry } } := by
  rw [State.eraseRetries, discarded_givesUp record, onErase_put record]

/-- Settles O37: the walk's cuts and its end, the ends of a write, the claims, and the ends of a spare write. -/
theorem theEraseWalksTheGuardedRegions : Obligations.TheEraseWalksTheGuardedRegions := by
  unfold Obligations.TheEraseWalksTheGuardedRegions
  intro s e record
  refine ⟨fun writing idle => ⟨fun beyond all => ?_, fun beyond some => ?_, fun i index => ⟨fun passed => ?_, ?region⟩⟩, ?write,
    ?claims, ?spare⟩
  · rw [eraseCut_ends record writing idle beyond, eraseWalkEnds_done record all]
  · rw [eraseCut_ends record writing idle beyond, eraseWalkEnds_left record some]
  · exact eraseCut_passes record writing idle index passed
  case region =>
    intro first count valid guarded inside cuts
    have cut := (cuts_iff _ _ _ _ _ _ _ (by omega)).mp cuts
    refine ⟨fun gone => ?_, fun there => ?_⟩
    · exact eraseCut_leaves record writing idle index valid guarded inside cut ((unavailable_iff _).mpr gone)
    · refine eraseCut_writes record writing idle index valid guarded inside cut ?_
      rcases there with there | there | there | there <;> rw [there] <;> rfl
  case write =>
    intro w write plain
    simp only [eraseEnded_write record write plain]
    refine ⟨fun l c m => eraseWriteEnded_done record w l c m, fun b inside => eraseWriteEnded_fault record w inside, ?_,
      eraseUnwritten_left record w, eraseUnwritten_left record w⟩
    rw [eraseWriteEnded_timeout record, eraseUnwritten_left record]
    rfl
  case claims =>
    exact fun w tried => ⟨fun b => eraseClaims_issued record w tried, eraseClaims_pinned record w tried,
      eraseClaims_refused record w tried⟩
  case spare =>
    intro w p write repair
    simp only [eraseEnded_spare record write repair]
    refine ⟨fun l c m => eraseSpareEnded_done record w p e.tried l c m, fun b => ?_, eraseRetries_ite record w p false,
      eraseRetries_ite record w p true, discarded_givesUp record w p.spare⟩
    show (if e.tried < 3 then (s.discardSpare w.unit p.spare).eraseClaims w e.tried
      else (s.discardSpare w.unit p.spare).eraseGivesUp w) = _
    rw [discarded_givesUp record]
    rfl

end Sys2Proof.Proofs.EraseWalk
end

section
/-!
PROOFS. UNIT_MODE (R70, R72, R74): what a new desired mode does to its port.
-/

namespace Sys2Proof.Proofs.UnitMode

open Sys2Proof Sys2Proof.Machine Sys2Proof.Laws

variable {s : State} {t : Taken} {u : Fin 4} {m : DesiredMode}

theorem exec_unitMode_awaited (awaits : s.Awaits .unitMode t) : exec .unitMode s = .next (s.unitMode (t.p1 0) (t.p1 1)) :=
  Regions.whenUp_carry_awaited awaits fun s t => s.unitMode (t.p1 0) (t.p1 1)

/-! ### The desired mode -/

/-- A port with a desired mode (R74). -/
def desired (p : Port) (m : DesiredMode) : Port := { p with
  desired := m
  writeFaults := if m = .active then 0 else p.writeFaults
  writeInhibit := if m = .active then p.writeInhibit && p.fault else p.writeInhibit }

theorem desire_eq (p : Port) (m : DesiredMode) : p.desire m = desired p m := by
  unfold Port.desire desired
  cases m <;> rfl

theorem served_desired (p : Port) (on : m ≠ .offline) (inhibited : m = .readOnly ∨ p.fault = true) :
    (desired p m).served = .readOnly := by
  cases m with
  | offline => exact absurd rfl on
  | readOnly => rfl
  | active =>
    have fault : p.fault = true := inhibited.resolve_left (by simp)
    simp [Port.served, desired, fault]

theorem served_ready (p : Port) (on : m ≠ .offline) (free : ¬ (m = .readOnly ∨ p.fault = true)) : (desired p m).served = .ready := by
  cases m with
  | offline => exact absurd rfl on
  | readOnly => exact absurd (.inl rfl) free
  | active =>
    have noFault : p.fault = false := by simpa using free
    simp [Port.served, desired, noFault]

/-- The state that a serving port takes from the table of R72, while it is wanted. -/
theorem served_eq (p : Port) (on : m ≠ .offline) :
    (desired p m).served = if m = .readOnly ∨ p.fault = true then .readOnly else .ready := by
  by_cases inhibited : m = .readOnly ∨ p.fault = true
  · rw [if_pos inhibited, served_desired p on inhibited]
  · rw [if_neg inhibited, served_ready p on inhibited]

theorem serves_iff (p : PortState) : p.serves = true ↔ p = .ready ∨ p = .readOnly := by cases p <;> simp [PortState.serves]

/-- The part with the desired mode of a port recorded. -/
def asked (s : State) (u : Fin 4) (m : DesiredMode) : State := { s with ports := s.ports.set u (desired (s.port u) m) }

theorem asked_port : (asked s u m).port u = desired (s.port u) m := four_get_set_self _ _ _

theorem unitModeAt_eq (s : State) (u : Fin 4) (m : DesiredMode) : s.unitModeAt u m =
    ((((asked s u m).desireActs u m).settle).respond .done ((((asked s u m).desireActs u m).settle).port u).record).finish := by
  have form : (s.onPort u fun p => p.desire m) = asked s u m := by
    rw [asked, ← desire_eq]
    rfl
  unfold State.unitModeAt
  rw [form]

theorem mode_ofCode (m : DesiredMode) : DesiredMode.ofCode m.code = some m := by cases m <;> rfl

theorem unitMode_at (s : State) (u : Fin 4) (m : DesiredMode) : s.unitMode u.val m.code = s.unitModeAt u m := by
  unfold State.unitMode
  rw [UnitPorts.unitOf_val, mode_ofCode]

theorem unitMode_refuses (s : State) {unit mode : Nat} (bad : 4 ≤ unit ∨ ∀ m : DesiredMode, mode ≠ m.code) :
    s.unitMode unit mode = s.respond .invalidParameter [] := by
  unfold State.unitMode
  rcases bad with beyond | other
  · rw [UnitPorts.unitOf_beyond beyond]
  · rw [desiredMode_none other]
    cases unitOf unit <;> rfl

/-! ### What the port does -/

/-- The part with a port changed, UNIT_CHANGE raised where its state is another, and the store as it follows port 0. -/
def portChanged (s : State) (u : Fin 4) (r : Port) (changed : Bool) (store : StoreController) : State := { s with
  ports := s.ports.set u r
  mgmt := { s.mgmt with events := if changed then s.mgmt.events ||| Event.unitChange.bit else s.mgmt.events }
  store := if u = 0 then store else s.store }

theorem portChanged_quiet (s : State) (u : Fin 4) (r : Port) : portChanged s u r false s.store = { s with ports := s.ports.set u r } := by
  unfold portChanged
  rw [ite_self]
  rfl

theorem portChanged_port (s : State) (u : Fin 4) (r : Port) (changed : Bool) (store : StoreController) :
    (portChanged s u r changed store).port u = r := four_get_set_self _ _ _

/-- A port that changes without work left to do, and the answer. -/
theorem unitModeAt_answers {c : Command} (awaits : s.Awaits c t) {r : Port} {changed : Bool} {store : StoreController}
    (acts : (asked s u m).desireActs u m = portChanged s u r changed store) :
    s.unitModeAt u m = State.refreshIdle ((portChanged s u r changed store).answered t .done r.record) := by
  rw [unitModeAt_eq, acts]
  exact record_answered (x := portChanged s u r changed store) awaits rfl rfl u r (portChanged_port ..)

/-- A port that takes its new mode as a wish alone. -/
theorem desireActs_rests (idle : (s.port u).state = .absent ∨ (s.port u).state = .attaching ∨ (s.port u).state = .sleeping ∨
      ((s.port u).state = .offline ∧ m = .offline) ∨ ((s.port u).state = .failed ∧ m ≠ .active)) :
    (asked s u m).desireActs u m = portChanged s u (desired (s.port u) m) false s.store := by
  rw [portChanged_quiet]
  have state : ((asked s u m).port u).state = (s.port u).state := by rw [asked_port]; rfl
  unfold State.desireActs
  rw [state]
  rcases idle with idle | idle | idle | ⟨idle, off⟩ | ⟨idle, other⟩
  · rw [idle]; rfl
  · rw [idle]; rfl
  · rw [idle]; rfl
  · rw [idle]; exact if_pos off
  · rw [idle]; exact if_neg other

theorem desireActs_serves (serves : (s.port u).state = .ready ∨ (s.port u).state = .readOnly) :
    (asked s u m).desireActs u m = (asked s u m).takeState u := by
  have state : ((asked s u m).port u).state = (s.port u).state := by rw [asked_port]; rfl
  unfold State.desireActs
  rw [state]
  rcases serves with serves | serves <;> rw [serves]

/-- The store as it follows a port 0 that serves (R186). -/
def storeServed (c : StoreController) (p : PortState) : StoreController := { c with
  state := if c.load = none ∧ c.state = .absent then .invalid else c.state
  retryHold := if p = .ready then false else c.retryHold }

theorem onStore_invalid (x : State) :
    (if x.loadEnded = true ∧ x.store.state = .absent then x.onStore fun c => { c with state := .invalid } else x) =
      { x with store := { x.store with
        state := if x.store.load = none ∧ x.store.state = .absent then .invalid else x.store.state } } := by
  have ended : x.loadEnded = true ↔ x.store.load = none := Option.isNone_iff_eq_none
  by_cases absent : x.store.load = none ∧ x.store.state = .absent
  · rw [if_pos absent, if_pos ⟨ended.mpr absent.1, absent.2⟩]
    rfl
  · rw [if_neg absent, if_neg (fun both => absent ⟨ended.mp both.1, both.2⟩)]

theorem storePort_serving {p : PortState} (serves : p = .ready ∨ p = .readOnly) (x : State) (noSave : x.store.save = none) :
    x.storePort p = { x with store := storeServed x.store p } := by
  rcases serves with rfl | rfl
  · exact onStore_invalid (x.onStore fun c => { c with retryHold := false })
  · unfold State.storePort
    dsimp only
    rw [saveFails_none noSave]
    exact onStore_invalid x

theorem portReports_serving {p : PortState} (serves : p = .ready ∨ p = .readOnly) (x : State) (noSave : u = 0 → x.store.save = none) :
    x.portReports u p = { x with store := if u = 0 then storeServed x.store p else x.store } := by
  have scan : x.scanPort u p = x := by
    unfold State.scanPort
    split
    · rfl
    · exact if_neg fun lost => by simp [(serves_iff p).mpr serves] at lost
  have living : ¬ (p = .failed ∨ p = .absent) := by rcases serves with rfl | rfl <;> simp
  unfold State.portReports
  rw [scan]
  dsimp only
  rw [if_neg living]
  by_cases first : u = 0
  · rw [if_pos first, if_pos first]
    exact storePort_serving serves x (noSave first)
  · rw [if_neg first, if_neg first]

/-- A serving port that stays wanted takes its state from the table of R72. -/
theorem desireActs_takes (serves : (s.port u).state = .ready ∨ (s.port u).state = .readOnly) (on : m ≠ .offline)
    (noSave : u = 0 → s.store.save = none) {st : PortState} (takes : (desired (s.port u) m).served = st) :
    (asked s u m).desireActs u m =
      if st = (s.port u).state then portChanged s u (desired (s.port u) m) false s.store
      else portChanged s u { desired (s.port u) m with state := st } true (storeServed s.store st) := by
  have serving : st = .ready ∨ st = .readOnly := by
    rw [← takes, served_eq _ on]
    split
    · exact .inr rfl
    · exact .inl rfl
  rw [desireActs_serves serves, State.takeState, asked_port, takes]
  dsimp only
  by_cases same : st = (s.port u).state
  · rw [if_pos same, portChanged_quiet]
    exact if_neg (by simp [same, desired])
  · have does : ((desired (s.port u) m).state.serves && decide (st ≠ (desired (s.port u) m).state)) = true := by
      rw [Bool.and_eq_true, serves_iff, decide_eq_true_eq]
      exact ⟨serves, same⟩
    have notOffline : st ≠ .offline := by rcases serving with rfl | rfl <;> simp
    rw [if_neg same, if_pos does, if_neg notOffline, portEnters_raised (by rw [asked_port]; exact fun h => same h.symm),
      portReports_serving serving _ (by exact noSave), asked_port]
    unfold portChanged asked
    dsimp only
    rw [four_set_set]
    rfl

/-- The port that a new mode OFFLINE takes out of service. -/
def takenOffline (p : Port) : Port :=
  { p with state := .offline, powerDownAttempts := 0, sleepRecord := none, waking := false, identified := false }

/-- A serving port with nothing waiting goes OFFLINE; its held retries are all that is left to do. -/
theorem desireActs_offline (serves : (s.port u).state = .ready ∨ (s.port u).state = .readOnly) (off : m = .offline)
    (empty : (s.port u).waiting = []) (noScan : s.scan.context = none) (noSave : u = 0 → s.store.save = none) :
    (asked s u m).desireActs u m = State.later
      (portChanged s u (takenOffline (desired (s.port u) m)) true { s.store with state := .absent }) (.retries u) := by
  have served : (desired (s.port u) m).served = .offline := by rw [off]; rfl
  have awake : (s.port u).state ≠ .offline := by rcases serves with state | state <;> rw [state] <;> simp
  have does : ((desired (s.port u) m).state.serves && decide ((desired (s.port u) m).served ≠ (desired (s.port u) m).state)) = true := by
    rw [Bool.and_eq_true, serves_iff, decide_eq_true_eq, served]
    exact ⟨serves, awake.symm⟩
  rw [desireActs_serves serves, State.takeState, asked_port]
  dsimp only
  rw [if_pos does, if_pos served, enterOffline_quiet (s := asked s u m) (by rw [asked_port]; exact awake) (by rw [asked_port]; exact empty)
      noScan noSave,
    asked_port]
  unfold portChanged asked
  dsimp only
  rw [four_set_set]
  rfl

theorem settle_offline {x : State} (settled : x.todo = []) (noItems : x.engine.items = []) (noScan : x.scan.context = none)
    (noErase : x.guard.erase = none) (off : (x.port u).state = .offline) : (x.later (.retries u)).settle = x := by
  refine settle_one (w := .retries u) (by simp [State.later, settled]) ?_ settled
  have form : ({ x.later (.retries u) with todo := [] } : State) = x := by
    unfold State.later
    dsimp only
    rw [← settled]
  rw [form]
  exact retries_quiet noItems noScan noErase (by rw [off]; rfl)

/-- A port that goes OFFLINE for its new mode, and the answer. -/
theorem unitModeAt_offline {c : Command} (awaits : s.Awaits c t) (serves : (s.port u).state = .ready ∨ (s.port u).state = .readOnly)
    (off : m = .offline) (empty : (s.port u).waiting = []) (noItems : s.engine.items = []) (noScan : s.scan.context = none)
    (noErase : s.guard.erase = none) (noSave : u = 0 → s.store.save = none) : s.unitModeAt u m = State.refreshIdle (State.answered
      (portChanged s u (takenOffline (desired (s.port u) m)) true { s.store with state := .absent }) t .done
      (takenOffline (desired (s.port u) m)).record) := by
  rw [unitModeAt_eq, desireActs_offline serves off empty noScan noSave]
  rw [settle_offline (x := portChanged s u (takenOffline (desired (s.port u) m)) true { s.store with state := .absent })
    awaits.settled noItems noScan noErase (by rw [portChanged_port]; rfl), portChanged_port]
  exact respond_finish_awaited (x := portChanged s u (takenOffline (desired (s.port u) m)) true { s.store with state := .absent })
    awaits rfl rfl _ _

/-- A port that a new mode wants again begins an attach. -/
theorem desireActs_attaches (wanted : ((s.port u).state = .offline ∧ m ≠ .offline) ∨ ((s.port u).state = .failed ∧ m = .active)) :
    (asked s u m).desireActs u m = (asked s u m).beginAttach u false := by
  have state : ((asked s u m).port u).state = (s.port u).state := by rw [asked_port]; rfl
  unfold State.desireActs
  rw [state]
  rcases wanted with ⟨off, on⟩ | ⟨failed, active⟩
  · rw [off]; exact if_neg on
  · rw [failed]; exact if_pos active

/-- The part with one more operation numbered and counted. -/
def numbered (s : State) (c : CounterBank) : State := { s with nextId := s.nextId + 1, counters := c }

theorem unitModeAt_attaches {c : Command} (awaits : s.Awaits c t)
    (wanted : ((s.port u).state = .offline ∧ m ≠ .offline) ∨ ((s.port u).state = .failed ∧ m = .active))
    (slots : (s.port u).slots = Four.all none) (place : (s.port u).storePlace = none)
    (patrol : ∀ c, s.scan.context = some c → c.kind = .patrol) (noSave : u = 0 → s.store.save = none) :
    ∃ c, s.unitModeAt u m = State.refreshIdle (State.answered
        (portChanged (numbered s c) u (s.attachBegun (desired (s.port u) m) false s.nextId) false s.store) t .done
        (s.attachBegun (desired (s.port u) m) false s.nextId).record) ∧
      c.streams = s.counters.streams ∧ c.link = s.counters.link := by
  obtain ⟨c, attaches, link, streams, -⟩ := beginAttach_sends (s := asked s u m) (u := u) (k := false)
    (by rw [asked_port]; exact slots) (by rw [asked_port]; exact place) patrol noSave
  refine ⟨c, ?_, streams, link⟩
  have acts : (asked s u m).desireActs u m =
      portChanged (numbered s c) u (s.attachBegun (desired (s.port u) m) false s.nextId) false s.store := by
    rw [desireActs_attaches wanted, attaches, asked_port]
    unfold portChanged asked numbered
    dsimp only
    rw [four_set_set, ite_self]
    rfl
  rw [unitModeAt_eq, acts]
  exact record_answered (x := portChanged (numbered s c) u (s.attachBegun (desired (s.port u) m) false s.nextId) false s.store)
    awaits rfl rfl u _ (portChanged_port ..)

/-- Settles O38, by what the port does for its new mode: nothing, a state of the table of R72, OFFLINE, or an attach. -/
theorem unitModeSetsTheDesiredMode : Obligations.UnitModeSetsTheDesiredMode := by
  unfold Obligations.UnitModeSetsTheDesiredMode
  intro s t awaits
  refine ⟨fun bad => ?_, fun u m unit mode => ?_⟩
  · rw [exec_unitMode_awaited awaits, unitMode_refuses s bad, respond_awaited awaits]
  have runs : exec .unitMode s = .next (s.unitModeAt u m) := by rw [exec_unitMode_awaited awaits, unit, mode, unitMode_at]
  intro p q serves ends
  refine ⟨fun idle => ?_, fun isServing on noSave => ?_, fun isServing off empty noItems noScan noErase noSave => ?_,
    fun wanted slots place patrol noSave => ?_⟩
  · exact runs.trans (congrArg _ (unitModeAt_answers awaits (desireActs_rests idle)))
  · intro st store
    have acts := desireActs_takes isServing on noSave (served_eq (s.port u) on)
    refine runs.trans (congrArg _ ?_)
    by_cases same : st = p.state
    · rw [if_pos same]
      exact unitModeAt_answers awaits (acts.trans (if_pos same))
    · rw [if_neg same]
      exact unitModeAt_answers awaits (acts.trans (if_neg same))
  · exact runs.trans (congrArg _ (unitModeAt_offline awaits isServing off empty noItems noScan noErase noSave))
  · obtain ⟨c, answers, streams, link⟩ := unitModeAt_attaches awaits wanted slots place patrol noSave
    exact ⟨c, runs.trans (congrArg _ answers), streams, link⟩

end Sys2Proof.Proofs.UnitMode
end

section
/-!
PROOFS. REQUESTs that are rejected or refused (R41 to R45) and window accesses (R127 to R131), with the commands taken from W0 (R133).
-/

namespace Sys2Proof.Proofs.WindowAccesses

open Sys2Proof Sys2Proof.Machine Sys2Proof.Laws

/-! ### Rejected and refused -/

theorem takeRequest_noKind (s : State) {r : RequestFields} (other : ∀ k : ReqKind, r.kind.toNat ≠ k.code) :
    s.takeRequest r = s.reject r.tag .malformed := by
  unfold State.takeRequest
  rw [reqKind_ofCode_none other]

theorem takeRequest_long (s : State) {r : RequestFields} (long : 1048576 < r.len.toNat) :
    s.takeRequest r = s.reject r.tag .malformed := by
  unfold State.takeRequest
  split
  · rfl
  · exact if_pos long

theorem takeRequest_inUse {s : State} {r : RequestFields} {k : ReqKind} (kind : r.kind.toNat = k.code)
    (short : ¬ 1048576 < r.len.toNat) (inUse : s.link.tags[r.tag] ≠ .free) : s.takeRequest r = s.reject r.tag .tagInUse := by
  unfold State.takeRequest
  rw [reqKind_ofCode kind]
  exact (if_neg short).trans (if_pos inUse)

/-- A request below the window that fails a check ends with its status (R44). -/
theorem checkRequest_fails {s : State} {frame : List Byte} {r : RequestFields} {k : ReqKind} (arrives : s.Arrives frame r k)
    {status : Status} (first : r.lba.toNat < 4294967292) (last : r.lba.toNat + (r.len.toNat + 511) / 512 ≤ 4294967292)
    (fails : s.failedCheck k r.stream r.lba.toNat ((r.len.toNat + 511) / 512) = some status) :
    (admitted s k r).checkRequest (newRequest s k r) =
      s.passedThrough r k [.completion r.tag status r.len.toNat none false (s.mgmt.events != 0)] StreamCounters.refusedOne := by
  unfold State.checkRequest
  rw [newRequest_notWindow first last, if_neg Bool.false_ne_true, admitted_check, fails]
  exact admitted_refuse arrives status

/-- A request that is no SYNC meets its checks, and its step ends. -/
theorem exec_request_checked {s : State} {frame : List Byte} {r : RequestFields} {k : ReqKind} (arrives : s.Arrives frame r k)
    (noSync : k ≠ .sync) {x : State} (checked : (admitted s k r).checkRequest (newRequest s k r) = x) (settled : x.todo = s.todo) :
    exec (.request frame) s = .next x.refreshIdle := by
  rw [request_arrives arrives, if_neg noSync, checked, finish_of_todo_nil (settled.trans arrives.settled)]

theorem discarded_frame {s : State} {frame : List Byte} (up : s.inReset = false) (bad : LinkFrame.parse frame = none) :
    exec (.request frame) s = .next s.countFrameDiscarded ∧ exec (.writeData frame) s = .next s.countFrameDiscarded ∧
      exec (.cancel frame) s = .next s.countFrameDiscarded ∧ exec (.linkReset frame) s = .next s.countFrameDiscarded := by
  have request : s.requestFrame frame = s.countFrameDiscarded := by unfold State.requestFrame; rw [bad]
  have write : s.writeDataFrame frame = s.countFrameDiscarded := by unfold State.writeDataFrame; rw [bad]
  have cancel : s.cancelFrame frame = s.countFrameDiscarded := by unfold State.cancelFrame; rw [bad]
  have reset : s.linkResetFrame frame = s.countFrameDiscarded := by unfold State.linkResetFrame; rw [bad]
  refine ⟨(whenUp_up (fun s => s.requestFrame frame) up).trans ?_, (whenUp_up (fun s => s.writeDataFrame frame) up).trans ?_,
    (whenUp_up (fun s => s.cancelFrame frame) up).trans ?_, (whenUp_up (fun s => s.linkResetFrame frame) up).trans ?_⟩
  · rw [request]
  · rw [write]
  · rw [cancel]
  · rw [reset]

/-- Settles O39: a frame that is discarded, the REJECTs of R42, and a request that fails a check (`checkRequest_fails`). -/
theorem requestsAreRejectedOrRefused : Obligations.RequestsAreRejectedOrRefused := by
  unfold Obligations.RequestsAreRejectedOrRefused
  intro s frame
  refine ⟨fun up bad => discarded_frame up bad, fun r => ⟨fun running parsed => ?_, ?_⟩⟩
  · rw [exec_request running parsed]
    refine ⟨fun malformed => congrArg _ ?_, fun wellFormed inUse => congrArg _ ?_⟩
    · rcases malformed with other | long
      · exact takeRequest_noKind s other
      · exact takeRequest_long s long
    · obtain ⟨known, short⟩ := not_or.mp wellFormed
      obtain ⟨k, kind⟩ := not_forall.mp known
      exact takeRequest_inUse (not_not.mp kind) short inUse
  · intro k status arrives noSync count first last fails
    exact exec_request_checked arrives noSync (checkRequest_fails arrives first last fails) rfl

/-! ### Window accesses (R127 to R130) -/

/-- What the stages of a window access decide (R127). -/
def failure (s : State) (k : ReqKind) (r : RequestFields) : Option Status :=
  if s.modes.mode = .startup then some .notServicing
  else if k = .verify ∨ r.len.toNat ≠ 512 ∨ r.lba.toNat < 4294967292 then some .windowMisuse
  else if s.mgmt.streams.getLsbD r.stream.val = false then some .accessDenied
  else if (k = .read ∧ r.lba.toNat = 4294967292) ∨ (k = .write ∧ r.lba.toNat ≠ 4294967292) then some .windowMisuse
  else none

theorem windowFailure_eq (s : State) {k : ReqKind} (noSync : k ≠ .sync) (r : RequestFields) :
    (windowAccess s k r).windowFailure (newRequest s k r) = failure s k r := by
  have misuse : (k = .verify ∨ k = .sync ∨ r.len.toNat ≠ 512 ∨ r.lba.toNat < 4294967292) ↔
      (k = .verify ∨ r.len.toNat ≠ 512 ∨ r.lba.toNat < 4294967292) := by tauto
  exact if_congr Iff.rfl rfl (if_congr misuse rfl rfl)

theorem newRequest_window (s : State) {k : ReqKind} {r : RequestFields}
    (window : 4294967292 < r.lba.toNat + (r.len.toNat + 511) / 512 ∨ 4294967292 ≤ r.lba.toNat) :
    (newRequest s k r).windowTarget = true := by
  show (decide (4294967292 ≤ r.lba.toNat) || decide (4294967292 < r.lba.toNat + (r.len.toNat + 511) / 512)) = true
  simp only [Bool.or_eq_true, decide_eq_true_eq]
  exact window.symm

/-- A window access is decided by its stages, then by its kind. -/
theorem checkRequest_window {s : State} {frame : List Byte} {r : RequestFields} {k : ReqKind} (arrives : s.Arrives frame r k)
    (noSync : k ≠ .sync) (window : 4294967292 < r.lba.toNat + (r.len.toNat + 511) / 512 ∨ 4294967292 ≤ r.lba.toNat) :
    (admitted s k r).checkRequest (newRequest s k r) =
      match failure s k r with
      | some status => (windowAccess s k r).windowRefuse r.tag r.stream status r.len.toNat
      | none => if k = .read then (windowAccess s k r).windowRead (newRequest s k r)
                else (windowAccess s k r).windowWrite (newRequest s k r) := by
  have access : ((admitted s k r).removeItem (newRequest s k r).id).setTag (newRequest s k r).tag .window = windowAccess s k r := by
    rw [admitted_remove arrives.lawful]
    rfl
  unfold State.checkRequest State.windowAccess
  rw [if_pos (newRequest_window s window), access]
  dsimp only
  rw [windowFailure_eq s noSync]
  cases failure s k r <;> rfl

theorem window_fails {s : State} {frame : List Byte} {r : RequestFields} {k : ReqKind} (arrives : s.Arrives frame r k)
    (noSync : k ≠ .sync) (window : 4294967292 < r.lba.toNat + (r.len.toNat + 511) / 512 ∨ 4294967292 ≤ r.lba.toNat)
    {status : Status} (fails : failure s k r = some status) : (admitted s k r).checkRequest (newRequest s k r) =
      s.passedThrough r k [.completion r.tag status r.len.toNat none false (s.mgmt.events != 0)] StreamCounters.refusedOne := by
  rw [checkRequest_window arrives noSync window, fails]
  exact windowAccess_refuse arrives status r.len.toNat

/-- The part after a window read is served: the block is sent, its COMPLETION is owed, and the events stand as they are shown. -/
def reads (s : State) (k : ReqKind) (r : RequestFields) (block : List Byte) (events : Half) : State :=
  { s.passedThrough r k [] id with
    link := { tags := s.link.tags.set r.tag .window, sent := s.link.sent ++ [.readData r.tag 0 block] }
    mgmt := { s.mgmt with reads := s.mgmt.reads ++ [{ tag := r.tag, stream := r.stream }], events := events } }

theorem clearEvents_ite (x : State) (p : Prop) [Decidable p] :
    (if p then x.clearEvents else x) = { x with mgmt := { x.mgmt with events := if p then 0 else x.mgmt.events } } := by
  by_cases holds : p
  · rw [if_pos holds, if_pos holds]
    rfl
  · rw [if_neg holds, if_neg holds]

theorem windowAccess_read (s : State) (k : ReqKind) (r : RequestFields) :
    (windowAccess s k r).windowRead (newRequest s k r) = reads s k r
      (if r.lba.toNat = 4294967293 then s.mgmt.shown.block else s.statusBlock)
      (if r.lba.toNat = 4294967295 then 0 else s.mgmt.events) := by
  have streams : s.counters.streams.set r.stream s.counters.streams[r.stream] = s.counters.streams := by simp
  have tags := tags_set (v := s.link.tags) r.tag .request .window
  unfold reads State.passedThrough
  dsimp only [id]
  rw [streams, ← tags]
  unfold State.windowRead
  dsimp only
  rw [clearEvents_ite]
  rfl

theorem window_reads {s : State} {frame : List Byte} {r : RequestFields} (arrives : s.Arrives frame r .read)
    (window : 4294967292 < r.lba.toNat + (r.len.toNat + 511) / 512 ∨ 4294967292 ≤ r.lba.toNat)
    (passes : failure s .read r = none) : (admitted s .read r).checkRequest (newRequest s .read r) = reads s .read r
      (if r.lba.toNat = 4294967293 then s.mgmt.shown.block else s.statusBlock)
      (if r.lba.toNat = 4294967295 then 0 else s.mgmt.events) := by
  rw [checkRequest_window arrives (by simp) window, passes]
  exact windowAccess_read s .read r

theorem window_writes {s : State} {frame : List Byte} {r : RequestFields} (arrives : s.Arrives frame r .write)
    (window : 4294967292 < r.lba.toNat + (r.len.toNat + 511) / 512 ∨ 4294967292 ≤ r.lba.toNat)
    (passes : failure s .write r = none) : (admitted s .write r).checkRequest (newRequest s .write r) =
      (windowAccess s .write r).windowWrite (newRequest s .write r) := by
  rw [checkRequest_window arrives (by simp) window, passes]
  rfl

theorem shown_block (m : ManagementEngine) : m.shown.block =
    match m.taken with
    | none => m.response.block
    | some t => Response.block { seq := t.seq, code := t.code, result := .pending, data := [] } := by
  unfold ManagementEngine.shown
  cases m.taken <;> rfl

/-- A write of W0 that finds the engine EXECUTING is refused (R130). -/
theorem windowWrite_busy {s : State} {frame : List Byte} {r : RequestFields} {k : ReqKind} (arrives : s.Arrives frame r k)
    (busy : s.mgmt.state = .executing) : (windowAccess s k r).windowWrite (newRequest s k r) =
      s.passedThrough r k [.completion r.tag .mgmtBusy 512 none false (s.mgmt.events != 0)] StreamCounters.refusedOne := by
  unfold State.windowWrite
  rw [show (windowAccess s k r).mgmt.state = .executing from busy]
  exact windowAccess_refuse arrives .mgmtBusy 512

/-! ### The end of a window read -/

/-- A tag that a window read holds is held by no W0 write. -/
theorem reads_notWindows {s : State} (law : s.TagLaw) {x : WindowRead} (mem : x ∈ s.mgmt.reads) :
    s.link.tags[x.tag] = .window ∧ s.mgmt.windowStream x.tag = none ∧ (s.mgmt.windows.find? fun y => y.tag == x.tag) = none := by
  have held : x.tag ∈ s.mgmt.reads.map fun y => y.tag := List.mem_map_of_mem mem
  obtain ⟨-, distinct, apart⟩ := List.nodup_append.mp law.distinct
  obtain ⟨-, -, others⟩ := List.nodup_append.mp distinct
  have noWindow : (s.mgmt.windows.find? fun y => y.tag == x.tag) = none := by
    refine List.find?_eq_none.mpr fun y window => ?_
    simpa using apart _ (List.mem_map_of_mem window) _ (List.mem_append_left _ held)
  refine ⟨(law.windows x.tag).mpr (List.mem_append_right _ (List.mem_append_left _ held)), ?_, noWindow⟩
  unfold ManagementEngine.windowStream
  rw [noWindow]
  cases taken : s.mgmt.taken with
  | none => rfl
  | some t =>
    refine if_neg fun same => ?_
    exact others _ held x.tag (by simp [taken, same]) rfl

theorem writeData_taken {s : State} {frame : List Byte} {f : WriteFields} (running : s.Running)
    (parsed : LinkFrame.parse frame = some (.writeData f)) : exec (.writeData frame) s = .next (s.takeWriteData f).finish := by
  refine (whenUp_up (fun s => s.writeDataFrame frame) running.up).trans ?_
  unfold State.writeDataFrame
  rw [parsed]

/-- WRITE DATA for a window, and the end of its step. -/
theorem writeData_window {s : State} {frame : List Byte} {f : WriteFields} (running : s.Running)
    (parsed : LinkFrame.parse frame = some (.writeData f)) (window : s.link.tags[f.tag] = .window) {x : State}
    (writes : s.writeWindow f = x) (settled : x.todo = s.todo) : exec (.writeData frame) s = .next x.refreshIdle := by
  have takes : s.takeWriteData f = x := by
    unfold State.takeWriteData State.tagUse
    rw [window]
    exact writes
  rw [writeData_taken running parsed, takes, finish_of_todo_nil (settled.trans running.settled)]

theorem exec_readDataSent {s : State} (running : s.Running) (tag : Fin 32) (n : Nat) :
    exec (.readDataSent tag n) s = .next (s.readDataSent tag n) := whenUp_up (fun s => s.readDataSent tag n) running.up

/-- The end of a window read, and WRITE DATA that comes before it. -/
theorem windowRead_ends {s : State} (tag : Fin 32) {x : WindowRead} (running : s.Running)
    (owed : (s.mgmt.reads.find? fun x => x.tag == tag) = some x) :
    exec (.readDataSent tag 0) s = .next { s with
      link := { tags := s.link.tags.set tag .free, sent := s.link.sent ++ [.completion tag .ok 0 none false (s.mgmt.events != 0)] }
      mgmt := { s.mgmt with reads := s.mgmt.reads.filter fun y => y.tag != tag }
      counters := { s.counters with streams := s.counters.streams.set x.stream s.counters.streams[x.stream].completedOne } } ∧
    (∀ n, n ≠ 0 → exec (.readDataSent tag n) s = .next s) ∧
    (∀ (frame : List Byte) (f : WriteFields), s.Lawful → LinkFrame.parse frame = some (.writeData f) → f.tag = tag →
      exec (.writeData frame) s = .next (State.refreshIdle (State.onLinkCounters s fun c =>
        { c with discardedData := min 4294967295 (c.discardedData + 1) }))) := by
  have same : x.tag = tag := by simpa using List.find?_some owed
  subst same
  refine ⟨?_, fun n later => ?_, fun frame f lawful parsed names => ?_⟩
  · rw [exec_readDataSent running, State.readDataSent, owed]
    rfl
  · rw [exec_readDataSent running, State.readDataSent, owed]
    exact congrArg _ (if_neg later)
  · obtain ⟨window, noStream, noWindow⟩ := reads_notWindows lawful.tagLaw (List.mem_of_find?_eq_some owed)
    have held : ∀ g, g = x.tag → s.link.tags[g] = .window := fun g same => by subst same; exact window
    refine writeData_window running parsed (held _ names) (x := s.countDiscardedData) ?_ rfl
    unfold State.writeWindow
    rw [names, noStream, noWindow]
    exact ite_self _

/-- Settles O41, by the stages of an access (`failure`), the block and events that a read shows, and the write of W0. -/
theorem windowAccessesAreServed : Obligations.WindowAccessesAreServed := by
  unfold Obligations.WindowAccessesAreServed
  refine ⟨fun s frame r k arrives noSync window => ?_, fun s tag x running owed => windowRead_ends tag running owed⟩
  intro w0 lba failed ends shows
  refine ⟨fun status fails => ?_, fun passes read w1 => ?_, fun passes read w2 => ?_, fun passes read w3 => ?_,
    fun passes write busy => ?_, fun passes write idle => ?_⟩
  · exact exec_request_checked arrives noSync (window_fails arrives noSync window fails) rfl
  · subst read
    have w1 : r.lba.toNat = 4294967293 := w1
    have served := window_reads arrives window passes
    rw [if_pos w1, if_neg (by omega), shown_block] at served
    exact exec_request_checked arrives noSync served rfl
  · subst read
    have w2 : r.lba.toNat = 4294967294 := w2
    have served := window_reads arrives window passes
    rw [if_neg (by omega), if_neg (by omega)] at served
    exact exec_request_checked arrives noSync served rfl
  · subst read
    have w3 : r.lba.toNat = 4294967295 := w3
    have served := window_reads arrives window passes
    rw [if_neg (by omega), if_pos w3] at served
    exact exec_request_checked arrives noSync served rfl
  · subst write
    exact exec_request_checked arrives noSync ((window_writes arrives window passes).trans (windowWrite_busy arrives busy)) rfl
  · subst write
    exact exec_request_checked arrives noSync ((window_writes arrives window passes).trans (windowAccess_write arrives idle)) rfl

/-! ### W0 writes (R130, R133) -/

/-- The part after the W0 write of a tag has ended with a status, where the engine is `m` from then on. -/
def ended (s : State) (tag : Fin 32) (status : Status) (stream : Fin 16) (m : ManagementEngine) : State := { s with
  link := { tags := s.link.tags.set tag .free, sent := s.link.sent ++ [.completion tag status 512 none false (s.mgmt.events != 0)] }
  mgmt := m
  counters := { s.counters with streams := s.counters.streams.set stream s.counters.streams[stream].refusedOne } }

/-- The engine without the W0 write of a tag. -/
def gone (m : ManagementEngine) (tag : Fin 32) : ManagementEngine := { m with windows := m.windows.filter fun x => x.tag != tag }

theorem windows_notHeld {m : ManagementEngine} {tag : Fin 32} (none : (m.windows.find? fun x => x.tag == tag) = none) :
    gone m tag = m := by
  unfold gone
  rw [List.filter_eq_self.mpr fun x mem => by simpa using List.find?_eq_none.mp none x mem]

theorem releaseTaken_other {s : State} {tag : Fin 32} (other : s.mgmt.taken.bind (fun t => t.tag) ≠ some tag) :
    s.releaseTaken tag = s := by
  have kept : (s.mgmt.taken.map fun t => if t.tag = some tag then { t with tag := none } else t) = s.mgmt.taken := by
    cases taken : s.mgmt.taken with
    | none => rfl
    | some t => exact congrArg some (if_neg fun same => other (by rw [taken]; exact same))
  unfold State.releaseTaken
  rw [kept]

theorem releaseTaken_own {s : State} {tag : Fin 32} {t : Taken} (taken : s.mgmt.taken = some t) (own : t.tag = some tag) :
    s.releaseTaken tag = { s with mgmt := { s.mgmt with taken := some { t with tag := none } } } := by
  unfold State.releaseTaken
  rw [taken]
  exact congrArg (fun x => ({ s with mgmt := { s.mgmt with taken := some x } } : State)) (if_pos own)

theorem windowStream_window {m : ManagementEngine} {tag : Fin 32} {w : WindowWrite}
    (found : (m.windows.find? fun x => x.tag == tag) = some w) : m.windowStream tag = some w.stream := by
  unfold ManagementEngine.windowStream
  rw [found]

theorem windowStream_taken {m : ManagementEngine} {tag : Fin 32} {t : Taken}
    (none : (m.windows.find? fun x => x.tag == tag) = none) (taken : m.taken = some t) (own : t.tag = some tag) :
    m.windowStream tag = some t.stream := by
  unfold ManagementEngine.windowStream
  rw [none, taken]
  exact if_pos own

section
variable {s : State} {f : WriteFields} {w : WindowWrite}

/-- A block beyond the first ends the W0 write that holds the tag (R130). -/
theorem writeWindow_beyond (found : (s.mgmt.windows.find? fun x => x.tag == f.tag) = some w)
    (other : s.mgmt.taken.bind (fun t => t.tag) ≠ some f.tag) (index : f.index ≠ 0) :
    s.writeWindow f = ended s f.tag .badRequest w.stream (gone s.mgmt f.tag) := by
  unfold State.writeWindow
  rw [if_pos index, windowStream_window found]
  dsimp only
  rw [releaseTaken_other (s := s.endWindow f.tag) other]
  rfl

/-- Also where the command has been taken from it already. -/
theorem writeWindow_beyondTaken {t : Taken} (none : (s.mgmt.windows.find? fun x => x.tag == f.tag) = none)
    (taken : s.mgmt.taken = some t) (own : t.tag = some f.tag) (index : f.index ≠ 0) :
    s.writeWindow f = ended s f.tag .badRequest t.stream { s.mgmt with taken := some { t with tag := .none } } := by
  have same : s.endWindow f.tag = s := congrArg (fun m => ({ s with mgmt := m } : State)) (windows_notHeld none)
  unfold State.writeWindow
  rw [if_pos index, windowStream_taken none taken own]
  dsimp only
  rw [same, releaseTaken_own taken own]
  rfl

theorem writeWindow_size (found : (s.mgmt.windows.find? fun x => x.tag == f.tag) = some w) (index : f.index = 0)
    (size : f.data.length ≠ 512) : s.writeWindow f = s.countDiscardedData := by
  unfold State.writeWindow
  rw [if_neg (not_not.mpr index), found]
  exact if_pos size

theorem writeWindow_busy (found : (s.mgmt.windows.find? fun x => x.tag == f.tag) = some w) (index : f.index = 0)
    (size : f.data.length = 512) (busy : s.mgmt.state = .executing) :
    s.writeWindow f = ended s f.tag .mgmtBusy w.stream (gone s.mgmt f.tag) := by
  unfold State.writeWindow
  rw [if_neg (not_not.mpr index), found]
  dsimp only
  rw [if_neg (not_not.mpr size), busy]
  rfl

theorem writeWindow_command (found : (s.mgmt.windows.find? fun x => x.tag == f.tag) = some w) (index : f.index = 0)
    (size : f.data.length = 512) (idle : s.mgmt.state = .idle) : s.writeWindow f = (s.endWindow f.tag).commandTaken w f.data := by
  unfold State.writeWindow
  rw [if_neg (not_not.mpr index), found]
  dsimp only
  rw [if_neg (not_not.mpr size), idle]

end

/-- The command that a block of 512 bytes carries, as the engine takes it. -/
def takenFrom (s : State) (w : WindowWrite) (block : Block) : Taken :=
  { code := u2 block 0, seq := BitVec.ofNat 16 (u2 block 2), stream := w.stream, tag := some w.tag, block := block
    mode := s.modes.mode, prepared := s.guard.prepared
    record := ⟨s.nextId, .command (u2 block 0) (BitVec.ofNat 16 (u2 block 2)) s.now⟩, decided := false }

/-- A command that is taken ends at its code, at its payload length, or waits for its own step (R133). -/
theorem commandTaken_ends (x : State) (w : WindowWrite) (block : Block) : x.commandTaken w block =
    if (takenFrom x w block).code = 0 ∨ 32 < (takenFrom x w block).code then
      (x.beginCommand w block).answered (takenFrom x w block) .invalidCommand []
    else if 480 < (takenFrom x w block).payloadLength then
      (x.beginCommand w block).answered (takenFrom x w block) .invalidParameter []
    else x.beginCommand w block := by
  have taken : (x.beginCommand w block).mgmt.taken = some (takenFrom x w block) := rfl
  unfold State.commandTaken
  dsimp only
  rw [respond_taken taken, respond_taken taken]
  cases code : Command.ofCode (u2 block 0) with
  | none => exact (if_pos (command_ofCode_none.mp code)).symm
  | some c =>
    have known : ¬ (u2 block 0 = 0 ∨ 32 < u2 block 0) := fun none => by simp [command_ofCode_none.mpr none] at code
    exact (if_neg known).symm

/-- Settles O42: the data timer of a W0 write, a block beyond the first, a wrong size, a busy engine, and the command that is taken. -/
theorem commandsAreTakenFromW0 : Obligations.CommandsAreTakenFromW0 := by
  unfold Obligations.CommandsAreTakenFromW0
  intro s tag running found windows finishes without
  have timer : exec (.windowDataTimeout tag) s = .next (s.windowTimesOut tag) :=
    whenUp_up (fun s => s.windowTimesOut tag) running.up
  refine ⟨fun none => ?_, fun w held => ?_, fun frame f parsed names window => ?_⟩
  · rw [timer, State.windowTimesOut, show (s.mgmt.windows.find? fun x => x.tag == tag) = .none from none]
  · rw [timer, State.windowTimesOut, show (s.mgmt.windows.find? fun x => x.tag == tag) = some w from held]
    rfl
  · subst names
    refine ⟨fun w held other index => ?_, fun t none taken own index => ?_, fun w held index size => ?_,
      fun w held index size busy => ?_, fun w held index size idle => ?_⟩
    · exact writeData_window running parsed window (writeWindow_beyond held other index) rfl
    · exact writeData_window running parsed window (writeWindow_beyondTaken none taken own index) rfl
    · exact writeData_window running parsed window (writeWindow_size held index size) rfl
    · exact writeData_window running parsed window (writeWindow_busy held index size busy) rfl
    · intro record t x
      have writes := (writeWindow_command held index size idle).trans (commandTaken_ends _ w f.data)
      refine writeData_window running parsed window writes ?_
      split
      · rfl
      · split <;> rfl

end Sys2Proof.Proofs.WindowAccesses
end

section
/-!
PROOFS. A READ or a WRITE that becomes RUNNING cuts its first segment at its first block (R48, R51, R53).
-/

namespace Sys2Proof.Proofs.Runs

open Sys2Proof Sys2Proof.Machine Sys2Proof.Laws

/-! ### The request in the list -/

theorem onRequest_mid {x : State} {pre post : List Item} {q : Request} (items : x.engine.items = pre ++ .host q :: post)
    (order : (x.engine.items.map Item.id).Pairwise (· < ·)) (f : Request → Request) :
    x.onRequest q.id f = { x with engine := { x.engine with items := pre ++ .host (f q) :: post } } := by
  rw [onRequest_eq, items, map_onItem_mid f (items ▸ order) rfl]

/-- A request that a hold has kept from beginning: no segment is cut, and neither a CANCEL nor a LINK RESET has met it. -/
structure Fresh (q : Request) (y : Extent) : Prop where
  home : q.home = some y
  cursor : q.cursor = 0
  segs : q.segs = []
  count : 0 < q.count
  noCancel : q.cancelled = false
  noOrphan : q.orphan = false

/-- The request as it becomes RUNNING. -/
def asRunning (q : Request) : Request := { q with state := .running }

/-- The request with its first segment cut. -/
def cutRequest (x : State) (q : Request) (y : Extent) : Request :=
  { q with state := .running, segs := [x.nextSegment q y], cursor := (x.nextSegment q y).count }

/-- The part with the first segment of the request cut. -/
def firstCut (x : State) (pre post : List Item) (q : Request) (y : Extent) : State :=
  { x with nextId := x.nextId + 1, engine := { x.engine with items := pre ++ .host (cutRequest x q y) :: post } }

/-- The part as the request becomes RUNNING. -/
def started (x : State) (pre post : List Item) (q : Request) : State :=
  { x with engine := { x.engine with items := pre ++ .host (asRunning q) :: post } }

section
variable {x : State} {pre post : List Item} {q : Request} {y : Extent}

theorem fresh_cuts (fresh : Fresh q y) : (asRunning q).cuts = true := by
  have count : (asRunning q).count = q.count := rfl
  unfold Request.cuts
  rw [count]
  simp [asRunning, fresh.cursor, fresh.segs, fresh.count, fresh.noCancel, fresh.noOrphan, Config.segmentLimit]

theorem cutRequest_eq (fresh : Fresh q y) : ({ q with
    state := .running, segs := q.segs ++ [x.nextSegment q y], cursor := q.cursor + (x.nextSegment q y).count } : Request) =
    cutRequest x q y := by
  rw [fresh.segs, fresh.cursor, Nat.zero_add]
  rfl

theorem started_order (items : x.engine.items = pre ++ .host q :: post) (order : (x.engine.items.map Item.id).Pairwise (· < ·))
    {q' : Request} (same : q'.id = q.id) : ((pre ++ .host q' :: post).map Item.id).Pairwise (· < ·) :=
  order_mid (items ▸ order) same

theorem runRequest_started (items : x.engine.items = pre ++ .host q :: post)
    (order : (x.engine.items.map Item.id).Pairwise (· < ·)) :
    x.runRequest q.id = ((started x pre post q).cut q.id).tryComplete q.id := by
  unfold State.runRequest
  rw [onRequest_mid items order]
  rfl

/-! ### READ and WRITE -/

theorem cutOnce_first (items : x.engine.items = pre ++ .host q :: post) (order : (x.engine.items.map Item.id).Pairwise (· < ·))
    (fresh : Fresh q y) (noVerify : q.kind ≠ .verify) (port : cutFailure (x.port y.unit).state q.kind = none) :
    (started x pre post q).cutOnce q.id = (true, firstCut x pre post q y) := by
  have once := cutOnce_step (s := started x pre post q) (q := asRunning q) rfl (started_order items order rfl)
    noVerify fresh.home port
  rw [if_pos (fresh_cuts fresh)] at once
  exact once.trans (congrArg (fun z : Request => (true, ({ firstCut x pre post q y with
    engine := { x.engine with items := pre ++ .host z :: post } } : State))) (cutRequest_eq (q := q) fresh))

/-- A READ or a WRITE that runs has cut its first segment at its first block (R51, R53). -/
theorem runRequest_cuts (items : x.engine.items = pre ++ .host q :: post) (order : (x.engine.items.map Item.id).Pairwise (· < ·))
    (fresh : Fresh q y) (noVerify : q.kind ≠ .verify) (port : cutFailure (x.port y.unit).state q.kind = none) :
    ∃ l c m, x.runRequest q.id = { x with
      nextId := m
      engine := { x.engine with items := pre ++ .host { q with
        state := .running, segs := x.nextSegment q y :: l, cursor := c } :: post } } := by
  obtain ⟨l, c, m, rest⟩ := cutUpTo_spec 4 (firstCut x pre post q y) pre post (cutRequest x q y) y rfl
    (started_order items order rfl) noVerify fresh.home port
  refine ⟨l, c, m, ?_⟩
  have cut : (started x pre post q).cut q.id = State.cutUpTo q.id 4 (firstCut x pre post q y) := by
    unfold State.cut
    rw [State.cutUpTo, cutOnce_first items order fresh noVerify port]
    exact if_pos rfl
  rw [runRequest_started items order, cut]
  refine (congrArg (fun y : State => y.tryComplete q.id) rest).trans ?_
  exact tryComplete_not (request_mid (q := { cutRequest x q y with segs := x.nextSegment q y :: l, cursor := c })
    (pre := pre) (post := post) rfl (started_order items order rfl)) (by simp [Request.finished])

end

end Sys2Proof.Proofs.Runs
end

section
/-!
PROOFS. A request that passes its checks (R46 to R49, R51, R111, R171, R173): host traffic begins, standby meets it, and it completes, is
HELD, or runs.
-/

namespace Sys2Proof.Proofs.RequestsPassed

open Sys2Proof Sys2Proof.Machine Sys2Proof.Laws Sys2Proof.Proofs.Runs

/-! ### The request in the list -/

/-- The home extent of a request to a region (R10). -/
def homeExtent (e : RegionEntry) (r : RequestFields) : Extent :=
  { unit := e.unit, first := e.physical + r.lba.toNat - e.logical, count := (r.len.toNat + 511) / 512 }

/-- The context of a request that has passed all its checks, before anything else meets it (R46). -/
def passedRequest (s : State) (k : ReqKind) (r : RequestFields) (i : Fin 16) : Request := { newRequest s k r with
  region := some i, home := some (homeExtent s.map.regions[i] r)
  verifyAfter := decide (k = .write) && s.map.regions[i].verifyAfter, passed := true, state := .held }

/-- The part once the request has taken its region and its home extent. -/
def passedOn (s : State) (k : ReqKind) (r : RequestFields) (i : Fin 16) : State :=
  { admitted s k r with engine := { s.engine with items := s.engine.items ++ [.host (passedRequest s k r i)] } }

theorem ids_before {s : State} (lawful : s.Lawful) (n : Nat) : ∀ m ∈ s.engine.items.map Item.id, m < s.nextId + n :=
  fun m mem => Nat.lt_add_right n (lawful.given m mem)

/-- A request that passes its checks meets host traffic, standby and the items before it. -/
theorem checkRequest_passes {s : State} {frame : List Byte} {r : RequestFields} {k : ReqKind} (arrives : s.Arrives frame r k)
    {i : Fin 16} (first : r.lba.toNat < 4294967292) (last : r.lba.toNat + (r.len.toNat + 511) / 512 ≤ 4294967292)
    (region : s.map.regionLookup r.lba.toNat ((r.len.toNat + 511) / 512) = some i)
    (passes : s.failedCheck k r.stream r.lba.toNat ((r.len.toNat + 511) / 512) = none) :
    (admitted s k r).checkRequest (newRequest s k r) =
      ((passedOn s k r i).trafficBegins.standbyMeetsRequest).runUnlessHeld (s.nextId + 1) := by
  have taken : ∀ f : Request → Request, (admitted s k r).onRequest (newRequest s k r).id f =
      { admitted s k r with engine := { s.engine with items := s.engine.items ++ [.host (f (newRequest s k r))] } } :=
    fun f => onRequest_end (s := admitted s k r) (l := s.engine.items) rfl (ids_before arrives.lawful 1) f
  unfold State.checkRequest
  rw [newRequest_notWindow first last, if_neg Bool.false_ne_true, admitted_check, passes, region]
  dsimp only
  unfold State.passed
  dsimp only
  rw [taken]
  rfl

/-! ### Traffic begins, and standby meets it (R111, R171, R173) -/

/-- The modes and phases in which a request that passes its checks can find the part, with what standby needs to be met. -/
def Meets (s : State) : Prop :=
  s.modes.mode = .service ∨ s.modes.mode = .waking ∨ (s.modes.mode = .enteringStandby ∧ s.modes.phase = .poweringDown) ∨
    ((s.modes.mode = .enteringStandby ∧ s.modes.phase = .saving) ∧ s.scan.context = none ∧ s.mgmt.params.autoPatrol = false) ∨
    (s.modes.mode = .standby ∧ s.scan.context = none ∧ s.store.save = none ∧
      (∀ u, (s.port u).state = .sleeping → (s.port u).desired ≠ .offline ∧ (s.port u).Rests))

/-- The events once a request has met the part: MODE_CHANGE where it leaves standby entry or STANDBY. -/
def eventsMet (s : State) : Half :=
  if (s.modes.mode = .enteringStandby ∧ s.modes.phase = .saving) ∨ s.modes.mode = .standby
  then s.mgmt.events ||| Event.modeChange.bit else s.mgmt.events

/-- The mode once a request has met the part. -/
def modeMet (s : State) : PartMode :=
  if s.modes.mode = .enteringStandby ∧ s.modes.phase = .saving then .service
  else if s.modes.mode = .standby then .waking else s.modes.mode

/-- What traffic and standby leave alone or change, whatever then becomes of the request. -/
structure Follows (s x : State) (k : ReqKind) (r : RequestFields) : Prop where
  mode : x.modes.mode = modeMet s
  mgmt : x.mgmt = { s.mgmt with events := eventsMet s }
  log : x.log = s.log.recorded s.nextId (.host k r.stream r.tag r.lba.toNat r.len.toNat s.now)
  quiet : x.scan.quiet = false
  map : x.map = s.map
  guard : x.guard = s.guard
  store : x.store = s.store
  health : x.health = s.health
  wakes : s.modes.mode = .standby → ∀ u, ((s.port u).state ≠ .sleeping → x.port u = s.port u) ∧
    ((s.port u).state = .sleeping → ∃ n, x.port u = s.attachBegun (s.port u) true n)

/-- The part as the items before the request meet it: the request is the last of the list, HELD. -/
structure Arrived (s x : State) (k : ReqKind) (r : RequestFields) (i : Fin 16) : Prop extends Follows s x k r where
  link : x.link = { s.link with tags := s.link.tags.set r.tag .request }
  engine : x.engine = { s.engine with items := s.engine.items ++ [.host (passedRequest s k r i)] }
  streams : x.counters.streams = s.counters.streams
  todo : x.todo = s.todo
  down : x.modes.mode = .enteringStandby ∧ x.modes.phase = .poweringDown ↔
    s.modes.mode = .enteringStandby ∧ s.modes.phase = .poweringDown
  cuts : ∀ k u, cutFailure (s.port u).state k = none → cutFailure (x.port u).state k = none

/-- The part once host traffic has begun and standby has met the request. -/
def arrivedState (s : State) (k : ReqKind) (r : RequestFields) (i : Fin 16) : State :=
  (passedOn s k r i).trafficBegins.standbyMeetsRequest

theorem traffic_arrived {s : State} (meets : Meets s) (k : ReqKind) (r : RequestFields) (i : Fin 16) :
    Arrived s (arrivedState s k r i) k r i := by
  unfold arrivedState
  obtain ⟨p, m, c, n, md, e, form, quiet, mode, down, events, streams, -, cuts, wakes⟩ := trafficBegins_spec (passedOn s k r i) meets
  rw [form]
  exact {
    mode := mode, mgmt := congrArg (fun e => ({ s.mgmt with events := e } : ManagementEngine)) events, log := rfl, quiet := quiet
    map := rfl, guard := rfl, store := rfl, health := rfl, wakes := wakes, link := rfl, engine := rfl, streams := streams, todo := rfl
    down := down, cuts := cuts }

/-! ### The holds (R48, R49) -/

/-- What holds a request that joins the end of the list. -/
def Blocked (s : State) (k : ReqKind) (r : RequestFields) (home : Extent) : Prop :=
  (∃ b ∈ s.engine.items, ∃ y, b.home = some y ∧ (b.writing = true ∨ k = .write) ∧ y.overlaps home = true) ∨
    s.orphanOf r.tag = true ∨ (s.modes.mode = .enteringStandby ∧ s.modes.phase = .poweringDown)

theorem blocks_iff (b : Item) (s : State) (k : ReqKind) (r : RequestFields) (i : Fin 16) :
    b.blocks (.host (passedRequest s k r i)) = true ↔
      ∃ y, b.home = some y ∧ (b.writing = true ∨ k = .write) ∧ y.overlaps (homeExtent s.map.regions[i] r) = true := by
  have writes : (Item.host (passedRequest s k r i)).writing = decide (k = .write) := rfl
  have home : (Item.host (passedRequest s k r i)).home = some (homeExtent s.map.regions[i] r) := rfl
  unfold Item.blocks
  rw [writes, home]
  cases b.home with
  | none => simp
  | some y => simp

theorem orphan_before {s x : State} {k : ReqKind} {r : RequestFields} {i : Fin 16} (arrived : Arrived s x k r i) (tag : Fin 32) :
    x.orphanOf tag = s.orphanOf tag := by
  unfold State.orphanOf
  rw [arrived.engine, List.any_append]
  exact Bool.or_false _

theorem poweringDown_iff (x : State) :
    x.poweringDown = true ↔ x.modes.mode = .enteringStandby ∧ x.modes.phase = .poweringDown := by
  unfold State.poweringDown
  rw [Bool.and_eq_true, decide_eq_true_eq, decide_eq_true_eq]

theorem count_eq (s : State) (k : ReqKind) (r : RequestFields) (i : Fin 16) :
    (passedRequest s k r i).count = (r.len.toNat + 511) / 512 := rfl

/-- An item blocks only a request of at least one block, and then the holds are those of R48 and R49. -/
theorem holds_iff {s x : State} {k : ReqKind} {r : RequestFields} {i : Fin 16} (arrived : Arrived s x k r i) :
    x.holds s.engine.items (.host (passedRequest s k r i)) = true ↔
      (r.len.toNat + 511) / 512 ≠ 0 ∧ Blocked s k r (homeExtent s.map.regions[i] r) := by
  have blocks : (s.engine.items.any fun e => e.blocks (.host (passedRequest s k r i))) = true ↔
      ∃ b ∈ s.engine.items, ∃ y, b.home = some y ∧ (b.writing = true ∨ k = .write) ∧
        y.overlaps (homeExtent s.map.regions[i] r) = true := by
    simp only [List.any_eq_true, blocks_iff]
  have nonempty : ∀ y : Extent, y.overlaps (homeExtent s.map.regions[i] r) = true → (r.len.toNat + 511) / 512 ≠ 0 := by
    intro y overlaps empty
    rw [homeExtent, empty, overlaps_zero] at overlaps
    exact absurd overlaps (by simp)
  have tag : (passedRequest s k r i).tag = r.tag := rfl
  unfold State.holds
  dsimp only
  rw [Bool.or_eq_true, blocks, Bool.and_eq_true, Bool.or_eq_true, decide_eq_true_eq, count_eq, tag, orphan_before arrived,
    poweringDown_iff, arrived.down]
  unfold Blocked
  constructor
  · rintro (⟨b, mem, y, home, writes, overlaps⟩ | ⟨some, held⟩)
    · exact ⟨nonempty y overlaps, .inl ⟨b, mem, y, home, writes, overlaps⟩⟩
    · exact ⟨some, .inr held⟩
  · rintro ⟨some, blocked | held⟩
    · exact .inl blocked
    · exact .inr ⟨some, held⟩

theorem runUnlessHeld_last {s x : State} {k : ReqKind} {r : RequestFields} {i : Fin 16} (lawful : s.Lawful)
    (arrived : Arrived s x k r i) : x.runUnlessHeld (s.nextId + 1) =
      if x.holds s.engine.items (.host (passedRequest s k r i)) then x else x.runRequest (s.nextId + 1) := by
  have items : x.engine.items = s.engine.items ++ [.host (passedRequest s k r i)] := by rw [arrived.engine]
  have found : x.request? (s.nextId + 1) = some (passedRequest s k r i) := request_end items (ids_before lawful 1)
  have others : (x.engine.items.filter fun j => j.id != s.nextId + 1) = s.engine.items := by
    rw [items, List.filter_append, items_without_new (ids_before lawful 1)]
    simp [Item.id, passedRequest, newRequest, Request.admitted]
  unfold State.runUnlessHeld
  rw [found]
  dsimp only
  rw [others]

/-- The step of a request that passes its checks. -/
theorem exec_request_passes {s : State} {frame : List Byte} {r : RequestFields} {k : ReqKind} (arrives : s.Arrives frame r k)
    (noSync : k ≠ .sync) {i : Fin 16} (first : r.lba.toNat < 4294967292)
    (last : r.lba.toNat + (r.len.toNat + 511) / 512 ≤ 4294967292)
    (region : s.map.regionLookup r.lba.toNat ((r.len.toNat + 511) / 512) = some i)
    (passes : s.failedCheck k r.stream r.lba.toNat ((r.len.toNat + 511) / 512) = none) (meets : Meets s) {y : State}
    (runs : (if (arrivedState s k r i).holds s.engine.items (.host (passedRequest s k r i)) then arrivedState s k r i
      else (arrivedState s k r i).runRequest (s.nextId + 1)) = y)
    (settled : y.todo = s.todo) : exec (.request frame) s = .next y.refreshIdle := by
  rw [← runUnlessHeld_last arrives.lawful (traffic_arrived meets k r i)] at runs
  exact WindowAccesses.exec_request_checked arrives noSync ((checkRequest_passes arrives first last region passes).trans runs) settled

/-! ### A request that runs (R48, R51) -/

theorem arrived_items {s x : State} {k : ReqKind} {r : RequestFields} {i : Fin 16} (arrived : Arrived s x k r i) :
    x.engine.items = s.engine.items ++ .host (passedRequest s k r i) :: [] := by rw [arrived.engine]

theorem arrived_order {s x : State} {k : ReqKind} {r : RequestFields} {i : Fin 16} (lawful : s.Lawful) (arrived : Arrived s x k r i) :
    (x.engine.items.map Item.id).Pairwise (· < ·) := by
  rw [arrived_items arrived, List.map_append, List.pairwise_append]
  refine ⟨lawful.order, List.pairwise_singleton _ _, fun m mem n last => ?_⟩
  rw [List.mem_singleton.mp last]
  exact ids_before lawful 1 m mem

theorem passed_fresh (s : State) (k : ReqKind) (r : RequestFields) (i : Fin 16) (nonempty : (r.len.toNat + 511) / 512 ≠ 0) :
    Fresh (passedRequest s k r i) (homeExtent s.map.regions[i] r) :=
  ⟨rfl, rfl, rfl, Nat.pos_of_ne_zero nonempty, rfl, rfl⟩

/-- The first segment that the request cuts. -/
def firstSegment (x s : State) (k : ReqKind) (r : RequestFields) (i : Fin 16) : Segment :=
  x.nextSegment (passedRequest s k r i) (homeExtent s.map.regions[i] r)

/-- The request as it becomes RUNNING. -/
def runningRequest (s : State) (k : ReqKind) (r : RequestFields) (i : Fin 16) : Request := asRunning (passedRequest s k r i)

/-- The part as the request becomes RUNNING. -/
def startsRun (x s : State) (k : ReqKind) (r : RequestFields) (i : Fin 16) : State :=
  started x s.engine.items [] (passedRequest s k r i)

/-- The part after a request of no block has completed OK, with the quiet timer as it is then. -/
def emptyDone (x s : State) (r : RequestFields) (timer : Timer) : State :=
  { x with
    link := { tags := (s.link.tags.set r.tag .request).set r.tag .free,
              sent := s.link.sent ++ [.completion r.tag .ok 0 none false (eventsMet s != 0)] },
    engine := s.engine,
    scan := { x.scan with quietTimer := timer },
    counters := { x.counters with
      streams := x.counters.streams.set r.stream x.counters.streams[r.stream].completedOne } }

/-- A request of no block cuts nothing and completes OK at once (R46). -/
theorem runRequest_empty {s x : State} {k : ReqKind} {r : RequestFields} {i : Fin 16} (lawful : s.Lawful)
    (arrived : Arrived s x k r i) (empty : (r.len.toNat + 511) / 512 = 0) :
    ∃ timer, x.runRequest (s.nextId + 1) = emptyDone x s r timer := by
  have found : (startsRun x s k r i).request? (s.nextId + 1) = some (runningRequest s k r i) :=
    request_end (s := startsRun x s k r i) (q := runningRequest s k r i) rfl (ids_before lawful 1)
  have noCut : (startsRun x s k r i).cut (s.nextId + 1) = startsRun x s k r i := by
    have once : (startsRun x s k r i).cutOnce (s.nextId + 1) = (false, startsRun x s k r i) := by
      unfold State.cutOnce
      rw [found]
      have none : (runningRequest s k r i).count = 0 := empty
      exact if_neg (by simp [Request.cuts, none])
    unfold State.cut State.cutUpTo
    rw [once]
    exact if_neg Bool.false_ne_true
  have finished : (runningRequest s k r i).finished = true := by
    have whole : (runningRequest s k r i).count = 0 := empty
    unfold Request.finished
    simp [whole]
    simp [runningRequest, asRunning, passedRequest, newRequest, Request.admitted]
  have left : ((s.engine.items ++ [Item.host (runningRequest s k r i)]).filter fun j => j.id != s.nextId + 1) =
      s.engine.items := by
    rw [List.filter_append, items_without_new (ids_before lawful 1)]
    simp [Item.id, runningRequest, asRunning, passedRequest, newRequest, Request.admitted]
  obtain ⟨timer, done⟩ := sendDone_counted (startsRun x s k r i) (runningRequest s k r i)
  refine ⟨timer, ?_⟩
  refine (runRequest_started (arrived_items arrived) (arrived_order lawful arrived)).trans ?_
  refine (congrArg (fun y : State => y.tryComplete (s.nextId + 1)) noCut).trans ?_
  unfold State.tryComplete
  rw [found]
  refine ((if_pos finished).trans done).trans ?_
  have link : x.link = { s.link with tags := s.link.tags.set r.tag .request } := arrived.link
  have items : ((startsRun x s k r i).engine.items.filter fun j => j.id != (runningRequest s k r i).id) = s.engine.items :=
    left
  have events : (startsRun x s k r i).mgmt.events = eventsMet s := by
    show x.mgmt.events = eventsMet s
    rw [arrived.mgmt]
  have free : ({ (startsRun x s k r i).engine with items := s.engine.items } : RequestEngine) = s.engine := by
    show ({ x.engine with items := s.engine.items } : RequestEngine) = s.engine
    rw [arrived.engine]
  rw [items, events, free]
  unfold emptyDone
  show ({ x with
    link := { tags := x.link.tags.set r.tag .free, sent := x.link.sent ++ _ }, engine := _, scan := _, counters := _ } : State) = _
  rw [link]
  rfl

/-! ### The outcomes -/

theorem Follows.refreshIdle {s x : State} {k : ReqKind} {r : RequestFields} (follows : Follows s x k r) :
    Follows s x.refreshIdle k r where
  mode := by rw [refreshIdle_modes_mode]; exact follows.mode
  mgmt := by rw [refreshIdle_mgmt]; exact follows.mgmt
  log := by rw [refreshIdle_log]; exact follows.log
  quiet := by rw [refreshIdle_scan]; exact follows.quiet
  map := by rw [refreshIdle_map]; exact follows.map
  guard := by rw [refreshIdle_guard]; exact follows.guard
  store := by rw [refreshIdle_store]; exact follows.store
  health := by rw [refreshIdle_health]; exact follows.health
  wakes := by simp only [refreshIdle_port]; exact follows.wakes

section
variable {s : State} {frame : List Byte} {r : RequestFields} {k : ReqKind} {i : Fin 16}

/-- A request of no block completes OK, and nothing of it stays (R46). -/
theorem empty_completes (arrives : s.Arrives frame r k) (noSync : k ≠ .sync) (first : r.lba.toNat < 4294967292)
    (last : r.lba.toNat + (r.len.toNat + 511) / 512 ≤ 4294967292)
    (region : s.map.regionLookup r.lba.toNat ((r.len.toNat + 511) / 512) = some i)
    (passes : s.failedCheck k r.stream r.lba.toNat ((r.len.toNat + 511) / 512) = none) (meets : Meets s)
    (empty : (r.len.toNat + 511) / 512 = 0) : ∃ x, exec (.request frame) s = .next x ∧ Follows s x k r ∧
      x.engine = s.engine ∧ x.link.tags = s.link.tags ∧
      x.link.sent = s.link.sent ++ [.completion r.tag .ok 0 none false (eventsMet s != 0)] ∧
      x.counters.streams = s.counters.streams.set r.stream s.counters.streams[r.stream].completedOne := by
  have arrived := traffic_arrived meets k r i
  have runs : ¬ (arrivedState s k r i).holds s.engine.items (.host (passedRequest s k r i)) = true :=
    fun holds => ((holds_iff arrived).mp holds).1 empty
  obtain ⟨timer, done⟩ := runRequest_empty arrives.lawful arrived empty
  refine ⟨_, exec_request_passes arrives noSync first last region passes meets ((if_neg runs).trans done) arrived.todo,
    Follows.refreshIdle ⟨arrived.mode, arrived.mgmt, arrived.log, arrived.quiet, arrived.map, arrived.guard, arrived.store,
      arrived.health, arrived.wakes⟩, ?_⟩
  rw [refreshIdle_engine, refreshIdle_link, refreshIdle_counters]
  refine ⟨rfl, tags_set_free _ _ _ arrives.tag, rfl, ?_⟩
  show (arrivedState s k r i).counters.streams.set _ (arrivedState s k r i).counters.streams[r.stream].completedOne = _
  rw [arrived.streams]

/-- What the list holds of a request that has passed its checks. -/
structure Joined (s x : State) (k : ReqKind) (r : RequestFields) (i : Fin 16) (q : Request) : Prop extends Follows s x k r where
  engine : x.engine = { s.engine with items := s.engine.items ++ [.host q] }
  request : q = { passedRequest s k r i with state := q.state, segs := q.segs, cursor := q.cursor }
  link : x.link = { s.link with tags := s.link.tags.set r.tag .request }
  streams : x.counters.streams = s.counters.streams

theorem Joined.refreshIdle {x : State} {q : Request} (joined : Joined s x k r i q) : Joined s x.refreshIdle k r i q where
  toFollows := joined.toFollows.refreshIdle
  engine := by rw [refreshIdle_engine]; exact joined.engine
  request := joined.request
  link := by rw [refreshIdle_link]; exact joined.link
  streams := by rw [refreshIdle_counters]; exact joined.streams

/-- A request that the list or the phase holds joins the end of the list HELD, and issues nothing (R48, R49). -/
theorem blocked_held (arrives : s.Arrives frame r k) (noSync : k ≠ .sync) (first : r.lba.toNat < 4294967292)
    (last : r.lba.toNat + (r.len.toNat + 511) / 512 ≤ 4294967292)
    (region : s.map.regionLookup r.lba.toNat ((r.len.toNat + 511) / 512) = some i)
    (passes : s.failedCheck k r.stream r.lba.toNat ((r.len.toNat + 511) / 512) = none) (meets : Meets s)
    (nonempty : (r.len.toNat + 511) / 512 ≠ 0) (blocked : Blocked s k r (homeExtent s.map.regions[i] r)) :
    ∃ x q, exec (.request frame) s = .next x ∧ Joined s x k r i q ∧ q.state = .held ∧ q.segs = [] := by
  have arrived := traffic_arrived meets k r i
  exact ⟨_, passedRequest s k r i, exec_request_passes arrives noSync first last region passes meets
    (if_pos ((holds_iff arrived).mpr ⟨nonempty, blocked⟩)) arrived.todo,
    Joined.refreshIdle ⟨arrived.toFollows, arrived.engine, rfl, arrived.link, arrived.streams⟩, rfl, rfl⟩

/-- What a running READ or WRITE cuts first lies at its first block (R53). -/
theorem firstSegment_cuts {x : State} (arrived : Arrived s x k r i) (nonempty : (r.len.toNat + 511) / 512 ≠ 0) :
    s.map.Cuts s.map.regions[i].unit (fun b => !(decide (k = .write) && s.pendingBlock s.map.regions[i].unit b))
      (homeExtent s.map.regions[i] r).first ((r.len.toNat + 511) / 512) (firstSegment x s k r i).first
      (firstSegment x s k r i).count := by
  have pending : x.pendingBlock = s.pendingBlock := by
    unfold State.pendingBlock State.watched
    rw [arrived.health]
  rw [cuts_iff _ _ _ _ _ _ _ (Nat.pos_of_ne_zero nonempty)]
  show _ = (x.map.cut _ (fun b => !(decide (k = .write) && x.pendingBlock _ b)) _ _)
  rw [arrived.map, pending]
  rfl

/-- A READ or a WRITE that nothing holds runs, and its first segment claims its buffers (R51, R53). -/
theorem unblocked_runs (arrives : s.Arrives frame r k) (noSync : k ≠ .sync) (first : r.lba.toNat < 4294967292)
    (last : r.lba.toNat + (r.len.toNat + 511) / 512 ≤ 4294967292)
    (region : s.map.regionLookup r.lba.toNat ((r.len.toNat + 511) / 512) = some i)
    (passes : s.failedCheck k r.stream r.lba.toNat ((r.len.toNat + 511) / 512) = none) (meets : Meets s) (noVerify : k ≠ .verify)
    (nonempty : (r.len.toNat + 511) / 512 ≠ 0) (free : ¬ Blocked s k r (homeExtent s.map.regions[i] r)) :
    ∃ x q, exec (.request frame) s = .next x ∧ Joined s x k r i q ∧ q.state = .running ∧ ∃ g l, q.segs = g :: l ∧
      g.unit = s.map.regions[i].unit ∧ g.off = 0 ∧ g.home = (homeExtent s.map.regions[i] r).first ∧ g.phase = .claim ∧
      s.map.Cuts s.map.regions[i].unit (fun b => !(decide (k = .write) && s.pendingBlock s.map.regions[i].unit b))
        (homeExtent s.map.regions[i] r).first ((r.len.toNat + 511) / 512) g.first g.count := by
  have arrived := traffic_arrived meets k r i
  have runs : ¬ (arrivedState s k r i).holds s.engine.items (.host (passedRequest s k r i)) = true :=
    fun holds => free ((holds_iff arrived).mp holds).2
  obtain ⟨l, c, m, cut⟩ := runRequest_cuts (arrived_items arrived) (arrived_order arrives.lawful arrived)
    (passed_fresh s k r i nonempty) noVerify (arrived.cuts k _ (failedCheck_cut region passes))
  refine ⟨_, { passedRequest s k r i with
      state := .running, segs := firstSegment (arrivedState s k r i) s k r i :: l, cursor := c },
    exec_request_passes arrives noSync first last region passes meets ((if_neg runs).trans cut) arrived.todo,
    Joined.refreshIdle ⟨⟨arrived.mode, arrived.mgmt, arrived.log, arrived.quiet, arrived.map, arrived.guard, arrived.store,
      arrived.health, arrived.wakes⟩, ?_, rfl, arrived.link, arrived.streams⟩, rfl, _, l, rfl, rfl, rfl, rfl, ?_,
    firstSegment_cuts arrived nonempty⟩
  · show ({ (arrivedState s k r i).engine with items := _ } : RequestEngine) = _
    rw [arrived.engine]
    rfl
  · exact if_neg noVerify

end

/-! ### A VERIFY of one segment in SERVICE -/

theorem standbyMeets_service {x : State} (service : x.modes.mode = .service) : x.standbyMeetsRequest = x := by
  have saving : x.savingPhase = false := by
    unfold State.savingPhase
    rw [service]
    rfl
  unfold State.standbyMeetsRequest
  rw [saving, service]
  rfl

theorem arrivedState_service {s : State} (service : s.modes.mode = .service) (noScan : s.scan.context = none) (k : ReqKind)
    (r : RequestFields) (i : Fin 16) :
    arrivedState s k r i = { passedOn s k r i with scan := { s.scan with quietTimer := .stopped, quiet := false } } := by
  have begins : (passedOn s k r i).trafficBegins =
      { passedOn s k r i with scan := { s.scan with quietTimer := .stopped, quiet := false } } := trafficBegins_noScan noScan
  unfold arrivedState
  rw [begins]
  exact standbyMeets_service service

section
variable {s x : State} {frame : List Byte} {r : RequestFields} {i : Fin 16}

theorem verifySent_outcome (arrives : s.Arrives frame r .verify) {first : Nat} (start : r.lba.toNat < 4294967292)
    (last : r.lba.toNat + (r.len.toNat + 511) / 512 ≤ 4294967292)
    (region : s.map.regionLookup r.lba.toNat ((r.len.toNat + 511) / 512) = some i)
    (passes : s.failedCheck .verify r.stream r.lba.toNat ((r.len.toNat + 511) / 512) = none)
    (nonempty : (r.len.toNat + 511) / 512 ≠ 0) (free : ¬ Blocked s .verify r (homeExtent s.map.regions[i] r))
    (service : s.modes.mode = .service) (noScan : s.scan.context = none)
    (one : s.map.Cuts s.map.regions[i].unit (fun _ => true) (homeExtent s.map.regions[i] r).first ((r.len.toNat + 511) / 512)
      first ((r.len.toNat + 511) / 512))
    (serves : (s.port s.map.regions[i].unit).state.serves = true) (rests : (s.port s.map.regions[i].unit).Rests)
    (place : (s.port s.map.regions[i].unit).attachPlace = none) :
    ∃ (x : State) (q : Request) (g : Segment) (n : Nat), exec (.request frame) s = .next x ∧
      x.engine = { s.engine with items := s.engine.items ++ [.host q] } ∧ q.tag = r.tag ∧ q.stream = r.stream ∧ q.kind = .verify ∧
      q.home = some (homeExtent s.map.regions[i] r) ∧ q.state = .running ∧ q.segs = [g] ∧ g.unit = s.map.regions[i].unit ∧
      g.off = 0 ∧ g.first = first ∧ g.count = (r.len.toNat + 511) / 512 ∧
      g.phase = .issued ∧ x.link = { s.link with tags := s.link.tags.set r.tag .request } ∧
      x.ports = s.ports.set s.map.regions[i].unit (s.sendsFirst (s.port s.map.regions[i].unit)
        (mkOp .verify first ((r.len.toNat + 511) / 512) (.segment q.id g.id) n [])) ∧
      x.modes.mode = .service ∧ x.mgmt = s.mgmt ∧ x.map = s.map ∧ x.health = s.health ∧ x.store = s.store ∧ x.guard = s.guard := by
  have meets : Meets s := .inl service
  have arrived := traffic_arrived meets .verify r i
  have runs : ¬ (arrivedState s .verify r i).holds s.engine.items (.host (passedRequest s .verify r i)) = true :=
    fun holds => free ((holds_iff arrived).mp holds).2
  have form := arrivedState_service service noScan .verify r i
  have port : (arrivedState s .verify r i).port = s.port := by rw [form]; rfl
  have verifies := runRequest_verify (y := homeExtent s.map.regions[i] r) (first := first) (arrived_items arrived)
    (arrived_order arrives.lawful arrived) rfl rfl rfl rfl (Nat.pos_of_ne_zero nonempty) rfl rfl rfl
    (by rw [arrived.map]; exact one) (by rw [port]; exact serves) (by rw [port]; exact rests) (by rw [port]; exact place)
  obtain ⟨g, n, off, unit, starts, covers, issued, runsTo⟩ := verifies
  refine ⟨_, { passedRequest s .verify r i with state := .running, segs := [g], cursor := (homeExtent s.map.regions[i] r).count }, g, n,
    exec_request_passes arrives (by decide) start last region passes meets ((if_neg runs).trans runsTo) arrived.todo,
    ?_, rfl, rfl, rfl, rfl, rfl, rfl, unit, off, starts, covers, issued, ?_, ?_, ?_, ?_, ?_, ?_, ?_, ?_⟩
  · rw [refreshIdle_engine]
    show ({ (arrivedState s .verify r i).engine with items := _ } : RequestEngine) = _
    rw [arrived.engine]
  · rw [refreshIdle_link]
    exact arrived.link
  · rw [refreshIdle_ports, form]
    rfl
  · rw [refreshIdle_modes_mode, form]
    exact service
  · rw [refreshIdle_mgmt, form]
    rfl
  · rw [refreshIdle_map]
    exact arrived.map
  · rw [refreshIdle_health]
    exact arrived.health
  · rw [refreshIdle_store]
    exact arrived.store
  · rw [refreshIdle_guard]
    exact arrived.guard

end

/-- Settles O40, by what traffic and standby leave of the part (`traffic_arrived`) and what then becomes of the request:
`empty_completes`, `blocked_held`, `unblocked_runs` and `verifySent_outcome`. -/
theorem requestsThatPassRunOrAreHeld : Obligations.RequestsThatPassRunOrAreHeld := by
  unfold Obligations.RequestsThatPassRunOrAreHeld
  intro s frame r k i arrives noSync count e home mode saving poweringDown blocked events first last region passes meets
  refine ⟨fun settled => ?_, fun start nonempty free verify service noScan one serves rests place => ?_⟩
  · by_cases empty : count = 0
    · obtain ⟨x, step, f, engine, tags, sent, streams⟩ := empty_completes arrives noSync first last region passes meets empty
      exact ⟨x, step, f.mode, f.mgmt, f.log, f.quiet, f.map, f.guard, f.store, f.health, f.wakes,
        fun _ => ⟨engine, tags, sent, streams⟩, fun nonempty => absurd empty nonempty⟩
    · by_cases held : blocked
      · obtain ⟨x, q, step, f, state, segs⟩ := blocked_held arrives noSync first last region passes meets empty held
        refine ⟨x, step, f.mode, f.mgmt, f.log, f.quiet, f.map, f.guard, f.store, f.health, f.wakes,
          fun zero => absurd zero empty, fun _ => ⟨q, f.engine, ?_⟩⟩
        have request := f.request
        exact ⟨congrArg Request.tag request, congrArg Request.stream request, congrArg Request.kind request,
          congrArg Request.lba request, congrArg Request.len request, congrArg Request.region request,
          congrArg Request.home request, congrArg Request.passed request, congrArg Request.verifyAfter request, f.link, f.streams,
          fun _ => ⟨state, segs⟩, fun free => absurd held free⟩
      · have noVerify : k ≠ .verify := by
          rcases settled with zero | blocks | read | write
          · exact absurd zero empty
          · exact absurd blocks held
          · rw [read]; decide
          · rw [write]; decide
        obtain ⟨x, q, step, f, state, segs⟩ := unblocked_runs arrives noSync first last region passes meets noVerify empty held
        refine ⟨x, step, f.mode, f.mgmt, f.log, f.quiet, f.map, f.guard, f.store, f.health, f.wakes,
          fun zero => absurd zero empty, fun _ => ⟨q, f.engine, ?_⟩⟩
        have request := f.request
        exact ⟨congrArg Request.tag request, congrArg Request.stream request, congrArg Request.kind request,
          congrArg Request.lba request, congrArg Request.len request, congrArg Request.region request,
          congrArg Request.home request, congrArg Request.passed request, congrArg Request.verifyAfter request, f.link, f.streams,
          fun blocks => absurd blocks held, fun _ => ⟨state, segs⟩⟩
  · subst verify
    exact verifySent_outcome arrives first last region passes nonempty free service noScan one serves rests place

end Sys2Proof.Proofs.RequestsPassed
end

section
/-!
PROOFS. READ DATA frames (R55, R56), CANCEL (R66) and LINK RESET (R67, R131): what is left of a request, or of all of them.
-/

namespace Sys2Proof.Proofs.RequestEnds

open Sys2Proof Sys2Proof.Machine Sys2Proof.Laws

/-! ### A request that completes -/

/-- What the completion of a request changes, and what it leaves (R65). -/
structure Completes (s x : State) (link : LinkPort) (engine : RequestEngine) (counters : CounterBank) : Prop where
  link : x.link = link
  engine : x.engine = engine
  counters : x.counters = counters
  map : x.map = s.map
  ports : x.ports = s.ports
  guard : x.guard = s.guard
  mgmt : x.mgmt = s.mgmt
  health : x.health = s.health
  log : x.log = s.log

/-! ### READ DATA frames -/

theorem exec_readDataSent_live {s : State} (running : s.Running) {r : Request} {g : Segment} (live : s.liveRequest? r.tag = some r)
    (sending : r.sendingAt g.off = some g) (noWindow : ∀ x ∈ s.mgmt.reads, x.tag ≠ r.tag) :
    exec (.readDataSent r.tag g.off) s = .next (s.frameSent r g).finish := by
  have noRead : (s.mgmt.reads.find? fun x => x.tag == r.tag) = none :=
    List.find?_eq_none.mpr fun x mem => by simpa using noWindow x mem
  rw [WindowAccesses.exec_readDataSent running, State.readDataSent, noRead]
  dsimp only
  rw [live]
  dsimp only
  rw [sending]

/-- The request with the first block of a segment sent. -/
def sentBlock (r : Request) (g : Segment) (pre post : List Segment) : Request :=
  { r with segs := pre ++ g.dropFront 1 :: post, completed := addRun g.off 1 r.completed }

/-- The counters of a stream with one more block read. -/
def readOne (c : StreamCounters) : StreamCounters := { c with blocksRead := min 4294967295 (c.blocksRead + 1) }

/-- The part with the first block of a segment sent. -/
def blockSent (s : State) (r : Request) (g : Segment) (pre post : List Segment) (frame : HostFrame) : State :=
  { s with
    link := { s.link with sent := s.link.sent ++ [frame] },
    engine := { items := (s.onRequest r.id fun q => { q with
                  segs := pre ++ g.dropFront 1 :: post, completed := addRun g.off 1 q.completed }).engine.items,
                freeBuffers := s.engine.freeBuffers + min 1 g.buffers },
    counters := { s.counters with streams := s.counters.streams.set r.stream (readOne s.counters.streams[r.stream]) } }

section
variable {s : State} {r : Request} {g : Segment} {pre post : List Segment} {block : Block} {rest : List Block}

theorem blockSent_form (found : s.request? r.id = some r) (segs : r.segs = pre ++ g :: post)
    (others : ∀ h ∈ pre ++ post, h.id ≠ g.id) (frame : HostFrame) :
    (((s.send frame).trimFront r.id g 1).countBlockRead r.stream).complete r.id g.off 1 = blockSent s r g pre post frame := by
  have trimmed : (r.segs.map fun x => if x.id == g.id then x.dropFront 1 else x) = pre ++ g.dropFront 1 :: post := by
    rw [segs]
    exact map_mid others fun x => x.dropFront 1
  have held : heldBy r.segs = heldBy pre + heldBy post + g.buffers := by rw [segs, heldBy_mid]
  have left : heldBy (pre ++ g.dropFront 1 :: post) = heldBy pre + heldBy post + (g.buffers - 1) := heldBy_mid _ _ _
  have trim : (s.send frame).trimFront r.id g 1 = { s.send frame with engine :=
      { items := s.engine.items.map (Item.onRequest r.id fun q => { q with segs := pre ++ g.dropFront 1 :: post })
        freeBuffers := s.engine.freeBuffers + min 1 g.buffers } } := by
    have reseg := resegment_at (s := s.send frame) (f := fun l => l.map fun x => if x.id == g.id then x.dropFront 1 else x) found
      (by rw [trimmed, left, held]; omega)
    have free : s.engine.freeBuffers + heldBy r.segs - heldBy (pre ++ g.dropFront 1 :: post) =
        s.engine.freeBuffers + min 1 g.buffers := by rw [left, held]; omega
    refine reseg.trans ?_
    dsimp only
    rw [trimmed]
    show ({ s.send frame with engine := { items := _, freeBuffers := s.engine.freeBuffers + _ - _ } } : State) = _
    rw [free]
    rfl
  rw [trim]
  have both := onRequest_onRequest s r.id (fun q => { q with segs := pre ++ g.dropFront 1 :: post })
    (fun q => { q with completed := addRun g.off 1 q.completed }) fun _ => rfl
  exact congrArg (fun x : State => ({ blockSent s r g pre post frame with engine :=
    { items := x.engine.items, freeBuffers := s.engine.freeBuffers + min 1 g.buffers } } : State)) both

/-- A frame before the last of a segment leaves the segment without its first block. -/
theorem frameSent_more (found : s.request? r.id = some r) (segs : r.segs = pre ++ g :: post)
    (others : ∀ h ∈ pre ++ post, h.id ≠ g.id) (blocks : g.blocks = block :: rest) (more : 2 ≤ g.count) :
    s.frameSent r g = blockSent s r g pre post (.readData r.tag g.off (block.take (r.bytesOf g.off))) := by
  unfold State.frameSent
  rw [blocks]
  exact (if_neg (by omega)).trans (blockSent_form found segs others _)

/-- The last frame of the last segment is followed by the COMPLETION. -/
theorem frameSent_last (found : s.request? r.id = some r) (segs : r.segs = [g]) (blocks : g.blocks = block :: rest)
    (one : g.count = 1) (noOrphan : r.orphan = false) (noFailure : r.first = none) (noCancel : r.cancelled = false)
    (runs : r.state = .running) (whole : r.count ≤ r.cursor) :
    (s.frameSent r g).todo = s.todo ∧ Completes s (s.frameSent r g).refreshIdle
      { tags := s.link.tags.set r.tag .free
        sent := s.link.sent ++ [.readData r.tag g.off (block.take (r.bytesOf g.off)),
          .completion r.tag .ok 0 none r.recovered (s.mgmt.events != 0)] }
      { items := s.engine.items.filter fun i => i.id != r.id, freeBuffers := s.engine.freeBuffers + g.buffers }
      { s.counters with streams := s.counters.streams.set r.stream (readOne s.counters.streams[r.stream]).completedOne } := by
  have others : ∀ h ∈ ([] : List Segment) ++ [], h.id ≠ g.id := fun h mem => absurd mem List.not_mem_nil
  have sent : ∀ frame, (blockSent s r g [] [] frame).request? r.id = some (sentBlock r g [] []) := fun frame =>
    request_onRequest (s := s) (r := r)
      (f := fun q => { q with segs := [g.dropFront 1], completed := addRun g.off 1 q.completed }) found fun _ => rfl
  obtain ⟨timer, ends⟩ := segmentEnds_last (r := sentBlock r g [] []) (g := g.dropFront 1)
    (sent (.readData r.tag g.off (block.take (r.bytesOf g.off)))) rfl noOrphan
    (by show r.state ≠ .held; rw [runs]; decide) (.inl whole)
  have status : (sentBlock r g [] []).status = .ok := by simp [Request.status, sentBlock, noFailure, noCancel]
  have residual : (sentBlock r g [] []).residual = 0 := by simp [Request.residual, sentBlock, noFailure, noCancel]
  have failing : (sentBlock r g [] []).failingLba = none := by simp [Request.failingLba, sentBlock, noFailure]
  have counted : ∀ c, doneCount (sentBlock r g [] []) c = c.completedOne := fun c => if_neg (by rw [status]; decide)
  have free : s.engine.freeBuffers + min 1 g.buffers + (g.buffers - 1) = s.engine.freeBuffers + g.buffers := by omega
  have items := filter_onRequest s r.id (fun q => { q with segs := [g.dropFront 1], completed := addRun g.off 1 q.completed })
    fun _ => rfl
  have start : s.frameSent r g =
      (blockSent s r g [] [] (.readData r.tag g.off (block.take (r.bytesOf g.off)))).segmentEnds r.id g.id := by
    unfold State.frameSent
    rw [blocks]
    exact (if_pos (Nat.le_of_eq one)).trans (congrArg (fun x : State => x.segmentEnds r.id g.id)
      (blockSent_form found (pre := []) (post := []) segs others _))
  have form := start.trans ends
  rw [status, residual, failing, counted] at form
  rw [form]
  refine ⟨rfl, (refreshIdle_link _).trans ?_, (refreshIdle_engine _).trans ?_, (refreshIdle_counters _).trans ?_, refreshIdle_map _,
    refreshIdle_ports _, refreshIdle_guard _, refreshIdle_mgmt _, refreshIdle_health _, refreshIdle_log _⟩
  · exact congrArg (LinkPort.mk _) (List.append_assoc _ _ _)
  · exact congrArg₂ RequestEngine.mk items free
  · exact congrArg (fun v => ({ s.counters with streams := v } : CounterBank))
      (streams_twice _ _ readOne (k := StreamCounters.completedOne))

end

/-- Settles O44, by what the frame of a block leaves of its segment (`frameSent_more`), and of its request after the last one
(`frameSent_last`). -/
theorem readDataFramesAreSent : Obligations.ReadDataFramesAreSent := by
  unfold Obligations.ReadDataFramesAreSent
  intro s r g pre post block rest running lawful live sending segs others blocks noWindow
  obtain ⟨found, -, noOrphan, -⟩ := liveRequest_spec lawful live
  have step := exec_readDataSent_live running live sending noWindow
  intro frame read
  refine ⟨fun more => ?_, fun one noPre noPost noFailure noCancel runs whole => ?_⟩
  · rw [frameSent_more found segs others blocks more] at step
    rw [finish_of_todo_nil (by exact running.settled)] at step
    exact ⟨_, step, refreshIdle_link _, congrArg RequestEngine.freeBuffers (refreshIdle_engine _),
      by rw [refreshIdle_engine]; rfl, refreshIdle_counters _, refreshIdle_map _, refreshIdle_ports _,
      refreshIdle_guard _, refreshIdle_mgmt _, refreshIdle_health _, refreshIdle_log _⟩
  · subst noPre noPost
    obtain ⟨todo, done⟩ := frameSent_last found segs blocks one noOrphan noFailure noCancel runs whole
    rw [finish_of_todo_nil (todo.trans running.settled)] at step
    exact ⟨_, step, done.link, done.engine, done.counters, done.map, done.ports, done.guard, done.mgmt, done.health, done.log⟩

/-! ### CANCEL -/

theorem exec_cancel {s : State} {frame : List Byte} {tag : Fin 32} (running : s.Running)
    (parsed : LinkFrame.parse frame = some (.cancel tag)) : exec (.cancel frame) s = .next (s.takeCancel tag) := by
  refine (whenUp_up (fun s => s.cancelFrame frame) running.up).trans ?_
  unfold State.cancelFrame
  rw [parsed]

/-- Nothing to drop is dropped (R66). -/
theorem dropSegments_none {x : State} {r : Request} {p : Segment → Bool} (order : (x.engine.items.map Item.id).Pairwise (· < ·))
    (found : x.request? r.id = some r) (kept : ∀ g ∈ r.segs, (g.droppable && p g) = false) : x.dropSegments r.id p = x := by
  have same : r.segs.filter (fun g => !(g.droppable && p g)) = r.segs :=
    List.filter_eq_self.mpr fun g mem => by rw [kept g mem]; rfl
  have items := onRequest_self order found (f := fun q => { q with segs := r.segs }) rfl
  unfold State.dropSegments
  rw [resegment_at found (by rw [same]; omega), same, Nat.add_sub_cancel]
  exact congrArg (fun l : List Item => ({ x with engine := { items := l, freeBuffers := x.engine.freeBuffers } } : State)) items

theorem onRequest_order {s : State} (order : (s.engine.items.map Item.id).Pairwise (· < ·)) (id : Nat) {f : Request → Request}
    (same : ∀ r, (f r).id = r.id) : ((s.onRequest id f).engine.items.map Item.id).Pairwise (· < ·) := by
  have ids : (s.onRequest id f).engine.items.map Item.id = s.engine.items.map Item.id := by
    rw [onRequest_eq, List.map_map]
    exact List.map_congr_left fun i _ => onItem_id same i
  rw [ids]
  exact order

section
variable {s : State} {r : Request}

/-- A request none of whose segments waits is marked as cancelled. -/
theorem cancelRequest_marks (lawful : s.Lawful) (found : s.request? r.id = some r) (noCancel : r.cancelled = false)
    (kept : ∀ g ∈ r.segs, g.droppable = false) : s.cancelRequest r =
      (s.onRequest r.id fun q => { q with cancelled := true }).tryComplete r.id := by
  have marked := request_onRequest (f := fun q => { q with cancelled := true }) found fun _ => rfl
  have drops := dropSegments_none (r := { r with cancelled := true }) (p := fun _ => true)
    (onRequest_order lawful.order r.id (f := fun q => { q with cancelled := true }) fun _ => rfl) marked fun g mem => by rw [kept g mem]; rfl
  unfold State.cancelRequest
  rw [if_neg (ne_true_of_eq_false noCancel)]
  exact congrArg (fun x : State => x.tryComplete r.id) drops

theorem cancelRequest_runsOn (lawful : s.Lawful) (found : s.request? r.id = some r) (noCancel : r.cancelled = false)
    (kept : ∀ g ∈ r.segs, g.droppable = false) (some : r.segs ≠ []) :
    s.cancelRequest r = s.onRequest r.id fun q => { q with cancelled := true } := by
  rw [cancelRequest_marks lawful found noCancel kept]
  refine tryComplete_not (request_onRequest found fun _ => rfl) ?_
  have holds : r.segs.isEmpty = false := by cases segs : r.segs with | nil => exact absurd segs some | cons => rfl
  unfold Request.finished
  rw [holds]
  simp

/-- A request that holds no segment completes CANCELLED. -/
theorem cancelRequest_completes (lawful : s.Lawful) (found : s.request? r.id = some r) (noOrphan : r.orphan = false)
    (noCancel : r.cancelled = false) (segs : r.segs = []) (noFailure : r.first = none) :
    (s.cancelRequest r).todo = s.todo ∧ Completes s (s.cancelRequest r).refreshIdle
      { tags := s.link.tags.set r.tag .free
        sent := s.link.sent ++
          [.completion r.tag .cancelled (r.len - 512 * r.lowestIncomplete) none r.recovered (s.mgmt.events != 0)] }
      { s.engine with items := s.engine.items.filter fun i => i.id != r.id }
      { s.counters with streams := s.counters.streams.set r.stream s.counters.streams[r.stream].completedOne } := by
  have marked := request_onRequest (f := fun q => { q with cancelled := true }) found fun _ => rfl
  have finished : Request.finished { r with cancelled := true } = true := by
    unfold Request.finished
    simp [noOrphan, segs]
  obtain ⟨timer, done⟩ := sendDone_counted (s.onRequest r.id fun q => { q with cancelled := true }) { r with cancelled := true }
  have status : Request.status { r with cancelled := true } = .cancelled := by simp [Request.status, noFailure]
  have residual : Request.residual { r with cancelled := true } = r.len - 512 * r.lowestIncomplete := by
    simp [Request.residual, noFailure, Request.lowestIncomplete]
  have failing : Request.failingLba { r with cancelled := true } = none := by simp [Request.failingLba, noFailure]
  have counted : ∀ c, doneCount { r with cancelled := true } c = c.completedOne := fun c => if_neg (by rw [status]; decide)
  have form := (cancelRequest_marks lawful found noCancel (by simp [segs])).trans ((tryComplete_done marked finished).trans done)
  rw [status, residual, failing, counted] at form
  rw [form]
  refine ⟨rfl, refreshIdle_link _, (refreshIdle_engine _).trans ?_, refreshIdle_counters _, refreshIdle_map _,
    refreshIdle_ports _, refreshIdle_guard _, refreshIdle_mgmt _, refreshIdle_health _, refreshIdle_log _⟩
  exact congrArg (fun l => ({ s.engine with items := l } : RequestEngine)) (filter_onRequest s r.id _ fun _ => rfl)

end

/-- Settles O45, by the use of the tag and then by the segments that the request holds. -/
theorem cancelEndsRequests : Obligations.CancelEndsRequests := by
  unfold Obligations.CancelEndsRequests
  intro s frame tag running parsed
  have step := exec_cancel running parsed
  refine ⟨fun free => ?_, fun window => ?_, fun r lawful request live => ?_⟩
  · rw [step, State.takeCancel, State.tagUse, free]
    rfl
  · rw [step, State.takeCancel, State.tagUse, window]
  · obtain ⟨found, named, noOrphan, -⟩ := liveRequest_spec lawful live
    rw [State.takeCancel, State.tagUse, request] at step
    dsimp only at step
    rw [live] at step
    dsimp only at step
    refine ⟨fun cancelled => ?_, fun noCancel kept some => ?_, fun noCancel segs noFailure => ?_⟩
    · have same : s.cancelRequest r = s := if_pos cancelled
      rw [step, same, finish_of_todo_nil running.settled]
    · rw [step, cancelRequest_runsOn lawful found noCancel kept some, finish_of_todo_nil (by exact running.settled)]
    · obtain ⟨todo, done⟩ := cancelRequest_completes lawful found noOrphan noCancel segs noFailure
      rw [finish_of_todo_nil (todo.trans running.settled)] at step
      subst named
      exact ⟨_, step, done.link, done.engine, done.counters, done.map, done.ports, done.guard, done.mgmt, done.health, done.log⟩

/-! ### LINK RESET -/

/-- Settles O46: the fold over the live requests leaves each as `afterLinkReset` says, and everything else aside. -/
theorem linkResetLeavesOrphans : Obligations.LinkResetLeavesOrphans := by
  unfold Obligations.LinkResetLeavesOrphans
  intro s frame running lawful parsed
  obtain ⟨aside, items⟩ := takeLinkReset_spec lawful.toBounded
  have step : exec (.linkReset frame) s = .next s.takeLinkReset.refreshIdle := by
    refine (whenUp_up (fun s => s.linkResetFrame frame) running.up).trans ?_
    unfold State.linkResetFrame
    rw [parsed]
    exact congrArg _ (finish_of_todo_nil (aside.todo.trans running.settled))
  have mgmt : s.takeLinkReset.refreshIdle.mgmt = { s.freeTags.mgmt with events := s.takeLinkReset.mgmt.events } :=
    (refreshIdle_mgmt _).trans aside.mgmt
  refine ⟨_, step, (refreshIdle_link _).trans aside.link, ?_, ?_, ?_, ?_, ?_, (refreshIdle_ports _).trans aside.ports,
    (refreshIdle_guard _).trans aside.guard, ?_, (refreshIdle_counters _).trans aside.counters, (refreshIdle_log _).trans aside.log⟩
  · rw [refreshIdle_engine, items]
    exact List.filterMap_congr fun i _ => by cases i <;> rfl
  · rw [mgmt]
    rfl
  · rw [mgmt]
    rfl
  · rw [mgmt]
    rfl
  · rw [mgmt]
    rfl
  · rw [refreshIdle_modes_mode, aside.modes]
    rfl

end Sys2Proof.Proofs.RequestEnds
end

section
/-!
PROOFS. WRITE DATA for a request (R59, R66) and the data timers of its segments (R60).
-/

namespace Sys2Proof.Proofs.WriteData

open Sys2Proof Sys2Proof.Machine Sys2Proof.Laws

/-! ### Frames that reach no block -/

theorem exec_writeData {s : State} {frame : List Byte} {f : WriteFields} (running : s.Running)
    (parsed : LinkFrame.parse frame = some (.writeData f)) {x : State} (takes : s.takeWriteData f = x) (settled : x.todo = s.todo) :
    exec (.writeData frame) s = .next x.refreshIdle := by
  rw [WindowAccesses.writeData_taken running parsed, takes, finish_of_todo_nil (settled.trans running.settled)]

theorem takeWriteData_free {s : State} {f : WriteFields} (free : s.link.tags[f.tag] = .free) :
    s.takeWriteData f = s.countDiscardedData := by
  unfold State.takeWriteData State.tagUse
  rw [free]

theorem takeWriteData_request {s : State} {f : WriteFields} {r : Request} (request : s.link.tags[f.tag] = .request)
    (live : s.liveRequest? f.tag = some r) : s.takeWriteData f = s.writeRequest r f := by
  unfold State.takeWriteData State.tagUse
  rw [request]
  dsimp only
  rw [live]

theorem writeRequest_discards {s : State} {r : Request} {f : WriteFields} (inside : f.index.toNat < r.count)
    (no : r.requesting f.index.toNat = none ∨ f.data.length ≠ r.bytesOf f.index.toNat) :
    s.writeRequest r f = s.countDiscardedData := by
  unfold State.writeRequest
  rw [if_neg (Nat.not_le_of_lt inside)]
  cases requested : r.requesting f.index.toNat with
  | none => rfl
  | some g =>
    have size : r.sizeFits f = false := decide_eq_false (no.resolve_left (by rw [requested]; simp))
    dsimp only
    rw [size, if_neg Bool.false_ne_true]

section
variable {s : State} {r : Request} {f : WriteFields}

theorem isEmpty_false {l : List Segment} (holds : l ≠ []) : l.isEmpty = false := by
  cases l with
  | nil => exact absurd rfl holds
  | cons => rfl

/-- A block beyond the request is a failure at its first block (R59, R64). -/
theorem writeRequest_beyond (lawful : s.Lawful) (found : s.request? r.id = some r) (noOrphan : r.orphan = false)
    (beyond : r.count ≤ f.index.toNat) (noFailure : r.first = none) (noCancel : r.cancelled = false)
    (kept : ∀ g ∈ r.segs, g.droppable = true → g.off = 0) : s.writeRequest r f = (s.countDiscardedData.onRequest r.id fun q =>
      { q with first := some ⟨0, .badRequest⟩, state := .draining }).tryComplete r.id := by
  have fails := takeFailure_kept (s := s.countDiscardedData) (st := .badRequest) lawful.order found noCancel noOrphan noFailure
    fun g mem drops => Nat.le_of_eq (kept g mem drops)
  unfold State.writeRequest
  rw [if_pos beyond, fails]

theorem writeRequest_drains (lawful : s.Lawful) (found : s.request? r.id = some r) (noOrphan : r.orphan = false)
    (beyond : r.count ≤ f.index.toNat) (noFailure : r.first = none) (noCancel : r.cancelled = false) (holds : r.segs ≠ [])
    (kept : ∀ g ∈ r.segs, g.droppable = true → g.off = 0) : s.writeRequest r f =
      s.countDiscardedData.onRequest r.id fun q => { q with first := some ⟨0, .badRequest⟩, state := .draining } := by
  rw [writeRequest_beyond lawful found noOrphan beyond noFailure noCancel kept]
  refine tryComplete_not (request_onRequest (s := s.countDiscardedData) found fun _ => rfl) ?_
  unfold Request.finished
  rw [isEmpty_false holds]
  simp

/-- With no segment left it completes BAD_REQUEST. -/
theorem writeRequest_refuses (lawful : s.Lawful) (found : s.request? r.id = some r) (noOrphan : r.orphan = false)
    (beyond : r.count ≤ f.index.toNat) (noFailure : r.first = none) (noCancel : r.cancelled = false) (segs : r.segs = []) :
    (s.writeRequest r f).todo = s.todo ∧ RequestEnds.Completes s (s.writeRequest r f).refreshIdle
      { tags := s.link.tags.set r.tag .free
        sent := s.link.sent ++ [.completion r.tag .badRequest r.len none r.recovered (s.mgmt.events != 0)] }
      { s.engine with items := s.engine.items.filter fun i => i.id != r.id }
      { State.counters s.countDiscardedData with
        streams := s.counters.streams.set r.stream s.counters.streams[r.stream].completedOne } := by
  have failed := request_onRequest (s := s.countDiscardedData)
    (f := fun q => { q with first := some ⟨0, .badRequest⟩, state := .draining }) found fun _ => rfl
  have finished : Request.finished { r with first := some ⟨0, .badRequest⟩, state := .draining } = true := by
    unfold Request.finished
    simp [noOrphan, segs]
  obtain ⟨timer, done⟩ := sendDone_counted
    (s.countDiscardedData.onRequest r.id fun q => { q with first := some ⟨0, .badRequest⟩, state := .draining })
    { r with first := some ⟨0, .badRequest⟩, state := .draining }
  have form := (writeRequest_beyond lawful found noOrphan beyond noFailure noCancel (by simp [segs])).trans
    ((tryComplete_done failed finished).trans done)
  rw [form]
  refine ⟨rfl, refreshIdle_link _, (refreshIdle_engine _).trans ?_, refreshIdle_counters _, refreshIdle_map _,
    refreshIdle_ports _, refreshIdle_guard _, refreshIdle_mgmt _, refreshIdle_health _, refreshIdle_log _⟩
  exact congrArg (fun l => ({ s.engine with items := l } : RequestEngine)) (filter_onRequest s r.id _ fun _ => rfl)

/-! ### A block that is delivered -/

/-- The segment with one more block of its data. -/
def keeps (f : WriteFields) (x : Segment) : Segment :=
  { x with data := x.data ++ [(f.index.toNat, f.data ++ List.replicate (512 - f.data.length) 0)] }

theorem fit_short {l : List Byte} (short : l.length ≤ 512) : fit 512 l = l ++ List.replicate (512 - l.length) 0 := by
  unfold fit zeros
  rw [List.take_append, List.take_of_length_le short, List.take_replicate]
  congr 2
  omega

theorem bytesOf_le (r : Request) (index : Nat) : r.bytesOf index ≤ 512 := by
  have count : r.count = (r.len + 511) / 512 := rfl
  unfold Request.bytesOf
  split <;> omega

/-- A segment is complete once each of its blocks has come (R59). -/
theorem keeps_delivered (f : WriteFields) (g : Segment) : (keeps f g).delivered = true ↔
    ∀ i < g.count, g.off + i = f.index.toNat ∨ ∃ d ∈ g.data, d.1 = g.off + i := by
  unfold Segment.delivered keeps
  simp only [List.all_eq_true, List.mem_range, List.any_append, Bool.or_eq_true, List.any_eq_true, List.any_cons, List.any_nil,
    Bool.or_false, beq_iff_eq]
  exact forall₂_congr fun i _ => or_comm.trans (or_congr_left eq_comm)

variable {g : Segment}

theorem request_onSegment (found : s.request? r.id = some r) (seg : Nat) (f : Segment → Segment) :
    (s.onSegment r.id seg f).request? r.id = some (r.onSegment seg f) :=
  request_onRequest (f := fun r => r.onSegment seg f) found fun _ => rfl

theorem deliver_keeps (found : s.request? r.id = some r) (segment : r.segment? g.id = some g) (size : f.data.length = r.bytesOf f.index.toNat) :
    s.deliver r g f = if (keeps f g).delivered then (s.onSegment r.id g.id (keeps f)).dataComplete r.id g.id
      else s.onSegment r.id g.id (keeps f) := by
  have fits : (fun x : Segment => { x with data := x.data ++ [(f.index.toNat, fit 512 f.data)] }) = keeps f := by
    unfold keeps
    rw [fit_short (by rw [size]; exact bytesOf_le r _)]
  have now : ((s.onSegment r.id g.id (keeps f)).request? r.id).bind (fun r => r.segment? g.id) = some (keeps f g) := by
    rw [request_onSegment found]
    exact segment_onSegment segment fun _ => rfl
  unfold State.deliver
  rw [fits]
  dsimp only
  rw [now]

theorem writeRequest_delivers (inside : f.index.toNat < r.count) (requested : r.requesting f.index.toNat = some g)
    (size : f.data.length = r.bytesOf f.index.toNat) : s.writeRequest r f = s.deliver r g f := by
  have fits : r.sizeFits f = true := decide_eq_true size
  unfold State.writeRequest
  rw [if_neg (Nat.not_le_of_lt inside), requested]
  exact if_pos fits

/-- A segment whose data is complete waits for its redirect (R105). -/
theorem dataComplete_redirects (found : s.request? r.id = some r) (segment : r.segment? g.id = some g)
    (pending : g.pendingBlock = true) (still : s.pendingBlock g.unit g.first = true) : s.dataComplete r.id g.id =
      s.onSegment r.id g.id fun x => { x with timer := .stopped, phase := .redirect 0 } := by
  unfold State.dataComplete
  rw [found]
  dsimp only [Option.bind]
  rw [segment]
  dsimp only
  have both : (g.pendingBlock && (s.onSegment r.id g.id fun g => { g with timer := .stopped }).pendingBlock g.unit g.first) = true := by
    rw [pending]
    exact still
  rw [if_pos both]
  exact onSegment_onSegment s r.id g.id (fun x => { x with timer := .stopped }) (fun x => { x with phase := .redirect 0 }) fun _ => rfl

/-- The part once the write of a segment has been offered and sent. -/
def offers (x : State) (id : Nat) (g : Segment) : State := { x with
  nextId := x.nextId + 1
  counters := { x.counters with
    units := x.counters.units.set g.unit
      { x.counters.units.get g.unit with operations := min 4294967295 ((x.counters.units.get g.unit).operations + 1) } }
  ports := x.ports.set g.unit (x.sendsFirst (x.port g.unit) (mkOp .write g.first g.count (.segment id g.id) x.nextId g.blocks)) }

/-- A port that serves and has nothing else to do. -/
def Idle (s : State) (u : Fin 4) : Prop := (s.port u).state.serves = true ∧ (s.port u).Rests ∧ (s.port u).attachPlace = none

/-- Any other segment whose data is complete is offered, and sent at a port that rests (R59, R79). -/
theorem dataComplete_offers (found : s.request? r.id = some r) (segment : r.segment? g.id = some g)
    (settled : g.pendingBlock = false ∨ s.pendingBlock g.unit g.first = false) (write : r.kind = .write) (idle : Idle s g.unit) :
    s.dataComplete r.id g.id =
      offers (s.onSegment r.id g.id fun x => { x with timer := .stopped, phase := .issued }) r.id g := by
  obtain ⟨serves, rests, place⟩ := idle
  have free : ¬ (g.pendingBlock && (s.onSegment r.id g.id fun g => { g with timer := .stopped }).pendingBlock g.unit g.first) = true := by
    show ¬ (g.pendingBlock && s.pendingBlock g.unit g.first) = true
    rcases settled with never | redirected
    · rw [never]
      simp
    · rw [redirected]
      simp
  have sends := offerSegment_sends (s := s.onSegment r.id g.id fun g => { g with timer := .stopped })
    (r := r.onSegment g.id fun g => { g with timer := .stopped }) (g := { g with timer := .stopped })
    (request_onSegment found g.id _) (segment_onSegment segment fun _ => rfl) serves rests place
  have engine := onSegment_onSegment s r.id g.id (fun x => { x with timer := .stopped }) (fun x => { x with phase := .issued })
    fun _ => rfl
  have kind : (r.onSegment g.id fun g => { g with timer := .stopped }).kind = .write := write
  unfold State.dataComplete
  rw [found]
  dsimp only [Option.bind]
  rw [segment]
  dsimp only
  rw [if_neg free]
  refine sends.trans ?_
  rw [kind]
  exact congrArg (fun x : State => ({ offers (s.onSegment r.id g.id _) r.id g with engine := x.engine } : State)) engine

/-! ### Data timers -/

theorem exec_dataTimeout (running : s.Running) (live : s.liveRequest? r.tag = some r) (segs : r.segs = [g])
    (filling : g.phase = .filling) {x : State} (late : s.dataLate r g = x) (settled : x.todo = s.todo) :
    exec (.dataTimeout r.tag g.off) s = .next x.refreshIdle := by
  have found : r.fillingAt g.off = some g := by
    unfold Request.fillingAt
    rw [segs]
    exact List.find?_cons_of_pos (by simp [filling])
  refine (whenUp_up (fun s => s.dataTimesOut r.tag g.off) running.up).trans ?_
  unfold State.dataTimesOut
  rw [live]
  dsimp only
  rw [found]
  dsimp only
  rw [late, finish_of_todo_nil (settled.trans running.settled)]

theorem takeWhile_range {p : Nat → Bool} {k n : Nat} (short : k < n) (before : ∀ i < k, p i = true) (stops : p k = false) :
    ((List.range n).takeWhile p).length = k := by
  obtain ⟨m, rfl⟩ := Nat.exists_eq_add_of_lt short
  rw [Nat.add_assoc, List.range_add, List.takeWhile_append_of_pos (by simpa using before), List.range_succ_eq_map, List.map_cons,
    Nat.add_zero, List.takeWhile_cons_of_neg (by rw [stops]; exact Bool.false_ne_true), List.append_nil, List.length_range]

/-- The blocks before the first that has not come (R60). -/
theorem deliveredBefore_eq {k : Nat} (short : k < g.count) (before : ∀ i < k, ∃ d ∈ g.data, d.1 = g.off + i)
    (stops : ∀ d ∈ g.data, d.1 ≠ g.off + k) : g.deliveredBefore = k := by
  refine takeWhile_range short (fun i less => ?_) ?_
  · obtain ⟨d, mem, index⟩ := before i less
    exact List.any_eq_true.mpr ⟨d, mem, by simpa using index⟩
  · exact List.any_eq_false.mpr fun d mem => by simpa using stops d mem

/-- With no block before the late one the segment ends, and its request with it. -/
theorem dataLate_ends (lawful : s.Lawful) (found : s.request? r.id = some r) (noOrphan : r.orphan = false)
    (noCancel : r.cancelled = false) (noFailure : r.first = none) (segs : r.segs = [g]) (none : g.deliveredBefore = 0) :
    (s.dataLate r g).todo = s.todo ∧ RequestEnds.Completes s (s.dataLate r g).refreshIdle
      { tags := s.link.tags.set r.tag .free
        sent := s.link.sent ++ [.completion r.tag .dataLate (r.len - 512 * g.off) .none r.recovered (s.mgmt.events != 0)] }
      { items := s.engine.items.filter fun i => i.id != r.id, freeBuffers := s.engine.freeBuffers + g.buffers }
      { State.counters s.countDataLate with
        streams := s.counters.streams.set r.stream s.counters.streams[r.stream].completedOne } := by
  obtain ⟨timer, ends⟩ := segmentFails_last (s := s.countDataLate) (st := .dataLate) (off := g.off) lawful.order found segs noOrphan
    noCancel noFailure fun _ => Nat.le_refl _
  have form : s.dataLate r g = s.countDataLate.segmentFails r.id g.id g.off .dataLate := by
    unfold State.dataLate
    rw [none]
    rfl
  rw [form, ends]
  exact ⟨rfl, refreshIdle_link _, refreshIdle_engine _, refreshIdle_counters _, refreshIdle_map _,
    refreshIdle_ports _, refreshIdle_guard _, refreshIdle_mgmt _, refreshIdle_health _, refreshIdle_log _⟩

/-- The part with a segment cut down to the blocks before the late one, and offered. -/
def cutLate (s : State) (r : Request) (g : Segment) (k : Nat) : State := { s.countDataLate with
  engine :=
    { items := (s.onRequest r.id fun q => { q with
        first := some ⟨g.off + k, .dataLate⟩, state := .draining
        segs := [{ g.keepFront k with timer := .stopped, phase := .issued }] }).engine.items
      freeBuffers := s.engine.freeBuffers + g.buffers - min k g.buffers } }

/-- The request as it fails at the late block. -/
def failsLate (g : Segment) (k : Nat) (q : Request) : Request :=
  { q with first := some ⟨g.off + k, .dataLate⟩, state := .draining }

/-- The part with the segment of a late block cut down. -/
def trimmedLate (s : State) (r : Request) (g : Segment) (k : Nat) : State := { s.countDataLate with
  engine :=
    { items := ((s.onRequest r.id (failsLate g k)).onRequest r.id fun q => { q with segs := [g.keepFront k] }).engine.items
      freeBuffers := s.engine.freeBuffers + g.buffers - min k g.buffers } }

theorem dataLate_offers (lawful : s.Lawful) (found : s.request? r.id = some r) (noOrphan : r.orphan = false)
    (noCancel : r.cancelled = false) (noFailure : r.first = none) (segs : r.segs = [g]) {k : Nat} (positive : 0 < k)
    (before : g.deliveredBefore = k) (never : g.pendingBlock = false) (write : r.kind = .write) (idle : Idle s g.unit) :
    s.dataLate r g = offers (cutLate s r g k) r.id (g.keepFront k) := by
  have fails := takeFailure_kept (s := s.countDataLate) (off := g.off + k) (st := .dataLate) lawful.order found noCancel noOrphan
    noFailure (by simp [segs])
  have failed : (s.countDataLate.onRequest r.id (failsLate g k)).request? r.id = some (failsLate g k r) :=
    request_onRequest (s := s.countDataLate) found fun _ => rfl
  have kept : (failsLate g k r).segs.map (fun x => if x.id == g.id then x.keepFront k else x) = [g.keepFront k] := by
    show r.segs.map _ = _
    simp [segs]
  have held : heldBy (failsLate g k r).segs = g.buffers := by
    show heldBy r.segs = _
    rw [segs, heldBy_one]
  have left : heldBy [g.keepFront k] = min k g.buffers := heldBy_one _
  have trim := resegment_at (f := fun l => l.map fun x => if x.id == g.id then x.keepFront k else x) failed
    (by rw [kept, left, held]; omega)
  rw [kept, held, left] at trim
  have cut : (s.countDataLate.onRequest r.id (failsLate g k)).trimBack r.id g k = trimmedLate s r g k := trim
  have front : (trimmedLate s r g k).request? r.id = some { failsLate g k r with segs := [g.keepFront k] } :=
    request_onRequest (s := s.onRequest r.id (failsLate g k)) (f := fun q => { q with segs := [g.keepFront k] })
      (request_onRequest found fun _ => rfl) fun _ => rfl
  have sends := dataComplete_offers (s := trimmedLate s r g k) (r := { failsLate g k r with segs := [g.keepFront k] })
    (g := g.keepFront k) front (List.find?_cons_of_pos (by simp)) (.inl never) write idle
  have items : (((s.onRequest r.id (failsLate g k)).onRequest r.id fun q => { q with segs := [g.keepFront k] }).onSegment r.id g.id
      fun x => { x with timer := .stopped, phase := .issued }) = s.onRequest r.id fun q => { failsLate g k q with
        segs := [{ g.keepFront k with timer := .stopped, phase := .issued }] } := by
    rw [State.onSegment, onRequest_onRequest _ _ _ _ (by intro; rfl), onRequest_onRequest _ _ _ _ (by intro; rfl)]
    refine congrArg _ (funext fun q => ?_)
    simp [Request.onSegment, Segment.keepFront]
  unfold State.dataLate
  rw [before]
  dsimp only
  rw [fails, if_neg (Nat.ne_of_gt positive)]
  refine (congrArg (fun x : State => x.dataComplete r.id g.id) cut).trans (sends.trans ?_)
  exact congrArg (fun x : State => ({ offers (cutLate s r g k) r.id (g.keepFront k) with engine :=
    { items := x.engine.items, freeBuffers := s.engine.freeBuffers + g.buffers - min k g.buffers } } : State)) items

end

/-- Settles O43: what a frame does by the use of its tag and by its block, and what an expired data timer leaves of a segment. -/
theorem writeDataIsStoredOrLate : Obligations.WriteDataIsStoredOrLate := by
  unfold Obligations.WriteDataIsStoredOrLate
  intro s running lawful offered rests late
  refine ⟨fun frame f parsed => ?_, fun r g live segs filling noCancel noFailure => ?_⟩
  · intro discarded index
    refine ⟨fun free => exec_writeData running parsed (takeWriteData_free free) rfl, fun r request live => ?_⟩
    obtain ⟨found, -, noOrphan, -⟩ := liveRequest_spec lawful live
    have takes := takeWriteData_request request live
    intro size
    refine ⟨fun inside no => ?_, fun beyond noFailure noCancel holds kept => ?_, fun beyond noFailure noCancel segs => ?_,
      fun g inside requested segment fits => ?_⟩
    · exact exec_writeData running parsed (takes.trans (writeRequest_discards inside no)) rfl
    · exact exec_writeData running parsed
        (takes.trans (writeRequest_drains lawful found noOrphan beyond noFailure noCancel holds kept)) rfl
    · obtain ⟨todo, done⟩ := writeRequest_refuses lawful found noOrphan beyond noFailure noCancel segs
      exact ⟨_, exec_writeData running parsed takes todo, done.link, done.engine, done.counters, done.map, done.ports, done.guard,
        done.mgmt, done.health, done.log⟩
    · have delivers := takes.trans ((writeRequest_delivers inside requested fits).trans (deliver_keeps found segment fits))
      have kept := request_onSegment found g.id (keeps f)
      have current : (r.onSegment g.id (keeps f)).segment? g.id = some (keeps f g) := segment_onSegment segment fun _ => rfl
      have merge := fun h => onSegment_onSegment s r.id g.id (keeps f) h fun _ => rfl
      intro keep delivered
      refine ⟨fun more => ?_, fun all pending still => ?_, fun all settled write idle => ?_⟩
      · have unfinished : ¬ (keeps f g).delivered = true := fun all => by
          obtain ⟨i, less, missing⟩ := more
          exact missing ((keeps_delivered f g).mp all i less)
        exact exec_writeData running parsed (delivers.trans (if_neg unfinished)) rfl
      · have redirects := dataComplete_redirects (s := s.onSegment r.id g.id (keeps f)) (g := keeps f g) kept current pending still
        exact exec_writeData running parsed (delivers.trans ((if_pos ((keeps_delivered f g).mpr all)).trans
          (redirects.trans (merge _)))) rfl
      · have sends := dataComplete_offers (s := s.onSegment r.id g.id (keeps f)) (g := keeps f g) kept current settled write idle
        exact exec_writeData running parsed (delivers.trans ((if_pos ((keeps_delivered f g).mpr all)).trans
          (sends.trans (congrArg (fun x => offers x r.id (keeps f g)) (merge _))))) rfl
  · obtain ⟨found, -, noOrphan, -⟩ := liveRequest_spec lawful live
    refine ⟨fun one missing runs => ?_, fun k positive short before missing never write idle => ?_⟩
    · have none := deliveredBefore_eq (g := g) one (fun i less => absurd less (Nat.not_lt_zero i)) missing
      obtain ⟨todo, done⟩ := dataLate_ends lawful found noOrphan noCancel noFailure segs none
      exact ⟨_, exec_dataTimeout running live segs filling rfl todo, done.link, done.engine, done.counters, done.map, done.ports,
        done.guard, done.mgmt, done.health, done.log⟩
    · exact exec_dataTimeout running live segs filling (dataLate_offers lawful found noOrphan noCancel noFailure segs positive
        (deliveredBefore_eq short before missing) never write idle) rfl

end Sys2Proof.Proofs.WriteData
end

section
/-!
PROOFS. HELD items whose holds have cleared (R48, R49, R51), and SYNC requests (R50).
-/

namespace Sys2Proof.Proofs.HeldItems

open Sys2Proof Sys2Proof.Machine Sys2Proof.Laws Sys2Proof.Proofs.Runs

/-! ### Holds that clear -/

theorem exec_holdCleared {s : State} (running : s.Running) : exec .holdCleared s = .next s.runCleared :=
  whenUp_up (fun s => s.runCleared) running.up

theorem runCleared_none {s : State} (held : ∀ pre i post, s.engine.items = pre ++ i :: post → i.held = true → s.holds pre i = true) :
    s.runCleared = s := by
  unfold State.runCleared
  rw [firstCleared_none s.engine.items [] held]

/-- The first HELD request that nothing holds runs. -/
theorem runCleared_first {s x : State} {pre post : List Item} {r : Request} (items : s.engine.items = pre ++ .host r :: post)
    (before : ∀ b i a, pre = b ++ i :: a → i.held = true → s.holds b i = true) (held : (Item.host r).held = true)
    (clear : s.holds pre (.host r) = false) (runs : s.runRequest r.id = x) (settled : x.todo = []) : s.runCleared = x.refreshIdle := by
  unfold State.runCleared
  rw [items, firstCleared_some pre (.host r) post held [] clear before]
  exact (congrArg State.finish runs).trans (finish_of_todo_nil settled)

section
variable {s : State} {pre post : List Item} {r : Request} {y : Extent}

/-- Every port that takes a READ or a WRITE lets it be cut (R53). -/
theorem cutFailure_takes {p : PortState} {k : ReqKind}
    (takes : p = .ready ∨ p = .attaching ∨ p = .sleeping ∨ (p = .readOnly ∧ k = .read)) : cutFailure p k = none := by
  rcases takes with ready | attaching | sleeping | ⟨readOnly, read⟩
  · rw [ready]; rfl
  · rw [attaching]; rfl
  · rw [sleeping]; rfl
  · rw [readOnly, read]; rfl

/-- A READ or a WRITE goes on (R48, R51). -/
theorem held_cuts (lawful : s.Lawful) (running : s.Running) (items : s.engine.items = pre ++ .host r :: post)
    (before : ∀ b i a, pre = b ++ i :: a → i.held = true → s.holds b i = true) (held : (Item.host r).held = true)
    (clear : s.holds pre (.host r) = false) (fresh : Fresh r y) (kind : r.kind = .read ∨ r.kind = .write)
    (port : cutFailure (s.port y.unit).state r.kind = none) :
    ∃ x q, exec .holdCleared s = .next x ∧ x.engine = { s.engine with items := pre ++ .host q :: post } ∧ q.id = r.id ∧
      q.tag = r.tag ∧ q.state = .running ∧ (∃ g l, q.segs = g :: l ∧ g.off = 0 ∧ g.home = y.first ∧ g.phase = .claim) ∧
      x.link = s.link ∧ x.ports = s.ports ∧ x.map = s.map ∧ x.guard = s.guard ∧ x.mgmt = s.mgmt ∧ x.health = s.health ∧
      x.log = s.log ∧ x.counters = s.counters := by
  have noVerify : r.kind ≠ .verify := by
    rcases kind with read | write
    · rw [read]; decide
    · rw [write]; decide
  obtain ⟨l, c, m, runs⟩ := runRequest_cuts items lawful.order fresh noVerify port
  have step := (exec_holdCleared running).trans
    (congrArg Host.Outcome.next (runCleared_first items before held clear runs running.settled))
  refine ⟨_, _, step, refreshIdle_engine _, rfl, rfl, rfl, ⟨_, l, rfl, fresh.cursor, ?_, if_neg noVerify⟩, refreshIdle_link _,
    refreshIdle_ports _, refreshIdle_map _, refreshIdle_guard _, refreshIdle_mgmt _, refreshIdle_health _, refreshIdle_log _,
    refreshIdle_counters _⟩
  show y.first + r.cursor = y.first
  rw [fresh.cursor, Nat.add_zero]

/-- A VERIFY of one segment goes on and is sent (R51). -/
theorem held_verifies (lawful : s.Lawful) (running : s.Running) (items : s.engine.items = pre ++ .host r :: post)
    (before : ∀ b i a, pre = b ++ i :: a → i.held = true → s.holds b i = true) (held : (Item.host r).held = true)
    (clear : s.holds pre (.host r) = false) (fresh : Fresh r y) (whole : y.count = r.count) {first : Nat} (verify : r.kind = .verify)
    (one : s.map.Cuts y.unit (fun _ => true) y.first y.count first y.count) (serves : (s.port y.unit).state.serves = true)
    (rests : (s.port y.unit).Rests) (place : (s.port y.unit).attachPlace = none) :
    ∃ x q g n, exec .holdCleared s = .next x ∧ x.engine = { s.engine with items := pre ++ .host q :: post } ∧ q.id = r.id ∧
      q.tag = r.tag ∧ q.state = .running ∧ q.segs = [g] ∧ g.off = 0 ∧ g.first = first ∧ g.count = y.count ∧ g.phase = .issued ∧
      x.ports = s.ports.set y.unit (s.sendsFirst (s.port y.unit) (mkOp .verify first y.count (.segment q.id g.id) n [])) ∧
      x.link = s.link ∧ x.map = s.map ∧ x.guard = s.guard ∧ x.mgmt = s.mgmt ∧ x.health = s.health ∧ x.log = s.log := by
  obtain ⟨g, n, off, -, starts, covers, issued, runs⟩ := runRequest_verify items lawful.order verify fresh.home whole fresh.cursor
    fresh.count fresh.segs fresh.noCancel fresh.noOrphan one serves rests place
  have step := (exec_holdCleared running).trans
    (congrArg Host.Outcome.next (runCleared_first items before held clear runs running.settled))
  exact ⟨_, { r with state := .running, segs := [g], cursor := y.count }, g, n, step, refreshIdle_engine _, rfl, rfl, rfl, rfl, off,
    starts, covers, issued, refreshIdle_ports _, refreshIdle_link _, refreshIdle_map _, refreshIdle_guard _, refreshIdle_mgmt _,
    refreshIdle_health _, refreshIdle_log _⟩

end

/-! ### SYNC at the head of the list -/

theorem exec_syncComplete {s : State} (running : s.Running) : exec .syncComplete s = .next s.completeSync :=
  whenUp_up (fun s => s.completeSync) running.up

theorem completeSync_other {s : State} (other : ∀ r l, s.engine.items = .host r :: l → r.kind ≠ .sync) : s.completeSync = s := by
  unfold State.completeSync
  match items : s.engine.items with
  | [] => rfl
  | .reloc _ :: _ => rfl
  | .host r :: l => exact if_neg fun sync => other r l items sync.1

/-- A SYNC at the head completes OK, and leaves the rest of the list. -/
theorem completeSync_head {s : State} {r : Request} {l : List Item} (lawful : s.Lawful) (running : s.Running)
    (items : s.engine.items = .host r :: l) (sync : r.kind = .sync) (noOrphan : r.orphan = false) (segs : r.segs = [])
    (noFailure : r.first = none) (noCancel : r.cancelled = false) : RequestEnds.Completes s s.completeSync
      { tags := s.link.tags.set r.tag .free
        sent := s.link.sent ++ [.completion r.tag .ok 0 none r.recovered (s.mgmt.events != 0)] }
      { s.engine with items := l }
      { s.counters with streams := s.counters.streams.set r.stream s.counters.streams[r.stream].completedOne } := by
  obtain ⟨timer, done⟩ := sendDone_counted s r
  have status : r.status = .ok := by simp [Request.status, noFailure, noCancel]
  have residual : r.residual = 0 := by simp [Request.residual, noFailure, noCancel]
  have failing : r.failingLba = none := by simp [Request.failingLba, noFailure]
  have counted : ∀ c, doneCount r c = c.completedOne := fun c => if_neg (by rw [status]; decide)
  have left : (s.engine.items.filter fun i => i.id != r.id) = l := by
    have later : ∀ i ∈ l, r.id < i.id := fun i mem => by
      have order := lawful.order
      rw [items, List.map_cons, List.pairwise_cons] at order
      exact order.1 _ (List.mem_map_of_mem mem)
    rw [items, List.filter_cons_of_neg (by simp [Item.id]), List.filter_eq_self]
    exact fun i mem => by simpa using Nat.ne_of_gt (later i mem)
  rw [status, residual, failing, counted, left] at done
  have form : s.completeSync = (s.sendDone r).finish := by
    unfold State.completeSync
    rw [items]
    exact if_pos ⟨sync, noOrphan, segs⟩
  rw [form, done, finish_of_todo_nil (by exact running.settled)]
  exact ⟨refreshIdle_link _, refreshIdle_engine _, refreshIdle_counters _, refreshIdle_map _, refreshIdle_ports _,
    refreshIdle_guard _, refreshIdle_mgmt _, refreshIdle_health _, refreshIdle_log _⟩

/-! ### SYNC as it arrives -/

section
variable {s : State} {frame : List Byte} {r : RequestFields}

theorem exec_sync (arrives : s.Arrives frame r .sync) {x : State}
    (joins : (admitted s .sync r).syncAdmitted (newRequest s .sync r) = x) (settled : x.todo = s.todo) :
    exec (.request frame) s = .next x.refreshIdle := by
  rw [request_arrives arrives, if_pos rfl, joins, finish_of_todo_nil (settled.trans arrives.settled)]

/-- A SYNC that completes as it arrives makes no traffic end. -/
theorem admitted_completes (arrives : s.Arrives frame r .sync) : (admitted s .sync r).sendDone (newRequest s .sync r) =
    s.passedThrough r .sync [.completion r.tag .ok 0 none false (s.mgmt.events != 0)] StreamCounters.completedOne := by
  have removed : ((admitted s .sync r).sendCompletion r.tag .ok 0 none false).removeItem (newRequest s .sync r).id =
      { (admitted s .sync r).sendCompletion r.tag .ok 0 none false with engine := s.engine } := by
    have items : (((admitted s .sync r).sendCompletion r.tag .ok 0 none false).engine.items.filter fun i =>
        i.id != (newRequest s .sync r).id) = s.engine.items := admitted_filter arrives.lawful .sync r
    have traffic : ((admitted s .sync r).sendCompletion r.tag .ok 0 none false).traffic = s.traffic := admitted_traffic s .sync r
    have stays : ¬ (s.traffic && !s.traffic) = true := by simp
    unfold State.removeItem State.trafficEnds
    dsimp only
    rw [items, traffic]
    exact if_neg stays
  have tags := tags_set_free s.link.tags r.tag .request arrives.tag
  have done : (admitted s .sync r).sendDone (newRequest s .sync r) =
      State.countCompleted (((admitted s .sync r).sendCompletion r.tag .ok 0 none false).removeItem (newRequest s .sync r).id) r.stream := by
    unfold State.sendDone
    exact if_neg (show ¬ Status.ok = .mediaError by decide)
  rw [done, removed]
  show ({ s.passedThrough r .sync [.completion r.tag .ok 0 none false (s.mgmt.events != 0)] StreamCounters.completedOne with
    link := { tags := (s.link.tags.set r.tag .request).set r.tag .free, sent := _ } } : State) = _
  rw [tags]
  rfl

theorem newRequest_length : (newRequest s .sync r).len = r.len.toNat := rfl

theorem syncAdmitted_long (arrives : s.Arrives frame r .sync) (long : r.len ≠ 0) :
    (admitted s .sync r).syncAdmitted (newRequest s .sync r) = s.passedThrough r .sync
      [.completion r.tag .badRequest r.len.toNat none false (s.mgmt.events != 0)] StreamCounters.refusedOne := by
  have length : (newRequest s .sync r).len ≠ 0 := fun zero => long (BitVec.eq_of_toNat_eq zero)
  exact (if_pos length).trans (admitted_refuse arrives .badRequest)

theorem syncAdmitted_empty (arrives : s.Arrives frame r .sync) (length : r.len = 0) (empty : s.engine.items = []) :
    (admitted s .sync r).syncAdmitted (newRequest s .sync r) =
      s.passedThrough r .sync [.completion r.tag .ok 0 none false (s.mgmt.events != 0)] StreamCounters.completedOne := by
  have items : (admitted s .sync r).engine.items = [.host (newRequest s .sync r)] := by
    show s.engine.items ++ _ = _
    rw [empty]
    rfl
  rw [← admitted_completes arrives]
  unfold State.syncAdmitted
  rw [newRequest_length, length, items]
  rfl

/-- Behind another item it waits, HELD. -/
theorem syncAdmitted_waits (arrives : s.Arrives frame r .sync) (length : r.len = 0) (waits : s.engine.items ≠ []) :
    (admitted s .sync r).syncAdmitted (newRequest s .sync r) = { admitted s .sync r with
      engine := { s.engine with items := s.engine.items ++ [.host { newRequest s .sync r with state := .held }] } } := by
  have listed : (admitted s .sync r).engine.items = s.engine.items ++ [.host (newRequest s .sync r)] := rfl
  have held := onRequest_end (q := newRequest s .sync r) listed
    (fun m mem => Nat.lt_add_right 1 (arrives.lawful.given m mem)) fun q => { q with state := .held }
  unfold State.syncAdmitted
  rw [newRequest_length, length]
  refine (if_neg (by decide)).trans ?_
  rw [listed]
  obtain ⟨i, l, items⟩ := List.exists_cons_of_ne_nil waits
  rw [items] at held ⊢
  cases l with
  | nil => exact held
  | cons j l => exact held

end

/-- Settles O48: which HELD item runs (`runCleared_first`), what it cuts or offers, and what becomes of a SYNC. -/
theorem heldItemsAndSyncsGoOn : Obligations.HeldItemsAndSyncsGoOn := by
  unfold Obligations.HeldItemsAndSyncsGoOn
  refine fun s => ⟨fun running => ⟨fun held => ?_, fun pre post r y lawful items before held clear home whole cursor some segs
    noCancel noOrphan => ⟨fun kind takes => ?_, fun first verify one serves rests place => ?_⟩,
    fun r l lawful items sync noOrphan segs noFailure noCancel => ?_, fun other => ?_⟩, fun frame r arrives => ⟨fun long => ?_,
    fun length empty => ?_, fun length waits => ?_⟩⟩
  · rw [exec_holdCleared running, runCleared_none held]
  · exact held_cuts lawful running items before held clear ⟨home, cursor, segs, some, noCancel, noOrphan⟩ kind
      (cutFailure_takes takes)
  · exact held_verifies lawful running items before held clear ⟨home, cursor, segs, some, noCancel, noOrphan⟩ whole verify one
      serves rests place
  · have done := completeSync_head lawful running items sync noOrphan segs noFailure noCancel
    exact ⟨_, exec_syncComplete running, done.engine, done.link, done.counters, done.map, done.ports, done.guard, done.mgmt,
      done.health, done.log⟩
  · rw [exec_syncComplete running, completeSync_other other]
  · exact exec_sync arrives (syncAdmitted_long arrives long) rfl
  · exact exec_sync arrives (syncAdmitted_empty arrives length empty) rfl
  · exact ⟨_, _, exec_sync arrives (syncAdmitted_waits arrives length waits) rfl, refreshIdle_engine _, rfl, rfl, rfl, rfl,
      refreshIdle_link _, refreshIdle_counters _, refreshIdle_map _, refreshIdle_ports _, refreshIdle_guard _, refreshIdle_mgmt _⟩

end Sys2Proof.Proofs.HeldItems
end

section
/-!
PROOFS. Buffer claims (R52, R54, R58, R101) and the free places of issue queues (R52, R70, R80).
-/

namespace Sys2Proof.Proofs.ClaimsAndPlaces

open Sys2Proof Sys2Proof.Machine Sys2Proof.Laws Sys2Proof.Proofs.WriteData

/-! ### Claims of segments -/

theorem exec_bufferClaimGrant {s : State} (running : s.Running) : exec .bufferClaimGrant s = .next s.grantFront :=
  whenUp_up (fun s => s.grantFront) running.up

theorem grantFront_none {s : State} (none : s.bufferClaims = []) : s.grantFront = s := by
  unfold State.grantFront
  rw [none]

theorem grantFront_short {s : State} {c : BufferClaim} {l : List BufferClaim} (front : s.bufferClaims = c :: l)
    (short : s.engine.freeBuffers < c.size) : s.grantFront = s := by
  unfold State.grantFront
  rw [front]
  exact if_neg (Nat.not_le_of_lt short)

/-- A claim for which the free buffers suffice is granted, and its step ends. -/
theorem exec_grants {s x : State} {c : BufferClaim} {l : List BufferClaim} (running : s.Running) (front : s.bufferClaims = c :: l)
    (enough : c.size ≤ s.engine.freeBuffers) (grants : s.grant c = x) (settled : x.todo = s.todo) :
    exec .bufferClaimGrant s = .next x.refreshIdle := by
  have step : s.grantFront = x.finish := by
    unfold State.grantFront
    rw [front]
    exact (if_pos enough).trans (congrArg State.finish grants)
  rw [exec_bufferClaimGrant running, step, finish_of_todo_nil (settled.trans running.settled)]

section
variable {s : State} {r : Request} {g : Segment} {pre post : List Segment}

/-- One segment of a request, given with the segments before and after it, changes. -/
theorem onSegment_placed (s : State) (id : Nat) (a : Segment) (others : ∀ h ∈ pre ++ post, h.id ≠ a.id) (f : Segment → Segment) :
    (s.onRequest id fun q => { q with segs := pre ++ a :: post }).onSegment id a.id f =
      s.onRequest id fun q => { q with segs := pre ++ f a :: post } := by
  have changed : ∀ q : Request, Request.onSegment { q with segs := pre ++ a :: post } a.id f =
      { q with segs := pre ++ f a :: post } := fun q =>
    congrArg (fun l => ({ q with segs := l } : Request)) (map_mid others f)
  rw [State.onSegment, onRequest_onRequest _ _ _ _ (by intro; rfl)]
  exact congrArg _ (funext changed)

/-- The engine once a segment has taken its buffers. -/
def granted (s : State) (r : Request) (pre post : List Segment) (h : Segment) (n : Nat) : RequestEngine :=
  { items := (s.onRequest r.id fun q => { q with segs := pre ++ { h with buffers := n } :: post }).engine.items
    freeBuffers := s.engine.freeBuffers - n }

/-- The buffers of a claim go to its segment (R54). -/
theorem resegment_granted (found : s.request? r.id = some r) (segs : r.segs = pre ++ g :: post)
    (others : ∀ h ∈ pre ++ post, h.id ≠ g.id) (none : g.buffers = 0) (enough : g.count ≤ s.engine.freeBuffers) :
    s.resegment r.id (fun l => l.map fun x => if x.id == g.id then { x with buffers := g.count } else x) =
      { s with engine := granted s r pre post g g.count } := by
  have taken : (r.segs.map fun x => if x.id == g.id then { x with buffers := g.count } else x) =
      pre ++ { g with buffers := g.count } :: post := by
    rw [segs]
    exact map_mid others fun x => { x with buffers := g.count }
  have held : heldBy r.segs = heldBy pre + heldBy post := by rw [segs, heldBy_mid, none, Nat.add_zero]
  have after : heldBy (pre ++ { g with buffers := g.count } :: post) = heldBy pre + heldBy post + g.count := heldBy_mid _ _ _
  have free : s.engine.freeBuffers + heldBy r.segs - heldBy (pre ++ { g with buffers := g.count } :: post) =
      s.engine.freeBuffers - g.count := by rw [held, after]; omega
  have reseg := resegment_at (s := s) (f := fun l => l.map fun x => if x.id == g.id then { x with buffers := g.count } else x) found
    (by rw [taken, after, held]; omega)
  rw [taken, free] at reseg
  exact reseg

theorem segment_mid (segs : r.segs = pre ++ g :: post) (others : ∀ h ∈ pre ++ post, h.id ≠ g.id) : r.segment? g.id = some g := by
  unfold Request.segment?
  rw [segs]
  exact find_mid others

/-- A WRITE's segment is FILLING, with its data timer and its DATA REQUEST (R58). -/
theorem grantSegment_write (found : s.request? r.id = some r) (segs : r.segs = pre ++ g :: post)
    (others : ∀ h ∈ pre ++ post, h.id ≠ g.id) (none : g.buffers = 0) (enough : g.count ≤ s.engine.freeBuffers)
    (write : r.kind = .write) : s.grantSegment r.id g.id g.count = { s with
      link := { s.link with sent := s.link.sent ++ [.dataRequest r.tag g.off g.count] }
      engine := granted s r pre post { g with phase := .filling, timer := .running s.ms s.mgmt.params.dataTimeout } g.count } := by
  have filled := onSegment_placed (pre := pre) (post := post) s r.id { g with buffers := g.count } others fun x =>
    { x with phase := .filling, timer := .running s.ms s.mgmt.params.dataTimeout }
  unfold State.grantSegment
  rw [found]
  dsimp only
  rw [segment_mid segs others]
  dsimp only
  rw [if_pos write, resegment_granted found segs others none enough]
  exact congrArg (fun x : State => ({ s with
    link := { s.link with sent := s.link.sent ++ [.dataRequest r.tag g.off g.count] }
    engine := { items := x.engine.items, freeBuffers := s.engine.freeBuffers - g.count } } : State)) filled

/-- A READ's segment offers its READ, which a port that rests sends (R52). -/
theorem grantSegment_read (found : s.request? r.id = some r) (segs : r.segs = pre ++ g :: post)
    (others : ∀ h ∈ pre ++ post, h.id ≠ g.id) (none : g.buffers = 0) (enough : g.count ≤ s.engine.freeBuffers)
    (read : r.kind = .read) (idle : Idle s g.unit) : s.grantSegment r.id g.id g.count = { s with
      nextId := s.nextId + 1, counters := opCounted s g.unit
      ports := s.ports.set g.unit (s.sendsFirst (s.port g.unit)
        (mkOp .read g.first g.count (.segment r.id g.id) s.nextId []))
      engine := granted s r pre post { g with phase := .issued } g.count } := by
  obtain ⟨serves, rests, place⟩ := idle
  have listed : State.request? { s with engine := granted s r pre post g g.count } r.id =
      some { r with segs := pre ++ { g with buffers := g.count } :: post } :=
    request_onRequest (f := fun q => { q with segs := pre ++ { g with buffers := g.count } :: post }) found fun _ => rfl
  have segment : Request.segment? { r with segs := pre ++ { g with buffers := g.count } :: post } g.id =
      some { g with buffers := g.count } := segment_mid (g := { g with buffers := g.count }) rfl others
  have sends := offerSegment_sends (s := { s with engine := granted s r pre post g g.count })
    (r := { r with segs := pre ++ { g with buffers := g.count } :: post }) (g := { g with buffers := g.count })
    listed segment serves rests place
  have issued := onSegment_placed (pre := pre) (post := post) s r.id { g with buffers := g.count } others fun x =>
    { x with phase := .issued }
  have kind : ¬ r.kind = .write := by rw [read]; decide
  unfold State.grantSegment
  rw [found]
  dsimp only
  rw [segment_mid segs others]
  dsimp only
  rw [if_neg kind, resegment_granted found segs others none enough]
  refine sends.trans ?_
  dsimp only
  rw [if_neg kind, read]
  exact congrArg (fun x : State => ({ s with
    nextId := s.nextId + 1, counters := opCounted s g.unit
    ports := s.ports.set g.unit (s.sendsFirst (s.port g.unit) (mkOp .read g.first g.count (.segment r.id g.id) s.nextId []))
    engine := { items := x.engine.items, freeBuffers := s.engine.freeBuffers - g.count } } : State)) issued

end

/-! ### Claims of relocations -/

/-- The READ of a relocation is offered at a port that rests, and sent (R79, R101). -/
theorem offerReloc_reads {x : State} {k : Fin 2} {q : Relocation} (slot : x.health.slot k = some q) (step : q.step = .read)
    (idle : Idle x q.unit) : x.offerReloc k = { x with
      nextId := x.nextId + 1, counters := opCounted x q.unit
      health := x.health.withSlot (some { q with wait := .port }) k
      ports := x.ports.set q.unit (x.sendsFirst (x.port q.unit) (mkOp .read q.block 1 (.reloc k) x.nextId [])) } := by
  obtain ⟨serves, rests, place⟩ := idle
  cases q
  cases step
  unfold State.offerReloc
  rw [slot]
  simp only [offer_sends serves rests place]
  rw [setReloc_kept (by exact slot) (.inl rfl) (.inl rfl)]
  simp only [reduceCtorEq, if_false]

theorem grant_reloc {s : State} {k : Fin 2} {x : Relocation} (slot : s.health.slot k = some x) (step : x.step = .buffer)
    (enough : 1 ≤ s.engine.freeBuffers) (idle : Idle s x.unit) : s.grant (.reloc k) = { s with
      nextId := s.nextId + 1, counters := opCounted s x.unit
      ports := s.ports.set x.unit (s.sendsFirst (s.port x.unit) (mkOp .read x.block 1 (.reloc k) s.nextId []))
      health := s.health.withSlot (some { x with step := .read, wait := .port }) k
      engine := { s.engine with freeBuffers := s.engine.freeBuffers - 1 } } := by
  have before : slotBuffers (s.health.slot k) = 0 := by simp [slotBuffers, slot, step]
  have after : slotBuffers (some { x with step := .read }) = 1 := by simp [slotBuffers]
  have taken := setReloc_at (s := s) (k := k) (r := some { x with step := .read }) (by rw [after]; omega)
  rw [before, after, Nat.add_zero] at taken
  unfold State.grant
  dsimp only
  rw [slot]
  dsimp only
  rw [taken]
  refine (offerReloc_reads (x := { s with health := s.health.withSlot (some { x with step := .read }) k, engine := _ })
    (q := { x with step := .read }) (slot_withSlot _ _ k) rfl idle).trans ?_
  dsimp only
  rw [withSlot_twice]
  rfl

/-! ### Free places -/

theorem exec_queuePlaceFree {s : State} (running : s.Running) (u : Fin 4) : exec (.queuePlaceFree u) s = .next (s.placeFree u) :=
  whenUp_up (fun s => s.placeFree u) running.up

section
variable {s : State} {u : Fin 4} {r : Request} {g : Segment} {l : List WaitingOp}

theorem offerWaiting_place (found : s.request? r.id = some r) (segment : r.segment? g.id = some g) (place : g.phase = .place) :
    s.offerWaiting (.segment r.id g.id) = s.offerSegment r.id g.id := by
  unfold State.offerWaiting State.offerAgain
  dsimp only
  rw [found]
  dsimp only [Option.bind]
  rw [segment]
  dsimp only
  rw [place]

/-- The first operation that waits for a place of an available port is offered, and the step ends (R80). -/
theorem exec_offers {x : State} (running : s.Running) (room : (s.port u).queue.length < 64)
    (waits : (s.waitingOps u fun w => decide (w = .place)) = .segment r.id g.id :: l) (found : s.request? r.id = some r)
    (segment : r.segment? g.id = some g) (place : g.phase = .place) (available : (s.port u).state.unavailable = false)
    (offers : s.offerSegment r.id g.id = x) (settled : x.todo = s.todo) : exec (.queuePlaceFree u) s = .next x.refreshIdle := by
  have step : s.placeFree u = x.finish := by
    unfold State.placeFree
    refine (if_pos room).trans (congrArg State.finish ?_)
    unfold State.offerPlaces
    dsimp only
    rw [available, waits]
    exact (if_neg Bool.false_ne_true).trans ((offerWaiting_place found segment place).trans offers)
  rw [exec_queuePlaceFree running, step, finish_of_todo_nil (settled.trans running.settled)]

theorem op_noWrite {k : ReqKind} (noWrite : k ≠ .write) : k.op = if k = .read then .read else .verify := by
  cases k with
  | write => exact absurd rfl noWrite
  | _ => rfl

/-- Where no slot is free the operation is queued last (R52, R79). -/
theorem offerSegment_queues (found : s.request? r.id = some r) (segment : r.segment? g.id = some g) (noWrite : r.kind ≠ .write)
    (available : (s.port g.unit).state.unavailable = false) (room : (s.port g.unit).queue.length < 64)
    (full : (s.port g.unit).slots.toList.all (fun o => o.isSome) = true) : s.offerSegment r.id g.id = { s with
      nextId := s.nextId + 1, engine := (s.onSegment r.id g.id fun g => { g with phase := .issued }).engine
      ports := s.ports.set g.unit { s.port g.unit with
        queue := (s.port g.unit).queue ++ [mkOp r.kind.op g.first g.count (.segment r.id g.id) s.nextId []] } } := by
  unfold State.offerSegment
  rw [found]
  dsimp only
  rw [segment]
  dsimp only
  rw [if_neg noWrite, full_offer available room full]
  rfl

/-- At a port that is not available the operation ends as it is offered (R70). -/
theorem offerSegment_ends (found : s.request? r.id = some r) (segment : r.segment? g.id = some g)
    (unavailable : (s.port g.unit).state.unavailable = true) : ∃ o, o.owner = .segment r.id g.id ∧ o.kind = r.kind.op ∧
      s.offerSegment r.id g.id = State.later { s with
        nextId := s.nextId + 1, engine := (s.onSegment r.id g.id fun g => { g with phase := .issued }).engine }
        (.ended g.unit o .unavailable) := by
  refine ⟨mkOp r.kind.op g.first g.count (.segment r.id g.id) s.nextId (if r.kind = .write then g.blocks else []), rfl, rfl, ?_⟩
  have ends : ∀ d, s.offer g.unit r.kind.op g.first g.count (.segment r.id g.id) d = (.ended, State.later { s with
      nextId := s.nextId + 1 } (.ended g.unit (mkOp r.kind.op g.first g.count (.segment r.id g.id) s.nextId d) .unavailable)) :=
    fun d => if_pos unavailable
  unfold State.offerSegment
  rw [found]
  dsimp only
  rw [segment]
  dsimp only
  rw [ends]
  rfl

/-- An operation of a live request that ends UNIT_UNAVAILABLE fails its segment (R61). -/
theorem segmentEnded_unavailable (found : s.request? r.id = some r) (segment : r.segment? g.id = some g) (noOrphan : r.orphan = false)
    (noSync : r.kind ≠ .sync) : s.segmentEnded r.id g.id r.kind.op .unavailable =
      s.segmentFails r.id g.id g.off .unitUnavailable := by
  unfold State.segmentEnded
  rw [found]
  dsimp only
  rw [segment]
  dsimp only
  rw [if_neg (ne_true_of_eq_false noOrphan)]
  cases kind : r.kind with
  | read => rfl
  | write => rfl
  | verify => rfl
  | sync => exact absurd kind noSync

/-- The part as it hands back an operation that ended as it was offered. -/
def issuedTo (s : State) (r : Request) (g : Segment) : State := { s with
  nextId := s.nextId + 1, engine := (s.onSegment r.id g.id fun g => { g with phase := .issued }).engine, todo := [] }

/-- A request whose last segment is offered at a port that is not available completes UNIT_UNAVAILABLE (R61, R70). -/
theorem placeFree_ends (running : s.Running) (lawful : s.Lawful) (room : (s.port g.unit).queue.length < 64)
    (waits : (s.waitingOps g.unit fun w => decide (w = .place)) = [.segment r.id g.id]) (found : s.request? r.id = some r)
    (segment : r.segment? g.id = some g) (place : g.phase = .place) (noSync : r.kind ≠ .sync)
    (unavailable : (s.port g.unit).state.unavailable = true) (noErase : s.guard.eraseWantsPlace g.unit = false)
    (segs : r.segs = [g]) (noOrphan : r.orphan = false) (noCancel : r.cancelled = false) (noFailure : r.first = none) :
    RequestEnds.Completes s (s.placeFree g.unit)
      { tags := s.link.tags.set r.tag .free
        sent := s.link.sent ++
          [.completion r.tag .unitUnavailable (r.len - 512 * g.off) none r.recovered (s.mgmt.events != 0)] }
      { items := s.engine.items.filter fun i => i.id != r.id, freeBuffers := s.engine.freeBuffers + g.buffers }
      { s.counters with streams := s.counters.streams.set r.stream s.counters.streams[r.stream].completedOne } := by
  obtain ⟨o, owner, kind, offers⟩ := offerSegment_ends found segment unavailable
  have ended : ∀ x : State, x.request? r.id = some (r.onSegment g.id fun g => { g with phase := .issued }) →
      x.handBack o .unavailable = x.segmentFails r.id g.id g.off .unitUnavailable := fun x listed => by
    unfold State.handBack
    rw [owner, kind]
    exact segmentEnded_unavailable (r := r.onSegment g.id fun g => { g with phase := .issued }) (g := { g with phase := .issued })
      listed (segment_onSegment segment fun _ => rfl) noOrphan noSync
  have issued := request_onSegment found g.id fun g => { g with phase := .issued }
  have left : (r.onSegment g.id fun g => { g with phase := .issued }).segs = [{ g with phase := .issued }] := by
    simp [Request.onSegment, segs]
  have order := RequestEnds.onRequest_order lawful.order r.id (f := fun r => r.onSegment g.id fun g => { g with phase := .issued })
    fun _ => rfl
  obtain ⟨timer, fails⟩ := segmentFails_last (s := issuedTo s r g)
    (r := r.onSegment g.id fun g => { g with phase := .issued }) (g := { g with phase := .issued }) (off := g.off)
    (st := .unitUnavailable) order issued left noOrphan noCancel noFailure fun _ => Nat.le_refl _
  have step : s.placeFree g.unit = (s.offerSegment r.id g.id).finish := by
    unfold State.placeFree
    refine (if_pos room).trans (congrArg State.finish ?_)
    unfold State.offerPlaces
    dsimp only
    rw [if_pos unavailable, waits]
    show (if (s.offerWaiting (.segment r.id g.id)).guard.eraseWantsPlace g.unit then _ else s.offerWaiting (.segment r.id g.id)) = _
    rw [offerWaiting_place found segment place, offers]
    exact if_neg (ne_true_of_eq_false noErase)
  have settles := settle_one (s := State.later { s with
      nextId := s.nextId + 1, engine := (s.onSegment r.id g.id fun g => { g with phase := .issued }).engine }
      (.ended g.unit o .unavailable)) (congrArg (· ++ [_]) running.settled) ((ended (issuedTo s r g) issued).trans fails)
    (by exact rfl)
  rw [step, offers, State.finish, settles]
  refine ⟨refreshIdle_link _, (refreshIdle_engine _).trans ?_, refreshIdle_counters _, refreshIdle_map _, refreshIdle_ports _,
    refreshIdle_guard _, refreshIdle_mgmt _, refreshIdle_health _, refreshIdle_log _⟩
  exact congrArg (RequestEngine.mk · _) (filter_onRequest s r.id _ fun _ => rfl)

end

/-- Settles O47: the claim at the front of the order (`exec_grants`), and the first operation that waits for a place
(`exec_offers`, `placeFree_ends`). -/
theorem claimsAndPlacesAreGrantedInOrder : Obligations.ClaimsAndPlacesAreGrantedInOrder := by
  unfold Obligations.ClaimsAndPlacesAreGrantedInOrder
  intro s running lawful counted rests sends
  refine ⟨fun none => ?_, fun c l front short => ?_, fun r g l pre post front enough found segs others none => ?_,
    fun k x l front enough slot step idle => ?_, fun u => ⟨fun full => ?_, fun r g l room waits found segment place same => ?_⟩⟩
  · rw [exec_bufferClaimGrant running, grantFront_none none]
  · rw [exec_bufferClaimGrant running, grantFront_short front short]
  · intro grantedTo
    refine ⟨fun write => ?_, fun read idle => ?_⟩
    · exact exec_grants running front enough (grantSegment_write found segs others none enough write) rfl
    · exact exec_grants running front enough (grantSegment_read found segs others none enough read idle) rfl
  · exact exec_grants running front enough (grant_reloc slot step enough idle) rfl
  · rw [exec_queuePlaceFree running]
    exact congrArg _ (if_neg (Nat.not_lt_of_le full))
  · subst same
    intro kind issued
    refine ⟨fun noWrite serves full => ?_, fun noWrite idle => ?_,
      fun noSync unavailable last noErase segs noOrphan noCancel noFailure => ?_⟩
    · have queues := offerSegment_queues found segment noWrite (serves_available serves) room full
      rw [op_noWrite noWrite] at queues
      exact exec_offers running room waits found segment place (serves_available serves) queues rfl
    · have offered := offerSegment_sends found segment idle.1 idle.2.1 idle.2.2
      rw [op_noWrite noWrite, if_neg noWrite] at offered
      exact exec_offers running room waits found segment place (serves_available idle.1) offered rfl
    · subst last
      have done := placeFree_ends running lawful room waits found segment place noSync unavailable noErase segs noOrphan noCancel
        noFailure
      exact ⟨_, exec_queuePlaceFree running _, done.link, done.engine, done.ports, done.map, done.health, done.log⟩

end Sys2Proof.Proofs.ClaimsAndPlaces
end

section
/-!
PROOFS. What a RESULT does with the last segment of a request (R55 to R57, R61, R63, R65, R68, R78, R82): what the hand-back finds, and
what becomes of the request by its kind and by the outcome.
-/

namespace Sys2Proof.Proofs.HostOperations

open Sys2Proof Sys2Proof.Machine Sys2Proof.Laws

/-! ### What the hand-back finds, and what it leaves -/

/-- The ports after the only operation of one has ended. -/
def rested (s : State) (u : Fin 4) : Four Port := s.ports.set u { s.port u with slots := Four.all none }

/-- The part as an ended operation is handed back: counted, and met by the health monitor. -/
def foundAt (s : State) (u : Fin 4) (units : Four UnitCounters) (health : HealthMonitor) (events : BitVec 16) (store : StoreController) :
    State :=
  { s with
    nextFree := s.nextFree + 1
    ports := rested s u
    counters := { s.counters with units := units }
    health := health
    mgmt := { s.mgmt with events := events }
    store := store
    todo := [.takes u] }

/-- What an ended operation changes apart from the link and the engine, and what it leaves. -/
structure Ended (s x : State) (ports : Four Port) (units : Four UnitCounters) (health : HealthMonitor) (log : LogUnit)
    (streams : Vector StreamCounters 16) : Prop where
  ports : x.ports = ports
  map : x.map = s.map
  guard : x.guard = s.guard
  mode : x.modes.mode = s.modes.mode
  state : x.mgmt.state = s.mgmt.state
  units : x.counters.units = units
  health : x.health = health
  log : x.log = log
  streams : x.counters.streams = streams

section
variable {s x : State} {u : Fin 4} {ports : Four Port} {units : Four UnitCounters} {health : HealthMonitor} {log : LogUnit}
  {streams : Vector StreamCounters 16}

theorem Ended.settled (ended : Ended s x ports units health log streams) :
    Ended s (State.refreshIdle { x with todo := [] }) ports units health log streams where
  ports := (refreshIdle_ports _).trans ended.ports
  map := (refreshIdle_map _).trans ended.map
  guard := (refreshIdle_guard _).trans ended.guard
  mode := (refreshIdle_modes_mode _).trans ended.mode
  state := by rw [refreshIdle_mgmt]; exact ended.state
  units := by rw [refreshIdle_counters]; exact ended.units
  health := (refreshIdle_health _).trans ended.health
  log := (refreshIdle_log _).trans ended.log
  streams := by rw [refreshIdle_counters]; exact ended.streams

theorem Ended.withEngine (ended : Ended s x ports units health log streams) (engine : RequestEngine) :
    Ended s { x with engine := engine } ports units health log streams :=
  ⟨ended.ports, ended.map, ended.guard, ended.mode, ended.state, ended.units, ended.health, ended.log, ended.streams⟩

theorem foundAt_ended (s : State) (u : Fin 4) (units : Four UnitCounters) (health : HealthMonitor) (events : BitVec 16)
    (store : StoreController) :
    Ended s (foundAt s u units health events store) (rested s u) units health s.log s.counters.streams :=
  ⟨rfl, rfl, rfl, rfl, rfl, rfl, rfl, rfl, rfl⟩

/-- The health monitor's part of an outcome that the counters count. -/
def scoredHealth (s : State) (u : Fin 4) (units : Four UnitCounters) (o : Op) (out : OpOutcome) : HealthMonitor :=
  (State.healthTakes { s with
    nextFree := s.nextFree + 1, ports := rested s u, counters := { s.counters with units := units } } u o out).health

theorem found_counted (loaded : s.store.load = none) (o : Op) {out : OpOutcome} {units : Four UnitCounters}
    (counts : State.countOutcome { s with nextFree := s.nextFree + 1, ports := rested s u } u out =
      { s with nextFree := s.nextFree + 1, ports := rested s u, counters := { s.counters with units := units } }) :
    ∃ e st, st.load = none ∧
      ({ atEnd s u o out with todo := [.takes u] } : State) = foundAt s u units (scoredHealth s u units o out) e st := by
  obtain ⟨w, e, st, form, health⟩ := atEnd_form s u o out units counts
  have load : (atEnd s u o out).loadEnded = s.loadEnded := atEnd_load s u o out loaded
  refine ⟨e, st, ?_, ?_⟩
  · rw [form] at load
    unfold State.loadEnded at load
    rw [loaded] at load
    exact Option.isNone_iff_eq_none.mp load
  · have health : scoredHealth s u units o out = { s.health with watch := w } := health.symm
    rw [form, health]
    rfl

theorem found_silent (o : Op) {out : OpOutcome} (silent : o.reported u = false ∨ out = .notReady) {units : Four UnitCounters}
    (counts : State.countOutcome { s with nextFree := s.nextFree + 1, ports := rested s u } u out =
      { s with nextFree := s.nextFree + 1, ports := rested s u, counters := { s.counters with units := units } }) :
    ({ atEnd s u o out with todo := [.takes u] } : State) = foundAt s u units s.health s.mgmt.events s.store := by
  rw [atEnd_silent s u o out silent]
  exact congrArg (fun x : State => ({ x with todo := [.takes u] } : State)) counts

/-- The step of a RESULT that is taken, by what its hand-back leaves. -/
theorem result_ends {frame : List Byte} {f : ResultFields} {o : Outstanding} {out : OpOutcome} {Y y : State} {r : Request}
    {g : Segment} (ends : s.Ends u frame f o) (owner : o.op.owner = .segment r.id g.id)
    (gives : o.op.kind.gives f.outcome.toNat = true)
    (inside : f.outcome.toNat = 1 ∨ f.outcome.toNat = 2 → o.op.first ≤ f.stop.toNat ∧ f.stop.toNat < o.op.first + o.op.count)
    (outcome : outcomeOf s.nextFree o f = out) (found : ({ atEnd s u o.op out with todo := [.takes u] } : State) = Y)
    (back : Y.segmentEnded r.id g.id o.op.kind out = y) (todo : y.todo = [.takes u])
    (stays : (y.port u).state = (s.port u).state ∧ (y.port u).served = (s.port u).served)
    (ended : Ended s y ports units health log streams) :
    ∃ x, exec (.result u frame) s = .next x ∧ Ended s x ports units health log streams ∧ x.link = y.link ∧ x.engine = y.engine := by
  have back : State.handBack Y o.op out = y := by
    unfold State.handBack
    rw [owner]
    exact back
  exact ⟨_, taken_result ends gives inside outcome found back todo stays, ended.settled, refreshIdle_link _, refreshIdle_engine _⟩

end

/-! ### Outcomes -/

section
variable {f : ResultFields} {o : Outstanding}

theorem outcomeOf_done (free : Nat) (zero : f.outcome = 0) (noRead : o.op.kind ≠ .read) :
    outcomeOf free o f = .done f.soft [] f.capacity := by
  unfold outcomeOf
  rw [zero]
  exact if_neg noRead

theorem collected_eq {free n : Nat} {arrived : List (Nat × Block)} {block : Nat → Block}
    (all : ∀ i < n, (arrived.find? fun d => d.1 == i) = some (i, block i)) :
    collected free n arrived = (List.range n).map fun i => (i, block i) := by
  refine List.map_congr_left fun i mem => ?_
  rw [all i (List.mem_range.mp mem)]
  rfl

theorem allArrived_eq {n : Nat} {arrived : List (Nat × Block)} {block : Nat → Block}
    (all : ∀ i < n, (arrived.find? fun d => d.1 == i) = some (i, block i)) : allArrived n arrived = true := by
  refine List.all_eq_true.mpr fun i mem => ?_
  have found := all i (List.mem_range.mp mem)
  exact List.any_eq_true.mpr ⟨_, List.mem_of_find?_eq_some found, by simp⟩

theorem outcomeOf_read (free : Nat) (zero : f.outcome = 0) (read : o.op.kind = .read) {block : Nat → Block}
    (all : ∀ i < o.op.count, (o.arrived.find? fun d => d.1 == i) = some (i, block i)) :
    outcomeOf free o f = .done f.soft ((List.range o.op.count).map fun i => (i, block i)) 0 := by
  unfold outcomeOf
  rw [zero]
  refine (if_pos read).trans ?_
  rw [allArrived_eq all, collected_eq all]
  rfl

theorem outcomeOf_hard (free : Nat) (one : f.outcome = 1) : ∃ data, outcomeOf free o f = .hardRead f.stop.toNat data := by
  unfold outcomeOf
  rw [one]
  exact ⟨_, rfl⟩

/-- NOT_READY, and a READ without all its data (R78). -/
theorem outcomeOf_notReady (free : Nat) (missing : f.outcome = 3 ∨
    (f.outcome = 0 ∧ o.op.kind = .read ∧ ∃ i < o.op.count, ∀ d ∈ o.arrived, d.1 ≠ i)) : outcomeOf free o f = .notReady := by
  unfold outcomeOf
  rcases missing with three | ⟨zero, read, i, less, none⟩
  · rw [three]
    rfl
  · have lacks : allArrived o.op.count o.arrived = false :=
      List.all_eq_false.mpr ⟨i, List.mem_range.mpr less, by simpa using fun b mem => none (i, b) mem rfl⟩
    rw [zero]
    refine (if_pos read).trans ?_
    rw [lacks]
    rfl

theorem outcome_gives {n : BitVec 8} (kind : OpKind) (done : n = 0 ∨ n = 3) : kind.gives n.toNat = true := by
  rcases done with zero | three
  · rw [zero]; rfl
  · rw [three]; rfl

end

/-! ### Completions of the last segment -/

section
variable {s Z : State} {ports : Four Port} {units : Four UnitCounters} {health : HealthMonitor} {log : LogUnit}
  {streams : Vector StreamCounters 16} {r q : Request} {g : Segment}

/-- A part in which only one request has changed, by its flag and its completed blocks. -/
structure Touched (s Z : State) (r q : Request) (g : Segment) : Prop where
  request : q = { r with segs := q.segs, recovered := q.recovered, completed := q.completed }
  segs : q.segs = [g]
  found : Z.request? r.id = some q
  others : (Z.engine.items.filter fun i => i.id != r.id) = s.engine.items.filter fun i => i.id != r.id
  free : Z.engine.freeBuffers = s.engine.freeBuffers
  link : Z.link = s.link

theorem completes_ended (last : s.Last r g) (touched : Touched s Z r q g) (ended : Ended s Z ports units health log streams) :
    (Z.segmentEnds r.id g.id).todo = Z.todo ∧
      Ended s (Z.segmentEnds r.id g.id) ports units health log (streams.set r.stream streams[r.stream].completedOne) ∧
      s.Completes (Z.segmentEnds r.id g.id) r g .ok 0 none q.recovered := by
  obtain ⟨t, a, form⟩ := completes_last ⟨last.first, last.cancelled, last.live, last.state, last.cut⟩ touched.request touched.segs
    rfl rfl touched.found touched.others touched.free touched.link
  rw [form]
  refine ⟨rfl, ⟨ended.ports, ended.map, ended.guard, ended.mode, ended.state, ended.units, ended.health, ended.log, ?_⟩,
    ⟨a, rfl⟩, rfl⟩
  rw [← ended.streams]

/-- The counters of a stream with one more request that ended with a status. -/
def endedWith (status : Status) (c : StreamCounters) : StreamCounters :=
  if status = .mediaError then { c.completedOne with mediaErrors := min 4294967295 (c.mediaErrors + 1) } else c.completedOne

theorem fails_ended (last : s.Last r g) (touched : Touched s Z r q g) (order : (Z.engine.items.map Item.id).Pairwise (· < ·))
    (ended : Ended s Z ports units health log streams) {off : Nat} (inside : g.off ≤ off) (status : Status) :
    (Z.segmentFails r.id g.id off status).todo = Z.todo ∧
      Ended s (Z.segmentFails r.id g.id off status) ports units health log
        (streams.set r.stream (endedWith status streams[r.stream])) ∧
      s.Completes (Z.segmentFails r.id g.id off status) r g status (r.len - 512 * off)
        (if status = .mediaError then some (r.lba + off) else none) q.recovered := by
  obtain ⟨t, a, form⟩ := fails_last (s := s) (fs := status) order ⟨last.first, last.cancelled, last.live⟩ touched.request touched.segs
    rfl rfl inside touched.found touched.others touched.free touched.link
  rw [form]
  refine ⟨rfl, ⟨ended.ports, ended.map, ended.guard, ended.mode, ended.state, ended.units, ended.health, ended.log, ?_⟩,
    ⟨a, rfl⟩, rfl⟩
  rw [← ended.streams]
  rfl

/-- A part that has the items, the buffers and the link of another has its requests untouched. -/
theorem touched_same (last : s.Last r g) (engine : Z.engine = s.engine) (link : Z.link = s.link) : Touched s Z r r g where
  request := rfl
  segs := last.segs
  found := by
    unfold State.request?
    rw [engine]
    exact last.found
  others := by rw [engine]
  free := by rw [engine]
  link := link

/-- A change of the flag or of the completed blocks of the request. -/
theorem Touched.onRequest (touched : Touched s Z r q g) {change : Request → Request} (id : ∀ q, (change q).id = q.id)
    (request : change q = { q with recovered := (change q).recovered, completed := (change q).completed }) :
    Touched s (Z.onRequest r.id change) r (change q) g where
  request := by rw [request, touched.request]
  segs := by rw [request]; exact touched.segs
  found := request_onRequest touched.found id
  others := (filter_onRequest Z r.id change id).trans touched.others
  free := touched.free
  link := touched.link

theorem Touched.done (touched : Touched s Z r q g) (soft : List Nat) (off n : Nat) :
    Touched s ((Z.markRecovered r.id soft).complete r.id off n) r
      { q with recovered := q.recovered || !soft.isEmpty, completed := addRun off n q.completed } g := by
  rw [markRecovered_eq]
  exact (touched.onRequest (change := fun q => { q with recovered := q.recovered || !soft.isEmpty }) (fun _ => rfl) rfl).onRequest
    (change := fun q => { q with completed := addRun off n q.completed }) (fun _ => rfl) rfl

theorem Ended.done (ended : Ended s Z ports units health log streams) (id : Nat) (soft : List Nat) (off n : Nat) :
    Ended s ((Z.markRecovered id soft).complete id off n) ports units health log streams := by
  rw [markRecovered_eq]
  exact ⟨ended.ports, ended.map, ended.guard, ended.mode, ended.state, ended.units, ended.health, ended.log, ended.streams⟩

/-- What the request engine makes of an ended operation of a live request's segment, by the request's kind (R82). -/
def liveEnded (x : State) (r : Request) (g : Segment) (kind : OpKind) (out : OpOutcome) : State :=
  match r.kind with
  | .read => x.readEnded r g out
  | .verify => x.verifyEnded r g out
  | .write => if kind = .verify then x.afterWriteEnded r g out else x.writeEnded r g out
  | .sync => x

theorem segmentEnded_live (found : Z.request? r.id = some r) (segs : r.segs = [g]) (live : r.orphan = false) (kind : OpKind)
    (out : OpOutcome) : Z.segmentEnded r.id g.id kind out = liveEnded Z r g kind out := by
  unfold State.segmentEnded
  rw [found]
  dsimp only
  rw [segment_only segs]
  exact if_neg (ne_true_of_eq_false live)

end

theorem liveEnded_read {x : State} {r : Request} (g : Segment) (kind : OpKind) (out : OpOutcome) (read : r.kind = .read) :
    liveEnded x r g kind out = x.readEnded r g out := by
  unfold liveEnded
  rw [read]

theorem liveEnded_verify {x : State} {r : Request} (g : Segment) (kind : OpKind) (out : OpOutcome) (verify : r.kind = .verify) :
    liveEnded x r g kind out = x.verifyEnded r g out := by
  unfold liveEnded
  rw [verify]

theorem liveEnded_write {x : State} {r : Request} (g : Segment) {kind : OpKind} (out : OpOutcome) (write : r.kind = .write)
    (writes : kind = .write) : liveEnded x r g kind out = x.writeEnded r g out := by
  unfold liveEnded
  rw [write, writes]
  rfl

theorem liveEnded_afterWrite {x : State} {r : Request} (g : Segment) {kind : OpKind} (out : OpOutcome) (write : r.kind = .write)
    (verifies : kind = .verify) : liveEnded x r g kind out = x.afterWriteEnded r g out := by
  unfold liveEnded
  rw [write, verifies]
  rfl

/-- The counters of the units after the soft errors of a RESULT. -/
def softUnits (s : State) (u : Fin 4) (f : ResultFields) : Four UnitCounters :=
  s.countedAt u fun c => { c with softErrors := min 4294967295 (c.softErrors + f.soft.length) }

/-- The counters of the units after a hard error. -/
def hardUnits (s : State) (u : Fin 4) : Four UnitCounters :=
  s.countedAt u fun c => { c with hardErrors := min 4294967295 (c.hardErrors + 1) }

section
variable {s y : State} {u : Fin 4} {frame : List Byte} {f : ResultFields} {o : Outstanding} {r : Request} {g : Segment}
  {units : Four UnitCounters} {health : HealthMonitor} {events : BitVec 16} {store : StoreController} {out : OpOutcome}
  {ports : Four Port} {log : LogUnit} {streams : Vector StreamCounters 16}

theorem touched_found (last : s.Last r g) : Touched s (foundAt s u units health events store) r r g := touched_same last rfl rfl

/-- The step of a RESULT for the last segment of a live request. -/
theorem live_ends (ends : s.Ends u frame f o) (owner : o.op.owner = .segment r.id g.id) (last : s.Last r g)
    (gives : o.op.kind.gives f.outcome.toNat = true)
    (inside : f.outcome.toNat = 1 ∨ f.outcome.toNat = 2 → o.op.first ≤ f.stop.toNat ∧ f.stop.toNat < o.op.first + o.op.count)
    (outcome : outcomeOf s.nextFree o f = out)
    (found : ({ atEnd s u o.op out with todo := [.takes u] } : State) = foundAt s u units health events store)
    (back : liveEnded (foundAt s u units health events store) r g o.op.kind out = y) (todo : y.todo = [.takes u])
    (stays : (y.port u).state = (s.port u).state ∧ (y.port u).served = (s.port u).served)
    {units' : Four UnitCounters} {health' : HealthMonitor} (ended : Ended s y ports units' health' log streams) :
    ∃ x, exec (.result u frame) s = .next x ∧ Ended s x ports units' health' log streams ∧ x.link = y.link ∧ x.engine = y.engine :=
  result_ends ends owner gives inside outcome found
    ((segmentEnded_live (touched_found last).found last.segs last.live o.op.kind out).trans back) todo stays ended

theorem outside {n : BitVec 8} (done : n = 0 ∨ n = 3) {P : Prop} (ends : n.toNat = 1 ∨ n.toNat = 2) : P := by
  rcases done with zero | three
  · subst zero; exact absurd ends (by decide)
  · subst three; exact absurd ends (by decide)

theorem rested_stays (rests : y.ports = rested s u) : (y.port u).state = (s.port u).state ∧ (y.port u).served = (s.port u).served :=
  same_port rests

/-! ### READ -/

/-- A READ's segment with its data, and the recovered flag of its request. -/
theorem marked_sends (lawful : s.Lawful) (last : s.Last r g) (Y : State) (same : Y.engine = s.engine) (soft : List Nat)
    (data : List (Nat × Block)) :
    ((Y.markRecovered r.id soft).onSegment r.id g.id fun g => { g with
      phase := .sending, data := data.map fun d => (g.off + d.1, d.2) }) = { Y with engine := (s.onRequest r.id fun q => { q with
        recovered := r.recovered || !soft.isEmpty
        segs := [{ g with phase := .sending, data := data.map fun d => (g.off + d.1, d.2) }] }).engine } := by
  have items : (((s.onRequest r.id fun q => { q with recovered := q.recovered || !soft.isEmpty }).onRequest r.id fun q =>
      q.onSegment g.id fun g => { g with phase := .sending, data := data.map fun d => (g.off + d.1, d.2) }).engine.items) =
      (s.onRequest r.id fun q => { q with
        recovered := r.recovered || !soft.isEmpty
        segs := [{ g with phase := .sending, data := data.map fun d => (g.off + d.1, d.2) }] }).engine.items := by
    rw [onRequest_onRequest _ _ _ _ (by intro; rfl)]
    exact onRequest_at lawful.order last.found
      (onSegment_only (r := { r with recovered := r.recovered || !soft.isEmpty }) last.segs _)
  rw [markRecovered_eq, onSegment_eq]
  refine congrArg (fun e : RequestEngine => ({ Y with engine := e } : State)) ?_
  show ({ Y.engine with items := (Y.engine.items.map _).map _ } : RequestEngine) = _
  rw [same]
  exact congrArg (fun l => ({ s.engine with items := l } : RequestEngine)) items

/-- A READ that is DONE with all its data has its segment SENDING (R56). -/
theorem read_done (ends : s.Ends u frame f o) (owner : o.op.owner = .segment r.id g.id) (last : s.LastAt r g o.op)
    (kind : o.op.kind = r.kind.op) {block : Nat → Block} (read : r.kind = .read) (zero : f.outcome = 0)
    (all : ∀ i < g.count, (o.arrived.find? fun d => d.1 == i) = some (i, block i)) :
    ∃ x, exec (.result u frame) s = .next x ∧ Ended s x (rested s u) (softUnits s u f)
        (scoredHealth s u (softUnits s u f) o.op (.done f.soft ((List.range g.count).map fun i => (i, block i)) 0)) s.log
        s.counters.streams ∧
      x.link = s.link ∧
      x.engine = (s.onRequest r.id fun q => { q with
        recovered := r.recovered || !f.soft.isEmpty
        segs := [{ g with phase := .sending, data := (List.range g.count).map fun i => (g.off + i, block i) }] }).engine := by
  have reads : o.op.kind = .read := by rw [kind, read]; rfl
  have outcome := outcomeOf_read (f := f) (o := o) (block := block) s.nextFree zero reads (by rw [last.extent.2]; exact all)
  rw [last.extent.2] at outcome
  obtain ⟨e, st, -, found⟩ := found_counted (u := u) (units := softUnits s u f) ends.loaded o.op
    (out := .done f.soft ((List.range g.count).map fun i => (i, block i)) 0) rfl
  generalize scoredHealth s u (softUnits s u f) o.op _ = hl at found ⊢
  obtain ⟨x, step, ended, link, engine⟩ := live_ends ends owner last.toLast (outcome_gives _ (.inl zero)) (outside (.inl zero)) outcome
    found ((liveEnded_read g _ _ read).trans (marked_sends ends.lawful last.toLast (foundAt s u _ hl e st) rfl f.soft _)) rfl
    (rested_stays rfl) ((foundAt_ended s u (softUnits s u f) hl e st).withEngine _)
  refine ⟨x, step, ended, link, engine.trans ?_⟩
  simp only [List.map_map]
  rfl

/-! ### Hard errors -/

theorem hard_gives {kind : OpKind} (one : f.outcome = 1) (reads : kind = .read ∨ kind = .verify) :
    kind.gives f.outcome.toNat = true := by
  rw [one]
  rcases reads with read | verify
  · rw [read]; rfl
  · rw [verify]; rfl

theorem op_reads {k : ReqKind} {kind : OpKind} (same : kind = k.op) (reads : k = .read ∨ k = .verify) :
    kind = .read ∨ kind = .verify := by
  rcases reads with read | verify
  · exact .inl (by rw [same, read]; rfl)
  · exact .inr (by rw [same, verify]; rfl)

/-- The entry of a failure of a request. -/
structure Logs (s : State) (u : Fin 4) (r : Request) (kind : LogKind) (block off : Nat) (e : LogEntry) : Prop where
  kind : e.kind = kind
  unit : e.unit = u
  block : e.block = some ⟨u, block⟩
  logical : e.logical = some (r.lba + off)
  item : e.item = some r.record.record
  mode : e.mode = s.modes.mode

/-- After the load a failure of a request is written at once (R194). -/
theorem logRequest_writes {Y : State} (loaded : Y.store.load = none) (ended : Ended s Y ports units health s.log streams) (r : Request)
    (kind : LogKind) (u : Fin 4) (block off : Nat) : ∃ e st l, Y.logRequest r kind u block off =
      { Y with log := s.log.write l, mgmt := { Y.mgmt with events := e }, store := st } ∧ Logs s u r kind block off l := by
  obtain ⟨e, st, form⟩ := report_loaded loaded { kind := kind, unit := u, block := some block, logical := some (r.lba + off)
                                                 item := some r.record, ofSave := false }
  rw [ended.log] at form
  exact ⟨e, st, _, form, rfl, rfl, rfl, rfl, rfl, ended.mode⟩

/-- The engine with a segment cut down to its first blocks. -/
def cutDown (s : State) (r : Request) (g : Segment) (k off : Nat) (status : Status) (data : List (Nat × Block)) : RequestEngine :=
  { items := (s.onRequest r.id fun q => { q with
      first := some ⟨off, status⟩, state := .draining
      segs := [{ g with phase := .sending, count := k, buffers := min k g.buffers, data := data }] }).engine.items
    freeBuffers := s.engine.freeBuffers + (g.buffers - min k g.buffers) }

/-- A READ that fails behind good blocks sends those (R61, R64). -/
theorem cut_sends (lawful : s.Lawful) (last : s.Last r g) {Y : State} (same : Y.engine = s.engine) (k : Nat) {off : Nat}
    (inside : g.off ≤ off) (status : Status) (data : List (Nat × Block)) :
    (((Y.takeFailure r.id off status).trimBack r.id g k).onSegment r.id g.id fun g => { g with
      phase := .sending, data := data.map fun d => (g.off + d.1, d.2) }) =
      { Y with engine := cutDown s r g k off status (data.map fun d => (g.off + d.1, d.2)) } := by
  have listed : Y.request? r.id = some r := by
    unfold State.request?
    rw [same]
    exact last.found
  have fails := takeFailure_kept (s := Y) (off := off) (st := status) (by rw [same]; exact lawful.order) listed last.cancelled last.live
    last.first (by rw [last.segs]; intro x mem _; rw [List.mem_singleton.mp mem]; exact inside)
  have failed := request_onRequest (f := fun q => { q with first := some ⟨off, status⟩, state := .draining }) listed fun _ => rfl
  have kept : (r.segs.map fun x => if x.id == g.id then x.keepFront k else x) = [g.keepFront k] := by simp [last.segs]
  have held : heldBy r.segs = g.buffers := by rw [last.segs, heldBy_one]
  have left : heldBy [g.keepFront k] = min k g.buffers := heldBy_one _
  have trim := resegment_at (f := fun l => l.map fun x => if x.id == g.id then x.keepFront k else x) failed
    (by rw [kept, left, held]; omega)
  rw [kept, held, left] at trim
  have items : (((s.onRequest r.id fun q => { q with first := some ⟨off, status⟩, state := .draining }).onRequest r.id fun q =>
      { q with segs := [g.keepFront k] }).onRequest r.id fun q => q.onSegment g.id fun g =>
        { g with phase := .sending, data := data.map fun d => (g.off + d.1, d.2) }).engine.items =
      (cutDown s r g k off status (data.map fun d => (g.off + d.1, d.2))).items := by
    rw [onRequest_onRequest _ _ _ _ (by intro; rfl), onRequest_onRequest _ _ _ _ (by intro; rfl)]
    refine onRequest_at lawful.order last.found ?_
    simp [Request.onSegment, Segment.keepFront]
  have free : Y.engine.freeBuffers + g.buffers - min k g.buffers = s.engine.freeBuffers + (g.buffers - min k g.buffers) := by
    rw [same]
    omega
  rw [fails]
  refine (congrArg (fun x : State => x.onSegment r.id g.id fun g => { g with
    phase := .sending, data := data.map fun d => (g.off + d.1, d.2) }) trim).trans ?_
  refine congrArg (fun e : RequestEngine => ({ Y with engine := e } : State)) ?_
  show ({ items := ((Y.engine.items.map _).map _).map _, freeBuffers := Y.engine.freeBuffers + g.buffers - min k g.buffers } :
    RequestEngine) = _
  rw [free, same]
  exact congrArg (RequestEngine.mk · _) items

theorem readEnded_hard {Y : State} {stop k : Nat} (past : stop - g.first = k) (positive : 0 < k) (data : List (Nat × Block)) :
    Y.readEnded r g (.hardRead stop data) =
      (((Y.logRequest r .mediaHard g.unit stop (g.off + k)).takeFailure r.id (g.off + k) .mediaError).trimBack r.id g k).onSegment
        r.id g.id fun g => { g with phase := .sending, data := data.map fun d => (g.off + d.1, d.2) } := by
  unfold State.readEnded
  dsimp only
  rw [past]
  exact if_neg (Nat.ne_of_gt positive)

theorem readEnded_hardFirst {Y : State} {stop : Nat} (past : stop - g.first = 0) (data : List (Nat × Block)) :
    Y.readEnded r g (.hardRead stop data) =
      (Y.logRequest r .mediaHard g.unit stop g.off).segmentFails r.id g.id g.off .mediaError := by
  unfold State.readEnded
  dsimp only
  rw [past]
  rfl

/-- A READ that ends HARD behind good blocks sends those, and its request drains (R61, R64). -/
theorem read_hard (ends : s.Ends u frame f o) (owner : o.op.owner = .segment r.id g.id) (last : s.LastAt r g o.op)
    (unit : g.unit = u) (kind : o.op.kind = r.kind.op) {k : Nat} (read : r.kind = .read) (one : f.outcome = 1)
    (stop : f.stop.toNat = g.first + k) (short : k < g.count) (positive : 0 < k) :
    ∃ x l hl, exec (.result u frame) s = .next x ∧ Logs s u r .mediaHard (g.first + k) (g.off + k) l ∧
      Ended s x (rested s u) (hardUnits s u) hl (s.log.write l) s.counters.streams ∧ x.link = s.link ∧
      ∃ data, x.engine = cutDown s r g k (g.off + k) .mediaError data := by
  obtain ⟨data, outcome⟩ := outcomeOf_hard (f := f) (o := o) s.nextFree one
  obtain ⟨e, st, loaded, found⟩ := found_counted (u := u) (units := hardUnits s u) ends.loaded o.op
    (out := .hardRead f.stop.toNat data) rfl
  generalize scoredHealth s u (hardUnits s u) o.op _ = hl at found
  have past : f.stop.toNat - g.first = k := by omega
  have start := foundAt_ended s u (hardUnits s u) hl e st
  obtain ⟨e', st', l, logs, entry⟩ := logRequest_writes (Y := foundAt s u (hardUnits s u) hl e st) loaded start r .mediaHard g.unit
    f.stop.toNat (g.off + k)
  have back : liveEnded (foundAt s u (hardUnits s u) hl e st) r g o.op.kind (.hardRead f.stop.toNat data) = _ :=
    (liveEnded_read g _ _ read).trans ((readEnded_hard past positive data).trans
      ((congrArg (fun Y : State => ((Y.takeFailure r.id (g.off + k) .mediaError).trimBack r.id g k).onSegment r.id g.id fun g => { g with
        phase := .sending, data := data.map fun d => (g.off + d.1, d.2) }) logs).trans
        (cut_sends ends.lawful last.toLast (by exact rfl) k (Nat.le_add_right _ _) .mediaError data)))
  obtain ⟨x, step, ended, link, engine⟩ := live_ends ends owner last.toLast
    (hard_gives one (op_reads kind (.inl read))) (fun _ => by rw [last.extent.1, last.extent.2]; omega) outcome found back (by exact rfl)
    (rested_stays (by exact rfl)) (ports := rested s u) (units' := hardUnits s u) (health' := hl) (log := s.log.write l)
    (streams := s.counters.streams) ⟨rfl, rfl, rfl, rfl, rfl, rfl, rfl, rfl, rfl⟩
  subst unit
  rw [stop] at entry
  exact ⟨x, l, hl, step, entry, ended, link, _, engine⟩

theorem onRequest_sorted {Y : State} (order : (Y.engine.items.map Item.id).Pairwise (· < ·)) (id : Nat) {change : Request → Request}
    (same : ∀ q, (change q).id = q.id) : ((Y.onRequest id change).engine.items.map Item.id).Pairwise (· < ·) :=
  RequestEnds.onRequest_order order id same

/-- What fails a READ or a VERIFY that ends HARD with nothing to send: the blocks before the hard one are completed for a VERIFY. -/
theorem hard_back {Y : State} (same : Y.engine = s.engine) (link : Y.link = s.link) (lawful : s.Lawful) (last : s.Last r g)
    (ended : Ended s Y ports units health log streams) {k : Nat} (reads : r.kind = .read ∧ k = 0 ∨ r.kind = .verify) :
    ∃ Z q, (if r.kind = .verify then Y.complete r.id g.off k else Y) = Z ∧ Touched s Z r q g ∧ q.recovered = r.recovered ∧
      (Z.engine.items.map Item.id).Pairwise (· < ·) ∧ Ended s Z ports units health log streams ∧ Z.todo = Y.todo := by
  have touched := touched_same last same link
  have order : (Y.engine.items.map Item.id).Pairwise (· < ·) := by rw [same]; exact lawful.order
  rcases reads with ⟨read, -⟩ | verify
  · exact ⟨Y, r, if_neg (by rw [read]; decide), touched, rfl, order, ended, rfl⟩
  · exact ⟨_, _, if_pos verify, touched.onRequest (change := fun q => { q with completed := addRun g.off k q.completed })
      (fun _ => rfl) rfl, rfl, onRequest_sorted order r.id fun _ => rfl, ended.withEngine _, rfl⟩

theorem liveEnded_hard {Y : State} {stop k : Nat} (past : stop - g.first = k) (data : List (Nat × Block)) (kind : OpKind)
    (reads : r.kind = .read ∧ k = 0 ∨ r.kind = .verify) : liveEnded Y r g kind (.hardRead stop data) =
      State.segmentFails (if r.kind = .verify then (Y.logRequest r .mediaHard g.unit stop (g.off + k)).complete r.id g.off k
        else Y.logRequest r .mediaHard g.unit stop (g.off + k)) r.id g.id (g.off + k) .mediaError := by
  rcases reads with ⟨read, zero⟩ | verify
  · subst zero
    rw [liveEnded_read g _ _ read, readEnded_hardFirst past, if_neg (by rw [read]; decide), Nat.add_zero]
  · rw [liveEnded_verify g _ _ verify, if_pos verify]
    unfold State.verifyEnded
    dsimp only
    rw [past]

/-- A READ or a VERIFY that ends HARD with nothing to send completes MEDIA_ERROR at the block (R61, R65). -/
theorem hard_fails (ends : s.Ends u frame f o) (owner : o.op.owner = .segment r.id g.id) (last : s.LastAt r g o.op)
    (unit : g.unit = u) (kind : o.op.kind = r.kind.op) {k : Nat} (reads : r.kind = .read ∧ k = 0 ∨ r.kind = .verify)
    (one : f.outcome = 1) (stop : f.stop.toNat = g.first + k) (short : k < g.count) :
    ∃ x l hl, exec (.result u frame) s = .next x ∧ Logs s u r .mediaHard (g.first + k) (g.off + k) l ∧
      Ended s x (rested s u) (hardUnits s u) hl (s.log.write l)
        (s.counters.streams.set r.stream (endedWith .mediaError s.counters.streams[r.stream])) ∧
      s.Completes x r g .mediaError (r.len - 512 * (g.off + k)) (some (r.lba + (g.off + k))) r.recovered := by
  obtain ⟨data, outcome⟩ := outcomeOf_hard (f := f) (o := o) s.nextFree one
  obtain ⟨e, st, loaded, found⟩ := found_counted (u := u) (units := hardUnits s u) ends.loaded o.op
    (out := .hardRead f.stop.toNat data) rfl
  generalize scoredHealth s u (hardUnits s u) o.op _ = hl at found
  have past : f.stop.toNat - g.first = k := by omega
  have start := foundAt_ended s u (hardUnits s u) hl e st
  obtain ⟨e', st', l, logs, entry⟩ := logRequest_writes (Y := foundAt s u (hardUnits s u) hl e st) loaded start r .mediaHard g.unit
    f.stop.toNat (g.off + k)
  have back := liveEnded_hard (Y := foundAt s u (hardUnits s u) hl e st) past data o.op.kind reads
  rw [logs] at back
  obtain ⟨Z, q, form, touched, recovered, order, ended, todo⟩ := hard_back (s := s) (r := r) (g := g) (ports := rested s u)
    (units := hardUnits s u) (health := hl) (log := s.log.write l) (streams := s.counters.streams) (k := k)
    (Y := { foundAt s u (hardUnits s u) hl e st with
      log := s.log.write l, mgmt := { (foundAt s u (hardUnits s u) hl e st).mgmt with events := e' }, store := st' })
    rfl rfl ends.lawful last.toLast ⟨rfl, rfl, rfl, rfl, rfl, rfl, rfl, rfl, rfl⟩ reads
  rw [form] at back
  obtain ⟨left, done, link, engine⟩ := fails_ended last.toLast touched order ended (Nat.le_add_right g.off k) .mediaError
  have anyReads : r.kind = .read ∨ r.kind = .verify := reads.imp And.left id
  obtain ⟨x, step, ended, xlink, xengine⟩ := live_ends ends owner last.toLast (hard_gives one (op_reads kind anyReads))
    (fun _ => by rw [last.extent.1, last.extent.2]; omega) outcome found back (left.trans todo) (rested_stays done.ports) done
  subst unit
  rw [stop] at entry
  rw [recovered] at link
  exact ⟨x, l, hl, step, entry, ended, ⟨by rw [xlink]; exact link, by rw [xengine]; exact engine⟩⟩

/-! ### DONE -/

/-- A VERIFY that is DONE, or that of a WRITE without a fallback, completes its request OK (R57, R63). -/
theorem verify_done (ends : s.Ends u frame f o) (owner : o.op.owner = .segment r.id g.id) (last : s.LastAt r g o.op)
    (verifies : o.op.kind = .verify) (kind : r.kind = .verify ∨ (r.kind = .write ∧ g.fallback = false)) (zero : f.outcome = 0) :
    ∃ x, exec (.result u frame) s = .next x ∧ Ended s x (rested s u) (softUnits s u f)
        (scoredHealth s u (softUnits s u f) o.op (.done f.soft [] f.capacity)) s.log
        (s.counters.streams.set r.stream s.counters.streams[r.stream].completedOne) ∧
      s.Completes x r g .ok 0 none (r.recovered || !f.soft.isEmpty) := by
  have outcome := outcomeOf_done (f := f) (o := o) s.nextFree zero (by rw [verifies]; decide)
  obtain ⟨e, st, -, found⟩ := found_counted (u := u) (units := softUnits s u f) ends.loaded o.op
    (out := .done f.soft [] f.capacity) rfl
  generalize scoredHealth s u (softUnits s u f) o.op _ = hl at found ⊢
  have back : liveEnded (foundAt s u (softUnits s u f) hl e st) r g o.op.kind (.done f.soft [] f.capacity) =
      (((foundAt s u (softUnits s u f) hl e st).markRecovered r.id f.soft).complete r.id g.off g.count).segmentEnds r.id g.id := by
    rcases kind with verify | ⟨write, direct⟩
    · rw [liveEnded_verify g _ _ verify]
      rfl
    · rw [liveEnded_afterWrite g _ write verifies]
      unfold State.afterWriteEnded
      dsimp only
      rw [direct]
      rfl
  have touched := (touched_found (u := u) (units := softUnits s u f) (health := hl) (events := e) (store := st) last.toLast).done
    f.soft g.off g.count
  have marked := (foundAt_ended s u (softUnits s u f) hl e st).done r.id f.soft g.off g.count
  obtain ⟨left, done, link, engine⟩ := completes_ended last.toLast touched marked
  have todo : (((foundAt s u (softUnits s u f) hl e st).markRecovered r.id f.soft).complete r.id g.off g.count).todo = [.takes u] := by
    rw [markRecovered_eq]
    rfl
  obtain ⟨x, step, ended, xlink, xengine⟩ := live_ends ends owner last.toLast (outcome_gives _ (.inl zero)) (outside (.inl zero))
    outcome found back (left.trans todo) (rested_stays done.ports) done
  exact ⟨x, step, ended, ⟨by rw [xlink]; exact link, by rw [xengine]; exact engine⟩⟩

/-- The counters of a stream with more blocks written. -/
def written (n : Nat) (c : StreamCounters) : StreamCounters := { c with blocksWritten := min 4294967295 (c.blocksWritten + n) }

theorem write_silent {op : Op} (writes : op.kind = .write) (u : Fin 4) : op.reported u = false := by
  unfold Op.reported
  rw [writes]
  rfl

/-- The part once the blocks of a WRITE are counted. -/
def writtenAt (s : State) (u : Fin 4) (units : Four UnitCounters) (r : Request) (n : Nat) : State :=
  (foundAt s u units s.health s.mgmt.events s.store).countBlocksWritten r.stream n

theorem written_ended (s : State) (u : Fin 4) (units : Four UnitCounters) (r : Request) (n : Nat) :
    Ended s (writtenAt s u units r n) (rested s u) units s.health s.log
      (s.counters.streams.set r.stream (written n s.counters.streams[r.stream])) :=
  ⟨rfl, rfl, rfl, rfl, rfl, rfl, rfl, rfl, rfl⟩

theorem markRecovered_written (Y : State) (r : Request) (soft : List Nat) (n : Nat) :
    (Y.markRecovered r.id soft).countBlocksWritten r.stream n = (Y.countBlocksWritten r.stream n).markRecovered r.id soft := by
  rw [markRecovered_eq, markRecovered_eq]
  rfl

/-- A WRITE that is DONE completes its request OK (R61). -/
theorem write_done (ends : s.Ends u frame f o) (owner : o.op.owner = .segment r.id g.id) (last : s.LastAt r g o.op)
    (writes : o.op.kind = .write) (write : r.kind = .write) (direct : g.fallback = false) (noVerify : r.verifyAfter = false)
    (zero : f.outcome = 0) :
    ∃ x, exec (.result u frame) s = .next x ∧ Ended s x (rested s u) (softUnits s u f) s.health s.log
        (s.counters.streams.set r.stream (written g.count s.counters.streams[r.stream]).completedOne) ∧
      s.Completes x r g .ok 0 none (r.recovered || !f.soft.isEmpty) := by
  have outcome := outcomeOf_done (f := f) (o := o) s.nextFree zero (by rw [writes]; decide)
  have found := found_silent (s := s) (u := u) o.op (out := .done f.soft [] f.capacity) (units := softUnits s u f)
    (.inl (write_silent writes u)) rfl
  have back : liveEnded (foundAt s u (softUnits s u f) s.health s.mgmt.events s.store) r g o.op.kind (.done f.soft [] f.capacity) =
      (((writtenAt s u (softUnits s u f) r g.count).markRecovered r.id f.soft).complete r.id g.off g.count).segmentEnds r.id g.id := by
    rw [liveEnded_write g _ write writes]
    unfold State.writeEnded
    dsimp only
    rw [noVerify, direct, markRecovered_written]
    rfl
  have touched := (touched_same (Z := writtenAt s u (softUnits s u f) r g.count) last.toLast rfl rfl).done f.soft g.off g.count
  have marked := (written_ended s u (softUnits s u f) r g.count).done r.id f.soft g.off g.count
  obtain ⟨left, done, link, engine⟩ := completes_ended last.toLast touched marked
  rw [streams_twice _ _ (written g.count) (k := StreamCounters.completedOne)] at done
  have todo : (((writtenAt s u (softUnits s u f) r g.count).markRecovered r.id f.soft).complete r.id g.off g.count).todo = [.takes u] := by
    rw [markRecovered_eq]
    rfl
  obtain ⟨x, step, ended, xlink, xengine⟩ := live_ends ends owner last.toLast (outcome_gives _ (.inl zero)) (outside (.inl zero))
    outcome found back (left.trans todo) (rested_stays done.ports) done
  exact ⟨x, step, ended, ⟨by rw [xlink]; exact link, by rw [xengine]; exact engine⟩⟩

/-! ### NOT_READY -/

theorem liveEnded_notReady {Y : State} (noSync : r.kind ≠ .sync) (kind : OpKind) :
    liveEnded Y r g kind .notReady = Y.segmentFails r.id g.id g.off .unitUnavailable := by
  unfold liveEnded
  cases named : r.kind with
  | read => rfl
  | verify => rfl
  | write =>
    dsimp only
    split <;> rfl
  | sync => exact absurd named noSync

/-- NOT_READY completes the request UNIT_UNAVAILABLE (R61). -/
theorem notReady_fails (ends : s.Ends u frame f o) (owner : o.op.owner = .segment r.id g.id) (last : s.LastAt r g o.op)
    (noSync : r.kind ≠ .sync) (missing : f.outcome = 3 ∨
      (f.outcome = 0 ∧ o.op.kind = .read ∧ ∃ i < o.op.count, ∀ d ∈ o.arrived, d.1 ≠ i)) :
    ∃ x, exec (.result u frame) s = .next x ∧ Ended s x (rested s u) s.counters.units s.health s.log
        (s.counters.streams.set r.stream s.counters.streams[r.stream].completedOne) ∧
      s.Completes x r g .unitUnavailable (r.len - 512 * g.off) none r.recovered := by
  have outcome := outcomeOf_notReady s.nextFree missing
  have done : f.outcome = 0 ∨ f.outcome = 3 := missing.elim .inr fun zero => .inl zero.1
  have found := found_silent (s := s) (u := u) o.op (out := .notReady) (units := s.counters.units) (.inr rfl) rfl
  have touched := touched_found (u := u) (units := s.counters.units) (health := s.health) (events := s.mgmt.events) (store := s.store)
    last.toLast
  obtain ⟨left, fails, link, engine⟩ := fails_ended last.toLast touched (by exact ends.lawful.order)
    (foundAt_ended s u s.counters.units s.health s.mgmt.events s.store) (Nat.le_refl g.off) .unitUnavailable
  obtain ⟨x, step, ended, xlink, xengine⟩ := live_ends ends owner last.toLast (outcome_gives _ done) (outside done)
    outcome found (liveEnded_notReady noSync _) left (rested_stays fails.ports) fails
  exact ⟨x, step, ended, ⟨by rw [xlink]; exact link, by rw [xengine]; exact engine⟩⟩

/-! ### The VERIFY of verify-after-write -/

/-- The VERIFY of a written segment is offered at a port that rests, and sent (R63). -/
theorem offerVerify_sends {Y : State} {q : Request} (found : Y.request? q.id = some q) (segment : q.segment? g.id = some g)
    (serves : (Y.port g.unit).state.serves = true) (rests : (Y.port g.unit).Rests) (place : (Y.port g.unit).attachPlace = none) :
    Y.offerVerify q.id g.id = { Y with
      nextId := Y.nextId + 1, counters := opCounted Y g.unit
      ports := Y.ports.set g.unit (Y.sendsFirst (Y.port g.unit) (mkOp .verify g.first g.count (.segment q.id g.id) Y.nextId []))
      engine := (Y.onSegment q.id g.id fun g => { g with phase := .verifying }).engine } := by
  unfold State.offerVerify
  rw [found]
  dsimp only [Option.bind]
  rw [segment]
  dsimp only
  rw [offer_sends serves rests place]
  rfl

/-- The port of an operation that has ended rests. -/
theorem ended_rests (ends : s.Ends u frame f o) : Port.Rests { s.port u with slots := Four.all none } :=
  ⟨rfl, ends.queue, ends.scan, ends.store⟩

/-- A WRITE that is DONE has its VERIFY sent where it is to be verified (R63). -/
theorem write_verifies (ends : s.Ends u frame f o) (owner : o.op.owner = .segment r.id g.id) (last : s.LastAt r g o.op)
    (unit : g.unit = u) (writes : o.op.kind = .write) (write : r.kind = .write) (verify : r.verifyAfter = true) (zero : f.outcome = 0) :
    ∃ x units, exec (.result u frame) s = .next x ∧
      Ended s x (s.ports.set u (s.sendsFirst { s.port u with slots := Four.all none }
          (mkOp .verify g.first g.count (.segment r.id g.id) s.nextId []))) units s.health s.log
        (s.counters.streams.set r.stream (written g.count s.counters.streams[r.stream])) ∧
      x.link = s.link ∧ x.engine = (s.onRequest r.id fun q => { q with
        recovered := r.recovered || !f.soft.isEmpty, segs := [{ g with phase := .verifying }] }).engine := by
  subst unit
  have outcome := outcomeOf_done (f := f) (o := o) s.nextFree zero (by rw [writes]; decide)
  have found := found_silent (s := s) (u := g.unit) o.op (out := .done f.soft [] f.capacity) (units := softUnits s g.unit f)
    (.inl (write_silent writes g.unit)) rfl
  have back : liveEnded (foundAt s g.unit (softUnits s g.unit f) s.health s.mgmt.events s.store) r g o.op.kind
      (.done f.soft [] f.capacity) =
      ((writtenAt s g.unit (softUnits s g.unit f) r g.count).markRecovered r.id f.soft).offerVerify r.id g.id := by
    rw [liveEnded_write g _ write writes]
    unfold State.writeEnded
    dsimp only
    rw [verify, markRecovered_written]
    rfl
  rw [markRecovered_eq] at back
  have finds : Finds s ((writtenAt s g.unit (softUnits s g.unit f) r g.count).onRequest r.id fun q =>
      { q with recovered := q.recovered || !f.soft.isEmpty }) g.unit { s.port g.unit with slots := Four.all none } :=
    ⟨rfl, rfl, rfl, rfl, rfl, ends.serves, ended_rests ends, ends.attach⟩
  have touched := (touched_same (Z := writtenAt s g.unit (softUnits s g.unit f) r g.count) last.toLast rfl rfl).onRequest
    (change := fun q => { q with recovered := q.recovered || !f.soft.isEmpty }) (fun _ => rfl) rfl
  have sends := offerVerify_sends (q := { r with recovered := r.recovered || !f.soft.isEmpty }) touched.found
    (segment_only last.segs) (by rw [finds.port]; exact ends.serves) (by rw [finds.port]; exact finds.rests) (by rw [finds.port]; exact ends.attach)
  have engine : (((writtenAt s g.unit (softUnits s g.unit f) r g.count).onRequest r.id fun q =>
      { q with recovered := q.recovered || !f.soft.isEmpty }).onSegment r.id g.id fun g => { g with phase := .verifying }).engine =
      (s.onRequest r.id fun q => { q with
        recovered := r.recovered || !f.soft.isEmpty, segs := [{ g with phase := .verifying }] }).engine := by
    have items : ((s.onRequest r.id fun q => { q with recovered := q.recovered || !f.soft.isEmpty }).onRequest r.id fun q =>
        q.onSegment g.id fun g => { g with phase := .verifying }).engine.items = (s.onRequest r.id fun q => { q with
          recovered := r.recovered || !f.soft.isEmpty, segs := [{ g with phase := .verifying }] }).engine.items := by
      rw [onRequest_onRequest _ _ _ _ (by intro; rfl)]
      exact onRequest_at ends.lawful.order last.found
        (onSegment_only (r := { r with recovered := r.recovered || !f.soft.isEmpty }) last.segs _)
    exact congrArg (fun l => ({ s.engine with items := l } : RequestEngine)) items
  have ports := finds.sends (mkOp .verify g.first g.count (.segment r.id g.id) s.nextId [])
  obtain ⟨x, step, ended, link, xengine⟩ := live_ends ends owner last.toLast (outcome_gives _ (.inl zero)) (outside (.inl zero))
    outcome found (back.trans sends) (by exact rfl) (sent_port (x := s) (by exact ports))
    (ports := s.ports.set g.unit (s.sendsFirst { s.port g.unit with slots := Four.all none }
      (mkOp .verify g.first g.count (.segment r.id g.id) s.nextId [])))
    (units' := (opCounted (writtenAt s g.unit (softUnits s g.unit f) r g.count) g.unit).units) (health' := s.health) (log := s.log)
    (streams := s.counters.streams.set r.stream (written g.count s.counters.streams[r.stream]))
    ⟨ports, rfl, rfl, rfl, rfl, rfl, rfl, rfl, rfl⟩
  exact ⟨x, _, step, ended, link, xengine.trans engine⟩

/-! ### Orphans -/

/-- The last segment of an orphan leaves with its buffers, and the orphan with it (R68). -/
theorem orphanSegmentEnds_last {Y : State} {q : Request} (found : Y.request? q.id = some q) (segs : q.segs = [g])
    (orphan : q.orphan = true) : ∃ t, Y.orphanSegmentEnds q.id g.id = { Y with
      engine := { items := Y.engine.items.filter fun i => i.id != q.id, freeBuffers := Y.engine.freeBuffers + g.buffers }
      scan := { Y.scan with quietTimer := t } } := by
  have left : (Y.releaseSegment q.id g.id).request? q.id = some { q with segs := [] } := by
    rw [releaseSegment_last found segs]
    exact request_onRequest (s := Y) (f := fun q => { q with segs := [] }) found fun _ => rfl
  obtain ⟨t, removed⟩ := removeItem_eq (Y.releaseSegment q.id g.id) q.id
  refine ⟨t, ?_⟩
  unfold State.orphanSegmentEnds
  dsimp only
  rw [left]
  refine (if_pos (by simp [orphan])).trans (removed.trans ?_)
  rw [releaseSegment_last found segs]
  exact congrArg (fun l => ({ Y with
    engine := { items := l, freeBuffers := Y.engine.freeBuffers + g.buffers }, scan := { Y.scan with quietTimer := t } } : State))
    (filter_map_onRequest fun _ => rfl)

theorem orphanDone_counts {Y : State} (direct : g.fallback = false) (kind : OpKind) :
    Y.orphanDone r g kind = if kind = .write then Y.countBlocksWritten r.stream g.count else Y := by
  unfold State.orphanDone
  dsimp only
  rw [direct]
  exact if_neg Bool.false_ne_true

theorem segmentEnded_orphan {Y : State} (found : Y.request? r.id = some r) (segs : r.segs = [g]) (orphan : r.orphan = true)
    (kind : OpKind) (out : OpOutcome) : Y.segmentEnded r.id g.id kind out = Y.orphanEnded r g kind out := by
  unfold State.segmentEnded
  rw [found]
  dsimp only
  rw [segment_only segs]
  exact if_pos orphan

theorem outcomeOf_ends (free : Nat) (done : f.outcome = 0 ∨ f.outcome = 3) :
    (∃ soft data capacity, outcomeOf free o f = .done soft data capacity) ∨ outcomeOf free o f = .notReady := by
  unfold outcomeOf
  rcases done with zero | three
  · rw [zero]
    by_cases read : o.op.kind = .read
    · cases all : allArrived o.op.count o.arrived with
      | true => exact .inl ⟨_, _, _, (if_pos read).trans (if_pos rfl)⟩
      | false => exact .inr ((if_pos read).trans (if_neg Bool.false_ne_true))
    · exact .inl ⟨_, _, _, if_neg read⟩
  · rw [three]
    exact .inr rfl

/-- Of an orphan's operation no frame is sent (R68). -/
theorem orphan_leaves (ends : s.Ends u frame f o) (owner : o.op.owner = .segment r.id g.id) (found : s.request? r.id = some r)
    (orphan : r.orphan = true) (segs : r.segs = [g]) (direct : g.fallback = false) (done : f.outcome = 0 ∨ f.outcome = 3) :
    ∃ x units health streams, exec (.result u frame) s = .next x ∧ Ended s x (rested s u) units health s.log streams ∧
      x.link = s.link ∧
      x.engine = { items := s.engine.items.filter fun i => i.id != r.id, freeBuffers := s.engine.freeBuffers + g.buffers } := by
  have leaves : ∀ (W : State) (units health streams), W.engine = s.engine → W.link = s.link → W.todo = [.takes u] →
      Ended s W (rested s u) units health s.log streams → ∃ y, W.orphanSegmentEnds r.id g.id = y ∧ y.todo = [.takes u] ∧
        Ended s y (rested s u) units health s.log streams ∧ y.link = s.link ∧
        y.engine = { items := s.engine.items.filter fun i => i.id != r.id, freeBuffers := s.engine.freeBuffers + g.buffers } := by
    intro W units health streams engine link todo ended
    have listed : W.request? r.id = some r := by
      unfold State.request?
      rw [engine]
      exact found
    obtain ⟨t, form⟩ := orphanSegmentEnds_last listed segs orphan
    rw [engine] at form
    exact ⟨_, form, todo, ⟨ended.ports, ended.map, ended.guard, ended.mode, ended.state, ended.units, ended.health, ended.log,
      ended.streams⟩, link, rfl⟩
  rcases outcomeOf_ends (o := o) s.nextFree done with ⟨soft, data, capacity, outcome⟩ | outcome
  · obtain ⟨e, st, -, at_⟩ := found_counted (u := u) (units := s.countedAt u fun c => { c with
      softErrors := min 4294967295 (c.softErrors + soft.length) }) ends.loaded o.op (out := .done soft data capacity) rfl
    generalize s.countedAt u _ = units at at_
    generalize scoredHealth s u units o.op _ = hl at at_
    have back : (foundAt s u units hl e st).segmentEnded r.id g.id o.op.kind (.done soft data capacity) =
        State.orphanSegmentEnds (if o.op.kind = .write then (foundAt s u units hl e st).countBlocksWritten r.stream g.count
          else foundAt s u units hl e st) r.id g.id :=
      (segmentEnded_orphan (by exact found) segs orphan _ _).trans
        (congrArg (fun x : State => x.orphanSegmentEnds r.id g.id) (orphanDone_counts direct o.op.kind))
    by_cases writes : o.op.kind = .write
    · rw [if_pos writes] at back
      obtain ⟨y, form, todo, ended, link, engine⟩ := leaves ((foundAt s u units hl e st).countBlocksWritten r.stream g.count) units hl
        _ rfl rfl rfl ⟨rfl, rfl, rfl, rfl, rfl, rfl, rfl, rfl, rfl⟩
      obtain ⟨x, step, xended, xlink, xengine⟩ := result_ends ends owner (outcome_gives _ done) (outside done) outcome at_
        (back.trans form) todo (rested_stays ended.ports) ended
      exact ⟨x, _, _, _, step, xended, xlink.trans link, xengine.trans engine⟩
    · rw [if_neg writes] at back
      obtain ⟨y, form, todo, ended, link, engine⟩ := leaves (foundAt s u units hl e st) units hl _ rfl rfl rfl
        (foundAt_ended s u units hl e st)
      obtain ⟨x, step, xended, xlink, xengine⟩ := result_ends ends owner (outcome_gives _ done) (outside done) outcome at_
        (back.trans form) todo (rested_stays ended.ports) ended
      exact ⟨x, _, _, _, step, xended, xlink.trans link, xengine.trans engine⟩
  · have at_ := found_silent (s := s) (u := u) o.op (out := .notReady) (units := s.counters.units) (.inr rfl) rfl
    obtain ⟨y, form, todo, ended, link, engine⟩ := leaves (foundAt s u s.counters.units s.health s.mgmt.events s.store) _ _ _ rfl rfl
      rfl (foundAt_ended s u s.counters.units s.health s.mgmt.events s.store)
    obtain ⟨x, step, xended, xlink, xengine⟩ := result_ends ends owner (outcome_gives _ done) (outside done) outcome at_
      ((segmentEnded_orphan (by exact found) segs orphan _ _).trans form) todo (rested_stays ended.ports) ended
    exact ⟨x, _, _, _, step, xended, xlink.trans link, xengine.trans engine⟩

end

/-- Settles O49, by the request's kind and the outcome: `read_done`, `read_hard`, `hard_fails`, `verify_done`, `write_done`,
`write_verifies`, `notReady_fails` and `orphan_leaves`. -/
theorem hostOperationsEnd : Obligations.HostOperationsEnd := by
  unfold Obligations.HostOperationsEnd
  intro s u frame f o r g ends owner unit restedPorts soft hard kept stream scored recovered writtenBlocks
  refine ⟨fun last kind noSync => ⟨fun block read zero all => ?_, fun k reads one stop short => ?_, fun verify zero => ?_,
    fun write zero direct noVerify => ?_, fun write zero verify => ?_⟩, fun last write verifies zero direct => ?_,
    fun last noSync kind missing => ?_, fun found orphan segs direct done => ?_⟩
  · obtain ⟨x, step, e, link, engine⟩ := read_done ends owner last kind read zero all
    exact ⟨x, step, link, e.ports, ⟨e.map, e.guard, e.mode, e.state⟩, e.log, e.streams, ⟨e.units, e.health⟩, engine⟩
  · by_cases keeps : 0 < k ∧ r.kind = .read
    · obtain ⟨x, l, hl, step, entry, e, link, data, engine⟩ := read_hard ends owner last unit kind keeps.2 one stop short keeps.1
      refine ⟨x, step, e.ports, ⟨e.map, e.guard, e.mode, e.state⟩, e.units,
        ⟨l, entry.kind, entry.unit, entry.block, entry.logical, entry.item, entry.mode, e.log⟩,
        fun _ => ⟨link, e.streams, by rw [engine]; rfl, data, by rw [engine]; rfl⟩, fun fails => ?_⟩
      rcases fails with zero | verify
      · exact absurd zero (Nat.ne_of_gt keeps.1)
      · rw [keeps.2] at verify
        cases verify
    · have fails : r.kind = .read ∧ k = 0 ∨ r.kind = .verify :=
        reads.imp_left fun read => ⟨read, Nat.eq_zero_of_not_pos fun positive => keeps ⟨positive, read⟩⟩
      obtain ⟨x, l, hl, step, entry, e, completes⟩ := hard_fails ends owner last unit kind fails one stop short
      exact ⟨x, step, e.ports, ⟨e.map, e.guard, e.mode, e.state⟩, e.units,
        ⟨l, entry.kind, entry.unit, entry.block, entry.logical, entry.item, entry.mode, e.log⟩, fun sends => absurd sends keeps,
        fun _ => ⟨completes, e.streams⟩⟩
  · obtain ⟨x, step, e, completes⟩ := verify_done ends owner last (by rw [kind, verify]; rfl) (.inl verify) zero
    exact ⟨x, step, e.ports, ⟨e.map, e.guard, e.mode, e.state⟩, e.log, ⟨e.units, e.health⟩, completes, e.streams⟩
  · obtain ⟨x, step, e, completes⟩ := write_done ends owner last (by rw [kind, write]; rfl) write direct noVerify zero
    exact ⟨x, step, e.ports, ⟨e.map, e.guard, e.mode, e.state⟩, e.log, e.units, e.health, completes, e.streams⟩
  · obtain ⟨x, units, step, e, link, engine⟩ := write_verifies ends owner last unit (by rw [kind, write]; rfl) write verify zero
    exact ⟨x, step, link, ⟨e.map, e.guard, e.mode, e.state⟩, e.log, e.health, e.streams, e.ports, engine⟩
  · obtain ⟨x, step, e, completes⟩ := verify_done ends owner last verifies (.inr ⟨write, direct⟩) zero
    exact ⟨x, step, e.ports, ⟨e.map, e.guard, e.mode, e.state⟩, e.log, ⟨e.units, e.health⟩, completes, e.streams⟩
  · have lacks : f.outcome = 3 ∨ (f.outcome = 0 ∧ o.op.kind = .read ∧ ∃ i < o.op.count, ∀ d ∈ o.arrived, d.1 ≠ i) := by
      refine missing.imp_right fun ⟨zero, read, i, less, absent⟩ => ⟨zero, ?_, i, by rw [last.extent.2]; exact less, absent⟩
      rcases kind with own | ⟨write, -⟩
      · rw [own, read]
        rfl
      · rw [read] at write
        cases write
    obtain ⟨x, step, e, completes⟩ := notReady_fails ends owner last noSync lacks
    exact ⟨x, step, e.ports, ⟨e.map, e.guard, e.mode, e.state⟩, e.log, e.units, e.health, completes, e.streams⟩
  · obtain ⟨x, units, health, streams, step, e, link, engine⟩ := orphan_leaves ends owner found orphan segs direct done
    exact ⟨x, step, link, e.ports, ⟨e.map, e.guard, e.mode, e.state⟩, e.log, engine⟩

end Sys2Proof.Proofs.HostOperations
end

section
/-!
PROOFS. The repairs of write faults and of blocks that verify-after-write finds bad (R62, R63, R104 to R106), at the last segment of a live
WRITE.
-/

namespace Sys2Proof.Proofs.Repairs

open Sys2Proof Sys2Proof.Machine Sys2Proof.Laws Sys2Proof.Proofs.HostOperations

/-! ### The part as a WRITE or a spare write ends -/

/-- The port of an ended operation, with the write faults it has counted. -/
def restedPort (s : State) (u : Fin 4) (faults : Nat) : Port :=
  { s.port u with slots := Four.all none, writeFaults := (s.port u).writeFaults + faults }

/-- The part as the ended operation is handed back. -/
def handed (s : State) (u : Fin 4) (faults : Nat) (units : Four UnitCounters) (health : HealthMonitor) (events : BitVec 16)
    (store : StoreController) : State :=
  { foundAt s u units health events store with ports := s.ports.set u (restedPort s u faults) }

/-- What a later part has of an earlier one, the timers and the rest apart. -/
structure Same (x y : State) : Prop where
  link : x.link = y.link
  engine : x.engine = y.engine
  map : x.map = y.map
  ports : x.ports = y.ports
  guard : x.guard = y.guard
  mode : x.modes.mode = y.modes.mode
  state : x.mgmt.state = y.mgmt.state
  health : x.health = y.health
  log : x.log = y.log
  counters : x.counters = y.counters

theorem settled_same (y : State) : Same (State.refreshIdle { y with todo := [] }) y where
  link := refreshIdle_link _
  engine := refreshIdle_engine _
  map := refreshIdle_map _
  ports := refreshIdle_ports _
  guard := refreshIdle_guard _
  mode := refreshIdle_modes_mode _
  state := by rw [refreshIdle_mgmt]
  health := refreshIdle_health _
  log := refreshIdle_log _
  counters := refreshIdle_counters _

section
variable {s : State} {u : Fin 4} {frame : List Byte} {f : ResultFields} {o : Outstanding} {r : Request} {g : Segment} {faults : Nat}
  {units : Four UnitCounters} {health : HealthMonitor} {events : BitVec 16} {store : StoreController} {out : OpOutcome}

/-- The step of a RESULT, by what its hand-back leaves. -/
theorem result_hands {Y y : State} (ends : s.Ends u frame f o) (gives : o.op.kind.gives f.outcome.toNat = true)
    (inside : f.outcome.toNat = 1 ∨ f.outcome.toNat = 2 → o.op.first ≤ f.stop.toNat ∧ f.stop.toNat < o.op.first + o.op.count)
    (outcome : outcomeOf s.nextFree o f = out) (found : ({ atEnd s u o.op out with todo := [.takes u] } : State) = Y)
    (back : Y.handBack o.op out = y) (todo : y.todo = [.takes u])
    (stays : (y.port u).state = (s.port u).state ∧ (y.port u).served = (s.port u).served) :
    ∃ x, exec (.result u frame) s = .next x ∧ Same x y :=
  ⟨_, taken_result ends gives inside outcome found back todo stays, settled_same y⟩

theorem restedPort_stays {y : State} (ports : y.ports = s.ports.set u (restedPort s u faults)) :
    (y.port u).state = (s.port u).state ∧ (y.port u).served = (s.port u).served := by
  rw [port_at ports]
  exact ⟨rfl, rfl⟩

theorem sends_stays {x y : State} {op : Op} (ports : y.ports = s.ports.set u (x.sendsFirst (restedPort s u faults) op)) :
    (y.port u).state = (s.port u).state ∧ (y.port u).served = (s.port u).served := by
  rw [port_at ports]
  exact ⟨rfl, rfl⟩

/-- Below the port's limit a write fault is counted and nothing else (R73). -/
theorem found_fault (lawful : s.Lawful) (below : (s.port u).writeFaults + 1 < s.mgmt.params.writeFaultLimit) {op : Op}
    (writes : op.kind = .write) (b : Nat) : ({ atEnd s u op (.writeFault b) with todo := [.takes u] } : State) =
      handed s u 1 (s.countedAt u fun c => { c with writeFaults := bump 1 c.writeFaults }) s.health s.mgmt.events s.store := by
  have range : paramInRange 7 s.mgmt.params.writeFaultLimit = true := lawful.params 7 (by decide)
  have limit : s.mgmt.params.writeFaultLimit ≤ 255 := (of_decide_eq_true range).2
  have counted : satAdd 255 1 (s.port u).writeFaults = (s.port u).writeFaults + 1 := Nat.min_eq_right (by omega)
  have allowed : decide (s.mgmt.params.writeFaultLimit ≤ (s.port u).writeFaults + 1) = false := decide_eq_false (by omega)
  rw [atEnd_silent s u op _ (.inl (write_silent writes u)), fault_counted, counted, allowed, Bool.or_false]
  rfl

/-! ### A repair begins (R62, R63) -/

/-- The engine of a repair: the blocks completed, the segment, and the buffers that its lost blocks release. -/
def repairEngine (s : State) (r : Request) (g : Segment) (completed : List (Nat × Nat)) (h : Segment) : RequestEngine :=
  { items := (s.onRequest r.id fun q => { q with completed := completed, segs := [h] }).engine.items
    freeBuffers := s.engine.freeBuffers + (g.buffers - h.buffers) }

/-- The segment of the first block of a repair. -/
def repairing (g : Segment) (kind : RepairKind) (spare tried : Nat) : Segment :=
  { g with phase := .repairing, repair := some { kind := kind, spare := spare, tried := tried, marked := false, wait := .port } }

/-- What a spare write that is sent leaves. -/
structure Sends (s x : State) (u : Fin 4) (faults spare : Nat) (r : Request) (g : Segment) (block : List Block) : Prop where
  guard : x.guard = s.guard
  mode : x.modes.mode = s.modes.mode
  state : x.mgmt.state = s.mgmt.state
  link : x.link = s.link
  log : x.log = s.log
  ports : x.ports = s.ports.set u (s.sendsFirst (restedPort s u faults) (mkOp .write spare 1 (.repair r.id g.id) s.nextId block))

/-- The good blocks before a repair's are completed, unless the request completes them later. -/
theorem complete_unless (lawful : s.Lawful) (last : s.Last r g) {Y : State} (same : Y.engine = s.engine) (k : Nat) (p : Prop)
    [Decidable p] : (if p then Y else Y.complete r.id g.off k) = { Y with engine :=
      ⟨(s.onRequest r.id fun q => { q with completed := if p then r.completed else addRun g.off k r.completed }).engine.items,
        s.engine.freeBuffers⟩ } := by
  by_cases later : p
  · rw [if_pos later, if_pos later, onRequest_self lawful.order last.found rfl]
    exact congrArg (fun e : RequestEngine => ({ Y with engine := e } : State)) same
  · have items := onRequest_at lawful.order last.found (f := fun q => { q with completed := addRun g.off k q.completed })
      (k := fun q => { q with completed := addRun g.off k r.completed }) rfl
    rw [if_neg later, if_neg later, ← items]
    show ({ Y with engine := { Y.engine with items := Y.engine.items.map _ } } : State) = _
    rw [same]
    rfl

theorem handed_finds (ends : s.Ends u frame f o) {completed : List (Nat × Nat)} : Finds s
    { handed s u faults units health events store with engine :=
      ⟨(s.onRequest r.id fun q => { q with completed := completed }).engine.items, s.engine.freeBuffers⟩ }
    u (restedPort s u faults) :=
  ⟨rfl, rfl, rfl, rfl, rfl, ends.serves, ⟨rfl, ends.queue, ends.scan, ends.store⟩, ends.attach⟩

/-- A repair behind k good blocks claims its spare and sends the spare write. -/
theorem repair_begins (ends : s.Ends u frame f o) (last : s.Last r g) (unit : g.unit = u)
    (gives : o.op.kind.gives f.outcome.toNat = true)
    (inside : f.outcome.toNat = 1 ∨ f.outcome.toNat = 2 → o.op.first ≤ f.stop.toNat ∧ f.stop.toNat < o.op.first + o.op.count)
    (outcome : outcomeOf s.nextFree o f = out)
    (found : ({ atEnd s u o.op out with todo := [.takes u] } : State) = handed s u faults units health events store)
    {k b : Nat} {kind : RepairKind} {p : Prop} [Decidable p]
    (back : (handed s u faults units health events store).handBack o.op out =
      ((if p then handed s u faults units health events store
        else (handed s u faults units health events store).complete r.id g.off k).trimFront r.id g k).repairClaim r (g.dropFront k) kind 0)
    (claims : (s.claim u (g.home + k)).1 = .issued b) :
    ∃ x, exec (.result u frame) s = .next x ∧ Sends s x u faults b r g ((g.dropFront k).blocks.take 1) ∧
      x.map = (s.claim u (g.home + k)).2.map ∧ x.health = health ∧
      x.engine = repairEngine s r g (if p then r.completed else addRun g.off k r.completed) (repairing (g.dropFront k) kind b 1) := by
  rw [complete_unless (Y := handed s u faults units health events store) ends.lawful last rfl] at back
  obtain ⟨e, st, form⟩ := repair_path ends.lawful.order last unit (handed_finds ends) rfl claims (kind := kind)
  obtain ⟨x, step, same⟩ := result_hands ends gives inside outcome found (back.trans form) (by exact rfl) (sends_stays (x := s) (by exact rfl))
  exact ⟨x, step, ⟨same.guard, same.mode, same.state, same.link, same.log, same.ports⟩, same.map,
    same.health, same.engine⟩

theorem handBack_live (owner : o.op.owner = .segment r.id g.id) (last : s.Last r g) {Y : State} (same : Y.engine = s.engine)
    (link : Y.link = s.link) (out : OpOutcome) : Y.handBack o.op out = liveEnded Y r g o.op.kind out := by
  unfold State.handBack
  rw [owner]
  exact segmentEnded_live (touched_same last same link).found last.segs last.live _ _

theorem outcomeOf_fault (free : Nat) (two : f.outcome = 2) : outcomeOf free o f = .writeFault f.stop.toNat := by
  unfold outcomeOf
  rw [two]
  rfl

theorem fault_gives {kind : OpKind} (two : f.outcome = 2) (writes : kind = .write) : kind.gives f.outcome.toNat = true := by
  rw [two, writes]
  rfl

/-- A WRITE that ends WRITE_FAULT begins the repair of its block (R62). -/
theorem write_faults (ends : s.Ends u frame f o) (owner : o.op.owner = .segment r.id g.id) (last : s.LastAt r g o.op)
    (unit : g.unit = u) (write : r.kind = .write) (below : (s.port u).writeFaults + 1 < s.mgmt.params.writeFaultLimit)
    (direct : g.fallback = false) {k b : Nat} (stop : f.stop.toNat = g.first + k) (short : k < g.count)
    (claims : (s.claim u (g.home + k)).1 = .issued b) (two : f.outcome = 2) (writes : o.op.kind = .write) :
    ∃ x, exec (.result u frame) s = .next x ∧ Sends s x u 1 b r g ((g.dropFront k).blocks.take 1) ∧
      x.map = (s.claim u (g.home + k)).2.map ∧ x.health = s.health ∧
      x.engine = repairEngine s r g (if r.verifyAfter = true ∨ k = 0 then r.completed else addRun g.off k r.completed)
        (repairing (g.dropFront k) .inlineFault b 1) := by
  have found := found_fault ends.lawful below writes f.stop.toNat
  refine repair_begins ends last.toLast unit (fault_gives two writes) (fun _ => by rw [last.extent.1, last.extent.2]; omega)
    (outcomeOf_fault s.nextFree two) found ?_ claims
  have past : f.stop.toNat - g.first = k := by omega
  rw [handBack_live owner last.toLast (by exact rfl) (by exact rfl), liveEnded_write g _ write writes]
  unfold State.writeEnded State.writeFaulted
  dsimp only
  rw [direct, past]
  simp only [Bool.or_eq_true, beq_iff_eq]
  rfl

/-- A VERIFY after a write that ends HARD begins the repair of its block (R63). -/
theorem verify_faults (ends : s.Ends u frame f o) (owner : o.op.owner = .segment r.id g.id) (last : s.LastAt r g o.op)
    (unit : g.unit = u) (write : r.kind = .write) (direct : g.fallback = false) {k b : Nat} (stop : f.stop.toNat = g.first + k)
    (short : k < g.count) (claims : (s.claim u (g.home + k)).1 = .issued b) (one : f.outcome = 1) (verifies : o.op.kind = .verify) :
    ∃ x, exec (.result u frame) s = .next x ∧ Sends s x u 0 b r g ((g.dropFront k).blocks.take 1) ∧
      x.map = (s.claim u (g.home + k)).2.map ∧
      x.engine = repairEngine s r g (if k = 0 then r.completed else addRun g.off k r.completed)
        (repairing (g.dropFront k) .verifyRepair b 1) := by
  obtain ⟨data, outcome⟩ := outcomeOf_hard (f := f) (o := o) s.nextFree one
  obtain ⟨e, st, -, found⟩ := found_counted (u := u) (units := hardUnits s u) ends.loaded o.op
    (out := .hardRead f.stop.toNat data) rfl
  have past : f.stop.toNat - g.first = k := by omega
  have hands : ({ atEnd s u o.op (.hardRead f.stop.toNat data) with todo := [.takes u] } : State) =
      handed s u 0 (hardUnits s u) (scoredHealth s u (hardUnits s u) o.op (.hardRead f.stop.toNat data)) e st := found
  have back : (handed s u 0 (hardUnits s u) (scoredHealth s u (hardUnits s u) o.op (.hardRead f.stop.toNat data)) e st).handBack o.op
      (.hardRead f.stop.toNat data) = _ :=
    (handBack_live owner last.toLast (by exact rfl) (by exact rfl) _).trans (liveEnded_afterWrite g _ write verifies)
  unfold State.afterWriteEnded at back
  dsimp only at back
  rw [direct, past] at back
  obtain ⟨x, step, sends, map, -, engine⟩ := repair_begins ends last.toLast unit (hard_gives one (.inr verifies))
    (fun _ => by rw [last.extent.1, last.extent.2]; omega) outcome hands back claims
  exact ⟨x, step, sends, map, engine⟩

/-! ### The spare write of a repair has ended -/

theorem handBack_repair (owner : o.op.owner = .repair r.id g.id) (last : s.Last r g) {p : Repair} (repair : g.repair = some p) {Y : State}
    (same : Y.engine = s.engine) (link : Y.link = s.link) (out : OpOutcome) : Y.handBack o.op out = Y.repairEnded r g p out := by
  unfold State.handBack
  rw [owner]
  show Y.repairWriteEnded r.id g.id out = _
  unfold State.repairWriteEnded
  rw [(touched_same last same link).found]
  dsimp only
  rw [segment_only last.segs]
  dsimp only
  rw [repair]
  exact if_neg (ne_true_of_eq_false last.live)

/-- The part once a request has completed with a status, its last segment ended. -/
def ended (s Y : State) (r : Request) (g : Segment) (status : Status) (residual : Nat) (failing : Option Nat) (recovered attention : Bool)
    (t : Timer) : State :=
  { Y with
    link := { tags := s.link.tags.set r.tag .free
              sent := s.link.sent ++ [.completion r.tag status residual failing recovered attention] }
    engine := { items := s.engine.items.filter fun i => i.id != r.id, freeBuffers := s.engine.freeBuffers + g.buffers }
    scan := { Y.scan with quietTimer := t }
    counters := { Y.counters with
      streams := Y.counters.streams.set r.stream (endedWith status Y.counters.streams[r.stream]) } }

theorem ended_completes {x Y : State} {status : Status} {residual : Nat} {failing : Option Nat} {recovered attention : Bool} {t : Timer}
    (same : Same x (ended s Y r g status residual failing recovered attention t)) :
    s.Completes x r g status residual failing recovered :=
  ⟨⟨attention, same.link⟩, same.engine⟩

/-- The failing LBA with a status. -/
def failing (r : Request) (g : Segment) (status : Status) : Option Nat :=
  if status = .mediaError then some (r.lba + g.off) else none

theorem remainder_one {Y : State} {q : Request} (one : g.count = 1) (id : q.id = r.id) (found : Y.request? r.id = some q)
    (segs : q.segs = [g]) : Y.remainder r g = (Y.trimFront r.id g 1).segmentEnds r.id g.id := by
  obtain ⟨now, left⟩ := trimmed_found 1 id found segs
  unfold State.remainder
  dsimp only
  rw [left]
  exact if_pos (.inl (Nat.le_of_eq one))

theorem Touched.id {Z : State} {q : Request} (touched : Touched s Z r q g) : q.id = r.id := by rw [touched.request]

/-- A block whose request completes with it, whatever ends its segment. -/
theorem block_done {Y : State} {q : Request} (last : s.Last r g) (one : g.count = 1) (touched : Touched s Y r q g) :
    (∃ a t, Y.remainder r g = ended s Y r g .ok 0 none q.recovered a t) ∧
    (∃ a t, Y.segmentEnds r.id g.id = ended s Y r g .ok 0 none q.recovered a t) ∧
    ∃ a t, Y.verifyRest r g = ended s Y r g .ok 0 none q.recovered a t := by
  have running : r.first = none ∧ r.cancelled = false ∧ r.orphan = false ∧ r.state = .running ∧ r.count ≤ r.cursor :=
    ⟨last.first, last.cancelled, last.live, last.state, last.cut⟩
  obtain ⟨t, a, trimmed⟩ := completes_trim 1 running touched.request touched.segs touched.found touched.others touched.free touched.link
  obtain ⟨t', a', whole⟩ := completes_last running touched.request touched.segs rfl rfl touched.found touched.others touched.free
    touched.link
  exact ⟨⟨a, t, (remainder_one one (Touched.id touched) touched.found touched.segs).trans trimmed⟩, ⟨a', t', whole⟩,
    a, t, (if_pos (Nat.le_of_eq one)).trans trimmed⟩

/-- A block whose request fails with it, whatever ends its segment. -/
theorem block_fails {Y : State} (last : s.Last r g) (one : g.count = 1) (order : (Y.engine.items.map Item.id).Pairwise (· < ·))
    (touched : Touched s Y r r g) (status : Status) :
    (∃ a t, (Y.takeFailure r.id g.off status).remainder r g =
      ended s Y r g status (r.len - 512 * g.off) (failing r g status) r.recovered a t) ∧
    ∃ a t, Y.segmentFails r.id g.id g.off status =
      ended s Y r g status (r.len - 512 * g.off) (failing r g status) r.recovered a t := by
  have running : r.first = none ∧ r.cancelled = false ∧ r.orphan = false := ⟨last.first, last.cancelled, last.live⟩
  obtain ⟨t, a, trimmed⟩ := fails_trim order (fs := status) 1 running touched.request touched.segs touched.found touched.others
    touched.free touched.link
  obtain ⟨t', a', whole⟩ := fails_last (s := s) (fs := status) order running touched.request touched.segs rfl rfl (Nat.le_refl g.off)
    touched.found touched.others touched.free touched.link
  have kept := takeFailure_kept (off := g.off) (st := status) order touched.found last.cancelled last.live last.first
    (by rw [last.segs]; intro x mem _; rw [List.mem_singleton.mp mem])
  refine ⟨⟨a, t, (remainder_one (q := { r with first := some ⟨g.off, status⟩, state := .draining }) one rfl ?_ last.segs).trans trimmed⟩,
    a', t', whole⟩
  rw [kept]
  exact request_onRequest (f := fun q => { q with first := some ⟨g.off, status⟩, state := .draining }) touched.found fun _ => rfl

/-- The part with the spare installed and the block of the repair completed. -/
def installed (s : State) (r : Request) (g : Segment) (p : Repair) (Y : State) (st : StoreController) (c : CounterBank) : State :=
  State.complete { Y with
    map := (s.install g.unit g.home p.spare p.kind.cause).map
    health := (s.install g.unit g.home p.spare p.kind.cause).health
    store := st
    counters := c } r.id g.off 1

/-- The counters of the streams once a repair has written its block; those of verify-after-write have counted it before (R63). -/
def repaired (r : Request) (p : Repair) (v : Vector StreamCounters 16) : Vector StreamCounters 16 :=
  if p.kind = .verifyRepair then v else v.set r.stream (written 1 v[r.stream])

/-- A spare write that is DONE installs its spare and completes a request of one block more OK (R62, R63, R105). -/
theorem repairDone_completes {Y : State} (last : s.Last r g) (one : g.count = 1) (p : Repair) (engine : Y.engine = s.engine)
    (link : Y.link = s.link) (map : Y.map = s.map) (health : Y.health = s.health) (now : Y.now = s.now) :
    ∃ st c a t, c.streams = repaired r p Y.counters.streams ∧
      Y.repairDone r g p = ended s (installed s r g p Y st c) r g .ok 0 none r.recovered a t := by
  obtain ⟨st, c, form, streams⟩ := install_like (s := s) map health now g.unit g.home p.spare p.kind.cause
  have touched (c : CounterBank) : Touched s (installed s r g p Y st c) r { r with completed := addRun g.off 1 r.completed } g :=
    (touched_same (Z := { Y with
      map := (s.install g.unit g.home p.spare p.kind.cause).map
      health := (s.install g.unit g.home p.spare p.kind.cause).health
      store := st
      counters := c }) last engine link).onRequest (change := fun q => { q with completed := addRun g.off 1 q.completed })
        (fun _ => rfl) rfl
  have counts : c.streams.set r.stream (written 1 c.streams[r.stream]) =
      Y.counters.streams.set r.stream (written 1 Y.counters.streams[r.stream]) := by
    rw [streams]
  obtain ⟨⟨a₁, t₁, inline⟩, ⟨a₂, t₂, redirect⟩, -⟩ := block_done last one
    (touched { c with streams := c.streams.set r.stream (written 1 c.streams[r.stream]) })
  obtain ⟨-, -, a₃, t₃, verify⟩ := block_done last one (touched c)
  unfold State.repairDone
  rw [form]
  obtain ⟨kind, spare, tried, marked, wait⟩ := p
  cases kind with
  | inlineFault => exact ⟨st, _, a₁, t₁, counts, inline⟩
  | redirect => exact ⟨st, _, a₂, t₂, counts, redirect⟩
  | verifyRepair => exact ⟨st, c, a₃, t₃, streams, verify⟩

/-- What an ended operation with its request leaves. -/
structure Rests (s x : State) (u : Fin 4) (faults : Nat) : Prop where
  guard : x.guard = s.guard
  mode : x.modes.mode = s.modes.mode
  state : x.mgmt.state = s.mgmt.state
  ports : x.ports = s.ports.set u (restedPort s u faults)

theorem ended_rests {x Y : State} {status : Status} {residual : Nat} {failing : Option Nat} {recovered attention : Bool} {t : Timer}
    (same : Same x (ended s Y r g status residual failing recovered attention t)) (guard : Y.guard = s.guard)
    (mode : Y.modes.mode = s.modes.mode) (state : Y.mgmt.state = s.mgmt.state)
    (ports : Y.ports = s.ports.set u (restedPort s u faults)) : Rests s x u faults :=
  ⟨same.guard.trans guard, same.mode.trans mode, same.state.trans state, same.ports.trans ports⟩

theorem repaired_completed (p : Repair) (v : Vector StreamCounters 16) :
    (repaired r p v).set r.stream (repaired r p v)[r.stream].completedOne =
      v.set r.stream (if p.kind = .verifyRepair then v[r.stream] else written 1 v[r.stream]).completedOne := by
  unfold repaired
  by_cases verifies : p.kind = .verifyRepair
  · rw [if_pos verifies, if_pos verifies]
  · rw [if_neg verifies, if_neg verifies]
    exact streams_twice v r.stream (written 1)

/-- A spare write that is DONE (R62, R63, R105). -/
theorem repair_done (ends : s.Ends u frame f o) (owner : o.op.owner = .repair r.id g.id) (last : s.Last r g) (unit : g.unit = u)
    {p : Repair} (repair : g.repair = some p) (writes : o.op.kind = .write) (one : g.count = 1) (zero : f.outcome = 0) :
    ∃ x, exec (.result u frame) s = .next x ∧ Rests s x u 0 ∧ x.log = s.log ∧
      x.map = (s.install u g.home p.spare p.kind.cause).map ∧ x.health = (s.install u g.home p.spare p.kind.cause).health ∧
      s.Completes x r g .ok 0 none r.recovered ∧
      x.counters.streams = s.counters.streams.set r.stream (if p.kind = .verifyRepair then s.counters.streams[r.stream]
        else written 1 s.counters.streams[r.stream]).completedOne := by
  subst unit
  have outcome := outcomeOf_done (f := f) (o := o) s.nextFree zero (by rw [writes]; decide)
  have found : ({ atEnd s g.unit o.op (.done f.soft [] f.capacity) with todo := [.takes g.unit] } : State) =
      handed s g.unit 0 (softUnits s g.unit f) s.health s.mgmt.events s.store :=
    found_silent o.op (.inl (write_silent writes g.unit)) rfl
  obtain ⟨st, c, a, t, streams, done⟩ := repairDone_completes
    (Y := handed s g.unit 0 (softUnits s g.unit f) s.health s.mgmt.events s.store) last one p rfl rfl rfl rfl rfl
  have back := (handBack_repair owner last repair (Y := handed s g.unit 0 (softUnits s g.unit f) s.health s.mgmt.events s.store)
    (by exact rfl) (by exact rfl) (.done f.soft [] f.capacity)).trans done
  obtain ⟨x, step, same⟩ := result_hands ends (outcome_gives _ (.inl zero)) (outside (.inl zero)) outcome found back rfl
    (restedPort_stays rfl)
  refine ⟨x, step, ended_rests same rfl rfl rfl rfl, same.log, same.map, same.health, ended_completes same, ?_⟩
  rw [same.counters]
  show c.streams.set r.stream c.streams[r.stream].completedOne = _
  rw [streams]
  exact repaired_completed p s.counters.streams

/-! ### Spares that fault (R62, R63, R105) -/

theorem sends_at {Y : State} {P : Port} (ports : Y.ports = s.ports.set u P) (ms : Y.ms = s.ms) (params : Y.mgmt.params = s.mgmt.params)
    (op : Op) : Y.ports.set u (Y.sendsFirst (Y.port u) op) = s.ports.set u (s.sendsFirst P op) := by
  rw [port_at ports, ports, four_set_set]
  unfold State.sendsFirst State.sentNow
  rw [ms, params]

/-- The engine with another segment in the place of a request's only one, of as many buffers. -/
theorem repairEngine_keeps (lawful : s.Lawful) (last : s.Last r g) (h : Segment) (same : h.buffers = g.buffers) :
    (⟨(s.onRequest r.id fun q => { q with segs := [h] }).engine.items, s.engine.freeBuffers⟩ : RequestEngine) =
      repairEngine s r g r.completed h := by
  have items := onRequest_at lawful.order last.found (f := fun q => { q with segs := [h] })
    (k := fun q => { q with completed := r.completed, segs := [h] }) rfl
  unfold repairEngine
  rw [items, same, Nat.sub_self]
  rfl

/-- The part with the spare discarded. -/
def discarded (s : State) (g : Segment) (p : Repair) (Y : State) (st : StoreController) : State :=
  { Y with map := (s.discardSpare g.unit p.spare).map, health := (s.discardSpare g.unit p.spare).health, store := st }

/-- A segment whose repair has claimed its next spare. -/
def claimedAgain (g : Segment) (p : Repair) (b : Nat) : Segment :=
  { g with phase := .repairing, repair := some { kind := p.kind, spare := b, tried := p.tried + 1, marked := false, wait := .port } }

theorem nextSpare_claims {Y : State} {kind : RepairKind} (noRedirect : kind ≠ .redirect) (tried : Nat) :
    Y.nextSpare r g kind tried = Y.repairClaim r g kind tried := if_neg fun full => noRedirect full.1

theorem spare_discarded {Y : State} (p : Repair) (map : Y.map = s.map) (health : Y.health = s.health) (loaded : Y.store.load = none) :
    ∃ st, st.load = none ∧ st.startCount = Y.store.startCount ∧ Y.discardSpare g.unit p.spare = discarded s g p Y st := by
  obtain ⟨st, ⟨load, start⟩, form⟩ := discard_like map health g.unit p.spare
  exact ⟨st, load.trans loaded, start, form⟩

/-- A spare that faults is discarded, and the next one is claimed and sent (R62, R63). -/
theorem repair_again (ends : s.Ends u frame f o) (owner : o.op.owner = .repair r.id g.id) (last : s.Last r g) (unit : g.unit = u)
    (below : (s.port u).writeFaults + 1 < s.mgmt.params.writeFaultLimit) {p : Repair} (repair : g.repair = some p)
    (writes : o.op.kind = .write) (two : f.outcome = 2) (inside : o.op.first ≤ f.stop.toNat ∧ f.stop.toNat < o.op.first + o.op.count)
    (noRedirect : p.kind ≠ .redirect) {b : Nat} (more : p.tried < 3) (claims : ((s.discardSpare u p.spare).claim u g.home).1 = .issued b) :
    ∃ x, exec (.result u frame) s = .next x ∧ Sends s x u 1 b r g (g.blocks.take 1) ∧
      x.map = ((s.discardSpare u p.spare).claim u g.home).2.map ∧ x.engine = repairEngine s r g r.completed (claimedAgain g p b) := by
  subst unit
  have found := found_fault ends.lawful below writes f.stop.toNat
  generalize s.countedAt g.unit _ = units at found
  obtain ⟨st, -, -, form⟩ := spare_discarded (s := s) (g := g) (Y := handed s g.unit 1 units s.health s.mgmt.events s.store) p rfl rfl
    ends.loaded
  obtain ⟨issued, e₁, st₁, after⟩ := claim_like (s := s.discardSpare g.unit p.spare)
    (x := discarded s g p (handed s g.unit 1 units s.health s.mgmt.events s.store) st) rfl g.unit g.home
  have port : (discarded s g p (handed s g.unit 1 units s.health s.mgmt.events s.store) st).port g.unit = restedPort s g.unit 1 :=
    port_at (s := s) (by exact rfl)
  obtain ⟨e, st', sends⟩ := repairClaim_sends (Y := discarded s g p (handed s g.unit 1 units s.health s.mgmt.events s.store) st) (r := r)
    (q := r) (h := g) (b := b) (tried := p.tried) (kind := p.kind) ends.lawful.order rfl last.found last.segs (by rw [port]; exact ends.serves)
    (by rw [port]; exact ⟨rfl, ends.queue, ends.scan, ends.store⟩) (by rw [port]; exact ends.attach) (issued.trans claims)
  have back : (handed s g.unit 1 units s.health s.mgmt.events s.store).handBack o.op (.writeFault f.stop.toNat) = _ :=
    (handBack_repair owner last repair (by exact rfl) (by exact rfl) _).trans ((if_pos more).trans
      ((nextSpare_claims noRedirect p.tried).trans ((congrArg (fun Y : State => Y.repairClaim r g p.kind p.tried) form).trans sends)))
  have ports := sends_at (s := s) (Y := discarded s g p (handed s g.unit 1 units s.health s.mgmt.events s.store) st)
    (P := restedPort s g.unit 1) rfl rfl rfl (mkOp .write b 1 (.repair r.id g.id) s.nextId (g.blocks.take 1))
  obtain ⟨x, step, same⟩ := result_hands ends (fault_gives two writes) (fun _ => inside) (outcomeOf_fault s.nextFree two) found back
    (by exact rfl) (sends_stays (x := s) (by exact ports))
  refine ⟨x, step, ⟨same.guard, same.mode, same.state, same.link, same.log, same.ports.trans ports⟩, same.map.trans ?_,
    same.engine.trans (repairEngine_keeps ends.lawful last (claimedAgain g p b) rfl)⟩
  have mapped := congrArg State.map after
  exact mapped

/-- The entry of a block that no spare can be had for. -/
def noSpareKind (kind : RepairKind) : LogKind := if kind = .inlineFault then .writeFault else .verifyFailed

/-- With no spare to be had the block is reported and logged, and its request of one block more fails (R62, R63). -/
theorem noSpare_fails {Y : State} (last : s.Last r g) (one : g.count = 1) (lawful : s.Lawful) {kind : RepairKind}
    (noRedirect : kind ≠ .redirect) (engine : Y.engine = s.engine) (link : Y.link = s.link) (loaded : Y.store.load = none) :
    ∃ e st l a t, (l.kind = noSpareKind kind ∧ l.unit = g.unit ∧ l.block = some ⟨g.unit, g.first⟩ ∧
        l.logical = some (r.lba + g.off) ∧ l.item = some r.record.record) ∧
      Y.noSpare r g kind = ended s { Y with
        health := (Y.applyError ⟨g.unit, g.first⟩ kind.watchCause).health
        mgmt := { Y.mgmt with events := e }
        store := st
        log := Y.log.write l } r g .mediaError (r.len - 512 * g.off) (some (r.lba + g.off)) r.recovered a t := by
  obtain ⟨e, st, logged⟩ := reported_logged loaded ⟨g.unit, g.first⟩ kind.watchCause
    { kind := noSpareKind kind, unit := g.unit, block := some g.first, logical := some (r.lba + g.off), item := some r.record, ofSave := false }
  generalize entry : (Y.applyError ⟨g.unit, g.first⟩ kind.watchCause).formEntry _ = l at logged
  have touched := touched_same (Z := { Y with
    health := (Y.applyError ⟨g.unit, g.first⟩ kind.watchCause).health
    mgmt := { Y.mgmt with events := e }
    store := st
    log := Y.log.write l }) last engine link
  obtain ⟨⟨a₁, t₁, inline⟩, a₂, t₂, verify⟩ := block_fails last one (by rw [engine]; exact lawful.order) touched .mediaError
  refine ⟨e, st, l, ?_⟩
  have written : l.kind = noSpareKind kind ∧ l.unit = g.unit ∧ l.block = some ⟨g.unit, g.first⟩ ∧ l.logical = some (r.lba + g.off) ∧
      l.item = some r.record.record := by
    subst entry
    exact ⟨rfl, rfl, rfl, rfl, rfl⟩
  unfold State.noSpare
  cases kind with
  | inlineFault =>
    exact ⟨a₁, t₁, written, (congrArg (fun X : State => (X.takeFailure r.id g.off .mediaError).remainder r g) logged).trans inline⟩
  | verifyRepair => exact ⟨a₂, t₂, written, (congrArg (fun X : State => X.segmentFails r.id g.id g.off .mediaError) logged).trans verify⟩
  | redirect => exact absurd rfl noRedirect

/-- Where no further spare is tried or none can be had, the repair goes on without one. -/
theorem no_further {Y : State} {kind : RepairKind} (noRedirect : kind ≠ .redirect) {tried : Nat}
    (ends : 3 ≤ tried ∨ ∀ b, (Y.claim g.unit g.home).1 ≠ .issued b) :
    ∃ e, (if tried < 3 then Y.nextSpare r g kind tried else Y.noSpare r g kind) =
      State.noSpare { Y with mgmt := { Y.mgmt with events := e } } r g kind := by
  by_cases more : tried < 3
  · rcases ends with three | refused
    · exact absurd more (Nat.not_lt.mpr three)
    rw [if_pos more, nextSpare_claims noRedirect]
    unfold State.repairClaim
    rcases claim_refused Y g.unit g.home refused with ⟨e, pinned⟩ | ⟨e, exhausted⟩ | ⟨e, full⟩
    · rw [pinned]
      exact ⟨_, rfl⟩
    · rw [exhausted]
      exact ⟨e, rfl⟩
    · rw [full]
      exact ⟨e, rfl⟩
  · exact ⟨Y.mgmt.events, if_neg more⟩

/-- A spare that faults and is the last to be had (R62, R63). -/
theorem repair_fails (ends : s.Ends u frame f o) (owner : o.op.owner = .repair r.id g.id) (last : s.Last r g) (unit : g.unit = u)
    (below : (s.port u).writeFaults + 1 < s.mgmt.params.writeFaultLimit) {p : Repair} (repair : g.repair = some p)
    (writes : o.op.kind = .write) (two : f.outcome = 2) (inside : o.op.first ≤ f.stop.toNat ∧ f.stop.toNat < o.op.first + o.op.count)
    (noRedirect : p.kind ≠ .redirect) (one : g.count = 1)
    (none_ : 3 ≤ p.tried ∨ ∀ b, ((s.discardSpare u p.spare).claim u g.home).1 ≠ .issued b) :
    ∃ x l, exec (.result u frame) s = .next x ∧ Rests s x u 1 ∧ x.map = (s.discardSpare u p.spare).map ∧
      x.health.watch = ((s.discardSpare u p.spare).applyError ⟨u, g.first⟩ p.kind.watchCause).health.watch ∧
      (l.kind = noSpareKind p.kind ∧ l.unit = u ∧ l.block = some ⟨u, g.first⟩ ∧ l.logical = some (r.lba + g.off) ∧
        l.item = some r.record.record) ∧ x.log = s.log.write l ∧
      s.Completes x r g .mediaError (r.len - 512 * g.off) (some (r.lba + g.off)) r.recovered ∧
      x.counters.streams = s.counters.streams.set r.stream (endedWith .mediaError s.counters.streams[r.stream]) := by
  subst unit
  have found := found_fault ends.lawful below writes f.stop.toNat
  generalize s.countedAt g.unit _ = units at found
  obtain ⟨st, load, start, form⟩ := spare_discarded (s := s) (g := g) (Y := handed s g.unit 1 units s.health s.mgmt.events s.store) p rfl
    rfl ends.loaded
  obtain ⟨st₀, load₀, start₀, gone⟩ := spare_discarded (s := s) (g := g) (Y := s) p rfl rfl ends.loaded
  have refused : 3 ≤ p.tried ∨ ∀ b, ((discarded s g p (handed s g.unit 1 units s.health s.mgmt.events s.store) st).claim g.unit
      g.home).1 ≠ .issued b :=
    none_.imp_right fun refuses b => by
      rw [(claim_like (s := s.discardSpare g.unit p.spare) (by exact rfl) g.unit g.home).1]
      exact refuses b
  obtain ⟨e, further⟩ := no_further (r := r) noRedirect refused
  obtain ⟨e', st', l, a, t, entry, fails⟩ := noSpare_fails (Y := { discarded s g p (handed s g.unit 1 units s.health s.mgmt.events s.store) st
    with mgmt := { s.mgmt with events := e } }) last one ends.lawful noRedirect rfl rfl load
  have back : (handed s g.unit 1 units s.health s.mgmt.events s.store).handBack o.op (.writeFault f.stop.toNat) = _ :=
    (handBack_repair owner last repair (by exact rfl) (by exact rfl) _).trans ((congrArg (fun Y : State =>
      if p.tried < 3 then Y.nextSpare r g p.kind p.tried else Y.noSpare r g p.kind) form).trans (further.trans fails))
  obtain ⟨x, step, same⟩ := result_hands ends (fault_gives two writes) (fun _ => inside) (outcomeOf_fault s.nextFree two) found back
    (by exact rfl) (restedPort_stays (faults := 1) (by exact rfl))
  have now : State.now { discarded s g p (handed s g.unit 1 units s.health s.mgmt.events s.store) st with
      mgmt := { s.mgmt with events := e } } = (discarded s g p s st₀).now := by
    show TimeStamp.mk (if st.load.isNone then some st.startCount else none) s.ms =
      TimeStamp.mk (if st₀.load.isNone then some st₀.startCount else none) s.ms
    rw [load, start, load₀, start₀]
    rfl
  have watch := applyError_health (s := discarded s g p s st₀) (x := { discarded s g p (handed s g.unit 1 units s.health s.mgmt.events
    s.store) st with mgmt := { s.mgmt with events := e } }) rfl rfl rfl now ⟨g.unit, g.first⟩ p.kind.watchCause
  refine ⟨x, l, step, ended_rests same rfl rfl rfl rfl, same.map, ?_, entry, same.log, ended_completes same,
    by rw [same.counters]; rfl⟩
  rw [gone, ← watch, same.health]
  rfl

/-! ### Spare writes that end NOT_READY (R62) -/

/-- A spare write that ends NOT_READY is handed back as it was. -/
theorem found_notReady (op : Op) : ({ atEnd s u op .notReady with todo := [.takes u] } : State) =
    handed s u 0 s.counters.units s.health s.mgmt.events s.store := found_silent op (.inr rfl) rfl

theorem outcomeOf_three (free : Nat) (three : f.outcome = 3) : outcomeOf free o f = .notReady := by
  unfold outcomeOf
  rw [three]
  rfl

/-- A first NOT_READY sends the spare write again (R62). -/
theorem repair_retries (ends : s.Ends u frame f o) (owner : o.op.owner = .repair r.id g.id) (last : s.Last r g) (unit : g.unit = u)
    {p : Repair} (repair : g.repair = some p) (first : p.marked = false) (three : f.outcome = 3) :
    ∃ x, exec (.result u frame) s = .next x ∧ Sends s x u 0 p.spare r g (g.blocks.take 1) ∧ x.map = s.map ∧ x.health = s.health ∧
      x.engine = repairEngine s r g r.completed { g with repair := some { p with marked := true, wait := .port } } := by
  subst unit
  have touched := (touched_same (Z := handed s g.unit 0 s.counters.units s.health s.mgmt.events s.store) last rfl rfl).found
  have waits := request_onRequest (f := fun q => q.onSegment g.id fun g => { g with
    repair := g.repair.map fun p => { p with marked := true, wait := .retry } }) touched (by intro; rfl)
  have marked : (r.onSegment g.id fun g => { g with repair := g.repair.map fun p => { p with marked := true, wait := .retry } }) =
      { r with segs := [{ g with repair := some { p with marked := true, wait := .retry } }] } := by
    rw [onSegment_only last.segs, repair]
    rfl
  rw [marked] at waits
  have rest : ((handed s g.unit 0 s.counters.units s.health s.mgmt.events s.store).onSegment r.id g.id fun g => { g with
      repair := g.repair.map fun p => { p with marked := true, wait := .retry } }).port g.unit = restedPort s g.unit 0 :=
    port_at (s := s) (by exact rfl)
  have sends := offerRepair_sends (q := { r with segs := [{ g with repair := some { p with marked := true, wait := .retry } }] })
    (h := { g with repair := some { p with marked := true, wait := .retry } }) (p := { p with marked := true, wait := .retry })
    (onRequest_sorted (Y := handed s g.unit 0 s.counters.units s.health s.mgmt.events s.store) ends.lawful.order r.id (by intro; rfl))
    waits rfl rfl (by exact rest ▸ ends.serves) (by exact rest ▸ ⟨rfl, ends.queue, ends.scan, ends.store⟩) (by exact rest ▸ ends.attach)
  have back : (handed s g.unit 0 s.counters.units s.health s.mgmt.events s.store).handBack o.op .notReady = _ :=
    (handBack_repair owner last repair (by exact rfl) (by exact rfl) _).trans
      ((if_neg (ne_true_of_eq_false first)).trans ((if_pos rfl).trans sends))
  have ports := sends_at (s := s) (Y := (handed s g.unit 0 s.counters.units s.health s.mgmt.events s.store).onSegment r.id g.id fun g =>
      { g with repair := g.repair.map fun p => { p with marked := true, wait := .retry } })
    (P := restedPort s g.unit 0) rfl rfl rfl (mkOp .write p.spare 1 (.repair r.id g.id) s.nextId (g.blocks.take 1))
  obtain ⟨x, step, same⟩ := result_hands ends (outcome_gives _ (.inr three)) (outside (.inr three)) (outcomeOf_three s.nextFree three)
    (found_notReady o.op) back (by exact rfl) (sends_stays (x := s) (by exact ports))
  refine ⟨x, step, ⟨same.guard, same.mode, same.state, same.link, same.log, same.ports.trans ports⟩, same.map, same.health,
    same.engine.trans (.trans ?_ (repairEngine_keeps ends.lawful last { g with
      repair := some { p with marked := true, wait := .port } } rfl))⟩
  have items : ((s.onRequest r.id fun q => q.onSegment g.id fun g => { g with
      repair := g.repair.map fun p => { p with marked := true, wait := .retry } }).onRequest r.id fun q => { q with
        segs := [{ g with repair := some { p with marked := true, wait := .port } }] }).engine.items = (s.onRequest r.id fun q => { q with
          segs := [{ g with repair := some { p with marked := true, wait := .port } }] }).engine.items := by
    rw [onRequest_onRequest _ _ _ _ (by intro; rfl)]
    exact onRequest_at ends.lawful.order last.found rfl
  exact congrArg (fun l => ({ s.engine with items := l } : RequestEngine)) items

/-- A second NOT_READY discards the spare and fails the request of one block more (R62). -/
theorem repair_gives_up (ends : s.Ends u frame f o) (owner : o.op.owner = .repair r.id g.id) (last : s.Last r g) (unit : g.unit = u)
    {p : Repair} (repair : g.repair = some p) (second : p.marked = true) (three : f.outcome = 3) (one : g.count = 1) :
    ∃ x, exec (.result u frame) s = .next x ∧ Rests s x u 0 ∧ x.map = (s.discardSpare u p.spare).map ∧ x.log = s.log ∧
      s.Completes x r g .unitUnavailable (r.len - 512 * g.off) none r.recovered ∧
      x.counters.streams = s.counters.streams.set r.stream s.counters.streams[r.stream].completedOne := by
  subst unit
  obtain ⟨st, -, -, form⟩ := spare_discarded (s := s) (g := g) (Y := handed s g.unit 0 s.counters.units s.health s.mgmt.events s.store) p
    rfl rfl ends.loaded
  have touched := touched_same (Z := discarded s g p (handed s g.unit 0 s.counters.units s.health s.mgmt.events s.store) st) last rfl rfl
  obtain ⟨⟨a₁, t₁, inline⟩, a₂, t₂, whole⟩ := block_fails last one (by exact ends.lawful.order) touched .unitUnavailable
  have gives : ∃ a t, (discarded s g p (handed s g.unit 0 s.counters.units s.health s.mgmt.events s.store) st).giveUp r g p.kind =
      ended s (discarded s g p (handed s g.unit 0 s.counters.units s.health s.mgmt.events s.store) st) r g .unitUnavailable
        (r.len - 512 * g.off) none r.recovered a t := by
    unfold State.giveUp
    cases p.kind with
    | inlineFault => exact ⟨a₁, t₁, inline⟩
    | verifyRepair => exact ⟨a₂, t₂, whole⟩
    | redirect => exact ⟨a₂, t₂, whole⟩
  obtain ⟨a, t, gives⟩ := gives
  have back : (handed s g.unit 0 s.counters.units s.health s.mgmt.events s.store).handBack o.op .notReady = _ :=
    (handBack_repair owner last repair (by exact rfl) (by exact rfl) _).trans ((if_pos second).trans
      ((congrArg (fun Y : State => Y.giveUp r g p.kind) form).trans gives))
  obtain ⟨x, step, same⟩ := result_hands ends (outcome_gives _ (.inr three)) (outside (.inr three)) (outcomeOf_three s.nextFree three)
    (found_notReady o.op) back (by exact rfl) (restedPort_stays (faults := 0) (by exact rfl))
  exact ⟨x, step, ended_rests same rfl rfl rfl rfl, same.map, same.log, ended_completes same, by rw [same.counters]; rfl⟩

/-! ### Fallback writes (R106) -/

/-- A fallback write that is DONE completes its request OK, its block's entry not pending and one below the threshold (R106). -/
theorem fallback_done (ends : s.Ends u frame f o) (owner : o.op.owner = .segment r.id g.id) (last : s.Last r g) (unit : g.unit = u)
    (writes : o.op.kind = .write) (write : r.kind = .write) (fallback : g.fallback = true) (noVerify : r.verifyAfter = false)
    (zero : f.outcome = 0) :
    ∃ x hl, exec (.result u frame) s = .next x ∧
      Ended s x (rested s u) (softUnits s u f) hl s.log
        (s.counters.streams.set r.stream (written g.count s.counters.streams[r.stream]).completedOne) ∧
      (∀ e ∈ hl.watch, e.block = ⟨u, g.first⟩ → e.pending = false ∧ e.score = s.mgmt.params.promotion - 1 ∧ e.age = 0) ∧
      s.Completes x r g .ok 0 none (r.recovered || !f.soft.isEmpty) := by
  subst unit
  have outcome := outcomeOf_done (f := f) (o := o) s.nextFree zero (by rw [writes]; decide)
  have found := found_silent (s := s) (u := g.unit) o.op (out := .done f.soft [] f.capacity) (units := softUnits s g.unit f)
    (.inl (write_silent writes g.unit)) rfl
  have marked := (touched_same (Z := writtenAt s g.unit (softUnits s g.unit f) r g.count) last rfl rfl).onRequest
    (change := fun q => { q with recovered := q.recovered || !f.soft.isEmpty }) (fun _ => rfl) rfl
  obtain ⟨w, e, st, -, good⟩ := fallbackGood_scored ((writtenAt s g.unit (softUnits s g.unit f) r g.count).onRequest r.id fun q =>
    { q with recovered := q.recovered || !f.soft.isEmpty }) g.unit g.first
  have entry := fallbackGood_entry ((writtenAt s g.unit (softUnits s g.unit f) r g.count).onRequest r.id fun q =>
    { q with recovered := q.recovered || !f.soft.isEmpty }) g.unit g.first
  rw [good] at entry
  have back : liveEnded (foundAt s g.unit (softUnits s g.unit f) s.health s.mgmt.events s.store) r g o.op.kind
      (.done f.soft [] f.capacity) = State.segmentEnds (State.complete (State.fallbackGood
        ((writtenAt s g.unit (softUnits s g.unit f) r g.count).markRecovered r.id f.soft) g.unit g.first) r.id g.off g.count) r.id g.id := by
    rw [liveEnded_write g _ write writes]
    unfold State.writeEnded
    dsimp only
    rw [noVerify, fallback, markRecovered_written]
    rfl
  rw [markRecovered_eq, good] at back
  have scored : Touched s { (writtenAt s g.unit (softUnits s g.unit f) r g.count).onRequest r.id fun q =>
      { q with recovered := q.recovered || !f.soft.isEmpty } with
        health := { s.health with watch := w }, mgmt := { s.mgmt with events := e }, store := st } r
      { r with recovered := r.recovered || !f.soft.isEmpty } g :=
    ⟨marked.request, marked.segs, marked.found, marked.others, marked.free, marked.link⟩
  have completed := scored.onRequest (change := fun q => { q with completed := addRun g.off g.count q.completed }) (fun _ => rfl) rfl
  obtain ⟨left, done, link, engine⟩ := completes_ended (ports := rested s g.unit) (units := softUnits s g.unit f)
    (health := { s.health with watch := w }) (log := s.log)
    (streams := s.counters.streams.set r.stream (written g.count s.counters.streams[r.stream])) last completed
    ⟨rfl, rfl, rfl, rfl, rfl, rfl, rfl, rfl, rfl⟩
  rw [streams_twice _ _ (written g.count) (k := StreamCounters.completedOne)] at done
  obtain ⟨x, step, ended, xlink, xengine⟩ := live_ends ends owner last (outcome_gives _ (.inl zero)) (outside (.inl zero)) outcome found
    back left (rested_stays done.ports) done
  exact ⟨x, _, step, ended, entry, ⟨by rw [xlink]; exact link, by rw [xengine]; exact engine⟩⟩

end

/-- Settles O50, by the operation that ends: `write_faults` and `verify_faults` begin a repair; `repair_done`, `repair_again`,
`repair_fails`, `repair_retries` and `repair_gives_up` end its spare write; `fallback_done` ends a fallback write. -/
theorem writeFaultsAreRepaired : Obligations.WriteFaultsAreRepaired := by
  unfold Obligations.WriteFaultsAreRepaired
  intro s u frame f o r g ends unit write last below rested kept stream written failed sends engine ended
  refine ⟨fun owner extent direct k b stop short claims => ⟨fun two writes => ?_, fun one verifies => ?_⟩,
    fun p owner repair writes count first => ⟨fun zero one => ?_, fun two stop noRedirect => ⟨fun b more claims => ?_,
      fun refuses _ one => ?_⟩, fun three fresh => ?_, fun three again one => ?_⟩,
    fun owner writes fallback noVerify one zero => ?_⟩
  · obtain ⟨x, step, e, map, health, items⟩ := write_faults ends owner ⟨last, extent⟩ unit write below direct stop short claims two writes
    exact ⟨x, step, ⟨e.guard, e.mode, e.state⟩, ⟨e.link, e.log, e.ports⟩, map, health, items⟩
  · obtain ⟨x, step, e, map, items⟩ := verify_faults ends owner ⟨last, extent⟩ unit write direct stop short claims one verifies
    exact ⟨x, step, ⟨e.guard, e.mode, e.state⟩, ⟨e.link, e.log, e.ports⟩, map, items⟩
  · obtain ⟨x, step, e, log, map, health, completes, streams⟩ := repair_done ends owner last unit repair writes one zero
    refine ⟨x, step, ⟨⟨e.guard, e.mode, e.state⟩, e.ports⟩, log, ?_, ?_, completes, streams⟩
    · exact map
    · exact health
  · obtain ⟨x, step, e, map, items⟩ := repair_again ends owner last unit below repair writes two (by omega) noRedirect more claims
    exact ⟨x, step, ⟨e.guard, e.mode, e.state⟩, ⟨e.link, e.log, e.ports⟩, map, items⟩
  · obtain ⟨x, l, step, e, map, watch, ⟨kind, at_, block, logical, item⟩, log, completes, streams⟩ := repair_fails ends owner last unit
      below repair writes two (by omega) noRedirect one refuses
    exact ⟨x, step, ⟨⟨e.guard, e.mode, e.state⟩, e.ports⟩, map, watch, ⟨l, kind, at_, block, logical, item, log⟩, completes, streams⟩
  · obtain ⟨x, step, e, map, health, items⟩ := repair_retries ends owner last unit repair fresh three
    exact ⟨x, step, ⟨e.guard, e.mode, e.state⟩, map, health, ⟨e.link, e.log, e.ports⟩, items⟩
  · obtain ⟨x, step, e, map, log, completes, streams⟩ := repair_gives_up ends owner last unit repair again three one
    exact ⟨x, step, ⟨⟨e.guard, e.mode, e.state⟩, e.ports⟩, map, log, completes, streams⟩
  · obtain ⟨x, hl, step, e, entry, completes⟩ := fallback_done ends owner last unit writes write fallback noVerify zero
    have streams := e.streams
    rw [one] at streams
    exact ⟨x, step, ⟨⟨e.guard, e.mode, e.state⟩, e.ports⟩, e.map, e.log, by rw [e.health]; exact entry, completes, streams⟩

end Sys2Proof.Proofs.Repairs
end

section
/-!
PROOFS. The lines of the units (R70 to R72, R76, R85): unit-present asserted and released, and the unit-fault line.
-/

namespace Sys2Proof.Proofs.UnitLines

open Sys2Proof Sys2Proof.Machine Sys2Proof.Laws

/-! ### What a unit's line leaves -/

/-- What a step about one unit leaves of the rest of the part. -/
structure Keeps (s x : State) : Prop where
  link : x.link = s.link
  engine : x.engine = s.engine
  map : x.map = s.map
  health : x.health = s.health
  scan : x.scan = s.scan
  log : x.log = s.log
  guard : x.guard = s.guard
  store : x.store = s.store
  mode : x.modes.mode = s.modes.mode

/-- The part with a port changed. -/
def withPort (s : State) (u : Fin 4) (p : Port) : State := { s with ports := s.ports.set u p }

/-- The part with a port changed and UNIT_CHANGE raised. -/
def withChange (s : State) (u : Fin 4) (p : Port) : State :=
  { s with ports := s.ports.set u p, mgmt := { s.mgmt with events := s.mgmt.events ||| Event.unitChange.bit } }

theorem withChange_keeps (s : State) (u : Fin 4) (p : Port) : Keeps s (withChange s u p) := ⟨rfl, rfl, rfl, rfl, rfl, rfl, rfl, rfl, rfl⟩

theorem refreshIdle_keeps {s y : State} (keeps : Keeps s y) : Keeps s y.refreshIdle where
  link := (refreshIdle_link y).trans keeps.link
  engine := (refreshIdle_engine y).trans keeps.engine
  map := (refreshIdle_map y).trans keeps.map
  health := (refreshIdle_health y).trans keeps.health
  scan := (refreshIdle_scan y).trans keeps.scan
  log := (refreshIdle_log y).trans keeps.log
  guard := (refreshIdle_guard y).trans keeps.guard
  store := (refreshIdle_store y).trans keeps.store
  mode := (refreshIdle_modes_mode y).trans keeps.mode

/-! ### Steps of the lines -/

section
variable {s : State} {u : Fin 4} {level : Bool} {Y : State}

theorem exec_asserted (up : s.inReset = false) (done : s.presentAsserted u = Y) : exec (.unitPresentAsserted u) s = .next Y.finish := by
  rw [← done]
  exact outcome_up up

theorem exec_released (up : s.inReset = false) (done : s.presentReleased u = Y) : exec (.unitPresentReleased u) s = .next Y.finish := by
  rw [← done]
  exact outcome_up up

theorem exec_faultLine (up : s.inReset = false) (done : (s.faultLevel u level).takeState u = Y) :
    exec (.unitFaultLineChange u level) s = .next Y.finish := by
  rw [← done]
  exact outcome_up up

/-- In reset the lines only change their levels. -/
theorem levels_inReset (reset : s.inReset = true) :
    exec (.unitPresentAsserted u) s = .next (withPort s u { s.port u with present := true }) ∧
    exec (.unitPresentReleased u) s = .next (withPort s u { s.port u with present := false }) ∧
    exec (.unitFaultLineChange u level) s = .next (withPort s u { s.port u with fault := level }) :=
  ⟨outcome_inReset reset, outcome_inReset reset, outcome_inReset reset⟩

/-! ### Unit-present asserted (R71, R76) -/

/-- An ABSENT port begins its attach. -/
theorem asserted_attaches (running : s.Running) (absent : (s.port u).state = .absent) (slots : (s.port u).slots = Four.all none)
    (place : (s.port u).storePlace = none) (patrol : ∀ c, s.scan.context = some c → c.kind = .patrol)
    (save : u = 0 → s.store.save = none) :
    ∃ x, exec (.unitPresentAsserted u) s = .next x ∧ x.ports = s.ports.set u { s.port u with
        present := true, state := .attaching, attempts := 0, cause := .none, waking := false, identified := false
        attachPlace := none
        slots := (Four.all none).set 0 (some (s.sentNow (mkOp .unitReset 0 0 .port s.nextId [])))
        sent := (s.port u).sent ++ [⟨0, .unitReset, 0, 0, []⟩] } ∧
      x.mgmt = s.mgmt ∧ Keeps s x := by
  have port : (withPort s u { s.port u with present := true }).port u = { s.port u with present := true } := port_set _ _ _
  obtain ⟨c, begins, -⟩ := beginAttach_sends (s := withPort s u { s.port u with present := true }) (u := u) (k := false)
    (by rw [port]; exact slots) (by rw [port]; exact place) patrol save
  rw [port] at begins
  have done : s.presentAsserted u = _ := (if_pos (show ((withPort s u { s.port u with present := true }).port u).state = .absent by
    rw [port]; exact absent)).trans begins
  refine ⟨_, (exec_asserted running.up done).trans (congrArg _ (finish_of_todo_nil (by exact running.settled))), ?_, ?_,
    refreshIdle_keeps ⟨rfl, rfl, rfl, rfl, rfl, rfl, rfl, rfl, rfl⟩⟩
  · rw [refreshIdle_ports]
    exact four_set_set _ _ _ _
  · rw [refreshIdle_mgmt]
    rfl

/-- In any other state only the level changes. -/
theorem asserted_level (running : s.Running) (present : (s.port u).state ≠ .absent) :
    exec (.unitPresentAsserted u) s = .next (State.refreshIdle (withPort s u { s.port u with present := true })) := by
  have done : s.presentAsserted u = withPort s u { s.port u with present := true } :=
    if_neg (show ¬ ((withPort s u { s.port u with present := true }).port u).state = .absent by
      rw [show (withPort s u _).port u = { s.port u with present := true } from port_set _ _ _]; exact present)
  exact (exec_asserted running.up done).trans (congrArg _ (finish_of_todo_nil (by exact running.settled)))

/-! ### Unit-present released (R85) -/

theorem released_level (running : s.Running) (absent : (s.port u).state = .absent) :
    exec (.unitPresentReleased u) s = .next (State.refreshIdle (withPort s u { s.port u with present := false })) := by
  have done : s.presentReleased u = withPort s u { s.port u with present := false } :=
    if_pos (show ((withPort s u { s.port u with present := false }).port u).state = .absent by
      rw [show (withPort s u _).port u = { s.port u with present := false } from port_set _ _ _]; exact absent)
  exact (exec_released running.up done).trans (congrArg _ (finish_of_todo_nil (by exact running.settled)))

/-- Without an operation in its slots a port has none outstanding. -/
theorem outstanding_none {p : Port} (slots : p.slots = Four.all none) : p.outstanding = [] := by
  unfold Port.outstanding
  rw [slots]
  rfl

/-- The loss of a unit that no relocation is about changes no relocation. -/
theorem relocLost_none {Y : State} (idle0 : Y.health.slot0 = none) (idle1 : Y.health.slot1 = none) :
    slotIndices.foldl (fun s k => s.relocLost u k) Y = Y := by
  have lost (k : Fin 2) (idle : Y.health.slot k = none) : Y.relocLost u k = Y := by
    unfold State.relocLost
    rw [idle]
  show (Y.relocLost u 0).relocLost u 1 = Y
  rw [lost 0 idle0, lost 1 idle1]

/-- A port that serves, or that no block has work for, has its new state reported without effect. -/
theorem portReports_absent {Y : State} (unit : u ≠ 0) (scan : Y.scan.context = none) (idle0 : Y.health.slot0 = none)
    (idle1 : Y.health.slot1 = none) : Y.portReports u .absent = Y := by
  have scanned : Y.scanPort u .absent = Y := by
    unfold State.scanPort
    rw [scan]
  unfold State.portReports
  rw [scanned]
  dsimp only
  rw [if_neg unit, if_pos (show PortState.absent = .failed ∨ PortState.absent = .absent from .inr rfl), relocLost_none idle0 idle1]

theorem onPort_self {Y : State} {f : Port → Port} (same : f (Y.port u) = Y.port u) : Y.onPort u f = Y := by
  show ({ Y with ports := Y.ports.set u (f (Y.port u)) } : State) = Y
  rw [same]
  exact congrArg (fun p : Four Port => ({ Y with ports := p } : State)) (four_set_get _ _)

/-- The port whose unit has gone. -/
def gone (p : Port) : Port :=
  { p with
    present := false, state := .absent, capacity := none, cause := .none, powerDownAttempts := 0, sleepRecord := none
    waking := false, identified := false }

/-- A port without work becomes ABSENT. -/
theorem released_leaves (running : s.Running) (present : (s.port u).state ≠ .absent) (unit : u ≠ 0)
    (slots : (s.port u).slots = Four.all none) (waiting : (s.port u).waiting = []) (items : s.engine.items = [])
    (scan : s.scan.context = none) (idle0 : s.health.slot0 = none) (idle1 : s.health.slot1 = none) (erase : s.guard.erase = none) :
    ∃ x, exec (.unitPresentReleased u) s = .next x ∧ x.ports = s.ports.set u (gone (s.port u)) ∧
      x.mgmt = { s.mgmt with events := s.mgmt.events ||| Event.unitChange.bit } ∧ x.counters = s.counters ∧ Keeps s x := by
  have port : (withPort s u { s.port u with present := false }).port u = { s.port u with present := false } := port_set _ _ _
  have emptied : ((withPort s u { s.port u with present := false }).onPort u fun p => { p with slots := Four.all none }) =
      withPort s u { s.port u with present := false } := onPort_self (by rw [port, ← slots])
  have enters := portEnters_raised (s := (withPort s u { s.port u with present := false }).onPort u fun p =>
    { p with
      capacity := none, cause := .none, powerDownAttempts := 0, sleepRecord := none, waking := false, identified := false })
    (u := u) (p := .absent) (by rw [onPort_port, port]; exact present)
  rw [portReports_absent unit (by exact scan) (by exact idle0) (by exact idle1), onPort_port, port] at enters
  have done : s.presentReleased u = State.later (withChange s u (gone (s.port u))) (.retries u) := by
    refine (if_neg (show ¬ ((withPort s u { s.port u with present := false }).port u).state = .absent by
      rw [port]; exact present)).trans ?_
    show ((((State.endAll ((withPort s u { s.port u with present := false }).onPort u fun p => { p with slots := Four.all none }) u
      ((withPort s u { s.port u with present := false }).port u).outstanding).endWaitingOps u).onPort u fun p => { p with
        capacity := none, cause := .none, powerDownAttempts := 0, sleepRecord := none, waking := false,
        identified := false }).portEnters u .absent true).later (.retries u) = _
    rw [emptied, port, outstanding_none (by exact slots)]
    show (((State.endWaitingOps (withPort s u { s.port u with present := false }) u).onPort u _).portEnters u .absent true).later _ = _
    rw [endWaiting_nothing (by rw [port]; exact waiting), enters]
    refine congrArg (fun p : Four Port => State.later { s with
      ports := p, mgmt := { s.mgmt with events := s.mgmt.events ||| Event.unitChange.bit } } (.retries u)) ?_
    rw [onPort_ports, four_set_set]
    exact four_set_set _ _ _ _
  have rest : ((withChange s u (gone (s.port u))).port u).state.serves = false := by
    rw [show (withChange s u (gone (s.port u))).port u = gone (s.port u) from port_set _ _ _]
    rfl
  have retried : State.doWork { withChange s u (gone (s.port u)) with todo := [] } (.retries u) =
      { withChange s u (gone (s.port u)) with todo := [] } :=
    retries_quiet (s := { withChange s u (gone (s.port u)) with todo := [] }) items scan erase rest
  have finish := finish_one (s := State.later (withChange s u (gone (s.port u))) (.retries u)) (w := .retries u)
    (by show s.todo ++ [_] = _; rw [running.settled]; rfl) retried rfl
  refine ⟨_, (exec_released running.up done).trans (congrArg _ finish), ?_, ?_, ?_, refreshIdle_keeps ⟨rfl, rfl, rfl, rfl, rfl, rfl, rfl,
    rfl, rfl⟩⟩
  · rw [refreshIdle_ports]
    rfl
  · rw [refreshIdle_mgmt]
    rfl
  · rw [refreshIdle_counters]
    rfl

/-! ### The unit-fault line (R72) -/

/-- A port that serves has its new state reported to no scan and to no relocation. -/
theorem portReports_serving {Y : State} (unit : u ≠ 0) : Y.portReports u .readOnly = Y := by
  have scanned : Y.scanPort u .readOnly = Y := by
    unfold State.scanPort
    split
    · rfl
    · exact if_neg fun ends => Bool.noConfusion ends.2.2
  unfold State.portReports
  rw [scanned]
  dsimp only
  rw [if_neg (show ¬ (PortState.readOnly = .failed ∨ PortState.readOnly = .absent) by decide), if_neg unit]

/-- A port that serves enters the state of the table of R72. -/
theorem takeState_enters {Y : State} {p : PortState} (serves : (Y.port u).state.serves = true) (served : (Y.port u).served = p)
    (moves : p ≠ (Y.port u).state) (serving : p ≠ .offline) : Y.takeState u = Y.portEnters u p true := by
  unfold State.takeState
  dsimp only
  rw [served, serves, if_pos (by simpa using moves), if_neg serving]

/-- A released line of a READY port only changes its level. -/
theorem faultLine_level (running : s.Running) (ready : (s.port u).state = .ready) (desired : (s.port u).desired = .active)
    (writes : (s.port u).writeInhibit = false) :
    exec (.unitFaultLineChange u false) s = .next (State.refreshIdle (withPort s u { s.port u with fault := false })) := by
  have port : (withPort s u { s.port u with fault := false }).port u = { s.port u with fault := false } := port_set _ _ _
  have same : ({ s.port u with fault := false } : Port).served = ({ s.port u with fault := false } : Port).state := by
    unfold Port.served
    dsimp only
    rw [desired, writes, ready]
    rfl
  have done : (s.faultLevel u false).takeState u = withPort s u { s.port u with fault := false } := by
    show (withPort s u { s.port u with fault := false }).takeState u = _
    unfold State.takeState
    rw [port]
    dsimp only
    rw [if_neg (by simp [same])]
  exact (exec_faultLine running.up done).trans (congrArg _ (finish_of_todo_nil (by exact running.settled)))

/-- An asserted line takes a READY port to READ_ONLY. -/
theorem faultLine_protects (running : s.Running) (ready : (s.port u).state = .ready) (desired : (s.port u).desired = .active)
    (unit : u ≠ 0) : ∃ x, exec (.unitFaultLineChange u true) s = .next x ∧
      x.ports = s.ports.set u { s.port u with fault := true, state := .readOnly } ∧
      x.mgmt = { s.mgmt with events := s.mgmt.events ||| Event.unitChange.bit } ∧ x.counters = s.counters ∧ Keeps s x := by
  have port : (withPort s u { s.port u with fault := true }).port u = { s.port u with fault := true } := port_set _ _ _
  have served : ({ s.port u with fault := true } : Port).served = .readOnly := by
    unfold Port.served
    dsimp only
    rw [desired]
    rfl
  have enters := portEnters_raised (s := withPort s u { s.port u with fault := true }) (u := u) (p := .readOnly)
    (by rw [port]; dsimp only; rw [ready]; decide)
  rw [portReports_serving unit, port] at enters
  have takes := takeState_enters (Y := withPort s u { s.port u with fault := true }) (u := u) (p := .readOnly)
    (by rw [port]; dsimp only; rw [ready]; rfl) (by rw [port]; exact served) (by rw [port]; dsimp only; rw [ready]; decide) (by decide)
  have done : (s.faultLevel u true).takeState u = withChange s u { s.port u with fault := true, state := .readOnly } :=
    takes.trans (enters.trans (congrArg (fun p : Four Port => ({ s with
      ports := p, mgmt := { s.mgmt with events := s.mgmt.events ||| Event.unitChange.bit } } : State)) (four_set_set _ _ _ _)))
  refine ⟨_, (exec_faultLine running.up done).trans (congrArg _ (finish_of_todo_nil (by exact running.settled))), ?_, ?_, ?_,
    refreshIdle_keeps (withChange_keeps s u _)⟩
  · rw [refreshIdle_ports]
    rfl
  · rw [refreshIdle_mgmt]
    rfl
  · rw [refreshIdle_counters]
    rfl

end

/-- Settles O51, line by line: `levels_inReset`, `asserted_attaches`, `asserted_level`, `released_level`, `released_leaves`,
`faultLine_level` and `faultLine_protects`. -/
theorem unitLinesMoveThePort : Obligations.UnitLinesMoveThePort := by
  unfold Obligations.UnitLinesMoveThePort
  intro s u level set
  refine ⟨levels_inReset, fun running => ⟨fun absent slots place patrol save => ?_, asserted_level running, released_level running,
    fun present unit slots waiting items scan idle0 idle1 erase => ?_, fun ready desired writes => ⟨fun low => ?_, fun high unit => ?_⟩⟩⟩
  · obtain ⟨x, step, ports, mgmt, k⟩ := asserted_attaches running absent slots place patrol save
    exact ⟨x, step, ports, k.link, k.engine, k.map, k.health, k.scan, k.log, mgmt, k.guard, k.store, k.mode⟩
  · obtain ⟨x, step, ports, mgmt, counters, k⟩ :=
      released_leaves running present unit slots waiting items scan idle0 idle1 erase
    exact ⟨x, step, ports, mgmt, k.link, k.engine, k.map, k.health, k.scan, k.log, k.guard, k.store, counters, k.mode⟩
  · subst low
    exact faultLine_level running ready desired writes
  · subst high
    obtain ⟨x, step, ports, mgmt, counters, k⟩ := faultLine_protects running ready desired unit
    exact ⟨x, step, ports, mgmt, k.link, k.engine, k.map, k.health, k.scan, k.log, k.guard, k.store, counters, k.mode⟩

end Sys2Proof.Proofs.UnitLines
end

section
/-!
PROOFS. Frames of the units and the timeouts of their operations (R61, R76, R81, R83, R195, R202).
-/

namespace Sys2Proof.Proofs.UnitFrames

open Sys2Proof Sys2Proof.Machine Sys2Proof.Laws

/-! ### Frames that change no operation's end (R81, R202) -/

section
variable {s : State} {u : Fin 4} {frame : List Byte} {Y : State}

theorem exec_unitData (running : s.Running) (done : s.unitDataFrame u frame = Y) : exec (.unitData u frame) s = .next Y := by
  rw [← done]
  exact whenUp_up (fun s => s.unitDataFrame u frame) running.up

theorem exec_result (running : s.Running) (done : s.resultFrame u frame = Y) : exec (.result u frame) s = .next Y := by
  rw [← done]
  exact whenUp_up (fun s => s.resultFrame u frame) running.up

theorem exec_timeout {slot : Fin 4} (running : s.Running) (done : s.slotTimesOut u slot = Y) :
    exec (.unitTimeout u slot) s = .next Y := by
  rw [← done]
  exact whenUp_up (fun s => s.slotTimesOut u slot) running.up

/-- A frame that the part discards. -/
theorem frame_discarded (running : s.Running) (unread : UnitFrame.parse frame = none) :
    exec (.unitData u frame) s = .next s ∧ exec (.result u frame) s = .next s := by
  refine ⟨exec_unitData running ?_, exec_result running ?_⟩
  · unfold State.unitDataFrame
    rw [unread]
  · unfold State.resultFrame
    rw [unread]

theorem unitDataFrame_data {slot : Fin 4} {offset : Nat} {block : Block} (read : UnitFrame.parse frame = some (.data slot offset block)) :
    s.unitDataFrame u frame = s.takeData u slot offset block := by
  unfold State.unitDataFrame
  rw [read]

theorem data_unawaited {slot : Fin 4} {offset : Nat} {block : Block} (running : s.Running)
    (read : UnitFrame.parse frame = some (.data slot offset block)) (empty : (s.port u).slots.get slot = none) :
    exec (.unitData u frame) s = .next s := by
  refine exec_unitData running ((unitDataFrame_data read).trans ?_)
  unfold State.takeData
  rw [empty]

/-- DATA of a READ is kept for its block. -/
theorem data_kept {slot : Fin 4} {offset : Nat} {block : Block} {o : Outstanding} (running : s.Running)
    (read : UnitFrame.parse frame = some (.data slot offset block)) (awaited : (s.port u).slots.get slot = some o)
    (reads : o.op.kind = .read) (inside : offset < o.op.count) :
    exec (.unitData u frame) s = .next { s with ports := s.ports.set u { s.port u with
      slots := (s.port u).slots.set slot
        (some { o with arrived := (offset, block) :: o.arrived.filter fun d => d.1 != offset }) } } := by
  refine exec_unitData running ((unitDataFrame_data read).trans ?_)
  unfold State.takeData
  rw [awaited]
  exact if_pos ⟨reads, inside⟩

theorem resultFrame_result {r : ResultFields} (read : UnitFrame.parse frame = some (.result r)) :
    s.resultFrame u frame = s.takeResult u r := by
  unfold State.resultFrame
  rw [read]

theorem result_unawaited {r : ResultFields} (running : s.Running) (read : UnitFrame.parse frame = some (.result r))
    (empty : (s.port u).slots.get r.slot = none) : exec (.result u frame) s = .next s := by
  refine exec_result running ((resultFrame_result read).trans ?_)
  unfold State.takeResult
  rw [empty]

theorem timeout_unawaited {slot : Fin 4} (running : s.Running) (empty : (s.port u).slots.get slot = none) :
    exec (.unitTimeout u slot) s = .next s := by
  refine exec_timeout running ?_
  unfold State.slotTimesOut
  rw [empty]

/-! ### The UNIT_RESET of an attach is DONE (R76) -/

/-- A port that sends an operation in an empty slot 0. -/
def sends (s : State) (p : Port) (kind : OpKind) (id : Nat) : Port :=
  { p with
    attachPlace := none
    slots := (Four.all none).set 0 (some (s.sentNow (mkOp kind 0 0 .port id [])))
    sent := p.sent ++ [⟨0, kind, 0, 0, []⟩] }

/-- What a step about one unit leaves apart from its log entry. -/
structure Keeps (s x : State) : Prop where
  link : x.link = s.link
  map : x.map = s.map
  health : x.health = s.health
  guard : x.guard = s.guard
  mode : x.modes.mode = s.modes.mode

theorem refreshIdle_keeps {y : State} (keeps : Keeps s y) : Keeps s y.refreshIdle :=
  ⟨(refreshIdle_link y).trans keeps.link, (refreshIdle_map y).trans keeps.map, (refreshIdle_health y).trans keeps.health,
    (refreshIdle_guard y).trans keeps.guard, (refreshIdle_modes_mode y).trans keeps.mode⟩

/-- An ATTACHING port with nothing to send. -/
theorem attaching_rests {p : Port} (attaching : p.state = .attaching) (place : p.attachPlace = none) (store : p.storePlace = none)
    (loading : Bool) : p.next loading = none := by
  unfold Port.next
  rw [attaching]
  unfold Port.nextAttaching
  rw [place, store]
  cases loading <;> rfl

theorem slot_one {p : Port} {slot : Fin 4} {o : Outstanding} (slots : p.slots = (Four.all none).set slot (some o)) :
    p.slots.get slot = some o := by
  rw [slots]
  exact four_get_set_self _ _ _

/-- The part as the UNIT_RESET has ended: its slot is free. -/
def resetDone (s : State) (u : Fin 4) (c : CounterBank) : State :=
  { s with nextFree := s.nextFree + 1, ports := s.ports.set u { s.port u with slots := Four.all none }, counters := c }

/-- The part as IDENTIFY has been sent. -/
def identifying (s : State) (u : Fin 4) (c : CounterBank) : State :=
  { s with
    nextFree := s.nextFree + 1
    nextId := s.nextId + 1
    counters := c
    ports := s.ports.set u (sends s (s.port u) .identify s.nextId) }

theorem identifying_port (s : State) (u : Fin 4) (c : CounterBank) :
    (identifying s u c).port u = sends s (s.port u) .identify s.nextId := port_at (s := s) rfl

theorem takes_reset {r : ResultFields} {o : Outstanding} (attaching : (s.port u).state = .attaching) (resets : o.op.kind = .unitReset)
    (owner : o.op.owner = .port) (kind : r.kind = 7) (done : r.outcome = 0) (soft : r.soft = []) (loading : Bool) :
    (s.port u).takes o.op r loading = true := by
  unfold Port.takes Port.attachingTakes
  rw [attaching, resets, owner, kind, done, soft]
  rfl

/-- The UNIT_RESET of an attach ends DONE and sends IDENTIFY. -/
theorem resultTaken_reset {r : ResultFields} {o : Outstanding} (attaching : (s.port u).state = .attaching)
    (store : (s.port u).storePlace = none)
    (slots : (s.port u).slots = (Four.all none).set r.slot (some o)) (resets : o.op.kind = .unitReset) (owner : o.op.owner = .port)
    (done : r.outcome = 0) : ∃ c, s.resultTaken u r.slot o r = State.later (identifying s u c) (.takes u) := by
  have outcome : outcomeOf s.nextFree o r = .done r.soft [] r.capacity := by
    unfold outcomeOf
    rw [done, resets]
    rfl
  have emptied : (s.port u).slots.set r.slot none = Four.all none := by
    rw [slots]
    exact four_all_set_none _ _
  have ended : (State.countOutcome (State.onPort { s with nextFree := s.nextFree + 1 } u fun p =>
      { p with slots := p.slots.set r.slot none }) u (.done r.soft [] r.capacity)).healthTakes u o.op (.done r.soft [] r.capacity) =
      resetDone s u { s.counters with units := s.countedAt u fun c => { c with
        softErrors := min 4294967295 (c.softErrors + r.soft.length) } } := by
    have silent : o.op.reported u = false := by
      unfold Op.reported
      rw [resets]
      rfl
    unfold State.healthTakes
    rw [silent]
    refine (if_neg Bool.false_ne_true).trans ?_
    show State.countOutcome { s with
      nextFree := s.nextFree + 1
      ports := s.ports.set u { s.port u with slots := (s.port u).slots.set r.slot none } } u (.done r.soft [] r.capacity) = _
    rw [emptied]
    rfl
  generalize ({ s.counters with units := s.countedAt u _ } : CounterBank) = c at ended
  have port : (resetDone s u c).port u = { s.port u with slots := Four.all none } := port_at (s := s) (by exact rfl)
  obtain ⟨c', placed, -⟩ := placeAttach_sends (s := resetDone s u c) (u := u) (k := .identify) (by rw [port]; exact attaching)
    (by rw [port]) (by rw [port]; exact store)
  rw [port] at placed
  have at_ : (resetDone s u c).placeAttach u .identify = identifying s u c' :=
    placed.trans (congrArg (fun p : Four Port => ({ s with
      nextFree := s.nextFree + 1, nextId := s.nextId + 1, counters := c', ports := p } : State)) (four_set_set _ _ _ _))
  have pumped : (identifying s u c').pump u = identifying s u c' :=
    pump_nothing (by rw [identifying_port]; exact attaching_rests (by exact attaching) (by exact rfl) (by exact store) _)
  refine ⟨c', ?_⟩
  unfold State.resultTaken
  dsimp only
  rw [outcome, ended, if_pos owner, resets]
  show (((resetDone s u c).placeAttach u .identify).pump u).later (.takes u) = _
  rw [at_, pumped]

theorem reset_identifies {r : ResultFields} {o : Outstanding} (running : s.Running) (read : UnitFrame.parse frame = some (.result r))
    (attaching : (s.port u).state = .attaching) (store : (s.port u).storePlace = none)
    (slots : (s.port u).slots = (Four.all none).set r.slot (some o)) (resets : o.op.kind = .unitReset) (owner : o.op.owner = .port)
    (kind : r.kind = 7) (done : r.outcome = 0) (soft : r.soft = []) :
    ∃ x, exec (.result u frame) s = .next x ∧ x.ports = s.ports.set u (sends s (s.port u) .identify s.nextId) ∧ Keeps s x ∧
      x.engine = s.engine ∧ x.scan = s.scan ∧ x.log = s.log ∧ x.mgmt = s.mgmt ∧ x.store = s.store := by
  obtain ⟨c, taken⟩ := resultTaken_reset (r := r) (o := o) attaching store slots resets owner done
  have takes : s.takeResult u r = (s.resultTaken u r.slot o r).finish := by
    unfold State.takeResult
    rw [slot_one slots]
    exact if_pos (takes_reset attaching resets owner kind done soft _)
  have finish := finish_one (s := State.later (identifying s u c) (.takes u)) (w := .takes u) (t := { identifying s u c with todo := [] })
    (by show s.todo ++ [_] = _; rw [running.settled]; rfl)
    (takeState_not (s := { identifying s u c with todo := [] }) (by
      show ((identifying s u c).port u).state.serves = false
      rw [identifying_port]
      exact congrArg PortState.serves attaching)) rfl
  rw [← taken, ← takes, ← resultFrame_result read] at finish
  refine ⟨_, exec_result running finish, refreshIdle_ports _, refreshIdle_keeps ⟨rfl, rfl, rfl, rfl, rfl⟩, refreshIdle_engine _,
    refreshIdle_scan _, refreshIdle_log _, ?_, refreshIdle_store _⟩
  rw [refreshIdle_mgmt]
  rfl

/-! ### Timeouts (R83) -/

/-- A failure reported after the load, that is no save's, is logged and makes the store DIRTY (R195, R196). -/
theorem report_logs {rep : LogReport} (loaded : s.store.load = none) (noSave : rep.ofSave = false) : s.report rep = { s with
    log := s.log.write (s.formEntry rep)
    mgmt := { s.mgmt with events := s.mgmt.events ||| Event.errorLogged.bit }
    store := s.store.dirtied } := by
  have ended : s.loadEnded = true := by
    unfold State.loadEnded
    rw [loaded]
    rfl
  unfold State.report State.logEntry
  dsimp only
  rw [if_pos ended, noSave, markDirty_eq]
  rfl

/-- The part as the only operation of a port has timed out. -/
def timedOut (s : State) (u : Fin 4) (o : Op) : State :=
  { s with
    ports := s.ports.set u { s.port u with slots := Four.all none }
    log := s.log.write (s.formEntry (s.timeoutReport u o))
    mgmt := { s.mgmt with events := s.mgmt.events ||| Event.errorLogged.bit }
    store := s.store.dirtied
    counters := { s.counters with units := s.countedAt u fun c => { c with timeouts := min 4294967295 (c.timeouts + 1) } }
    todo := [.ended u o .timeout] }

theorem timedOut_port (s : State) (u : Fin 4) (o : Op) : (timedOut s u o).port u = { s.port u with slots := Four.all none } :=
  port_at (s := s) rfl

theorem timedOut_counts (s : State) (u : Fin 4) (o : Op) :
    ((timedOut s u o).counters.units.get u).timeouts = min 4294967295 ((s.counters.units.get u).timeouts + 1) :=
  congrArg UnitCounters.timeouts (four_get_set_self _ _ _)

theorem unitTimesOut_one {slot : Fin 4} {o : Outstanding} (running : s.Running) (loaded : s.store.load = none)
    (slots : (s.port u).slots = (Four.all none).set slot (some o)) (noSave : (s.timeoutReport u o.op).ofSave = false) :
    s.unitTimesOut u = (timedOut s u o.op).afterTimeout u [o.op] := by
  have timed : State.timeOut u (s.onPort u fun p => { p with slots := Four.all none }) o.op = timedOut s u o.op := by
    unfold State.timeOut
    rw [report_logs (by exact loaded) (by exact noSave)]
    have work : s.todo ++ [.ended u o.op .timeout] = [.ended u o.op .timeout] := by rw [running.settled]; rfl
    exact congrArg (fun l => ({ timedOut s u o.op with todo := l } : State)) work
  unfold State.unitTimesOut
  rw [outstanding_one slots]
  exact congrArg (fun x : State => x.afterTimeout u [o.op]) timed

theorem slotTimesOut_awaited {slot : Fin 4} {o : Outstanding} (awaited : (s.port u).slots.get slot = some o) :
    s.slotTimesOut u slot = (s.unitTimesOut u).finish := by
  unfold State.slotTimesOut
  rw [awaited]

/-- What a timeout changes apart from the ports and the engine. -/
structure TimesOut (s x : State) (u : Fin 4) (o : Op) : Prop extends Keeps s x where
  log : x.log = s.log.write (s.formEntry (s.timeoutReport u o))
  counts : (x.counters.units.get u).timeouts = min 4294967295 ((s.counters.units.get u).timeouts + 1)
  mgmt : x.mgmt = { s.mgmt with events := s.mgmt.events ||| Event.errorLogged.bit }
  store : x.store = s.store.dirtied

theorem refreshIdle_timesOut {o : Op} {y : State} (timed : TimesOut s y u o) : TimesOut s y.refreshIdle u o where
  toKeeps := refreshIdle_keeps timed.toKeeps
  log := (refreshIdle_log y).trans timed.log
  counts := by rw [refreshIdle_counters]; exact timed.counts
  mgmt := (refreshIdle_mgmt y).trans timed.mgmt
  store := (refreshIdle_store y).trans timed.store

/-! ### The UNIT_RESET of an attach times out (R76) -/

/-- The report of a port's own operation names no item. -/
theorem timeoutReport_port {o : Op} (owner : o.owner = .port) (none_ : o.count = 0) : s.timeoutReport u o =
    { kind := .unitTimeout, unit := u, block := none, logical := none, item := none, ofSave := false } := by
  unfold State.timeoutReport
  rw [owner, none_]
  rfl

/-- Below three attempts an attach begins again with UNIT_RESET. -/
theorem attemptFails_again (unit : u ≠ 0) (few : (s.port u).attempts < 2) : s.attemptFails u = State.placeAttach (s.onPort u fun p => { p with
    attempts := p.attempts + 1, identified := false }) u .unitReset := by
  unfold State.attemptFails
  dsimp only
  rw [if_neg unit, if_pos (by omega : (s.port u).attempts + 1 < 3)]
  refine congrArg (fun p : Port => State.placeAttach { s with ports := s.ports.set u p } u .unitReset) ?_
  dsimp only
  rw [if_neg fun both => unit both.1]
  rfl

theorem reset_timesOut {slot : Fin 4} {o : Outstanding} (running : s.Running) (unit : u ≠ 0) (loaded : s.store.load = none)
    (attaching : (s.port u).state = .attaching) (place : (s.port u).attachPlace = none) (store : (s.port u).storePlace = none)
    (slots : (s.port u).slots = (Four.all none).set slot (some o)) (owner : o.op.owner = .port) (none_ : o.op.count = 0)
    (few : (s.port u).attempts < 2) :
    ∃ x, exec (.unitTimeout u slot) s = .next x ∧ x.ports = s.ports.set u (sends s { s.port u with
        attempts := (s.port u).attempts + 1, identified := false } .unitReset s.nextId) ∧
      TimesOut s x u o.op ∧ x.engine = s.engine ∧ x.scan = s.scan := by
  have rep := timeoutReport_port (s := s) (u := u) owner none_
  have times := unitTimesOut_one running loaded slots (by rw [rep])
  have port := timedOut_port s u o.op
  have fails : (timedOut s u o.op).afterTimeout u [o.op] = (timedOut s u o.op).attemptFails u := by
    unfold State.afterTimeout
    rw [port]
    dsimp only
    rw [attaching]
    refine if_pos ?_
    unfold Port.attachingTakes
    simp [owner, place]
  have again := attemptFails_again (s := timedOut s u o.op) unit (by rw [port]; exact few)
  obtain ⟨c, placed, -, -, counts⟩ := placeAttach_sends (s := (timedOut s u o.op).onPort u fun p => { p with
    attempts := p.attempts + 1, identified := false }) (u := u) (k := .unitReset) (by rw [onPort_port, port]; exact attaching)
    (by rw [onPort_port, port]) (by rw [onPort_port, port]; exact store)
  rw [onPort_port, port] at placed
  have finish := finish_one (w := .ended u o.op .timeout) (t := { timedOut s u o.op with
      nextId := s.nextId + 1, counters := c, todo := []
      ports := s.ports.set u (sends s { s.port u with attempts := (s.port u).attempts + 1, identified := false } .unitReset s.nextId) })
    (s := { timedOut s u o.op with
      nextId := s.nextId + 1, counters := c
      ports := s.ports.set u (sends s { s.port u with attempts := (s.port u).attempts + 1, identified := false } .unitReset s.nextId) })
    rfl (by show State.handBack _ o.op .timeout = _; unfold State.handBack; rw [owner]) rfl
  have sent : s.unitTimesOut u = { timedOut s u o.op with
      nextId := s.nextId + 1, counters := c
      ports := s.ports.set u (sends s { s.port u with attempts := (s.port u).attempts + 1, identified := false } .unitReset s.nextId) } := by
    refine times.trans (fails.trans (again.trans (placed.trans ?_)))
    refine congrArg (fun p : Four Port => ({ timedOut s u o.op with nextId := s.nextId + 1, counters := c, ports := p } : State)) ?_
    rw [onPort_ports, four_set_set]
    exact four_set_set _ _ _ _
  rw [← sent, ← slotTimesOut_awaited (slot_one slots)] at finish
  refine ⟨_, exec_timeout running finish, refreshIdle_ports _, refreshIdle_timesOut ⟨⟨rfl, rfl, rfl, rfl, rfl⟩, rfl, ?_, rfl, rfl⟩,
    refreshIdle_engine _, refreshIdle_scan _⟩
  exact (counts u).trans (timedOut_counts s u o.op)

/-! ### The operation of a request's segment times out (R61, R83) -/

/-- A first timeout keeps a live segment for a retry. -/
theorem segmentEnded_timeout {r : Request} {g : Segment} {kind : OpKind} (found : Y.request? r.id = some r)
    (segment : r.segment? g.id = some g) (live : r.orphan = false) (cancelled : r.cancelled = false) (first : g.retried = false)
    (own : kind = r.kind.op) (noSync : r.kind ≠ .sync) : Y.segmentEnded r.id g.id kind .timeout =
      Y.onSegment r.id g.id fun g => { g with phase := .retry, retried := true } := by
  have kept : Y.segmentTimeout r g false = Y.onSegment r.id g.id fun g => { g with phase := .retry, retried := true } := by
    unfold State.segmentTimeout
    rw [first, cancelled]
    rfl
  unfold State.segmentEnded
  rw [found]
  dsimp only
  rw [segment]
  refine (if_neg (ne_true_of_eq_false live)).trans ?_
  cases named : r.kind with
  | read => exact kept
  | verify => exact kept
  | write =>
    rw [named] at own
    exact (if_neg (by rw [own]; decide)).trans kept
  | sync => exact absurd named noSync

/-- The report of a segment's operation names the request and its block. -/
theorem timeoutReport_segment {r : Request} {g : Segment} {o : Op} (owner : o.owner = .segment r.id g.id)
    (found : s.request? r.id = some r) (segment : r.segment? g.id = some g) (some_ : o.count ≠ 0) : s.timeoutReport u o =
    { kind := .unitTimeout, unit := u, block := some o.first, logical := some (r.lba + g.off), item := some r.record, ofSave := false } := by
  unfold State.timeoutReport
  rw [owner]
  dsimp only
  rw [found]
  dsimp only
  rw [segment, if_neg some_]
  rfl

/-- After the timeout of an operation that is no POWER_DOWN a port that serves begins an attach. -/
theorem afterTimeout_attaches {o : Op} (serves : (Y.port u).state.serves = true) (noPower : o.kind ≠ .powerDown) :
    Y.afterTimeout u [o] = Y.beginAttach u false := by
  have none_ : ([o].any fun o => decide (o.kind = .powerDown)) = false := by simpa using noPower
  unfold State.afterTimeout
  cases state : (Y.port u).state <;> rw [state] at serves
  case ready => exact if_neg (ne_true_of_eq_false none_)
  case readOnly => exact if_neg (ne_true_of_eq_false none_)
  all_goals exact Bool.noConfusion serves

theorem segment_timesOut {slot : Fin 4} {o : Outstanding} {r : Request} {g : Segment} (running : s.Running) (unit : u ≠ 0)
    (loaded : s.store.load = none) (serves : (s.port u).state.serves = true)
    (slots : (s.port u).slots = (Four.all none).set slot (some o)) (place : (s.port u).storePlace = none)
    (patrol : ∀ c, s.scan.context = some c → c.kind = .patrol) (owner : o.op.owner = .segment r.id g.id) (kind : o.op.kind = r.kind.op)
    (some_ : o.op.count ≠ 0) (noSync : r.kind ≠ .sync) (found : s.request? r.id = some r) (segment : r.segment? g.id = some g)
    (live : r.orphan = false) (cancelled : r.cancelled = false) (first : g.retried = false) :
    ∃ x, exec (.unitTimeout u slot) s = .next x ∧ x.ports = s.ports.set u (s.attachBegun (s.port u) false s.nextId) ∧
      TimesOut s x u o.op ∧ x.engine = (s.onSegment r.id g.id fun g => { g with phase := .retry, retried := true }).engine := by
  have times := unitTimesOut_one running loaded slots (by rw [timeoutReport_segment owner found segment some_])
  have port := timedOut_port s u o.op
  have noPower : o.op.kind ≠ .powerDown := by
    rw [kind]
    cases r.kind <;> decide
  have after := afterTimeout_attaches (Y := timedOut s u o.op) (u := u) (o := o.op) (by rw [port]; exact serves) noPower
  obtain ⟨c, begins, -, -, counts⟩ := beginAttach_sends (s := timedOut s u o.op) (u := u) (k := false) (by rw [port])
    (by rw [port]; exact place) patrol fun zero => absurd zero unit
  rw [port] at begins
  have sent : s.unitTimesOut u = { timedOut s u o.op with
      nextId := s.nextId + 1, counters := c, ports := s.ports.set u (s.attachBegun (s.port u) false s.nextId) } :=
    times.trans (after.trans (begins.trans (congrArg (fun p : Four Port => ({ timedOut s u o.op with
      nextId := s.nextId + 1, counters := c, ports := p } : State)) (four_set_set _ _ _ _))))
  have back : State.handBack { timedOut s u o.op with
      nextId := s.nextId + 1, counters := c, todo := [], ports := s.ports.set u (s.attachBegun (s.port u) false s.nextId) } o.op .timeout =
      State.onSegment { timedOut s u o.op with
        nextId := s.nextId + 1, counters := c, todo := []
        ports := s.ports.set u (s.attachBegun (s.port u) false s.nextId) } r.id g.id fun g => { g with
          phase := .retry, retried := true } := by
    unfold State.handBack
    rw [owner]
    exact segmentEnded_timeout (by exact found) segment live cancelled first kind noSync
  have finish := finish_one (w := .ended u o.op .timeout) (s := { timedOut s u o.op with
      nextId := s.nextId + 1, counters := c, ports := s.ports.set u (s.attachBegun (s.port u) false s.nextId) }) rfl back rfl
  rw [← sent, ← slotTimesOut_awaited (slot_one slots)] at finish
  refine ⟨_, exec_timeout running finish, refreshIdle_ports _, refreshIdle_timesOut ⟨⟨rfl, rfl, rfl, rfl, rfl⟩, rfl, ?_, rfl, rfl⟩,
    refreshIdle_engine _⟩
  exact (counts u).trans (timedOut_counts s u o.op)

end

/-- Settles O52, by the frame or the timeout: the `_unawaited` lemmas and `frame_discarded` for what changes nothing, `data_kept`,
`reset_identifies`, `reset_timesOut` and `segment_timesOut` for the rest. -/
theorem unitFramesAndTimeoutsEndOperations : Obligations.UnitFramesAndTimeoutsEndOperations := by
  unfold Obligations.UnitFramesAndTimeoutsEndOperations
  intro s u running sent
  refine ⟨fun frame unread => frame_discarded running unread, fun frame slot offset block read => ⟨data_unawaited running read,
    fun o awaited reads inside => data_kept running read awaited reads inside⟩, fun frame r read => ⟨result_unawaited running read,
      fun o attaching _ store slots resets owner kind done soft => ?_⟩, fun slot => ⟨timeout_unawaited running,
        fun o unit loaded attaching place store slots _ owner none_ few => ?_,
        fun o r g unit _ loaded serves slots place patrol owner kind some_ noSync found segment live cancelled first => ?_⟩⟩
  · obtain ⟨x, step, ports, k, engine, scan, log, mgmt, stored⟩ :=
      reset_identifies running read attaching store slots resets owner kind done soft
    exact ⟨x, step, ports, k.link, engine, k.map, k.health, scan, log, mgmt, k.guard, stored, k.mode⟩
  · obtain ⟨x, step, ports, t, engine, scan⟩ := reset_timesOut running unit loaded attaching place store slots owner none_ few
    have entry := t.log
    rw [timeoutReport_port owner none_] at entry
    exact ⟨x, step, ports, ⟨_, rfl, rfl, rfl, rfl, rfl, entry⟩, t.counts, t.mgmt, t.store, t.link, engine, t.map, t.health, scan,
      t.guard, t.mode⟩
  · obtain ⟨x, step, ports, t, engine⟩ := segment_timesOut running unit loaded serves slots place patrol owner kind some_ noSync found
      segment live cancelled first
    have entry := t.log
    rw [timeoutReport_segment owner found segment some_] at entry
    exact ⟨x, step, ports, engine, ⟨_, rfl, rfl, rfl, rfl, rfl, entry⟩, t.counts, t.mgmt, t.store, t.link, t.map, t.health, t.guard,
      t.mode⟩

end Sys2Proof.Proofs.UnitFrames
end

section
/-!
PROOFS. The end of an attach by the coverage of its capacity (R17, R18, R70, R72, R77, R84, R87, R195).
-/

namespace Sys2Proof.Proofs.AttachEnds

open Sys2Proof Sys2Proof.Machine Sys2Proof.Laws
open Sys2Proof.Proofs.UnitLines (relocLost_none onPort_self)
open Sys2Proof.Proofs.UnitFrames (exec_result resultFrame_result slot_one report_logs)

/-! ### IDENTIFY has ended -/

/-- The port as its capacity is recorded. -/
def identified (p : Port) (capacity : Nat) : Port := { p with slots := Four.all none, capacity := some capacity }

/-- The port as its attach has ended. -/
def attached (p : Port) (capacity : Nat) : Port :=
  { p with slots := Four.all none, capacity := some capacity, waking := false, identified := false, sleepRecord := none }

/-- The part as IDENTIFY has ended, with the port and the event flags of the end of the attach. -/
def attaches (s : State) (u : Fin 4) (c : CounterBank) (p : Port) (events : BitVec 16) : State :=
  { s with nextFree := s.nextFree + 1, counters := c, ports := s.ports.set u p, mgmt := { s.mgmt with events := events } }

/-- The event flags with UNIT_CHANGE. -/
def raised (s : State) : BitVec 16 := s.mgmt.events ||| Event.unitChange.bit

/-- The counters with no further soft error. -/
def counted (s : State) (u : Fin 4) (f : ResultFields) : CounterBank :=
  { s.counters with units := s.countedAt u fun c => { c with softErrors := min 4294967295 (c.softErrors + f.soft.length) } }

section
variable {s : State} {u : Fin 4} {frame : List Byte} {f : ResultFields} {o : Outstanding} {c : CounterBank} {p : Port} {events : BitVec 16}

theorem attaches_port : (attaches s u c p events).port u = p := port_at (s := s) rfl

theorem attaches_onPort (g : Port → Port) : (attaches s u c p events).onPort u g = attaches s u c (g p) events := by
  have port : Four.get (attaches s u c p events).ports u = p := attaches_port
  have ports : Four.set (attaches s u c p events).ports u (g (Four.get (attaches s u c p events).ports u)) = s.ports.set u (g p) := by
    rw [port]
    exact four_set_set _ _ _ _
  exact congrArg (fun q : Four Port => ({ attaches s u c p events with ports := q } : State)) ports

theorem takes_identify (ident : s.Identifies u frame f o) (loading : Bool) : (s.port u).takes o.op f loading = true := by
  unfold Port.takes Port.attachingTakes
  rw [ident.attaching, ident.op, ident.owner, ident.kind, ident.outcome, ident.soft]
  rfl

theorem loadEnded_of (loaded : s.store.load = none) : s.loadEnded = true := by
  unfold State.loadEnded
  rw [loaded]
  rfl

/-- The capacity is recorded and checked. -/
theorem resultTaken_identify (ident : s.Identifies u frame f o) : s.resultTaken u f.slot o f =
    ((State.checkCoverage (attaches s u (counted s u f) (identified (s.port u) f.capacity) s.mgmt.events) u).pump u).later
      (.takes u) := by
  have outcome : outcomeOf s.nextFree o f = .done f.soft [] f.capacity := by
    unfold outcomeOf
    rw [ident.outcome, ident.op]
    rfl
  have emptied : (s.port u).slots.set f.slot none = Four.all none := by
    rw [ident.slots]
    exact four_all_set_none _ _
  have silent : o.op.reported u = false := by
    unfold Op.reported
    rw [ident.op]
    rfl
  have ended : (State.countOutcome (State.onPort { s with nextFree := s.nextFree + 1 } u fun p =>
      { p with slots := p.slots.set f.slot none }) u (.done f.soft [] f.capacity)).healthTakes u o.op (.done f.soft [] f.capacity) =
      attaches s u (counted s u f) { s.port u with slots := Four.all none } s.mgmt.events := by
    unfold State.healthTakes
    rw [silent]
    refine (if_neg Bool.false_ne_true).trans ?_
    show State.countOutcome { s with
      nextFree := s.nextFree + 1
      ports := s.ports.set u { s.port u with slots := (s.port u).slots.set f.slot none } } u (.done f.soft [] f.capacity) = _
    rw [emptied]
    rfl
  have records : (attaches s u (counted s u f) { s.port u with slots := Four.all none } s.mgmt.events).identified u f.capacity =
      State.checkCoverage (attaches s u (counted s u f) (identified (s.port u) f.capacity) s.mgmt.events) u := by
    refine (if_pos (loadEnded_of (by exact ident.loaded))).trans ?_
    exact congrArg (fun x : State => x.checkCoverage u) (attaches_onPort fun p => { p with capacity := some f.capacity })
  unfold State.resultTaken
  dsimp only
  rw [outcome, ended, if_pos ident.owner, ident.op, ← records]
  rfl

theorem checkCoverage_known {Y : State} {n : Nat} (known : (Y.port u).capacity = some n) :
    Y.checkCoverage u = if Y.map.covers u n then Y.attachEnds u else Y.portFails u .capacity := by
  unfold State.checkCoverage
  rw [known]

/-! ### The port enters its state (R70, R72, R84) -/

/-- The port of a unit with no work for it has its new state reported without effect. -/
theorem portReports_quiet {Y : State} (unit : u ≠ 0) (scan : Y.scan.context = none) (idle0 : Y.health.slot0 = none)
    (idle1 : Y.health.slot1 = none) (p : PortState) : Y.portReports u p = Y := by
  have scanned : Y.scanPort u p = Y := by
    unfold State.scanPort
    rw [scan]
  unfold State.portReports
  rw [scanned]
  dsimp only
  rw [if_neg unit, relocLost_none idle0 idle1, ite_self]

/-- A port without waiting work that enters READY or READ_ONLY. -/
theorem attachEnds_serves (ident : s.Identifies u frame f o) {state : PortState} (served : (s.port u).served = state)
    (serves : state.serves = true) :
    (attaches s u c (identified (s.port u) f.capacity) s.mgmt.events).attachEnds u = State.later
      (attaches s u c { attached (s.port u) f.capacity with state := state }
        (if (s.port u).waking = true ∧ (s.port u).sleepRecord = some state then s.mgmt.events else raised s)) (.retries u) := by
  have moves : (s.port u).state ≠ state := by
    rw [ident.attaching]
    intro same
    rw [← same] at serves
    cases serves
  obtain ⟨idle0, idle1⟩ := ident.relocs
  obtain ⟨queue, scan, store, -⟩ := waiting_nil ident.waiting
  have enters (raises : Bool) : (State.onPort (attaches s u c (identified (s.port u) f.capacity) s.mgmt.events) u fun p =>
      { p with waking := false, identified := false, sleepRecord := none }).portEnters u state raises =
      attaches s u c { attached (s.port u) f.capacity with state := state } (if raises then raised s else s.mgmt.events) := by
    unfold State.portEnters
    dsimp only
    rw [portReports_quiet ident.unit (by split <;> exact ident.scan) (by split <;> exact idle0) (by split <;> exact idle1),
      attaches_onPort, attaches_onPort, attaches_port]
    cases raises with
    | false => rfl
    | true => exact if_pos (by exact decide_eq_true moves)
  have pumped (events : BitVec 16) : (attaches s u c { attached (s.port u) f.capacity with state := state } events).pump u =
      attaches s u c { attached (s.port u) f.capacity with state := state } events :=
    pump_nothing (by rw [attaches_port]; exact next_none_of_empty (by exact serves) (by exact queue) (by exact scan) (by exact store) _)
  unfold State.attachEnds
  rw [attaches_port]
  dsimp only
  rw [show (identified (s.port u) f.capacity).served = state from served, if_neg (by intro off; rw [off] at serves; cases serves), enters,
    pumped]
  refine congrArg (fun e => State.later (attaches s u c { attached (s.port u) f.capacity with state := state } e) (.retries u)) ?_
  by_cases same : (s.port u).waking = true ∧ (s.port u).sleepRecord = some state
  · rw [if_pos same]
    simp [identified, same.1, same.2]
  · rw [if_neg same]
    refine if_pos ?_
    show (!((s.port u).waking && decide ((s.port u).sleepRecord = some state))) = true
    rw [Bool.not_eq_true', Bool.eq_false_iff]
    exact fun both => same (by simpa using both)

/-- A port without waiting work that enters OFFLINE. -/
theorem attachEnds_offline (ident : s.Identifies u frame f o) (served : (s.port u).served = .offline) :
    (attaches s u c (identified (s.port u) f.capacity) s.mgmt.events).attachEnds u = State.later
      (attaches s u c { attached (s.port u) f.capacity with state := .offline, powerDownAttempts := 0 } (raised s)) (.retries u) := by
  have enters := enterOffline_quiet (s := attaches s u c (identified (s.port u) f.capacity) s.mgmt.events) (u := u)
    (by rw [attaches_port]; show (s.port u).state ≠ .offline; rw [ident.attaching]; decide)
    (by rw [attaches_port]; exact ident.waiting) ident.scan fun zero => absurd zero ident.unit
  rw [if_neg ident.unit, attaches_port] at enters
  have ends : (attaches s u c (identified (s.port u) f.capacity) s.mgmt.events).attachEnds u =
      (attaches s u c (identified (s.port u) f.capacity) s.mgmt.events).enterOffline u :=
    if_pos (by rw [attaches_port]; exact served)
  refine ends.trans (enters.trans (congrArg (fun q : Four Port => State.later { s with
    nextFree := s.nextFree + 1, counters := c, ports := q, mgmt := { s.mgmt with events := raised s } } (.retries u)) ?_))
  exact four_set_set _ _ _ _

/-- A port without waiting work that enters FAILED. -/
theorem portFails_capacity (ident : s.Identifies u frame f o) :
    (attaches s u c (identified (s.port u) f.capacity) s.mgmt.events).portFails u .capacity = State.later (State.later
      (attaches s u c { attached (s.port u) f.capacity with state := .failed, cause := .capacity, powerDownAttempts := 0 } (raised s))
      (.retries u)) (.unitFailed u) := by
  obtain ⟨idle0, idle1⟩ := ident.relocs
  have enters := portEnters_raised (s := attaches s u c { attached (s.port u) f.capacity with cause := .capacity, powerDownAttempts := 0 }
    s.mgmt.events) (u := u) (p := .failed) (by rw [attaches_port]; show (s.port u).state ≠ .failed; rw [ident.attaching]; decide)
  rw [portReports_quiet ident.unit (by exact ident.scan) (by exact idle0) (by exact idle1), attaches_port] at enters
  have entered : (attaches s u c { attached (s.port u) f.capacity with cause := .capacity, powerDownAttempts := 0 }
      s.mgmt.events).portEnters u .failed true = attaches s u c { attached (s.port u) f.capacity with
        state := .failed, cause := .capacity, powerDownAttempts := 0 } (raised s) :=
    enters.trans (congrArg (fun q : Four Port => ({ s with
      nextFree := s.nextFree + 1, counters := c, ports := q, mgmt := { s.mgmt with events := raised s } } : State))
      (four_set_set _ _ _ _))
  unfold State.portFails
  dsimp only
  rw [endWaiting_nothing (by rw [attaches_port]; exact ident.waiting), attaches_onPort, ← entered]
  rfl

/-! ### The step -/

/-- A port that is no longer ATTACHING and has nothing waiting sends nothing. -/
theorem attaches_rests (ident : s.Identifies u frame f o) (queue : p.queue = (s.port u).queue)
    (scan : p.scanPlace = (s.port u).scanPlace) (store : p.storePlace = (s.port u).storePlace) (state : p.state ≠ .attaching)
    (todo : List Work) :
    State.pump { attaches s u c p events with todo := todo } u = { attaches s u c p events with todo := todo } := by
  obtain ⟨queued, scanned, stored, -⟩ := waiting_nil ident.waiting
  have port : State.port { attaches s u c p events with todo := todo } u = p :=
    attaches_port (c := c) (events := events)
  refine pump_nothing ?_
  rw [port]
  cases at_ : p.state with
  | attaching => exact absurd at_ state
  | ready => exact next_none_of_empty (by rw [at_]; rfl) (queue.trans queued) (scan.trans scanned) (store.trans stored) _
  | readOnly => exact next_none_of_empty (by rw [at_]; rfl) (queue.trans queued) (scan.trans scanned) (store.trans stored) _
  | absent | offline | sleeping | failed =>
    unfold Port.next
    rw [at_]

/-- The step of the RESULT, by the work that the end of the attach leaves. -/
theorem exec_ends (ident : s.Identifies u frame f o) (queue : p.queue = (s.port u).queue)
    (scan : p.scanPlace = (s.port u).scanPlace) (store : p.storePlace = (s.port u).storePlace) (state : p.state ≠ .attaching)
    {todo : List Work} {y : State}
    (ends : (attaches s u (counted s u f) (identified (s.port u) f.capacity) s.mgmt.events).checkCoverage u =
      { attaches s u (counted s u f) p events with todo := todo })
    (finish : State.finish { attaches s u (counted s u f) p events with todo := todo ++ [.takes u] } = y) :
    exec (.result u frame) s = .next y := by
  have taken : s.resultTaken u f.slot o f = { attaches s u (counted s u f) p events with todo := todo ++ [.takes u] } := by
    rw [resultTaken_identify ident, ends, attaches_rests ident queue scan store state]
    rfl
  refine exec_result ident.toRunning ((resultFrame_result ident.frame).trans ?_)
  unfold State.takeResult
  rw [slot_one ident.slots]
  refine (if_pos (takes_identify ident _)).trans ?_
  rw [taken]
  exact finish

/-- What ended retries leave of a part with nothing to offer that is not powering down (R77). -/
theorem retries_none {Y : State} (items : Y.engine.items = []) (scan : Y.scan.context = none) (erase : Y.guard.erase = none)
    (mode : Y.modes.mode = .service ∨ Y.modes.mode = .config) : Y.retriesDue u = Y := by
  have again : Y.powersDownAgain u = Y := by
    have awake : (Y.poweringDown || decide (Y.modes.mode = .standby)) = false := by
      unfold State.poweringDown
      rcases mode with mode | mode <;> rw [mode] <;> rfl
    unfold State.powersDownAgain
    rw [awake]
    rfl
  have scanned : Y.scanRetry u = Y := by
    unfold State.scanRetry
    rw [scan]
  have erased : Y.eraseRetry u = Y := by
    unfold State.eraseRetry GuardUnit.eraseWaits
    rw [erase]
    rfl
  unfold State.retriesDue State.waitingOps
  rw [items]
  show State.powersDownAgain ((Y.scanRetry u).eraseRetry u) u = Y
  rw [scanned, erased, again]

/-- A port in the state of the table of R72 takes no other. -/
theorem takeState_served {Y : State} (served : (Y.port u).served = (Y.port u).state ∨ (Y.port u).state.serves = false) :
    Y.takeState u = Y := by
  rcases served with same | rests
  · unfold State.takeState
    exact if_neg (by simp [same])
  · exact takeState_not rests

/-- The end of an attach with operations to retry. -/
theorem finish_retries (ident : s.Identifies u frame f o) (served : p.served = p.state ∨ p.state.serves = false) :
    State.finish { attaches s u c p events with todo := [.retries u, .takes u] } =
      State.refreshIdle { attaches s u c p events with todo := [] } :=
  finish_pair rfl (retries_none (Y := { attaches s u c p events with todo := [.takes u] }) ident.items ident.scan ident.erase ident.mode)
    rfl (takeState_served (Y := { attaches s u c p events with todo := [] })
      (by rw [show State.port { attaches s u c p events with todo := [] } u = p from
        attaches_port (c := c) (events := events)]; exact served)) rfl

/-- The report of UNIT_FAILED (R84). -/
def failure (u : Fin 4) : LogReport :=
  { kind := .unitFailed, unit := u, block := none, logical := none, item := none, ofSave := false }

/-- The part once UNIT_FAILED is logged. -/
def failed (s : State) (u : Fin 4) (c : CounterBank) (p : Port) (events : BitVec 16) (todo : List Work) : State :=
  { attaches s u c p (events ||| Event.errorLogged.bit) with
    log := s.log.write (s.formEntry (failure u)), store := s.store.dirtied, todo := todo }

/-- The end of an attach with operations to retry and a UNIT_FAILED to log. -/
theorem finish_failed (ident : s.Identifies u frame f o) (rests : p.state.serves = false) :
    State.finish { attaches s u c p events with todo := [.retries u, .unitFailed u, .takes u] } =
      State.refreshIdle (failed s u c p events []) := by
  refine finish_three (s3 := failed s u c p events []) rfl
    (retries_none (Y := { attaches s u c p events with todo := [.unitFailed u, .takes u] }) ident.items ident.scan ident.erase ident.mode)
    rfl (report_logs (s := { attaches s u c p events with todo := [.takes u] }) (rep := failure u) ident.loaded rfl) rfl
    (takeState_not (s := failed s u c p events []) ?_) rfl
  rw [show State.port (failed s u c p events []) u = p from port_at (s := s) rfl]
  exact rests

/-! ### What is left -/

/-- What the end of an attach leaves of the rest of the part. -/
structure Kept (s x : State) : Prop where
  link : x.link = s.link
  engine : x.engine = s.engine
  map : x.map = s.map
  health : x.health = s.health
  scan : x.scan = s.scan
  guard : x.guard = s.guard
  streams : x.counters.streams = s.counters.streams
  mode : x.modes.mode = s.modes.mode

theorem refreshIdle_kept {y : State} (kept : Kept s y) : Kept s y.refreshIdle where
  link := (refreshIdle_link y).trans kept.link
  engine := (refreshIdle_engine y).trans kept.engine
  map := (refreshIdle_map y).trans kept.map
  health := (refreshIdle_health y).trans kept.health
  scan := (refreshIdle_scan y).trans kept.scan
  guard := (refreshIdle_guard y).trans kept.guard
  streams := (congrArg CounterBank.streams (refreshIdle_counters y)).trans kept.streams
  mode := (refreshIdle_modes_mode y).trans kept.mode

theorem covered_ends (covers : s.map.Covers u f.capacity) (c : CounterBank) :
    (attaches s u c (identified (s.port u) f.capacity) s.mgmt.events).checkCoverage u =
      (attaches s u c (identified (s.port u) f.capacity) s.mgmt.events).attachEnds u :=
  (checkCoverage_known (n := f.capacity) (by rw [attaches_port]; rfl)).trans (if_pos ((covers_iff _ _ _).mpr covers))

theorem serving_state {state : PortState} (serves : state.serves = true) : state ≠ .attaching := by
  rintro rfl
  cases serves

/-- A covered attach ends READY or READ_ONLY. -/
theorem attach_serves (ident : s.Identifies u frame f o) (covers : s.map.Covers u f.capacity) {state : PortState}
    (served : (s.port u).served = state) (serves : state.serves = true) :
    ∃ x, exec (.result u frame) s = .next x ∧ Kept s x ∧ x.log = s.log ∧ x.store = s.store ∧
      x.ports = s.ports.set u { attached (s.port u) f.capacity with state := state } ∧
      x.mgmt = { s.mgmt with
        events := if (s.port u).waking = true ∧ (s.port u).sleepRecord = some state then s.mgmt.events else raised s } := by
  have ends := (covered_ends covers (counted s u f)).trans (attachEnds_serves ident served serves)
  have work : s.todo ++ [.retries u] = [.retries u] := by rw [ident.settled]; rfl
  refine ⟨_, exec_ends ident (p := { attached (s.port u) f.capacity with state := state }) rfl rfl rfl
    (serving_state serves) (todo := [.retries u]) (ends.trans (congrArg (fun l => ({ attaches s u
      (counted s u f) { attached (s.port u) f.capacity with state := state } _ with todo := l } : State)) work))
    (finish_retries ident (.inl served)), refreshIdle_kept ⟨rfl, rfl, rfl, rfl, rfl, rfl, rfl, rfl⟩, refreshIdle_log _,
    refreshIdle_store _, refreshIdle_ports _, refreshIdle_mgmt _⟩

/-- A covered attach ends OFFLINE where that is desired. -/
theorem attach_offline (ident : s.Identifies u frame f o) (covers : s.map.Covers u f.capacity) (served : (s.port u).served = .offline) :
    ∃ x, exec (.result u frame) s = .next x ∧ Kept s x ∧ x.log = s.log ∧ x.store = s.store ∧
      x.ports = s.ports.set u { attached (s.port u) f.capacity with state := .offline, powerDownAttempts := 0 } ∧
      x.mgmt = { s.mgmt with events := raised s } := by
  have ends := (covered_ends covers (counted s u f)).trans (attachEnds_offline ident served)
  have work : s.todo ++ [.retries u] = [.retries u] := by rw [ident.settled]; rfl
  exact ⟨_, exec_ends ident (p := { attached (s.port u) f.capacity with state := .offline, powerDownAttempts := 0 }) rfl rfl rfl
    (show PortState.offline ≠ .attaching by decide) (todo := [.retries u]) (ends.trans (congrArg (fun l => ({ attaches s u (counted s u f)
      { attached (s.port u) f.capacity with state := .offline, powerDownAttempts := 0 } (raised s) with todo := l } : State)) work))
    (finish_retries ident (.inr rfl)), refreshIdle_kept ⟨rfl, rfl, rfl, rfl, rfl, rfl, rfl, rfl⟩, refreshIdle_log _,
    refreshIdle_store _, refreshIdle_ports _, refreshIdle_mgmt _⟩

/-- An attach that is not covered ends FAILED. -/
theorem attach_fails (ident : s.Identifies u frame f o) (bare : ¬ s.map.Covers u f.capacity) :
    ∃ x, exec (.result u frame) s = .next x ∧ Kept s x ∧
      x.ports = s.ports.set u { attached (s.port u) f.capacity with state := .failed, cause := .capacity, powerDownAttempts := 0 } ∧
      x.mgmt = { s.mgmt with events := raised s ||| Event.errorLogged.bit } ∧ x.store = s.store.dirtied ∧
      x.log = s.log.write (s.formEntry (failure u)) := by
  have fails : (attaches s u (counted s u f) (identified (s.port u) f.capacity) s.mgmt.events).checkCoverage u =
      (attaches s u (counted s u f) (identified (s.port u) f.capacity) s.mgmt.events).portFails u .capacity :=
    (checkCoverage_known (n := f.capacity) (by rw [attaches_port]; rfl)).trans (if_neg fun covers => bare ((covers_iff _ _ _).mp covers))
  have ends := fails.trans (portFails_capacity ident)
  have work : (s.todo ++ [.retries u]) ++ [.unitFailed u] = [.retries u, .unitFailed u] := by rw [ident.settled]; rfl
  exact ⟨_, exec_ends ident (p := { attached (s.port u) f.capacity with
      state := .failed, cause := .capacity, powerDownAttempts := 0 }) rfl rfl rfl
    (show PortState.failed ≠ .attaching by decide) (todo := [.retries u, .unitFailed u])
    (ends.trans (congrArg (fun l => ({ attaches s u (counted s u f)
      { attached (s.port u) f.capacity with state := .failed, cause := .capacity, powerDownAttempts := 0 } (raised s) with
        todo := l } : State)) work)) (finish_failed ident rfl), refreshIdle_kept ⟨rfl, rfl, rfl, rfl, rfl, rfl, rfl, rfl⟩,
    refreshIdle_ports _, refreshIdle_mgmt _, refreshIdle_store _, refreshIdle_log _⟩

/-- The table of R72 for a port that is not desired OFFLINE. -/
theorem served_of {p : Port} {state : PortState}
    (row : (p.desired = .active ∧ p.fault = false ∧ p.writeInhibit = false ∧ state = .ready) ∨
      (p.desired = .active ∧ (p.fault = true ∨ p.writeInhibit = true) ∧ state = .readOnly) ∨ (p.desired = .readOnly ∧
        state = .readOnly)) : p.served = state ∧ state.serves = true := by
  unfold Port.served
  rcases row with ⟨desired, fault, writes, rfl⟩ | ⟨desired, protects, rfl⟩ | ⟨desired, rfl⟩
  · rw [desired, fault, writes]
    exact ⟨rfl, rfl⟩
  · rw [desired]
    exact ⟨if_pos (by simpa using protects), rfl⟩
  · rw [desired]
    exact ⟨rfl, rfl⟩

end

/-- Settles O53, by `attach_serves`, `attach_offline` and `attach_fails`. -/
theorem attachesEndByCoverage : Obligations.AttachesEndByCoverage := by
  unfold Obligations.AttachesEndByCoverage
  intro s u frame f o ident p portAttached raisedFlags kept
  refine ⟨fun covers => ⟨fun state row => ?_, fun desired => ?_⟩, fun bare => ?_⟩
  · obtain ⟨served, serves⟩ := served_of row
    obtain ⟨x, step, k, log, store, ports, mgmt⟩ := attach_serves ident covers served serves
    exact ⟨x, step, ⟨k.link, k.engine, k.map, k.health, k.scan, k.guard, k.streams, k.mode⟩, log, store, ports, mgmt⟩
  · have served : (s.port u).served = .offline := by
      unfold Port.served
      rw [desired]
    obtain ⟨x, step, k, log, store, ports, mgmt⟩ := attach_offline ident covers served
    exact ⟨x, step, ⟨k.link, k.engine, k.map, k.health, k.scan, k.guard, k.streams, k.mode⟩, log, store, ports, mgmt⟩
  · obtain ⟨x, step, k, ports, mgmt, store, log⟩ := attach_fails ident bare
    exact ⟨x, step, ⟨k.link, k.engine, k.map, k.health, k.scan, k.guard, k.streams, k.mode⟩, ports, mgmt, store, _, rfl, rfl, rfl, rfl, rfl,
      log⟩

end Sys2Proof.Proofs.AttachEnds
end

section
/-!
PROOFS. Resets of the part and its start-up (R71, R164, R187 to R190).
-/

namespace Sys2Proof.Proofs.StartUp

open Sys2Proof Sys2Proof.Machine Sys2Proof.Laws

/-! ### The reset by the line, by power and by the command (R187) -/

/-- What resets do, and what they do not do. -/
theorem resets (s : State) :
    (s.inReset = false → exec (.partReset .resetLine) s = .next (s.partReset .resetLine) ∧ exec .resetLineReleased s = .next s) ∧
    (s.inReset = true → exec (.partReset .resetLine) s = .next s) ∧
    exec (.partReset (.power true)) s = .next (s.partReset .powerOn) ∧
    exec (.partReset (.power false)) s = exec .resetLineReleased (s.partReset .powerOn) ∧
    (s.mgmt.resetStage ≠ .due → exec (.partReset .resetPart) s = .next s) ∧
    (s.inReset = false → s.mgmt.resetStage = .due →
      exec (.partReset .resetPart) s = exec .resetLineReleased (s.partReset .resetCommand)) :=
  ⟨fun up => ⟨outcome_up up, outcome_up up⟩, outcome_inReset, rfl, rfl, fun idle => congrArg _ (if_neg fun due => idle due.2),
    fun up due => congrArg _ (if_pos ⟨up, due⟩)⟩

/-! ### Start-up (R71, R188) -/

/-- The part in reset with unit 0 alone fitted, or no unit. -/
def atRest (cause : StartCause) (faults : Four Bool) (frames : List HostFrame) (sent : Four (List SentOp)) (id free : Nat)
    (pending : List Instr) (unit0 : Bool) : State :=
  State.atReset cause ⟨(unit0, faults.a), (false, faults.b), (false, faults.c), (false, faults.d)⟩ frames sent id free pending

section
variable {cause : StartCause} {faults : Four Bool} {frames : List HostFrame} {sent : Four (List SentOp)} {id free : Nat}
  {pending : List Instr} {Y : State}

/-- The part as start-up begins. -/
def rising (cause : StartCause) (faults : Four Bool) (frames : List HostFrame) (sent : Four (List SentOp)) (id free : Nat)
    (pending : List Instr) (unit0 : Bool) : State :=
  { atRest cause faults frames sent id free pending unit0 with inReset := false }

theorem startUp_eq {s : State} (attached : units.foldl State.attachFitted { s with inReset := false } = Y) :
    s.startUp = State.finish (if (Y.port 0).present then Y else Y.later (.loadEnds .absent)) := by
  unfold State.startUp
  rw [attached]

theorem attachFitted_bare {u : Fin 4} (bare : (Y.port u).present = false) : Y.attachFitted u = Y :=
  if_neg (ne_true_of_eq_false bare)

theorem port_state (unit0 : Bool) (u : Fin 4) : ((rising cause faults frames sent id free pending unit0).port u).state = .absent := by
  match u with
  | 0 | 1 | 2 | 3 => rfl

theorem foldl_units (f : State → Fin 4 → State) (Y : State) : units.foldl f Y = f (f (f (f Y 0) 1) 2) 3 := rfl

/-- Without a unit no port attaches. -/
theorem attach_none : units.foldl State.attachFitted (rising cause faults frames sent id free pending false) =
    rising cause faults frames sent id free pending false := by
  have bare (u : Fin 4) : ((rising cause faults frames sent id free pending false).port u).present = false := by
    match u with
    | 0 | 1 | 2 | 3 => rfl
  rw [foldl_units, attachFitted_bare (bare 0), attachFitted_bare (bare 1), attachFitted_bare (bare 2), attachFitted_bare (bare 3)]

/-- The part once the load has ended without a unit 0. -/
def unloaded (cause : StartCause) (faults : Four Bool) (frames : List HostFrame) (sent : Four (List SentOp)) (id free : Nat)
    (pending : List Instr) : State :=
  { ((rising cause faults frames sent id free pending false).setLoaded .absent).closeStamps with
    guard := { ((rising cause faults frames sent id free pending false).setLoaded .absent).guard with state := .disabled } }

/-- The part as it has left STARTUP for CONFIG. -/
def configured (Y : State) : State :=
  { Y with
    modes := { Y.modes with mode := .config, phase := .none, drain := .none }
    mgmt := { Y.mgmt with events := Y.mgmt.events ||| Event.started.bit }
    health := { Y.health with aging := Y.agingTimer }
    scan := { Y.scan with quietTimer := Y.startTimer Y.mgmt.params.quietTime } }

/-- Without a unit 0 the load ends at once, ABSENT, and the part leaves STARTUP for CONFIG (R164, R189). -/
theorem startUp_bare : (atRest cause faults frames sent id free pending false).startUp =
    (configured (unloaded cause faults frames sent id free pending)).refreshIdle := by
  have ends : State.doWork (rising cause faults frames sent id free pending false) (.loadEnds .absent) =
      State.later (unloaded cause faults frames sent id free pending) (.leaveStartup false false) :=
    loadEnds_absent rfl rfl fun u => by rw [port_state]; decide
  have leaves : State.doWork (unloaded cause faults frames sent id free pending) (.leaveStartup false false) =
      configured (unloaded cause faults frames sent id free pending) := leaveStartup_config rfl
  refine (startUp_eq attach_none).trans ?_
  exact finish_two (s := State.later (rising cause faults frames sent id free pending false) (.loadEnds .absent)) rfl ends rfl leaves rfl

/-- The part as port 0 has begun its attach. -/
def attaching (cause : StartCause) (faults : Four Bool) (frames : List HostFrame) (sent : Four (List SentOp)) (id free : Nat)
    (pending : List Instr) (c : CounterBank) : State :=
  { rising cause faults frames sent id free pending true with
    nextId := id + 2
    counters := c
    ports := (rising cause faults frames sent id free pending true).ports.set 0
      ((rising cause faults frames sent id free pending true).attachBegun
        ((rising cause faults frames sent id free pending true).port 0) false (id + 1)) }

/-- Unit 0 attaches (R71, R76). -/
theorem startUp_unit0 : ∃ c, (atRest cause faults frames sent id free pending true).startUp =
    (attaching cause faults frames sent id free pending c).refreshIdle := by
  obtain ⟨c, begins, -⟩ := beginAttach_sends (s := rising cause faults frames sent id free pending true) (u := 0) (k := false) rfl rfl
    (fun c none_ => by cases none_) fun _ => rfl
  have attaches : (rising cause faults frames sent id free pending true).attachFitted 0 =
      attaching cause faults frames sent id free pending c := begins
  have all : units.foldl State.attachFitted (rising cause faults frames sent id free pending true) =
      attaching cause faults frames sent id free pending c := by
    rw [foldl_units, attaches, attachFitted_bare (u := 1) rfl, attachFitted_bare (u := 2) rfl, attachFitted_bare (u := 3) rfl]
  have present : ((attaching cause faults frames sent id free pending c).port 0).present = true := rfl
  refine ⟨c, (startUp_eq all).trans ?_⟩
  rw [present]
  exact finish_of_todo_nil (s := attaching cause faults frames sent id free pending c) rfl

end

/-- Settles O54: `resets`, and start-up without a unit (`startUp_bare`) and with unit 0 alone (`startUp_unit0`). -/
theorem resetsAndStartUp : Obligations.ResetsAndStartUp := by
  unfold Obligations.ResetsAndStartUp
  refine ⟨resets, fun cause faults frames sent id free pending unit0 => ⟨rfl, rfl, rfl, ?_⟩⟩
  cases unit0 with
  | false =>
    obtain ⟨i, idle⟩ := refreshIdle_eq (configured (unloaded cause faults frames sent id free pending))
    refine ⟨_, (outcome_inReset rfl).trans (congrArg _ (startUp_bare.trans idle)), rfl, rfl, rfl, rfl, rfl, rfl, fun _ => ⟨rfl, rfl, rfl,
      rfl, rfl, BitVec.zero_or, fun u => ?_, rfl⟩, fun fitted => Bool.noConfusion fitted⟩
    match u with
    | 0 | 1 | 2 | 3 => rfl
  | true =>
    obtain ⟨c, starts⟩ := startUp_unit0 (cause := cause) (faults := faults) (frames := frames) (sent := sent) (id := id) (free := free)
      (pending := pending)
    obtain ⟨i, idle⟩ := refreshIdle_eq (attaching cause faults frames sent id free pending c)
    refine ⟨_, (outcome_inReset rfl).trans (congrArg _ (starts.trans idle)), rfl, rfl, rfl, rfl, rfl, rfl,
      fun bare => Bool.noConfusion bare, fun _ => ⟨rfl, rfl, rfl, rfl, rfl, rfl, rfl, fun u other => ?_⟩⟩
    match u with
    | 0 => exact absurd rfl other
    | 1 | 2 | 3 => rfl

end Sys2Proof.Proofs.StartUp
end

section
/-!
PROOFS. The writes of a save at port 0 and the end of the save (R183, R184).
-/

namespace Sys2Proof.Proofs.Saves

open Sys2Proof Sys2Proof.Machine Sys2Proof.Laws
open Sys2Proof.Proofs.HostOperations (softUnits outcomeOf_done found_silent write_silent outcome_gives outside)
open Sys2Proof.Proofs.Repairs (handed restedPort restedPort_stays found_fault found_notReady outcomeOf_three outcomeOf_fault fault_gives
  sends_at sends_stays)

section
variable {s Y : State} {frame : List Byte} {f : ResultFields} {o : Outstanding} {r : SaveRecord} {out : OpOutcome} {faults : Nat}
  {units : Four UnitCounters}

/-- The part as a write of the running save is handed back. -/
def handedBack (s : State) (faults : Nat) (units : Four UnitCounters) : State :=
  handed s 0 faults units s.health s.mgmt.events s.store

/-- What the end of a save's write leaves of the rest of the part. -/
structure Kept (s x : State) : Prop where
  link : x.link = s.link
  engine : x.engine = s.engine
  map : x.map = s.map
  health : x.health = s.health
  scan : x.scan = s.scan
  guard : x.guard = s.guard
  mode : x.modes.mode = s.modes.mode
  streams : x.counters.streams = s.counters.streams

/-- A save whose end means nothing to the erase, to standby entry or to RESET_PART. -/
structure Plain (s : State) (r : SaveRecord) : Prop where
  save : s.store.save = some r
  reset : s.mgmt.resetStage ≠ .save
  mode : s.modes.mode ≠ .enteringStandby
  first : r.firstOfErase = false
  last : r.lastOfErase = false
  done : r.eraseDone = false

theorem Plain.ended {x : State} (plain : Plain s r) (reset : x.mgmt.resetStage = s.mgmt.resetStage) (mode : x.modes.mode = s.modes.mode)
    (ok : Bool) : x.saveEnded r ok = x :=
  saveEnded_plain (by rw [reset]; exact plain.reset) (by rw [mode]; exact plain.mode) plain.first plain.last plain.done ok

/-! ### The hand-back (R82) -/

theorem handBack_save (owner : o.op.owner = .store) (writes : o.op.kind = .write) (save : Y.store.save = some r)
    (stamp : r.stamp = some o.op.stamp) : Y.handBack o.op out = match out with
      | .done _ _ _ => Y.saveStepDone r
      | .writeFault stop => Y.saveFails .dirty (some stop)
      | .unavailable => Y.saveFails .absent none
      | .timeout => Y.saveFails .dirty none
      | .notReady => Y.saveFails .dirty none
      | .hardRead _ _ => Y.saveFails .dirty none := by
  unfold State.handBack
  rw [owner]
  refine (if_neg (by rw [writes]; decide)).trans ?_
  unfold State.saveWriteEnded
  rw [save]
  exact if_pos stamp

/-- The step of the RESULT of a save's write, by what its hand-back leaves. -/
theorem save_ends (ends : s.Ends 0 frame f o) (gives : o.op.kind.gives f.outcome.toNat = true)
    (inside : f.outcome.toNat = 1 ∨ f.outcome.toNat = 2 → o.op.first ≤ f.stop.toNat ∧ f.stop.toNat < o.op.first + o.op.count)
    (outcome : outcomeOf s.nextFree o f = out)
    (found : ({ atEnd s 0 o.op out with todo := [.takes 0] } : State) = handedBack s faults units)
    (back : (handedBack s faults units).handBack o.op out = Y) (todo : Y.todo = [.takes 0])
    (stays : (Y.port 0).state = (s.port 0).state ∧ (Y.port 0).served = (s.port 0).served) :
    ∃ i, exec (.result 0 frame) s = .next { Y with todo := [], modes := { Y.modes with idle := i } } :=
  taken_idle ends gives inside outcome found back todo stays

/-! ### DONE (R183) -/

/-- The part once the next write of the save has been sent. -/
def wrote (s : State) (r : SaveRecord) (step : SaveStep) (first : Nat) (blocks : List Block) (units : Four UnitCounters) : State :=
  { handedBack s 0 units with
    nextId := s.nextId + 1
    counters := opCounted (handedBack s 0 units) 0
    ports := s.ports.set 0 (s.sendsFirst (restedPort s 0 0) (mkOp .write first blocks.length .store s.nextId blocks))
    store := { s.store with save := some { r with step := step, stamp := some s.nextId } } }

/-- The next write of a save is offered at a port that rests, and sent. -/
theorem offerSave_sends (ends : s.Ends 0 frame f o) (step : SaveStep) :
    State.offerSave ((handedBack s 0 units).onStore fun c => { c with save := some { r with step := step, stamp := none } }) =
      wrote s r step (SaveRecord.write { r with step := step }).1 (SaveRecord.write { r with step := step }).2 units := by
  have port : State.port ((handedBack s 0 units).onStore fun c => { c with save := some { r with step := step, stamp := none } }) 0 =
      restedPort s 0 0 := port_at (s := s) rfl
  have free : State.storeBusy ((handedBack s 0 units).onStore fun c => { c with save := some { r with step := step, stamp := none } }) =
      false := by
    unfold State.storeBusy Port.outstanding
    rw [port]
    show ((s.port 0).storePlace.isSome || _) = false
    rw [ends.store]
    rfl
  have sends := offerStore_sends (s := (handedBack s 0 units).onStore fun c => { c with
      save := some { r with step := step, stamp := none } }) (.inl (by rw [port]; exact ends.serves))
    (by rw [port]; exact ⟨rfl, ends.queue, ends.scan, ends.store⟩) (by rw [port]; exact ends.attach) .write
    (SaveRecord.write { r with step := step }).1 (SaveRecord.write { r with step := step }).2.length (SaveRecord.write { r with step := step }).2
  have ports := sends_at (s := s) (u := 0) (P := restedPort s 0 0)
    (Y := (handedBack s 0 units).onStore fun c => { c with save := some { r with step := step, stamp := none } }) rfl rfl rfl
    (mkOp .write (SaveRecord.write { r with step := step }).1 (SaveRecord.write { r with step := step }).2.length .store s.nextId
      (SaveRecord.write { r with step := step }).2)
  unfold State.offerSave
  refine (if_neg (ne_true_of_eq_false free)).trans ?_
  refine (congrArg (fun found : Nat × State => found.2.onStore fun c => { c with
    save := some { r with step := step, stamp := some found.1 } }) sends).trans ?_
  exact congrArg (fun p : Four Port => ({ wrote s r step (SaveRecord.write { r with step := step }).1
    (SaveRecord.write { r with step := step }).2 units with ports := p } : State)) ports

/-- What a DONE of a write that is not the last one leaves. -/
structure Goes (s x : State) (r : SaveRecord) (step : SaveStep) (first : Nat) (blocks : List Block) : Prop extends Kept s x where
  log : x.log = s.log
  mgmt : x.mgmt = s.mgmt
  store : x.store = { s.store with save := some { r with step := step, stamp := some s.nextId } }
  ports : x.ports = s.ports.set 0 (s.sendsFirst (restedPort s 0 0) (mkOp .write first blocks.length .store s.nextId blocks))

theorem wrote_goes (i : IdleTimer) (step : SaveStep) (first : Nat) (blocks : List Block) :
    Goes s { wrote s r step first blocks units with todo := [], modes := { s.modes with idle := i } } r step first blocks :=
  ⟨⟨rfl, rfl, rfl, rfl, rfl, rfl, rfl, rfl⟩, rfl, rfl, rfl, rfl⟩

/-- A write of the save that ends DONE is handed back to the save controller. -/
theorem found_done (writes : o.op.kind = .write) : ({ atEnd s 0 o.op (.done f.soft [] f.capacity) with todo := [.takes 0] } : State) =
    handedBack s 0 (softUnits s 0 f) := found_silent o.op (.inl (write_silent writes 0)) rfl

/-- A write that is DONE is followed by the next one. -/
theorem save_goes (ends : s.Ends 0 frame f o) (owner : o.op.owner = .store) (writes : o.op.kind = .write) (save : s.store.save = some r)
    (stamp : r.stamp = some o.op.stamp) (zero : f.outcome = 0) (step : SaveStep)
    (next : (handedBack s 0 (softUnits s 0 f)).saveStepDone r = State.offerSave ((handedBack s 0 (softUnits s 0 f)).onStore fun c => { c with
      save := some { r with step := step, stamp := none } })) :
    ∃ x, exec (.result 0 frame) s = .next x ∧
      Goes s x r step (SaveRecord.write { r with step := step }).1 (SaveRecord.write { r with step := step }).2 := by
  have outcome := outcomeOf_done (f := f) (o := o) s.nextFree zero (by rw [writes]; decide)
  have back : (handedBack s 0 (softUnits s 0 f)).handBack o.op (.done f.soft [] f.capacity) = _ :=
    (handBack_save owner writes (by exact save) stamp).trans (next.trans (offerSave_sends ends step))
  obtain ⟨i, ended⟩ := save_ends ends (outcome_gives _ (.inl zero)) (outside (.inl zero)) outcome (found_done writes) back rfl
    (sends_stays (x := s) rfl)
  exact ⟨_, ended, wrote_goes i step _ _⟩

/-- The header's write that is DONE ends the save. -/
theorem save_completes (ends : s.Ends 0 frame f o) (owner : o.op.owner = .store) (writes : o.op.kind = .write) (plain : Plain s r)
    (stamp : r.stamp = some o.op.stamp) (zero : f.outcome = 0) (header : r.step = .header) (below : s.store.generation.toNat < 4294967295) :
    ∃ x, exec (.result 0 frame) s = .next x ∧ Kept s x ∧ x.log = s.log ∧ x.ports = s.ports.set 0 (restedPort s 0 0) ∧
      x.mgmt = { s.mgmt with events := s.mgmt.events ||| Event.saveDone.bit } ∧
      x.store = { s.store with
        state := if s.store.dirtyAgain = true then .dirty else .clean
        dirtyAgain := false
        generation := s.store.generation + 1
        retryHold := false
        save := none } := by
  have outcome := outcomeOf_done (f := f) (o := o) s.nextFree zero (by rw [writes]; decide)
  have rises : nextGeneration s.store.generation = s.store.generation + 1 := if_neg (Nat.ne_of_lt below)
  have completes : (handedBack s 0 (softUnits s 0 f)).saveStepDone r = { handedBack s 0 (softUnits s 0 f) with
      mgmt := { s.mgmt with events := s.mgmt.events ||| Event.saveDone.bit }
      store := { s.store with
        state := if s.store.dirtyAgain = true then .dirty else .clean
        dirtyAgain := false
        generation := s.store.generation + 1
        retryHold := false
        save := none } } := by
    unfold State.saveStepDone
    rw [header, ← rises]
    exact plain.ended (by exact rfl) (by exact rfl) true
  have back : (handedBack s 0 (softUnits s 0 f)).handBack o.op (.done f.soft [] f.capacity) = _ :=
    (handBack_save owner writes (by exact plain.save) stamp).trans completes
  obtain ⟨i, ended⟩ := save_ends ends (outcome_gives _ (.inl zero)) (outside (.inl zero)) outcome (found_done writes) back rfl
    (restedPort_stays rfl)
  exact ⟨_, ended, ⟨rfl, rfl, rfl, rfl, rfl, rfl, rfl, rfl⟩, rfl, rfl, rfl, rfl⟩

/-! ### Failures (R184) -/

/-- The store once its save has failed. -/
def unsaved (c : StoreController) : StoreController := { c with state := .dirty, dirtyAgain := false, retryHold := true, save := none }

/-- A save whose write ends NOT_READY fails. -/
theorem save_notReady (ends : s.Ends 0 frame f o) (owner : o.op.owner = .store) (writes : o.op.kind = .write) (plain : Plain s r)
    (stamp : r.stamp = some o.op.stamp) (three : f.outcome = 3) :
    ∃ x, exec (.result 0 frame) s = .next x ∧ Kept s x ∧ x.log = s.log ∧ x.ports = s.ports.set 0 (restedPort s 0 0) ∧
      x.mgmt = { s.mgmt with events := s.mgmt.events ||| Event.saveFailed.bit } ∧ x.store = unsaved s.store := by
  have port : (handedBack s 0 s.counters.units).port 0 = restedPort s 0 0 := port_at (s := s) rfl
  have fails : (handedBack s 0 s.counters.units).saveFails .dirty none = { handedBack s 0 s.counters.units with
      mgmt := { s.mgmt with events := s.mgmt.events ||| Event.saveFailed.bit }, store := unsaved s.store } := by
    unfold State.saveFails
    rw [show (handedBack s 0 s.counters.units).store.save = some r from plain.save]
    dsimp only
    rw [withdraw_none (by rw [port]; exact ends.store)]
    exact plain.ended (by exact rfl) (by exact rfl) false
  have back : (handedBack s 0 s.counters.units).handBack o.op .notReady = _ :=
    (handBack_save owner writes (by exact plain.save) stamp).trans fails
  obtain ⟨i, ended⟩ := save_ends ends (outcome_gives _ (.inr three)) (outside (.inr three)) (outcomeOf_three s.nextFree three)
    (found_notReady o.op) back rfl (restedPort_stays (faults := 0) rfl)
  exact ⟨_, ended, ⟨rfl, rfl, rfl, rfl, rfl, rfl, rfl, rfl⟩, rfl, rfl, rfl, rfl⟩

/-- The report of a store write's fault. -/
def fault (r : SaveRecord) (stop : Nat) : LogReport :=
  { kind := .storeWriteFault, unit := 0, block := some stop, logical := none, item := r.command, ofSave := true }

/-- The part once a save has failed for a write fault. -/
def faulted (s : State) (r : SaveRecord) (stop : Nat) (units : Four UnitCounters) : State :=
  { handedBack s 1 units with
    mgmt := { s.mgmt with events := s.mgmt.events ||| Event.saveFailed.bit ||| Event.errorLogged.bit }
    store := unsaved s.store
    log := s.log.write ((handedBack s 1 units).formEntry (fault r stop)) }

/-- A save whose write ends WRITE_FAULT fails, and the fault is logged. -/
theorem save_faults (ends : s.Ends 0 frame f o) (owner : o.op.owner = .store) (writes : o.op.kind = .write) (plain : Plain s r)
    (stamp : r.stamp = some o.op.stamp) (two : f.outcome = 2) (below : (s.port 0).writeFaults + 1 < s.mgmt.params.writeFaultLimit)
    (inside : o.op.first ≤ f.stop.toNat ∧ f.stop.toNat < o.op.first + o.op.count) :
    ∃ x e, exec (.result 0 frame) s = .next x ∧ Kept s x ∧ x.ports = s.ports.set 0 (restedPort s 0 1) ∧ x.store = unsaved s.store ∧
      x.mgmt = { s.mgmt with events := s.mgmt.events ||| Event.saveFailed.bit ||| Event.errorLogged.bit } ∧
      (e.kind = .storeWriteFault ∧ e.unit = 0 ∧ e.block = some ⟨0, f.stop.toNat⟩ ∧ e.logical = none) ∧ x.log = s.log.write e := by
  have found := found_fault ends.lawful below writes f.stop.toNat
  generalize s.countedAt 0 _ = units at found
  have port : (handedBack s 1 units).port 0 = restedPort s 0 1 := port_at (s := s) rfl
  have logs : State.report { handedBack s 1 units with
      mgmt := { s.mgmt with events := s.mgmt.events ||| Event.saveFailed.bit }, store := unsaved s.store } (fault r f.stop.toNat) =
      faulted s r f.stop.toNat units := ofSave_report (by exact ends.loaded) (by exact rfl) (fault r f.stop.toNat) rfl
  have fails : (handedBack s 1 units).saveFails .dirty (some f.stop.toNat) = faulted s r f.stop.toNat units := by
    unfold State.saveFails
    rw [show (handedBack s 1 units).store.save = some r from plain.save]
    dsimp only
    rw [withdraw_none (by rw [port]; exact ends.store)]
    exact (congrArg (fun x : State => x.saveEnded r false) logs).trans (plain.ended (by exact rfl) (by exact rfl) false)
  have back : (handedBack s 1 units).handBack o.op (.writeFault f.stop.toNat) = _ :=
    (handBack_save owner writes (by exact plain.save) stamp).trans fails
  obtain ⟨i, ended⟩ := save_ends ends (fault_gives two writes) (fun _ => inside) (outcomeOf_fault s.nextFree two) found back rfl
    (restedPort_stays (faults := 1) rfl)
  exact ⟨_, _, ended, ⟨rfl, rfl, rfl, rfl, rfl, rfl, rfl, rfl⟩, rfl, rfl, rfl, ⟨rfl, rfl, rfl, rfl⟩, rfl⟩

end

end Sys2Proof.Proofs.Saves
end

section
/-!
PROOFS. The reads of the load, the end of the load, and how the part leaves STARTUP (R147, R164, R178, R188, R189); with the writes of
saves, the loads and saves of the store.
-/

namespace Sys2Proof.Proofs.Loads

open Sys2Proof Sys2Proof.Machine Sys2Proof.Laws Sys2Proof.Proofs.Saves
open Sys2Proof.Proofs.StartUp (foldl_units)

/-! ### The reads of the load (R188) -/

/-- The part with the end of its load due. -/
def loadDue (s : State) (outcome : LoadOutcome) : State := { s with todo := s.todo ++ [.loadEnds outcome] }

section
variable {s : State} {l : Load} {o : Op} {data : List (Nat × Block)}

/-- A read of the load that has ended is handed to the store controller. -/
theorem loadReadEnded_own (load : s.store.load = some l) (stamp : l.stamp = some o.stamp) (out : OpOutcome) :
    s.loadReadEnded o out = match out with
      | .done _ data _ => s.loadReadDone l (loadBlocks data)
      | .hardRead _ _ => s.later (.loadEnds .notValid)
      | .notReady => s.attemptFails 0
      | .writeFault _ => s
      | .timeout => s
      | .unavailable => s := by
  unfold State.loadReadEnded
  rw [load]
  exact if_pos stamp

/-- A read of the load that is offered at port 0 while it attaches, and sent. -/
def reading (s : State) (l : Load) (first count : Nat) (c : CounterBank) : State :=
  { s with
    nextId := s.nextId + 1
    counters := c
    ports := s.ports.set 0 (s.sendsFirst (s.port 0) (mkOp .read first count .store s.nextId []))
    store := { s.store with load := some { l with stamp := some s.nextId } } }

theorem offerLoad_sends {Y : State} (load : Y.store.load = some l) (attaching : (Y.port 0).state = .attaching) (rests : (Y.port 0).Rests)
    (place : (Y.port 0).attachPlace = none) (step : LoadStep) (first count : Nat) :
    ∃ c, Y.offerLoad step first count = reading Y { l with step := step } first count c := by
  have loading : Y.loadEnded = false := by
    unfold State.loadEnded
    rw [load]
    rfl
  have sends := offerStore_sends (.inr ⟨attaching, loading⟩) rests place .read first count []
  refine ⟨opCounted Y 0, ?_⟩
  refine (congrArg (fun found : Nat × State => found.2.onStore fun c => { c with
    load := c.load.map fun l => { l with step := step, stamp := some found.1 } }) sends).trans ?_
  exact load_changed (s := { Y with
    nextId := Y.nextId + 1, counters := opCounted Y 0
    ports := Y.ports.set 0 (Y.sendsFirst (Y.port 0) (mkOp .read first count .store Y.nextId [])) }) load _

theorem loadReadDone_header {h : Header} {blocks : List Block} (header : l.step = .header) (read : readHeader blocks.flatten = some h) :
    s.loadReadDone l blocks = State.offerLoad (s.onStore fun c => { c with load := c.load.map fun l => { l with header := some h } })
      .first 1 (min 32 h.length) := by
  unfold State.loadReadDone
  rw [header]
  dsimp only
  rw [read]

theorem loadReadDone_first {h : Header} {blocks : List Block} (known : l.header = some h) (first : l.step = .first) (long : 32 < h.length) :
    s.loadReadDone l blocks = State.offerLoad (s.onStore fun c => { c with load := c.load.map fun l => { l with image := blocks } })
      .second 33 (h.length - 32) := by
  unfold State.loadReadDone
  rw [first]
  dsimp only
  rw [known]
  exact if_pos long

/-- The header of a store that is read sends the read of the first part of the image. -/
theorem header_read (load : s.store.load = some l) (stamp : l.stamp = some o.stamp) {h : Header} (header : l.step = .header)
    (read : readHeader (loadBlocks data).flatten = some h) (attaching : (s.port 0).state = .attaching) (rests : (s.port 0).Rests)
    (place : (s.port 0).attachPlace = none) :
    ∃ c, s.loadReadEnded o (.done [] data 0) = reading s { l with step := .first, header := some h } 1 (min 32 h.length) c := by
  obtain ⟨c, sends⟩ := offerLoad_sends (Y := { s with store := { s.store with load := some { l with header := some h } } }) rfl attaching
    rests place .first 1 (min 32 h.length)
  exact ⟨c, (loadReadEnded_own load stamp _).trans ((loadReadDone_header header read).trans
    ((congrArg (fun x : State => x.offerLoad .first 1 (min 32 h.length)) (load_changed load fun l => { l with header := some h })).trans
      sends))⟩

theorem header_unread (load : s.store.load = some l) (stamp : l.stamp = some o.stamp) (header : l.step = .header)
    (unread : readHeader (loadBlocks data).flatten = none) : s.loadReadEnded o (.done [] data 0) = loadDue s .notValid := by
  refine (loadReadEnded_own load stamp _).trans ?_
  show s.loadReadDone l (loadBlocks data) = _
  unfold State.loadReadDone
  rw [header]
  dsimp only
  rw [unread]
  rfl

/-- A long image is read in two parts. -/
theorem first_read (load : s.store.load = some l) (stamp : l.stamp = some o.stamp) {h : Header} (known : l.header = some h)
    (first : l.step = .first) (long : 32 < h.length) (attaching : (s.port 0).state = .attaching) (rests : (s.port 0).Rests)
    (place : (s.port 0).attachPlace = none) :
    ∃ c, s.loadReadEnded o (.done [] data 0) =
      reading s { l with step := .second, image := loadBlocks data } 33 (h.length - 32) c := by
  obtain ⟨c, sends⟩ := offerLoad_sends (Y := { s with store := { s.store with load := some { l with image := loadBlocks data } } }) rfl
    attaching rests place .second 33 (h.length - 32)
  exact ⟨c, (loadReadEnded_own load stamp _).trans ((loadReadDone_first known first long).trans
    ((congrArg (fun x : State => x.offerLoad .second 33 (h.length - 32))
      (load_changed load fun l => { l with image := loadBlocks data })).trans sends))⟩

/-- A complete image is tested. -/
theorem image_read (load : s.store.load = some l) (stamp : l.stamp = some o.stamp) {h : Header} (known : l.header = some h)
    {image : List Block} (complete : (l.step = .first ∧ h.length ≤ 32 ∧ image = loadBlocks data) ∨
      (l.step = .second ∧ image = l.image ++ loadBlocks data)) :
    s.loadReadEnded o (.done [] data 0) = loadDue s (testImage h image) := by
  refine (loadReadEnded_own load stamp _).trans ?_
  show s.loadReadDone l (loadBlocks data) = _
  unfold State.loadReadDone
  rcases complete with ⟨first, short, rfl⟩ | ⟨second, rfl⟩
  · rw [first]
    dsimp only
    rw [known]
    exact if_neg (Nat.not_lt.mpr short)
  · rw [second]
    dsimp only
    rw [known]
    rfl

theorem testImage_some {h : Header} {image : List Block} {v : Saved} (valid : readImage h image = some v) :
    testImage h image = .valid h v := by
  unfold testImage
  rw [valid]

theorem testImage_none {h : Header} {image : List Block} (invalid : readImage h image = none) : testImage h image = .notValid := by
  unfold testImage
  rw [invalid]

end

/-! ### The end of the load (R189) -/

section
variable {s : State} {outcome : LoadOutcome}

/-- How the part leaves STARTUP after an outcome of the load. -/
def leaves : LoadOutcome → Work
  | .valid _ _ => .leaveStartup true false
  | .notValid => .leaveStartup false true
  | .absent => .leaveStartup false false

/-- The part once the load has ended, without held errors and capacity checks. -/
def loaded (s : State) (outcome : LoadOutcome) : State :=
  { (s.setLoaded outcome).closeStamps with guard := { (s.setLoaded outcome).guard with state := outcome.stored.start } }

theorem setLoaded_held (s : State) (outcome : LoadOutcome) : (s.setLoaded outcome).log.held = s.log.held := by
  cases outcome <;> rfl

theorem setLoaded_port (s : State) (outcome : LoadOutcome) (u : Fin 4) : (s.setLoaded outcome).port u = s.port u := by
  cases outcome <;> rfl

theorem checkWaiting_none {Y : State} {u : Fin 4} (rests : (Y.port u).state ≠ .attaching ∨ (Y.port u).identified = false) :
    Y.checkWaiting u = Y := by
  refine if_neg fun waits => ?_
  rcases rests with state | unknown
  · exact state waits.1
  · rw [waits.2] at unknown
    cases unknown

theorem loadEnds_loaded (loading : s.loadEnded = false) (held : s.log.held = [])
    (rests : ∀ u, (s.port u).state ≠ .attaching ∨ (s.port u).identified = false) :
    s.loadEnds outcome = State.later (loaded s outcome) (leaves outcome) := by
  have none_ : (s.setLoaded outcome).closeStamps.log.held = [] := by
    show ((s.setLoaded outcome).log.held.map _) = []
    rw [setLoaded_held, held]
    rfl
  have unlogged : ((s.setLoaded outcome).closeStamps).logHeld = (s.setLoaded outcome).closeStamps := by
    unfold State.logHeld
    rw [none_, List.foldl_nil, ← none_]
  have waits (u : Fin 4) : (loaded s outcome).checkWaiting u = loaded s outcome :=
    checkWaiting_none (show ((s.setLoaded outcome).port u).state ≠ .attaching ∨ ((s.setLoaded outcome).port u).identified = false by
      rw [setLoaded_port]; exact rests u)
  have all : units.foldl State.checkWaiting (loaded s outcome) = loaded s outcome := by
    rw [foldl_units, waits, waits, waits, waits]
  unfold State.loadEnds
  refine (if_neg (ne_true_of_eq_false loading)).trans ?_
  dsimp only
  rw [unlogged]
  show (match outcome with
    | .valid _ _ => (units.foldl State.checkWaiting (loaded s outcome)).later _
    | .notValid => (units.foldl State.checkWaiting (loaded s outcome)).later _
    | .absent => (units.foldl State.checkWaiting (loaded s outcome)).later _) = _
  rw [all]
  cases outcome <;> rfl

/-- The saved items that an outcome of the load sets. -/
def items : LoadOutcome → Saved
  | .valid _ v => v
  | .notValid => .fresh
  | .absent => .fresh

/-- What the end of a load sets, and what it leaves. -/
structure Sets (s x : State) (v : Saved) (g : GuardState) : Prop where
  map : x.map = { regions := v.regions, pins := v.pins, learned := v.learned, pools := v.pools }
  mgmt : x.mgmt = { s.mgmt with params := v.params, streams := v.streams }
  guard : x.guard = { s.guard with state := g, level := v.level, userCode := v.userCode, recoveryCode := v.recoveryCode }
  log : x.log = { s.log with
    slots := v.slots, latest := v.latest, lifetime := v.lifetimeErrors, ring := s.log.ring.map (RingRec.close x.store.startCount) }
  health : x.health = { s.health with watch := v.watch }
  scan : x.scan = { s.scan with log := v.scanLog }
  counters : x.counters = { s.counters with lifetime := v.relocations }
  ports : x.ports = s.ports
  link : x.link = s.link
  modes : x.modes = s.modes

theorem loaded_sets (held : s.log.held = []) (w : Work) :
    Sets s (State.later (loaded s outcome) w) (items outcome) outcome.stored.start := by
  have log : (loaded s outcome).log = { s.log with
      slots := (items outcome).slots, latest := (items outcome).latest, lifetime := (items outcome).lifetimeErrors
      ring := s.log.ring.map (RingRec.close (loaded s outcome).store.startCount) } := by
    have empty : s.log.held.map (LogEntry.close (s.setLoaded outcome).store.startCount) = s.log.held := by rw [held]; rfl
    have closed : (loaded s outcome).log = { (s.setLoaded outcome).log with
        ring := (s.setLoaded outcome).log.ring.map (RingRec.close (s.setLoaded outcome).store.startCount)
        held := (s.setLoaded outcome).log.held.map (LogEntry.close (s.setLoaded outcome).store.startCount) } := rfl
    rw [closed, setLoaded_held, empty]
    cases outcome <;> rfl
  cases outcome <;> exact ⟨rfl, rfl, rfl, log, rfl, rfl, rfl, rfl, rfl, rfl⟩

end

/-! ### The part leaves STARTUP (R164) -/

theorem enterService_quiet {s : State} (scan : s.scan.context = none) (manual : s.mgmt.params.autoPatrol = false) :
    s.enterService = s.onModes fun m => { m with mode := .service, phase := .none, drain := .none } :=
  scanServes_none (by exact scan) (.inr (by exact manual))

theorem enterConfig_quiet {s : State} (scan : s.scan.context = none) (manual : s.mgmt.params.autoPatrol = false) :
    s.enterConfig = s.onModes fun m => { m with mode := .config, phase := .none, drain := .none } :=
  scanServes_none (by exact scan) (.inr (by exact manual))

/-- The part as it has left STARTUP for a mode, with events raised. -/
def left (s : State) (mode : PartMode) (events : BitVec 16) : State :=
  { s with
    modes := { s.modes with mode := mode, phase := .none, drain := .none }
    mgmt := { s.mgmt with events := events }
    health := { s.health with aging := s.agingTimer }
    scan := { s.scan with quietTimer := s.startTimer s.mgmt.params.quietTime } }

theorem enters_mode {s : State} (scan : s.scan.context = none) (manual : s.mgmt.params.autoPatrol = false) (serves : Bool) :
    (if serves then s.enterService else s.enterConfig) = s.onModes fun m => { m with
      mode := if serves then .service else .config, phase := .none, drain := .none } := by
  rw [enterService_quiet scan manual, enterConfig_quiet scan manual]
  cases serves <;> rfl

/-- An event that is raised under a condition. -/
theorem raise_if (Y : State) (e : Event) (p : Bool) : (if p then Y.raise e else Y) =
    { Y with mgmt := { Y.mgmt with events := Y.mgmt.events ||| (if p then e.bit else 0) } } := by
  cases p with
  | true => rfl
  | false => exact (congrArg (fun b => ({ Y with mgmt := { Y.mgmt with events := b } } : State)) BitVec.or_zero).symm

theorem leaveStartup_quiet {s : State} (scan : s.scan.context = none) (manual : s.mgmt.params.autoPatrol = false)
    {valid invalid wanted fails : Bool} (wants : (valid && s.mgmt.params.startService) = wanted)
    (failed : (wanted && s.validate.isSome) = fails) : s.leaveStartup valid invalid =
      left s (if wanted && !fails then .service else .config) (s.mgmt.events ||| Event.started.bit |||
        (if invalid then Event.storeInvalid.bit else 0) ||| (if fails then Event.modeChange.bit else 0)) := by
  unfold State.leaveStartup
  rw [wants]
  dsimp only
  rw [failed, enters_mode scan manual, raise_if, raise_if]
  rfl

/-- Settles O55: `header_back` for the header block; `save_goes`, `save_completes`, `save_notReady` and `save_faults` for the writes of a
save; `header_unread`, `header_read`, `first_read` and `image_read` for the reads of the load; `loadEnds_loaded` for its end; and
`leaveStartup_quiet` for the end of STARTUP. -/
theorem loadsAndSavesEnd : Obligations.LoadsAndSavesEnd := by
  unfold Obligations.LoadsAndSavesEnd
  refine ⟨header_back, fun s frame f o r ends owner writes save stamp below reset mode first last erased => ?_,
    fun s l o data load stamp => ?_, fun s outcome loading held rests => ?_, fun s valid invalid scan manual => ?_⟩
  · have plain : Plain s r := ⟨save, reset, mode, first, last, erased⟩
    refine ⟨fun zero atFirst long => ?_, fun zero at_ => ?_, fun zero header less => ?_, fun three => ?_, fun two above inside => ?_⟩
    · obtain ⟨x, step, g⟩ := save_goes ends owner writes save stamp zero .second (by
        unfold State.saveStepDone
        rw [atFirst]
        dsimp only
        rw [if_pos long])
      exact ⟨x, step, ⟨g.link, g.engine, g.map, g.health, g.scan, g.guard, g.mode, g.streams⟩, g.log, g.mgmt, g.store, g.ports⟩
    · obtain ⟨x, step, g⟩ := save_goes ends owner writes save stamp zero .header (by
        unfold State.saveStepDone
        rcases at_ with ⟨atFirst, short⟩ | second
        · rw [atFirst]
          dsimp only
          rw [if_neg (Nat.not_lt.mpr short)]
        · rw [second])
      exact ⟨x, step, ⟨g.link, g.engine, g.map, g.health, g.scan, g.guard, g.mode, g.streams⟩, g.log, g.mgmt, g.store, g.ports⟩
    · obtain ⟨x, step, k, log, ports, mgmt, store⟩ := save_completes ends owner writes plain stamp zero header less
      exact ⟨x, step, ⟨k.link, k.engine, k.map, k.health, k.scan, k.guard, k.mode, k.streams⟩, log, ports, mgmt, store⟩
    · obtain ⟨x, step, k, log, ports, mgmt, store⟩ := save_notReady ends owner writes plain stamp three
      exact ⟨x, step, ⟨k.link, k.engine, k.map, k.health, k.scan, k.guard, k.mode, k.streams⟩, log, ports, mgmt, store⟩
    · obtain ⟨x, e, step, k, ports, store, mgmt, ⟨kind, unit, block, logical⟩, log⟩ :=
        save_faults ends owner writes plain stamp two below ⟨above, inside⟩
      exact ⟨x, step, ⟨k.link, k.engine, k.map, k.health, k.scan, k.guard, k.mode, k.streams⟩, ports, store, mgmt, e, kind, unit, block,
        logical, log⟩
  · refine ⟨fun stop d => loadReadEnded_own load stamp _, fun header unread => header_unread load stamp header unread,
      fun h header read attaching portRests place => header_read load stamp header read attaching portRests place, fun h known =>
        ⟨fun first long attaching portRests place => first_read load stamp known first long attaching portRests place,
          fun image complete => ⟨fun v valid => ?_, fun invalid => ?_⟩⟩⟩
    · exact (image_read load stamp known complete).trans (congrArg (loadDue s) (testImage_some valid))
    · exact (image_read load stamp known complete).trans (congrArg (loadDue s) (testImage_none invalid))
  · intro x sets store
    have form : x = State.later (loaded s outcome) (leaves outcome) := loadEnds_loaded loading held rests
    have set : Sets s x (items outcome) outcome.stored.start := by rw [form]; exact loaded_sets held _
    have every : sets (items outcome) outcome.stored.start :=
      ⟨set.map, set.mgmt, set.guard, set.log, set.health, set.scan, set.counters, set.ports, set.link, set.modes⟩
    refine ⟨fun h v valid below => ?_, fun invalid => ?_, fun absent => ?_⟩
    · subst valid
      have rises : nextStartCount h.startCount = h.startCount + 1 := if_neg (Nat.ne_of_lt below)
      refine ⟨every, ?_, by rw [form]; rfl⟩
      show x.store = _
      rw [form, ← rises]
      rfl
    · subst invalid
      exact ⟨every, by show x.store = _; rw [form]; rfl, by rw [form]; rfl⟩
    · subst absent
      exact ⟨every, by show x.store = _; rw [form]; rfl, by rw [form]; rfl⟩
  · intro x wanted
    have form : x = _ := leaveStartup_quiet scan manual (valid := valid) (invalid := invalid) rfl rfl
    rw [form]
    refine ⟨?_, ?_, rfl, rfl, rfl, rfl, rfl, rfl, rfl, rfl⟩
    · refine if_congr ?_ rfl rfl
      simp only [wanted, Bool.and_eq_true, Bool.not_eq_true', Bool.eq_false_iff, ne_eq, Option.isSome_iff_ne_none]
      tauto
    · refine congrArg (fun events => ({ s.mgmt with events := events } : ManagementEngine)) (congrArg (fun e =>
        s.mgmt.events ||| Event.started.bit ||| (if invalid = true then Event.storeInvalid.bit else 0) ||| e) (if_congr ?_ rfl rfl))
      simp only [wanted, Bool.and_eq_true, ne_eq, Option.isSome_iff_ne_none]

end Sys2Proof.Proofs.Loads
end

section
/-!
PROOFS. The expiries of the aging, quiet and idle timers, and the idle timer after every step (R95, R111, R112, R170, R171, R177).
-/

namespace Sys2Proof.Proofs.Timers

open Sys2Proof Sys2Proof.Machine Sys2Proof.Laws

section
variable {s : State} {a : Word} {b : Nat}

/-! ### A timer that does not run -/

theorem exec_aging (running : s.Running) {y : State} (done : s.age = y) : exec .agingExpiry s = .next y := by
  rw [← done]
  exact whenUp_up (fun s => s.age) running.up

theorem exec_quiet (running : s.Running) {y : State} (done : s.quietExpires = y) : exec .quietTimerExpiry s = .next y := by
  rw [← done]
  exact whenUp_up (fun s => s.quietExpires) running.up

theorem exec_idle (running : s.Running) {y : State} (done : s.idleExpires = y) : exec .idleTimerExpiry s = .next y := by
  rw [← done]
  exact whenUp_up (fun s => s.idleExpires) running.up

theorem aging_stopped (running : s.Running) (stopped : s.health.aging = .stopped) : exec .agingExpiry s = .next s :=
  exec_aging running (if_neg (by rw [stopped]; exact Bool.false_ne_true))

theorem quiet_stopped (running : s.Running) (stopped : s.scan.quietTimer = .stopped) : exec .quietTimerExpiry s = .next s :=
  exec_quiet running (if_neg (by rw [stopped]; exact Bool.false_ne_true))

theorem idle_stopped (running : s.Running) (rests : ∀ a b, s.modes.idle ≠ .running a b) : exec .idleTimerExpiry s = .next s := by
  refine exec_idle running (if_neg ?_)
  cases timer : s.modes.idle with
  | running a b => exact absurd timer (rests a b)
  | stopped => exact Bool.false_ne_true
  | spent => exact Bool.false_ne_true

/-! ### The aging timer (R95) -/

/-- The watch list after an aging expiry. -/
def agedWatch (s : State) : List WatchEntry :=
  (s.health.watch.filterMap fun e =>
    if e.pending = true ∨ s.health.inRelocation e.block = true then some e
    else if e.age < 3 then some { e with age := e.age + 1 }
    else if 2 ≤ e.score then some { e with score := e.score - 1 } else none).map fun e =>
      { e with due := decide (s.mgmt.params.promotion ≤ e.score) && !e.pending }

/-- An expiry changes the watch list, the store's state and an event flag. -/
theorem ageWatch_aged (s : State) : ∃ e, s.ageWatch = { s with
    health := { s.health with watch := agedWatch s }
    store := if agedWatch s = s.health.watch then s.store else s.store.dirtied
    mgmt := { s.mgmt with events := e } } := by
  have list : ((s.health.watch.filterMap fun e => if e.pending || s.health.inRelocation e.block then some e else e.aged).map fun e =>
      e.evaluated s.mgmt.params.promotion) = agedWatch s := by
    have kept : (fun e : WatchEntry => if (e.pending || s.health.inRelocation e.block) = true then some e else e.aged) = fun e =>
        if e.pending = true ∨ s.health.inRelocation e.block = true then some e
        else if e.age < 3 then some { e with age := e.age + 1 }
        else if 2 ≤ e.score then some { e with score := e.score - 1 } else none :=
      funext fun e => if_congr (by rw [Bool.or_eq_true]) rfl rfl
    rw [kept]
    rfl
  obtain ⟨e, suspect⟩ := suspectDue_eq (s.setWatch (agedWatch s)) s.health.watch
  refine ⟨e, ?_⟩
  unfold State.ageWatch
  dsimp only
  rw [list, suspect, setWatch_eq]

/-- The aging timer that runs out ages the list and starts again. -/
theorem aging_ages (running : s.Running) (timer : s.health.aging = .running a b) (period : s.mgmt.params.agingPeriod ≠ 0) :
    ∃ i e, exec .agingExpiry s = .next { s with
      health := { s.health with watch := agedWatch s, aging := .running s.ms (s.mgmt.params.agingPeriod * 60000) }
      store := if agedWatch s = s.health.watch then s.store else s.store.dirtied
      mgmt := { s.mgmt with events := e }
      modes := { s.modes with idle := i } } := by
  obtain ⟨e, aged⟩ := ageWatch_aged s
  have again : s.agingTimer = .running s.ms (s.mgmt.params.agingPeriod * 60000) := if_neg period
  obtain ⟨i, idle⟩ := refreshIdle_eq ({ s with
    health := { s.health with watch := agedWatch s, aging := .running s.ms (s.mgmt.params.agingPeriod * 60000) }
    store := if agedWatch s = s.health.watch then s.store else s.store.dirtied
    mgmt := { s.mgmt with events := e } } : State)
  refine ⟨i, e, exec_aging running (.trans ?_ idle)⟩
  refine (if_pos (by rw [timer]; rfl)).trans ?_
  dsimp only
  rw [aged, ← again]
  exact finish_of_todo_nil (by exact running.settled)

/-! ### The quiet timer (R111, R112) -/

/-- The scan engine once the quiet flag is set. -/
def quiet (s : State) (state : ScanState) (c : Option ScanContext) : ScanEngine :=
  { s.scan with quiet := true, quietTimer := .stopped, state := state, context := c }

theorem quietExpires_runs (timer : s.scan.quietTimer = .running a b) {y : State} (done : s.becomeQuiet = y) :
    s.quietExpires = y.finish := by
  rw [← done]
  exact if_pos (by rw [timer]; rfl)

theorem scans_of (mode : s.modes.mode = .service ∨ s.modes.mode = .config) : s.modes.mode.scans = true := by
  rcases mode with mode | mode <;> rw [mode] <;> rfl

theorem becomeQuiet_noScan (scan : s.scan.context = none) : s.becomeQuiet = { s with scan := quiet s s.scan.state none } := by
  unfold State.becomeQuiet quiet
  dsimp only
  rw [scan]

theorem becomeQuiet_running {c : ScanContext} (scan : s.scan.context = some c) (mode : s.modes.mode = .service ∨ s.modes.mode = .config)
    (state : s.scan.state = .running) :
    s.becomeQuiet = { s with scan := quiet s .running (some { c with suspendRequested := false }) } := by
  unfold State.becomeQuiet quiet
  dsimp only
  rw [scan]
  refine (if_pos ⟨state, scans_of mode⟩).trans ?_
  rw [← state]
  rfl

/-- A SUSPENDED PATROL without a VERIFY runs on. -/
theorem becomeQuiet_resumes {c : ScanContext} (scan : s.scan.context = some c) (mode : s.modes.mode = .service ∨ s.modes.mode = .config)
    (state : s.scan.state = .suspended) (current : c.current = none) :
    s.becomeQuiet = State.scanCut { s with
      scan := quiet s .running (some { c with suspendRequested := false }), modes := { s.modes with idle := .stopped } } := by
  unfold State.becomeQuiet
  dsimp only
  rw [scan]
  refine (if_neg fun runs => ?_).trans ?_
  · rw [state] at runs
    cases runs.1
  unfold State.scanResume
  dsimp only
  rw [state, scans_of mode, current]
  rfl

/-! ### The idle timer (R170, R177) -/

theorem idle_spent (running : s.Running) (timer : s.modes.idle = .running a b) (disabled : s.mgmt.params.standbyDisabled = true) :
    exec .idleTimerExpiry s = .next { s with modes := { s.modes with idle := .spent } } := by
  refine exec_idle running ((if_pos (by rw [timer]; rfl)).trans ?_)
  exact if_pos disabled

/-- The idle timer that runs out enters standby. -/
theorem idle_enters (running : s.Running) (timer : s.modes.idle = .running a b) (enabled : s.mgmt.params.standbyDisabled = false)
    (scan : s.scan.context = none) :
    ∃ x, exec .idleTimerExpiry s = .next x ∧ s.EntersStandby x ∧ x.modes.idle = .stopped ∧
      x.mgmt = { s.mgmt with events := s.mgmt.events ||| Event.modeChange.bit } ∧ x.link = s.link ∧ x.guard = s.guard := by
  obtain ⟨enters, ph, p, c, st, n, form⟩ := enterStandby_enters scan
  rw [form] at enters
  have expires : s.idleExpires = (s.enterStandby.raise .modeChange).finish :=
    (if_pos (by rw [timer]; rfl)).trans (if_neg (ne_true_of_eq_false enabled))
  rw [form] at expires
  have finish := expires.trans ((finish_of_todo_nil (by exact running.settled)).trans (refreshIdle_rests (by exact PartMode.noConfusion)))
  exact ⟨_, exec_idle running finish, enters_like enters rfl rfl rfl rfl rfl rfl rfl rfl rfl rfl, rfl, rfl, rfl, rfl⟩

/-! ### The idle timer after a step (R177) -/

theorem refreshIdle_off (fails : s.idleHolds = false) : s.refreshIdle = { s with modes := { s.modes with idle := .stopped } } :=
  if_neg (ne_true_of_eq_false fails)

theorem refreshIdle_starts (holds : s.idleHolds = true) (stopped : s.modes.idle = .stopped) :
    s.refreshIdle = { s with modes := { s.modes with idle := .running s.ms (idlePeriod s.mgmt.params.idleCode) } } := by
  refine (if_pos holds).trans ?_
  rw [stopped]
  rfl

theorem refreshIdle_goesOn (holds : s.idleHolds = true) (goes : s.modes.idle ≠ .stopped) : s.refreshIdle = s := by
  refine (if_pos holds).trans ?_
  cases timer : s.modes.idle with
  | stopped => exact absurd timer goes
  | running a b => rfl
  | spent => rfl

end

/-- Settles O56, timer by timer: the `_stopped` lemmas, `aging_ages`, the `becomeQuiet` lemmas, `idle_spent`, `idle_enters` and the
`refreshIdle` lemmas. -/
theorem timersExpire : Obligations.TimersExpire := by
  unfold Obligations.TimersExpire
  refine fun s running => ⟨aging_stopped running, quiet_stopped running, idle_stopped running, fun a b timer period => ?_,
    fun a b timer => ⟨fun scan => ?_, fun c scan mode => ⟨fun state => ?_, fun state current => ?_⟩⟩,
    fun a b timer => ⟨idle_spent running timer, idle_enters running timer⟩, ?_⟩
  · obtain ⟨i, e, step⟩ := aging_ages running timer period
    exact ⟨_, step, rfl, rfl, rfl, rfl, rfl, rfl, rfl, rfl, rfl, rfl, rfl, rfl, rfl⟩
  · exact exec_quiet running ((quietExpires_runs timer (becomeQuiet_noScan scan)).trans (finish_of_todo_nil (by exact running.settled)))
  · exact exec_quiet running ((quietExpires_runs timer (becomeQuiet_running scan mode state)).trans
      (finish_of_todo_nil (by exact running.settled)))
  · exact exec_quiet running (quietExpires_runs timer (becomeQuiet_resumes scan mode state current))
  · intro holds code
    refine ⟨fun fails => refreshIdle_off (Bool.eq_false_iff.mpr fun on => fails ((idleHolds_iff s).mp on)), fun on stopped => ?_,
      fun on goes => refreshIdle_goesOn ((idleHolds_iff s).mpr on) goes⟩
    have ready := (idleHolds_iff s).mpr on
    obtain ⟨-, -, -, -, -, -, -, -, set⟩ := on
    have period : idlePeriod code = if code ≤ 200 then code * 2000 else (code - 200) * 60000 := if_neg set
    rw [← period]
    exact refreshIdle_starts ready stopped

end Sys2Proof.Proofs.Timers
end

section
/-!
PROOFS. The steps of the mode controller (R86, R87, R141, R168, R172, R174): the end of a drain, the power-down of the ports, the end of the
powering-down phase, and the end of a wake.
-/

namespace Sys2Proof.Proofs.ModeSteps

open Sys2Proof Sys2Proof.Machine Sys2Proof.Laws

section
variable {s y : State} {t : Taken}

/-! ### The end of a drain (R168) -/

theorem exec_drainEnd (running : s.Running) (done : s.endDrain = y) : exec .drainEnd s = .next y := by
  rw [← done]
  exact whenUp_up (fun s => s.endDrain) running.up

theorem drained_iff (s : State) : s.drained = true ↔ s.engine.items = [] ∧ s.store.save = none := by
  unfold State.drained
  rw [Bool.and_eq_true, List.isEmpty_iff, Option.isNone_iff_eq_none]

theorem drainEnd_not (running : s.Running) (busy : s.modes.mode ≠ .draining ∨ s.engine.items ≠ [] ∨ s.store.save ≠ none) :
    exec .drainEnd s = .next s := by
  refine exec_drainEnd running (if_neg fun ⟨drains, drained⟩ => ?_)
  obtain ⟨items, save⟩ := (drained_iff s).mp drained
  rcases busy with mode | listed | saving
  · exact mode drains
  · exact listed items
  · exact saving save

/-- A drain that ends, toward its target. -/
theorem endDrain_ends (mode : s.modes.mode = .draining) (items : s.engine.items = []) (save : s.store.save = none)
    (done : s.drainEnds = y) : s.endDrain = y.finish := by
  rw [← done]
  exact if_pos ⟨mode, (drained_iff s).mpr ⟨items, save⟩⟩

theorem endWaiting_none (waiting : s.modes.waiting = none) : s.endWaiting = s := by
  unfold State.endWaiting
  rw [waiting]

/-- The waiting SET_MODE is answered with the mode that is reached. -/
theorem endWaiting_answers {m : PartMode} (waiting : s.modes.waiting = some m) (taken : s.mgmt.taken = some t) :
    s.endWaiting = State.answered { s with modes := { s.modes with waiting := none } } t .done (le1 s.modes.mode.code) := by
  unfold State.endWaiting
  rw [waiting]
  exact respond_taken (s := { s with modes := { s.modes with waiting := none } }) taken _ _

/-- The end of a step that leaves no work, in a mode that the idle timer does not run in. -/
theorem finish_rests (settled : s.todo = []) (mode : s.modes.mode ≠ .service) :
    s.finish = { s with modes := { s.modes with idle := .stopped } } :=
  (finish_of_todo_nil settled).trans (refreshIdle_rests mode)

theorem draining_rests (mode : s.modes.mode = .draining) : s.modes.mode ≠ .service := by
  rw [mode]
  exact PartMode.noConfusion

/-- Toward CONFIG. -/
theorem drain_config (running : s.Running) (w : Bool) (mode : s.modes.mode = .draining) (target : s.modes.drain = .config)
    (items : s.engine.items = []) (save : s.store.save = none) (scan : s.scan.context = none) (taken : s.mgmt.taken = some t)
    (waits : s.modes.waiting.isSome = w) : exec .drainEnd s = .next
      (if w then State.answered { s with modes := { s.modes with
          mode := .config, phase := .none, drain := .none, waiting := none, idle := .stopped } } t .done (le1 PartMode.config.code)
        else { s with modes := { s.modes with mode := .config, phase := .none, drain := .none, idle := .stopped } }) := by
  have enters : s.enterConfig = { s with modes := { s.modes with mode := .config, phase := .none, drain := .none } } :=
    scanServes_none (by exact scan) (.inl (by exact PartMode.noConfusion))
  have ends : s.drainEnds = State.endWaiting { s with modes := { s.modes with mode := .config, phase := .none, drain := .none } } := by
    unfold State.drainEnds
    rw [target]
    exact congrArg State.endWaiting enters
  cases waiting : s.modes.waiting with
  | none =>
    rw [waiting] at waits
    subst waits
    have bare := endWaiting_none (s := { s with modes := { s.modes with mode := .config, phase := .none, drain := .none } }) waiting
    exact exec_drainEnd running ((endDrain_ends mode items save (ends.trans bare)).trans
      (finish_rests running.settled PartMode.noConfusion))
  | some m =>
    rw [waiting] at waits
    subst waits
    have answers := endWaiting_answers (s := { s with modes := { s.modes with mode := .config, phase := .none, drain := .none } })
      waiting taken
    exact exec_drainEnd running ((endDrain_ends mode items save (ends.trans answers)).trans
      (finish_rests running.settled PartMode.noConfusion))

/-- Toward STANDBY. -/
theorem drain_standby (running : s.Running) (mode : s.modes.mode = .draining) (target : s.modes.drain = .standby)
    (items : s.engine.items = []) (save : s.store.save = none) (scan : s.scan.context = none) :
    (s.modes.waiting = none → ∃ x, exec .drainEnd s = .next x ∧ s.EntersStandby x ∧ x.mgmt = s.mgmt ∧ x.link = s.link) ∧
    (∀ (m : PartMode) (t : Taken), s.modes.waiting = some m → s.mgmt.taken = some t → ∃ x, exec .drainEnd s = .next x ∧
      s.EntersStandby x ∧ s.Answers x t .done (le1 PartMode.enteringStandby.code) ∧ x.modes.waiting = none ∧
      x.mgmt.events = s.mgmt.events) := by
  obtain ⟨enters, ph, p, c, st, n, form⟩ := enterStandby_enters scan
  have ends : s.drainEnds = s.enterStandby.endWaiting := by
    unfold State.drainEnds
    rw [target]
  rw [form] at enters ends
  refine ⟨fun waiting => ?_, fun m t waiting taken => ?_⟩
  · have bare := ends.trans (endWaiting_none waiting)
    exact ⟨_, exec_drainEnd running ((endDrain_ends mode items save bare).trans (finish_rests running.settled PartMode.noConfusion)),
      enters_like enters rfl rfl rfl rfl rfl rfl rfl rfl rfl rfl, rfl, rfl⟩
  · have answers := ends.trans (endWaiting_answers waiting taken)
    exact ⟨_, exec_drainEnd running ((endDrain_ends mode items save answers).trans (finish_rests running.settled PartMode.noConfusion)),
      enters_like enters rfl rfl rfl rfl rfl rfl rfl rfl rfl rfl, ⟨rfl, rfl, rfl, _, rfl⟩, rfl, rfl⟩

/-! ### RESET_PART after its drain (R141) -/

/-- RESET_PART is answered, and the part reset is due. -/
theorem respondReset_taken (taken : s.mgmt.taken = some t) (data : List Byte) : s.respondReset data = { s.answered t .done [] with
    mgmt := { s.mgmt with
      taken := none, resetStage := .due, response := { seq := t.seq, code := t.code, result := .done, data := data } } } := by
  unfold State.respondReset
  rw [taken]
  show State.completeW0 _ t = _
  unfold State.completeW0 State.answered
  cases t.tag <;> rfl

theorem drainEnds_reset (target : s.modes.drain = .reset) :
    s.drainEnds = State.resetSave { s with modes := { s.modes with drain := .none, waiting := none } } := by
  unfold State.drainEnds
  rw [target]
  rfl

/-- Toward RESET without a save to make. -/
theorem drain_resets (running : s.Running) (mode : s.modes.mode = .draining) (target : s.modes.drain = .reset)
    (items : s.engine.items = []) (save : s.store.save = none) (taken : s.mgmt.taken = some t)
    (noSave : ¬ (s.store.state = .dirty ∧ (s.port 0).state = .ready)) : exec .drainEnd s = .next { s.answered t .done [] with
      modes := { s.modes with drain := .none, waiting := none, idle := .stopped }
      mgmt := { s.mgmt with
        taken := none, resetStage := .due
        response := { seq := t.seq, code := t.code, result := .done
                      data := flag false ++ flag false ++ le1 s.store.state.code ++ le4 s.store.generation.toNat } } } := by
  have answers : State.resetSave { s with modes := { s.modes with drain := .none, waiting := none } } = _ :=
    (if_neg noSave).trans (respondReset_taken (s := { s with modes := { s.modes with drain := .none, waiting := none } }) taken _)
  exact exec_drainEnd running ((endDrain_ends mode items save ((drainEnds_reset target).trans answers)).trans
    (finish_rests running.settled (by exact draining_rests mode)))

/-- Toward RESET with a save. -/
theorem drain_saves (running : s.Running) (mode : s.modes.mode = .draining) (target : s.modes.drain = .reset)
    (items : s.engine.items = []) (save : s.store.save = none) (taken : s.mgmt.taken = some t)
    (saves : s.store.state = .dirty ∧ (s.port 0).state = .ready) :
    ∃ x r, exec .drainEnd s = .next x ∧ x.mgmt.resetStage = .save ∧ x.mgmt.taken = some t ∧ x.store.state = .saving ∧
      x.store.save = some r ∧ r.step = .first ∧ r.command = some t.record ∧ x.modes.mode = .draining ∧ x.link = s.link ∧
      x.map = s.map := by
  obtain ⟨p, c, st, n, form, state, -, -, -, -, -, -, -, r, save', step, command, -⟩ := startSave_eq (s := { s with
    modes := { s.modes with drain := .none, waiting := none }, mgmt := { s.mgmt with resetStage := .save } }) saves.2 (some t.record)
  have starts : State.resetSave { s with modes := { s.modes with drain := .none, waiting := none } } = _ :=
    (if_pos saves).trans ((congrArg (fun record => State.startSave { s with
      modes := { s.modes with drain := .none, waiting := none }, mgmt := { s.mgmt with resetStage := .save } } record)
      (show s.mgmt.taken.map (fun t => t.record) = some t.record by rw [taken]; rfl)).trans form)
  exact ⟨_, r, exec_drainEnd running ((endDrain_ends mode items save ((drainEnds_reset target).trans starts)).trans
    (finish_rests running.settled (by exact draining_rests mode))), rfl, taken, state, save', step,
    command, mode, rfl, rfl⟩

/-! ### The POWER_DOWN of a port (R86) -/

theorem exec_powerDown {u : Fin 4} (running : s.Running) (done : s.sendPowerDown u = y) : exec (.powerDown u) s = .next y := by
  rw [← done]
  exact whenUp_up (fun s => s.sendPowerDown u) running.up

theorem sendPowerDown_not {u : Fin 4} (none_ : (s.port u).powerDownReady = none) : s.sendPowerDown u = s := by
  unfold State.sendPowerDown
  rw [none_]

theorem powerDownReady_unplaced {p : Port} (place : p.attachPlace = none) : p.powerDownReady = none := by
  unfold Port.powerDownReady
  rw [place]
  rfl

theorem idleSlots_iff (p : Port) : p.idleSlots = true ↔ p.slots = Four.all none := by
  unfold Port.idleSlots
  cases p.slots with
  | mk a b c d => simp [Four.toList, Four.all]

theorem powerDownReady_busy {p : Port} (slots : p.slots ≠ Four.all none) : p.powerDownReady = none := by
  have busy : p.idleSlots = false := Bool.eq_false_iff.mpr fun idle => slots ((idleSlots_iff p).mp idle)
  unfold Port.powerDownReady
  rw [busy]
  cases p.attachPlace <;> simp [Option.filter]

/-- A POWER_DOWN placed at a port with nothing outstanding and nothing waiting. -/
theorem powerDownReady_placed {p : Port} {o : Op} (place : p.attachPlace = some o) (kind : o.kind = .powerDown)
    (serves : p.state.serves = true) (slots : p.slots = Four.all none) (queue : p.queue = []) (scan : p.scanPlace = none)
    (store : p.storePlace = none) : p.powerDownReady = some o := by
  have young : p.older o = false := by
    unfold Port.older
    rw [queue, scan, store]
    rfl
  unfold Port.powerDownReady
  rw [place, serves, (idleSlots_iff p).mpr slots]
  simp [Option.filter, kind, young]

theorem powerDown_sends {u : Fin 4} {o : Op} (ready : (s.port u).powerDownReady = some o) (kind : o.kind = .powerDown)
    (slots : (s.port u).slots = Four.all none) : ∃ c, s.sendPowerDown u = { s with
      counters := c
      ports := s.ports.set u { s.port u with
        attachPlace := none
        slots := (Four.all none).set 0 (some (s.sentNow o))
        sent := (s.port u).sent ++ [⟨0, .powerDown, o.first, o.count, o.data⟩] } } := by
  refine ⟨opCounted s u, ?_⟩
  unfold State.sendPowerDown
  rw [ready]
  refine (sendOp_ports s u .attach 0 o).trans ?_
  rw [← slots, ← kind]
  rfl

/-! ### The end of the powering-down phase (R172) -/

theorem exec_complete (running : s.Running) (done : s.completePowerDown = y) : exec .poweringDownComplete s = .next y := by
  rw [← done]
  exact whenUp_up (fun s => s.completePowerDown) running.up

theorem allDown_iff (s : State) : s.allDown = true ↔ ∀ u, (s.port u).state.down = true := by
  unfold State.allDown
  rw [List.all_eq_true]
  exact ⟨fun all u => all u (by match u with | 0 | 1 | 2 | 3 => decide), fun all u _ => all u⟩

theorem poweringDown_iff (s : State) : s.poweringDown = true ↔ s.modes.mode = .enteringStandby ∧ s.modes.phase = .poweringDown := by
  unfold State.poweringDown
  rw [Bool.and_eq_true, decide_eq_true_eq, decide_eq_true_eq]

theorem complete_not (running : s.Running) (busy : s.modes.mode ≠ .enteringStandby ∨ s.modes.phase ≠ .poweringDown ∨
    ∃ u, (s.port u).state = .ready ∨ (s.port u).state = .readOnly ∨ (s.port u).state = .attaching) :
    exec .poweringDownComplete s = .next s := by
  refine exec_complete running (if_neg fun both => ?_)
  obtain ⟨powering, down⟩ := Bool.and_eq_true_iff.mp both
  obtain ⟨mode, phase⟩ := (poweringDown_iff s).mp powering
  rcases busy with other | other | ⟨u, up⟩
  · exact other mode
  · exact other phase
  · have rests := (allDown_iff s).mp down u
    rcases up with up | up | up <;> rw [up] at rests <;> cases rests

theorem completePowerDown_rests (mode : s.modes.mode = .enteringStandby) (phase : s.modes.phase = .poweringDown)
    (down : ∀ u, (s.port u).state.down = true) (done : s.enterRest = y) : s.completePowerDown = y.finish := by
  rw [← done]
  exact if_pos (Bool.and_eq_true_iff.mpr ⟨(poweringDown_iff s).mpr ⟨mode, phase⟩, (allDown_iff s).mpr down⟩)

/-- The part in STANDBY, with MODE_CHANGE. -/
def standby (s : State) : State :=
  { s with
    modes := { s.modes with mode := .standby, phase := .none }
    mgmt := { s.mgmt with events := s.mgmt.events ||| Event.modeChange.bit } }

theorem wakeCause_iff (items : s.engine.items = []) : s.wakeCause = true ↔ s.modes.wakeRequested = true ∨ s.guard.state = .erasing := by
  unfold State.wakeCause
  rw [items]
  simp

theorem enterRest_empty (items : s.engine.items = []) :
    s.enterRest = if s.wakeCause then (standby s).enterWaking else standby s := by
  unfold State.enterRest
  dsimp only
  rw [runAllCleared_nil (by exact items)]
  rfl

/-- Without a cause for a wake the phase ends in STANDBY. -/
theorem complete_standby (running : s.Running) (mode : s.modes.mode = .enteringStandby) (phase : s.modes.phase = .poweringDown)
    (items : s.engine.items = []) (down : ∀ u, (s.port u).state.down = true) (asleep : s.modes.wakeRequested = false)
    (done : s.guard.state ≠ .erasing) : exec .poweringDownComplete s = .next { s with
      mgmt := { s.mgmt with events := s.mgmt.events ||| Event.modeChange.bit }
      modes := { s.modes with mode := .standby, phase := .none, idle := .stopped } } := by
  have noCause : ¬ s.wakeCause = true := fun cause => by
    rcases (wakeCause_iff items).mp cause with requested | erasing
    · rw [asleep] at requested
      cases requested
    · exact done erasing
  have rests := (enterRest_empty items).trans (if_neg noCause)
  exact exec_complete running ((completePowerDown_rests mode phase down rests).trans (finish_rests running.settled PartMode.noConfusion))

/-- The part as it begins to wake, with MODE_CHANGE. -/
def waking (s : State) : State :=
  { s with
    modes := { s.modes with mode := .waking, phase := .none, wakeRequested := false }
    mgmt := { s.mgmt with events := s.mgmt.events ||| Event.modeChange.bit } }

theorem enterWaking_standby (s : State) : (standby s).enterWaking = units.foldl State.wakePort (waking s) := by
  have twice : s.mgmt.events ||| Event.modeChange.bit ||| Event.modeChange.bit = s.mgmt.events ||| Event.modeChange.bit := by
    rw [BitVec.or_assoc, BitVec.or_self]
  have begins : State.raise ((standby s).onModes fun m => { m with mode := .waking, phase := .none, wakeRequested := false })
      .modeChange = waking s := congrArg (fun events => ({ waking s with mgmt := { s.mgmt with events := events } } : State)) twice
  unfold State.enterWaking
  rw [begins]

/-- With a cause for a wake the part is WAKING at once. -/
theorem complete_wakes (running : s.Running) (mode : s.modes.mode = .enteringStandby) (phase : s.modes.phase = .poweringDown)
    (items : s.engine.items = []) (cause : s.modes.wakeRequested = true ∨ s.guard.state = .erasing) (save : s.store.save = none)
    (patrol : ∀ c, s.scan.context = some c → c.kind = .patrol)
    (down : ∀ u, (s.port u).state = .absent ∨ (s.port u).state = .offline ∨ (s.port u).state = .failed ∨
      ((s.port u).state = .sleeping ∧ (s.port u).desired ≠ .offline ∧ (s.port u).Rests)) :
    ∃ n p c, exec .poweringDownComplete s = .next { s with
        nextId := n, ports := p, counters := c
        mgmt := { s.mgmt with events := s.mgmt.events ||| Event.modeChange.bit }
        modes := { s.modes with mode := .waking, phase := .none, wakeRequested := false, idle := .stopped } } ∧
      ∀ u, ((s.port u).state ≠ .sleeping → p.get u = s.port u) ∧
        ((s.port u).state = .sleeping → ∃ n, p.get u = s.attachBegun (s.port u) true n) := by
  obtain ⟨⟨n, p, c, form, -⟩, wakes⟩ := wakeAll_wakes (s := waking s) patrol save fun u asleep => by
    have state : (s.port u).state = .sleeping := asleep
    rcases down u with other | other | other | ⟨-, desired, rests⟩
    · rw [state] at other; cases other
    · rw [state] at other; cases other
    · rw [state] at other; cases other
    · exact ⟨desired, rests⟩
  rw [form] at wakes
  have rests := (enterRest_empty items).trans ((if_pos ((wakeCause_iff items).mpr cause)).trans ((enterWaking_standby s).trans form))
  have allDown (u : Fin 4) : (s.port u).state.down = true := by
    rcases down u with state | state | state | ⟨state, -⟩ <;> rw [state] <;> rfl
  exact ⟨n, p, c, exec_complete running ((completePowerDown_rests mode phase allDown rests).trans
    (finish_rests running.settled PartMode.noConfusion)), wakes⟩

/-! ### The end of a wake (R174) -/

theorem exec_wakeSettled (running : s.Running) (done : s.wakeEnds = y) : exec .wakeSettled s = .next y := by
  rw [← done]
  exact whenUp_up (fun s => s.wakeEnds) running.up

theorem allSettled_iff (s : State) : s.allSettled = true ↔ ∀ u, (s.port u).state.settled = true := by
  unfold State.allSettled
  rw [List.all_eq_true]
  exact ⟨fun all u => all u (by match u with | 0 | 1 | 2 | 3 => decide), fun all u _ => all u⟩

theorem settled_iff (p : PortState) : p.settled = true ↔ p ≠ .sleeping ∧ p ≠ .attaching := by
  cases p <;> decide

theorem wakeSettled_not (running : s.Running)
    (busy : s.modes.mode ≠ .waking ∨ ∃ u, (s.port u).state = .sleeping ∨ (s.port u).state = .attaching) :
    exec .wakeSettled s = .next s := by
  refine exec_wakeSettled running (if_neg fun ⟨mode, all⟩ => ?_)
  rcases busy with other | ⟨u, wakes⟩
  · exact other mode
  · obtain ⟨awake, attached⟩ := (settled_iff _).mp ((allSettled_iff s).mp all u)
    exact wakes.elim awake attached

/-- The part in SERVICE after its wake, with MODE_CHANGE. -/
def serving (s : State) (waiting : Option PartMode) (idle : IdleTimer) : State :=
  { s with
    mgmt := { s.mgmt with events := s.mgmt.events ||| Event.modeChange.bit }
    modes := { s.modes with mode := .service, phase := .none, drain := .none, waiting := waiting, idle := idle } }

theorem wake_serves (running : s.Running) (mode : s.modes.mode = .waking)
    (settled : ∀ u, (s.port u).state ≠ .sleeping ∧ (s.port u).state ≠ .attaching) (scan : s.scan.context = none)
    (manual : s.mgmt.params.autoPatrol = false) :
    (s.modes.waiting = none → ∃ idle, exec .wakeSettled s = .next (serving s none idle)) ∧
    (∀ (m : PartMode) (t : Taken), s.modes.waiting = some m → s.mgmt.taken = some t →
      ∃ idle, exec .wakeSettled s = .next ((serving s none idle).answered t .done (le1 PartMode.service.code))) := by
  have enters : s.enterService.raise .modeChange = serving s s.modes.waiting s.modes.idle :=
    congrArg (fun x : State => x.raise .modeChange)
      (scanServes_none (s := s.onModes fun m => { m with mode := .service, phase := .none, drain := .none }) scan (.inr manual))
  have all : s.allSettled = true := (allSettled_iff s).mpr fun u => (settled_iff _).mpr (settled u)
  have ends : s.wakeEnds = (serving s s.modes.waiting s.modes.idle).endWaiting.finish :=
    (if_pos ⟨mode, all⟩).trans (congrArg (fun x : State => x.endWaiting.finish) enters)
  refine ⟨fun waiting => ?_, fun m t waiting taken => ?_⟩
  · rw [waiting, endWaiting_none (s := serving s none s.modes.idle) rfl] at ends
    obtain ⟨i, idle⟩ := refreshIdle_eq (serving s none s.modes.idle)
    exact ⟨i, exec_wakeSettled running (ends.trans ((finish_of_todo_nil (by exact running.settled)).trans idle))⟩
  · rw [waiting, endWaiting_answers (s := serving s (some m) s.modes.idle) rfl taken] at ends
    obtain ⟨i, idle⟩ := refreshIdle_eq ((serving s none s.modes.idle).answered t .done (le1 PartMode.service.code))
    exact ⟨i, exec_wakeSettled running (ends.trans ((finish_of_todo_nil (by exact running.settled)).trans idle))⟩

end

/-- Settles O57, step by step: `drainEnd_not`, `drain_config`, `drain_standby`, `drain_resets`, `drain_saves`; the `powerDownReady` lemmas
and `powerDown_sends`; `complete_not`, `complete_standby`, `complete_wakes`; `wakeSettled_not` and `wake_serves`. -/
theorem modeStepsMoveTheMode : Obligations.ModeStepsMoveTheMode := by
  unfold Obligations.ModeStepsMoveTheMode
  intro s running changed
  refine ⟨drainEnd_not running, fun t w mode target items save scan taken waits =>
    ⟨_, drain_config running w mode target items save scan taken waits⟩, drain_standby running,
    fun t mode target items save taken => ?_,
    fun u => ⟨fun place => ?_, fun slots => ?_, fun o place kind serves slots queue scan store => ?_⟩, complete_not running,
    fun mode phase items => ⟨fun asleep done down => ?_, fun cause save patrol down => ?_⟩, wakeSettled_not running,
    wake_serves running⟩
  · intro saves
    exact ⟨fun noSave => ⟨_, drain_resets running mode target items save taken noSave, rfl, rfl, rfl, rfl, mode, rfl, rfl, rfl, rfl⟩,
      drain_saves running mode target items save taken⟩
  · exact exec_powerDown running (sendPowerDown_not (powerDownReady_unplaced place))
  · exact exec_powerDown running (sendPowerDown_not (powerDownReady_busy slots))
  · obtain ⟨c, sends⟩ := powerDown_sends (powerDownReady_placed place kind serves slots queue scan store) kind slots
    exact ⟨_, exec_powerDown running sends, rfl, rfl, rfl, rfl, rfl, rfl, rfl, rfl, rfl, rfl, rfl⟩
  · exact complete_standby running mode phase items (fun u => by
      rcases down u with state | state | state | state <;> rw [state] <;> rfl) asleep done
  · obtain ⟨n, p, c, step, wakes⟩ := complete_wakes running mode phase items cause save patrol down
    exact ⟨_, step, rfl, rfl, rfl, rfl, rfl, rfl, rfl, rfl, rfl, rfl, wakes⟩

end Sys2Proof.Proofs.ModeSteps
end

section
/-!
PROOFS. What ends the current VERIFY of a scan and what a scan does next (O60): one lemma per way a VERIFY ends, and one per way a cut
ends, each over the context that the outcome leaves.
-/

namespace Sys2Proof.Proofs.ScanSteps

open Sys2Proof Sys2Proof.Machine Sys2Proof.Laws

/-! ### The states of a scan that goes on -/

/-- A state whose scan has another context. -/
def inContext (s : State) (c : ScanContext) : State := { s with scan := { s.scan with context := some c } }

/-- A state whose scan log has an entry for a context, over a scan engine. -/
def logged (s : State) (c : ScanContext) (result : ScanResult) (scan : ScanEngine) : State := { s with
  scan := { scan with log := pushBounded 16 s.scan.log {
    kind := c.kind, unit := c.unit, result := result, verified := c.verified, firstFailing := c.firstFailing, stamp := s.now } }
  mgmt := { s.mgmt with events := s.mgmt.events ||| Event.scanEnded.bit }, store := s.store.dirtied }

/-- A state whose scan has ended with a result for a context. -/
def endedWith (s : State) (c : ScanContext) (result : ScanResult) : State :=
  logged s c result { s.scan with state := .idle, context := none }

/-- The context after a VERIFY that ended HARD at a block. -/
def failedAt (c : ScanContext) (v : ScanVerify) (stop : Nat) : ScanContext :=
  { c.advance (stop - v.extent.first + 1) with
    verified := min 4294967295 (c.verified + (stop - v.extent.first + 1)), failures := min 65535 (c.failures + 1),
    firstFailing := if c.firstFailing.isSome = true then c.firstFailing else some ⟨v.extent.unit, stop⟩ }

/-- The context after a VERIFY that ended DONE. -/
def doneAt (c : ScanContext) (v : ScanVerify) : ScanContext :=
  { c.advance v.extent.count with verified := min 4294967295 (c.verified + v.extent.count) }

/-- The context that holds a VERIFY for the end of its port's attach. -/
def heldBack (c : ScanContext) (v : ScanVerify) : ScanContext :=
  { c with current := some { v with retried := true, stamp := none } }

@[simp] theorem advance_kind (c : ScanContext) (n : Nat) : (c.advance n).kind = c.kind := by
  unfold ScanContext.advance; cases c.phase <;> rfl

@[simp] theorem advance_suspend (c : ScanContext) (n : Nat) : (c.advance n).suspendRequested = c.suspendRequested := by
  unfold ScanContext.advance; cases c.phase <;> rfl

@[simp] theorem advance_current (c : ScanContext) (n : Nat) : (c.advance n).current = none := by
  unfold ScanContext.advance; cases c.phase <;> rfl

/-- A scan in another context that ends with a result and has no VERIFY waiting (R110). -/
theorem inContext_ends {s : State} {d : ScanContext} (idle : ∀ v, d.current = some v → (s.port v.extent.unit).scanPlace = none)
    (result : ScanResult) : (inContext s d).endScan result = endedWith s d result :=
  endScan_rests (s := inContext s d) (c := d) rfl idle result

/-- A scan that ends with a result and has no VERIFY waiting (R110). -/
theorem scan_ends {s : State} {c : ScanContext} (h : s.scan.context = some c)
    (idle : ∀ v, c.current = some v → (s.port v.extent.unit).scanPlace = none) (result : ScanResult) :
    s.endScan result = endedWith s c result :=
  endScan_rests h idle result

/-! ### What follows the end of a VERIFY (R116, R117, R119) -/

/-- A scan in another context that nobody asked to suspend cuts. -/
theorem inContext_cuts {s : State} {c d : ScanContext} (h : s.scan.context = some c)
    (unasked : d.kind = .patrol → d.suspendRequested = false) : (s.setScan d).scanGoesOn = (inContext s d).scanCut := by
  rw [setScan_eq h]
  exact goesOn_cut (s := inContext s d) (c := d) rfl unasked

/-- A PATROL in another context that was asked to suspend and whose pass is not over suspends. -/
theorem inContext_pauses {s : State} {c d : ScanContext} (h : s.scan.context = some c) (patrol : d.kind = .patrol)
    (asked : d.suspendRequested = true) (running : s.scan.state = .running) (traffic : s.scan.quiet = false) {y : Extent}
    (more : (s.scanFind scanFuel d).2 = some y) :
    (s.setScan d).scanGoesOn = { s with scan := { s.scan with state := .suspended, context := some d } } := by
  have same : (inContext s d).scanFind scanFuel d = s.scanFind scanFuel d :=
    find_like (s := s) (x := inContext s d) (by exact rfl) (by exact rfl) scanFuel d
  rw [setScan_eq h]
  exact goesOn_pause (s := inContext s d) (c := d) rfl patrol asked running traffic (by rw [same]; exact more)

/-- A scan that has a VERIFY does not cut (R112). -/
theorem scanCut_current {s : State} {c : ScanContext} {v : ScanVerify} (h : s.scan.context = some c) (cur : c.current = some v) :
    s.scanCut = s := by
  unfold State.scanCut State.scanCutUpTo
  rw [h]
  dsimp only
  rw [if_neg (by simp [cur])]

/-- A VERIFY that ends is the current one of the context that holds its serial number (R110). -/
theorem scanEnded_current {s : State} {c : ScanContext} {v : ScanVerify} {o : Op} (h : s.scan.context = some c)
    (cur : c.current = some v) (stamp : v.stamp = some o.stamp) (out : OpOutcome) :
    s.scanEnded o out = s.scanOutcome c v out := by
  unfold State.scanEnded
  rw [h]
  dsimp only
  rw [cur]
  exact if_pos stamp

section Outcomes

variable {s : State} {c : ScanContext} (h : s.scan.context = some c) (v : ScanVerify)
include h

omit h in
/-- DONE moves the cursor past the blocks verified and counts them (R116). -/
theorem outcome_done (soft : List Nat) (data : List (Nat × Block)) (capacity : Nat) :
    s.scanOutcome c v (.done soft data capacity) = (s.setScan (doneAt c v)).scanGoesOn := rfl

omit h in
/-- The context that the model leaves after HARD. -/
theorem failedAt_eq (stop : Nat) :
    { c.advance (stop - v.extent.first + 1) with
      verified := satAdd Config.top32 (stop - v.extent.first + 1) c.verified, failures := satAdd 65535 1 c.failures,
      firstFailing := match c.firstFailing with
        | some b => some b
        | none => some ⟨v.extent.unit, stop⟩ } = failedAt c v stop := by
  unfold failedAt
  cases c.firstFailing <;> rfl

omit h in
/-- A PATROL whose VERIFY ended HARD goes on past the block (R116). -/
theorem outcome_hard_patrol (stop : Nat) (data : List (Nat × Block)) (patrol : c.kind = .patrol) :
    s.scanOutcome c v (.hardRead stop data) = (s.setScan (failedAt c v stop)).scanGoesOn := by
  rw [← failedAt_eq]
  exact if_pos (by rw [advance_kind]; exact patrol)

/-- A CHECK whose VERIFY ended HARD ends FAILED (R116). -/
theorem outcome_hard_check (stop : Nat) (data : List (Nat × Block)) (check : c.kind ≠ .patrol) :
    s.scanOutcome c v (.hardRead stop data) = endedWith s (failedAt c v stop) .failed := by
  have ends : (s.setScan (failedAt c v stop)).endScan .failed = endedWith s (failedAt c v stop) .failed := by
    rw [setScan_eq h]
    exact inContext_ends (fun w hw => by
      have : (failedAt c v stop).current = none := advance_current c _
      rw [this] at hw; cases hw) _
  rw [← ends, ← failedAt_eq]
  exact if_neg (by rw [advance_kind]; exact check)

/-- A PATROL keeps a VERIFY that ended TIMEOUT the first time (R117). -/
theorem outcome_timeout_held (patrol : c.kind = .patrol) (unasked : c.suspendRequested = false) (once : v.retried = false) :
    s.scanOutcome c v .timeout = inContext s (heldBack c v) := by
  have goes : s.scanOutcome c v .timeout = (s.setScan (heldBack c v)).scanGoesOn := if_pos ⟨patrol, once⟩
  rw [goes, inContext_cuts h (by intro; exact unasked)]
  exact scanCut_current (s := inContext s (heldBack c v)) (c := heldBack c v) rfl rfl

omit h in
/-- An outcome that verifies nothing and is not retried. -/
theorem outcome_skips {out : OpOutcome}
    (lost : out = .notReady ∨ out = .unavailable ∨ (out = .timeout ∧ (c.kind = .patrol → v.retried = true))) :
    s.scanOutcome c v out = s.scanSkips c v := by
  obtain rfl | rfl | ⟨rfl, again⟩ := lost
  · rfl
  · rfl
  · exact if_neg (fun both => by rw [again both.1] at both; cases both.2)

/-- A PATROL skips the blocks of a VERIFY that is lost (R117). -/
theorem skips_patrol (patrol : c.kind = .patrol) (unasked : c.suspendRequested = false) :
    s.scanSkips c v = (inContext s (c.advance v.extent.count)).scanCut := by
  unfold State.scanSkips
  rw [if_pos patrol, inContext_cuts h (by intro; rw [advance_suspend]; exact unasked)]

/-- A CHECK whose VERIFY is lost ends UNIT_LOST (R117). -/
theorem skips_check (cur : c.current = some v) (idle : (s.port v.extent.unit).scanPlace = none) (check : c.kind ≠ .patrol) :
    s.scanSkips c v = endedWith s c .unitLost := by
  unfold State.scanSkips
  rw [if_neg check, scan_ends h (fun w hw => by rw [cur] at hw; cases hw; exact idle)]

end Outcomes

/-! ### What a cut does (R112, R118) -/

/-- A mode in which a scan cuts. -/
theorem mode_scans {m : PartMode} (h : m = .service ∨ m = .config) : m.scans = true := by
  obtain rfl | rfl := h <;> rfl

/-- The pass result is NO_COVERAGE when nothing was verified, and only then (R118). -/
theorem endResult_noCoverage (c : ScanContext) : c.endResult = .noCoverage ↔ c.verified = 0 := by
  unfold ScanContext.endResult
  split
  · simp [*]
  · split <;> simp [*]

section Cuts

variable {s : State} {c d : ScanContext} (h : s.scan.context = some c) (running : s.scan.state = .running) (free : c.current = none)
  (mode : s.modes.mode = .service ∨ s.modes.mode = .config) (unasked : c.kind = .patrol → c.suspendRequested = false)
  (quiet : s.scanBusy = false)

/-- The condition under which a scan cuts (R112). -/
theorem cut_allowed (running : s.scan.state = .running) (free : c.current = none)
    (mode : s.modes.mode = .service ∨ s.modes.mode = .config) (unasked : c.kind = .patrol → c.suspendRequested = false)
    (quiet : s.scanBusy = false) :
    (decide (s.scan.state = .running) && c.current.isNone && s.modes.mode.scans &&
      !(decide (c.kind = .patrol) && c.suspendRequested) && !s.scanBusy) = true := by
  rw [running, free, mode_scans mode, quiet]
  by_cases k : c.kind = .patrol
  · simp [unasked k]
  · simp [k]

include h running free mode unasked quiet

/-- A scan cuts the VERIFY that its cursor finds. -/
theorem scanCut_found {y : Extent} (found : s.scanFind scanFuel c = (d, some y)) :
    s.scanCut = (s.offerScan y).2.setScan
      { d with current := some { extent := y, retried := false, stamp := some (s.offerScan y).1 } } := by
  unfold State.scanCut State.scanCutUpTo
  rw [h]
  dsimp only
  rw [if_pos (cut_allowed running free mode unasked quiet), found]

/-- A scan at the end of its coverage that does not begin a new pass ends with its result. -/
theorem scanCut_over (finished : s.scanFind scanFuel c = (d, none))
    (last : ¬ (c.kind = .patrol ∧ s.mgmt.params.autoPatrol = true ∧ c.endResult ≠ .noCoverage)) :
    s.scanCut = endedWith s c c.endResult := by
  rw [← scan_ends h (fun v hv => by rw [free] at hv; cases hv)]
  unfold State.scanCut State.scanCutUpTo
  rw [h]
  dsimp only
  rw [if_pos (cut_allowed running free mode unasked quiet), finished]
  exact if_neg last

/-- A PATROL under auto-patrol that verified something writes its result and begins a new pass. -/
theorem scanCut_again (finished : s.scanFind scanFuel c = (d, none))
    (again : c.kind = .patrol ∧ s.mgmt.params.autoPatrol = true ∧ c.endResult ≠ .noCoverage) :
    s.scanCut = State.scanCutUpTo 2 (logged s c c.endResult { s.scan with context := some c.newPass }) := by
  have written : (s.writeScanLog c c.endResult).setScan c.newPass =
      logged s c c.endResult { s.scan with context := some c.newPass } := by
    rw [writeScanLog_eq, setScan_eq (c := c) (by exact h)]
    rfl
  rw [← written]
  unfold State.scanCut State.scanCutUpTo
  rw [h]
  dsimp only
  rw [if_pos (cut_allowed running free mode unasked quiet), finished]
  exact if_pos again

/-- A VERIFY that is cut for a serving port at rest is sent (R79, R112). -/
theorem scanCut_sends {y : Extent} (found : s.scanFind scanFuel c = (d, some y)) (serves : (s.port y.unit).state.serves = true)
    (rests : (s.port y.unit).Rests) (detached : (s.port y.unit).attachPlace = none) :
    ∃ n, s.scanCut = { s with
      nextId := s.nextId + 1, counters := n
      scan := { s.scan with context := some { d with current := some { extent := y, retried := false, stamp := some s.nextId } } }
      ports := s.ports.set y.unit (s.sendsFirst (s.port y.unit) (mkOp .verify y.first y.count .scan s.nextId [])) } := by
  refine ⟨opCounted s y.unit, ?_⟩
  rw [scanCut_found h running free mode unasked quiet found, offerScan_sends serves rests detached,
    setScan_eq (c := c) (by exact h)]

end Cuts

/-- A port that stops serving ends the CHECK of its unit UNIT_LOST (R117). -/
theorem scanPort_lost {s : State} {c : ScanContext} {u : Fin 4} {p : PortState} (h : s.scan.context = some c) (free : c.current = none)
    (check : c.kind ≠ .patrol) (unit : c.unit = some u) (lost : p.serves = false) : s.scanPort u p = endedWith s c .unitLost := by
  rw [← scan_ends h (fun v hv => by rw [free] at hv; cases hv)]
  unfold State.scanPort
  rw [h]
  exact if_pos ⟨check, unit, lost⟩

/-- A port that serves leaves the scan alone (R117). -/
theorem scanPort_serves {s : State} {c : ScanContext} {u : Fin 4} {p : PortState} (h : s.scan.context = some c)
    (serves : p.serves = true) : s.scanPort u p = s := by
  unfold State.scanPort
  rw [h]
  exact if_neg (fun ⟨_, _, lost⟩ => by rw [serves] at lost; cases lost)

/-- Settles O60, by the ways in which a VERIFY ends and a cut ends. -/
theorem scansGoOnByTheirOutcomes : Obligations.ScansGoOnByTheirOutcomes := by
  unfold Obligations.ScansGoOnByTheirOutcomes
  intro s c h context written ended
  refine ⟨?ends, ?cuts, ?port⟩
  case ends =>
    intro v o cur stamp idle past done failed runs
    have current := scanEnded_current h cur stamp
    have doneSuspend : (doneAt c v).suspendRequested = c.suspendRequested := advance_suspend c _
    have failedSuspend (stop : Nat) : (failedAt c v stop).suspendRequested = c.suspendRequested := advance_suspend c _
    have doneKind : (doneAt c v).kind = c.kind := advance_kind c _
    have failedKind (stop : Nat) : (failedAt c v stop).kind = c.kind := advance_kind c _
    refine ⟨fun soft data capacity unasked => ?_, fun stop data patrol unasked => ?_, fun stop data check => ?_,
      fun patrol unasked once => ?_, fun out lost => ⟨fun patrol unasked => ?_, fun check => ?_⟩,
      fun patrol asked running traffic => ⟨fun soft data capacity y more => ?_, fun stop data y more => ?_⟩⟩
    · rw [current, outcome_done, inContext_cuts h (by rw [doneKind, doneSuspend]; exact unasked)]
      rfl
    · rw [current, outcome_hard_patrol v stop data patrol, inContext_cuts h (by intro; rw [failedSuspend]; exact unasked)]
      rfl
    · rw [current, outcome_hard_check h v stop data check]
      rfl
    · rw [current, outcome_timeout_held h v patrol unasked once]
      rfl
    · rw [current, outcome_skips v lost, skips_patrol h v patrol unasked]
      rfl
    · rw [current, outcome_skips v lost, skips_check h v cur idle check]
      rfl
    · rw [current, outcome_done]
      exact inContext_pauses h (doneKind.trans patrol) (doneSuspend.trans asked) running traffic more
    · rw [current, outcome_hard_patrol v stop data patrol]
      exact inContext_pauses h ((failedKind stop).trans patrol) ((failedSuspend stop).trans asked) running traffic more
  case cuts =>
    intro running free mode unasked quiet result again
    refine ⟨fun d y found serves rests detached => scanCut_sends h running free mode unasked quiet found serves rests detached,
      fun d finished => ⟨fun last => ?_, fun more => ?_⟩⟩
    · exact scanCut_over h running free mode unasked quiet finished
        (fun ⟨patrol, auto, some_⟩ => last ⟨patrol, auto, fun zero => some_ ((endResult_noCoverage c).mpr zero)⟩)
    · obtain ⟨patrol, auto, verified⟩ := more
      exact scanCut_again h running free mode unasked quiet finished
        ⟨patrol, auto, fun zero => verified ((endResult_noCoverage c).mp zero)⟩
  case port =>
    intro u p free check unit
    exact ⟨scanPort_lost h free check unit, scanPort_serves h⟩

end Sys2Proof.Proofs.ScanSteps
end

section
/-!
PROOFS. What ends an operation of a relocation (O59): one lemma per outcome, each over the state in which the relocation loses its slot,
and the RESULT steps that give the part the same.
-/

namespace Sys2Proof.Proofs.RelocationSteps

open Sys2Proof Sys2Proof.Machine Sys2Proof.Laws
open Sys2Proof.Proofs.HostOperations (foundAt rested softUnits write_silent found_silent outcomeOf_done outcome_gives outside rested_stays)
open Sys2Proof.Proofs.Repairs (Same result_hands outcomeOf_three)

/-! ### The states that a relocation leaves -/

/-- A state whose relocation in a slot has ended: its buffer is free and its item gone (R101). -/
def relocated (x : State) (k : Fin 2) (r : Relocation) : State := { x with
  health := x.health.withSlot none k
  engine := { items := x.engine.items.filter (fun i => i.request?.isSome || i.id != r.item), freeBuffers := x.engine.freeBuffers + 1 } }

/-- A state that waits to repeat the operation of a relocation (R102, R103). -/
def waiting (s : State) (k : Fin 2) (r : Relocation) : State :=
  { s with health := s.health.withSlot (some { r with retried := true, wait := .retry }) k }

/-- The relocation whose WRITE to a spare is sent. -/
def writing (r : Relocation) (spare tried : Nat) (block : Block) : Relocation :=
  { r with step := .write, data := block, retried := false, wait := .port, spare := some spare, tried := tried }

/-- A slot that is set to what it holds already. -/
theorem withSlot_watch (h : HealthMonitor) (r : Option Relocation) (k : Fin 2) : (h.withSlot r k).watch = h.watch := by
  match k with
  | 0 => rfl
  | 1 => rfl

theorem write_ne_read : ¬ OpKind.write = .read := by decide

section
variable {s : State} {k : Fin 2} {r : Relocation} {b : Nat} (slot : s.health.slot k = some r) (spare : r.spare = some b)

/-- A relocation that holds its buffer ends in a state that kept the slots. -/
theorem ends_after {x : State} (same : x.health.slot k = some r) (step : r.step = .read ∨ r.step = .write) :
    x.relocEnds k = relocated x k r := relocEnds_eq same step

include slot

theorem relocEnded_read (out : OpOutcome) : s.relocEnded k .read out = s.relocReadEnded k r out := by
  unfold State.relocEnded
  rw [slot]
  exact if_pos rfl

theorem relocEnded_write (out : OpOutcome) : s.relocEnded k .write out = s.relocWriteEnded k r out := by
  unfold State.relocEnded
  rw [slot]
  exact if_neg write_ne_read

/-- A timeout that comes for the first time leaves the operation for the end of the port's attach. -/
theorem setReloc_waits (step : r.step = .read ∨ r.step = .write) :
    s.setReloc k (some { r with retried := true, wait := .retry }) = waiting s k r :=
  setReloc_kept slot step (by exact step)

omit slot in
/-- A relocation whose WRITE is offered at a serving port at rest sends it. -/
theorem writes_sent {x : State} (same : x.health.slot k = some r) (step : r.step = .read ∨ r.step = .write) {q : Relocation}
    {spare : Nat} (unit : q.unit = r.unit) (writes : q.step = .write) (has : q.spare = some spare)
    (serves : (x.port r.unit).state.serves = true) (rests : (x.port r.unit).Rests) (detached : (x.port r.unit).attachPlace = none) :
    (x.setReloc k (some q)).offerReloc k = { x with
      nextId := x.nextId + 1, counters := opCounted x r.unit
      health := x.health.withSlot (some { q with wait := .port }) k
      ports := x.ports.set r.unit (x.sendsFirst (x.port r.unit) (mkOp .write spare 1 (.reloc k) x.nextId [q.data])) } := by
  rw [← unit] at serves rests detached ⊢
  rw [setReloc_kept same step (.inr writes), offerReloc_sends (q := q) (by exact slot_withSlot _ _ _) writes has (by exact serves)
    (by exact rests) (by exact detached)]
  exact congrArg (fun h : HealthMonitor => ({ x with
      nextId := x.nextId + 1, counters := opCounted x q.unit, health := h
      ports := x.ports.set q.unit (x.sendsFirst (x.port q.unit) (mkOp .write spare 1 (.reloc k) x.nextId [q.data])) } : State))
    (withSlot_twice _ _ _ _)

/-! ### READ (R102) -/

/-- The log entry of a relocation that fails. -/
def logged (x : State) (r : Relocation) : State :=
  x.report { kind := .relocateFailed, unit := r.unit, block := some r.block, logical := none, item := none, ofSave := false }

omit slot in
theorem logged_slots (x : State) (r : Relocation) : SameSlots x (logged x r) := report_slots _ _

/-- A relocation whose READ ends and whose spare is returned. -/
theorem returned_ends (spare : r.spare = some b) (step : r.step = .read ∨ r.step = .write) :
    (s.relocReturns r).relocEnds k = relocated (s.returnSpare r.unit b) k r := by
  unfold State.relocReturns
  rw [spare]
  exact ends_after (((return_slots s r.unit b).slot k).trans slot) step

theorem read_done (step : r.step = .read) (spare : r.spare = some b) (soft : List Nat) (i : Nat) (block : Block) (capacity : Nat)
    (serves : (s.port r.unit).state.serves = true) (rests : (s.port r.unit).Rests) (detached : (s.port r.unit).attachPlace = none) :
    s.relocEnded k .read (.done soft [(i, block)] capacity) = { s with
      nextId := s.nextId + 1, counters := opCounted s r.unit
      health := s.health.withSlot (some (writing r b r.tried block)) k
      ports := s.ports.set r.unit (s.sendsFirst (s.port r.unit) (mkOp .write b 1 (.reloc k) s.nextId [block])) } := by
  rw [relocEnded_read slot]
  refine (writes_sent slot (.inl step) (q := { r with step := .write, data := block, retried := false }) rfl rfl spare serves rests
    detached).trans ?_
  rw [show writing r b r.tried block = { r with step := .write, data := block, retried := false, wait := .port } by
    unfold writing; rw [← spare]]

theorem read_hard (step : r.step = .read) (spare : r.spare = some b) (stop : Nat) (data : List (Nat × Block)) :
    s.relocEnded k .read (.hardRead stop data) = relocated (logged (s.returnSpare r.unit b) r) k r := by
  rw [relocEnded_read slot]
  show ((s.relocReturns r).logReloc r).relocEnds k = _
  unfold State.relocReturns
  rw [spare]
  exact ends_after (((logged_slots _ r).slot k).trans (((return_slots s r.unit b).slot k).trans slot)) (.inl step)

theorem read_waits (step : r.step = .read) (once : r.retried = false) : s.relocEnded k .read .timeout = waiting s k r := by
  rw [relocEnded_read slot]
  exact (if_neg (ne_true_of_eq_false once)).trans (setReloc_waits slot (.inl step))

/-- A READ that is not repeated returns the spare and ends the relocation. -/
theorem read_lost (step : r.step = .read) (spare : r.spare = some b) {out : OpOutcome}
    (lost : out = .notReady ∨ out = .unavailable ∨ (out = .timeout ∧ r.retried = true)) :
    s.relocEnded k .read out = relocated (s.returnSpare r.unit b) k r := by
  rw [relocEnded_read slot, ← returned_ends slot spare (.inl step)]
  obtain rfl | rfl | ⟨rfl, again⟩ := lost
  · rfl
  · rfl
  · exact if_pos again

/-! ### WRITE (R103) -/

/-- A relocation whose WRITE ends and whose spare is discarded. -/
theorem discarded_ends (spare : r.spare = some b) (step : r.step = .read ∨ r.step = .write) :
    (s.relocDiscards r).relocEnds k = relocated (s.discardSpare r.unit b) k r := by
  unfold State.relocDiscards
  rw [spare]
  exact ends_after (((discard_slots s r.unit b).slot k).trans slot) step

theorem write_done (step : r.step = .write) (spare : r.spare = some b) (soft : List Nat) (data : List (Nat × Block)) (capacity : Nat) :
    s.relocEnded k .write (.done soft data capacity) = relocated (s.install r.unit r.home b .promotion) k r := by
  rw [relocEnded_write slot]
  unfold State.relocWriteEnded
  dsimp only
  rw [spare]
  exact ends_after (((install_slots s r.unit r.home b .promotion).slot k).trans slot) (.inr step)

theorem write_waits (step : r.step = .write) (once : r.retried = false) : s.relocEnded k .write .timeout = waiting s k r := by
  rw [relocEnded_write slot]
  exact (if_neg (ne_true_of_eq_false once)).trans (setReloc_waits slot (.inr step))

/-- A WRITE that is neither repeated nor faulted discards the spare and ends the relocation. -/
theorem write_lost (step : r.step = .write) (spare : r.spare = some b) {out : OpOutcome}
    (lost : out = .notReady ∨ out = .unavailable ∨ (out = .timeout ∧ r.retried = true)) :
    s.relocEnded k .write out = relocated (s.discardSpare r.unit b) k r := by
  rw [relocEnded_write slot, ← discarded_ends slot spare (.inr step)]
  obtain rfl | rfl | ⟨rfl, again⟩ := lost
  · rfl
  · rfl
  · exact if_pos again

/-- A WRITE that faulted. -/
theorem write_faults (stop : Nat) : s.relocEnded k .write (.writeFault stop) = s.relocFaulted k r := by
  rw [relocEnded_write slot]
  rfl

/-- After three spares, and without another, the relocation is logged failed and ends. -/
theorem failed_ends {x : State} (same : SameSlots s x) (step : r.step = .write) :
    (x.logReloc r).relocEnds k = relocated (logged x r) k r :=
  ends_after (((logged_slots x r).slot k).trans ((same.slot k).trans slot)) (.inr step)

theorem fault_third (step : r.step = .write) (spare : r.spare = some b) (three : 3 ≤ r.tried) :
    s.relocFaulted k r = relocated (logged (s.discardSpare r.unit b) r) k r := by
  unfold State.relocFaulted State.relocDiscards
  rw [spare]
  exact (if_neg (by omega)).trans (failed_ends slot (discard_slots s r.unit b) step)

theorem fault_refused (step : r.step = .write) (spare : r.spare = some b) (few : r.tried < 3)
    (refused : ((s.discardSpare r.unit b).claim r.unit r.home).1 = .exhausted ∨
      ((s.discardSpare r.unit b).claim r.unit r.home).1 = .pinned) :
    s.relocFaulted k r = relocated (logged (s.discardSpare r.unit b) r) k r := by
  rw [← failed_ends slot (discard_slots s r.unit b) step]
  unfold State.relocFaulted State.relocDiscards
  rw [spare]
  refine (if_pos few).trans ?_
  obtain none_ | pinned := refused
  · rw [claim_exhausted none_]
  · rw [claim_pinned pinned]

theorem fault_tableFull (step : r.step = .write) (spare : r.spare = some b) (few : r.tried < 3)
    (full : ((s.discardSpare r.unit b).claim r.unit r.home).1 = .tableFull) :
    s.relocFaulted k r = relocated (logged ((s.discardSpare r.unit b).claim r.unit r.home).2.holdTable r) k r := by
  have same : SameSlots s ((s.discardSpare r.unit b).claim r.unit r.home).2.holdTable :=
    (discard_slots s r.unit b).trans (claim_slots _ _ _)
  rw [← failed_ends slot same step]
  unfold State.relocFaulted State.relocDiscards
  rw [spare]
  refine (if_pos few).trans ?_
  rw [claim_tableFull full]

/-- Below three spares the next one is claimed and written from the same buffer. -/
theorem fault_again (step : r.step = .write) (spare : r.spare = some b) (few : r.tried < 3) {next : Nat}
    (claims : ((s.discardSpare r.unit b).claim r.unit r.home).1 = .issued next)
    (serves : (s.port r.unit).state.serves = true) (rests : (s.port r.unit).Rests) (detached : (s.port r.unit).attachPlace = none) :
    s.relocFaulted k r = { ((s.discardSpare r.unit b).claim r.unit r.home).2 with
      nextId := s.nextId + 1, counters := opCounted s r.unit
      health := ((s.discardSpare r.unit b).claim r.unit r.home).2.health.withSlot (some (writing r next (r.tried + 1) r.data)) k
      ports := s.ports.set r.unit (s.sendsFirst (s.port r.unit) (mkOp .write next 1 (.reloc k) s.nextId [r.data])) } := by
  obtain ⟨m, t, st, -, gone⟩ := discard_form s r.unit b
  obtain ⟨m', e', st', claimed⟩ := claim_eq (s.discardSpare r.unit b) r.unit r.home
  have same : SameSlots s ((s.discardSpare r.unit b).claim r.unit r.home).2 :=
    (discard_slots s r.unit b).trans (claim_slots _ _ _)
  have sent := writes_sent (x := ((s.discardSpare r.unit b).claim r.unit r.home).2) ((same.slot k).trans slot) (.inr step)
    (q := { r with spare := some next, tried := r.tried + 1, retried := false }) rfl step rfl
  have pair : (s.discardSpare r.unit b).claim r.unit r.home =
      (.issued next, ((s.discardSpare r.unit b).claim r.unit r.home).2) := Prod.ext claims rfl
  have faults : s.relocFaulted k r = (((s.discardSpare r.unit b).claim r.unit r.home).2.setReloc k
      (some { r with spare := some next, tried := r.tried + 1, retried := false })).offerReloc k := by
    unfold State.relocFaulted State.relocDiscards
    rw [spare]
    refine (if_pos few).trans ?_
    rw [pair]
  have changed : writing r next (r.tried + 1) r.data =
      { r with spare := some next, tried := r.tried + 1, retried := false, wait := .port } := by
    unfold writing
    rw [← step]
  rw [faults, changed]
  rw [claimed, gone] at sent ⊢
  exact sent serves rests detached

end

/-! ### The RESULT of a relocation's operation -/

/-- What a RESULT that ends a relocation leaves of the part. -/
structure Leaves (s x : State) (u : Fin 4) (k : Fin 2) (r : Relocation) : Prop where
  slot : x.health.slot k = none
  link : x.link = s.link
  guard : x.guard = s.guard
  mode : x.modes.mode = s.modes.mode
  engine : x.engine = { items := s.engine.items.filter (fun i => i.request?.isSome || i.id != r.item),
                        freeBuffers := s.engine.freeBuffers + 1 }
  ports : x.ports = s.ports.set u { s.port u with slots := Four.all none }

section
variable {s : State} {u : Fin 4} {frame : List Byte} {f : ResultFields} {o : Outstanding} {k : Fin 2} {r : Relocation} {b : Nat}

/-- The part after a relocation whose operation ended, when only its map, health, store, counters and events changed before. -/
theorem same_leaves {x : State} {units : Four UnitCounters} {m : MapUnit} {h : HealthMonitor} {e : BitVec 16} {st : StoreController}
    {c : CounterBank}
    (same : Same x (relocated { foundAt s u units s.health s.mgmt.events s.store with
      map := m, health := h, mgmt := { s.mgmt with events := e }, store := st, counters := c } k r)) :
    Leaves s x u k r ∧ x.map = m ∧ x.health.watch = h.watch ∧ x.log = s.log :=
  ⟨⟨by rw [same.health]; exact slot_withSlot _ _ _, same.link, same.guard, same.mode, same.engine, same.ports⟩, same.map,
    by rw [same.health]; exact withSlot_watch _ _ _, same.log⟩

theorem handBack_reloc (owner : o.op.owner = .reloc k) (Y : State) (out : OpOutcome) :
    Y.handBack o.op out = Y.relocEnded k o.op.kind out := by
  unfold State.handBack
  rw [owner]

/-- A WRITE that ends DONE installs the spare (R103). -/
theorem result_installs (ends : s.Ends u frame f o) (owner : o.op.owner = .reloc k) (slot : s.health.slot k = some r)
    (unit : r.unit = u) (spare : r.spare = some b) (step : r.step = .write) (writes : o.op.kind = .write) (zero : f.outcome = 0) :
    ∃ x, exec (.result u frame) s = .next x ∧ Leaves s x u k r ∧ x.map = (s.install u r.home b .promotion).map ∧
      x.health.watch = (s.install u r.home b .promotion).health.watch ∧ x.log = s.log := by
  have found := found_silent (s := s) (u := u) o.op (out := .done f.soft [] f.capacity) (units := softUnits s u f)
    (.inl (write_silent writes u)) rfl
  have back : (foundAt s u (softUnits s u f) s.health s.mgmt.events s.store).handBack o.op (.done f.soft [] f.capacity) = _ :=
    (handBack_reloc owner _ _).trans ((congrArg (State.relocEnded _ k · _) writes).trans (write_done (s := foundAt s u (softUnits s u f)
      s.health s.mgmt.events s.store) slot step spare _ _ _))
  obtain ⟨st, c, form, -⟩ := install_like (s := s) (x := foundAt s u (softUnits s u f) s.health s.mgmt.events s.store) (by exact rfl)
    (by exact rfl) (by exact rfl) r.unit r.home b .promotion
  rw [form, unit] at back
  obtain ⟨x, stepped, same⟩ := result_hands ends (outcome_gives _ (.inl zero)) (outside (.inl zero))
    (outcomeOf_done s.nextFree zero (by rw [writes]; decide)) found back (by exact rfl) (rested_stays (by exact rfl))
  exact ⟨x, stepped, same_leaves (e := s.mgmt.events) same⟩

/-- A WRITE that ends NOT_READY discards the spare (R103). -/
theorem result_discards (ends : s.Ends u frame f o) (owner : o.op.owner = .reloc k) (slot : s.health.slot k = some r)
    (unit : r.unit = u) (spare : r.spare = some b) (step : r.step = .write) (writes : o.op.kind = .write) (three : f.outcome = 3) :
    ∃ x, exec (.result u frame) s = .next x ∧ Leaves s x u k r ∧ x.map = (s.discardSpare u b).map ∧
      x.health.watch = s.health.watch ∧ x.log = s.log := by
  have found := found_silent (s := s) (u := u) o.op (out := .notReady) (units := s.counters.units) (.inr rfl) rfl
  have back : (foundAt s u s.counters.units s.health s.mgmt.events s.store).handBack o.op .notReady = _ :=
    (handBack_reloc owner _ _).trans ((congrArg (State.relocEnded _ k · _) writes).trans (write_lost (s := foundAt s u s.counters.units
      s.health s.mgmt.events s.store) slot step spare (.inl rfl)))
  obtain ⟨st, -, form⟩ := discard_like (s := s) (x := foundAt s u s.counters.units s.health s.mgmt.events s.store) (by exact rfl)
    (by exact rfl) r.unit b
  obtain ⟨m, t, st', -, gone⟩ := discard_form s r.unit b
  have watch : (s.discardSpare r.unit b).health.watch = s.health.watch := by rw [gone]
  rw [form, unit] at back
  rw [unit] at watch
  obtain ⟨x, stepped, same⟩ := result_hands ends (outcome_gives _ (.inr three)) (outside (.inr three))
    (outcomeOf_three s.nextFree three) found back (by exact rfl) (rested_stays (by exact rfl))
  obtain ⟨left, map, kept, log⟩ := same_leaves (e := s.mgmt.events) (c := { s.counters with units := s.counters.units }) same
  exact ⟨x, stepped, left, map, kept.trans watch, log⟩

/-- A READ that ends NOT_READY returns the spare (R102). -/
theorem result_returns (ends : s.Ends u frame f o) (owner : o.op.owner = .reloc k) (slot : s.health.slot k = some r)
    (unit : r.unit = u) (spare : r.spare = some b) (step : r.step = .read) (reads : o.op.kind = .read) (three : f.outcome = 3) :
    ∃ x, exec (.result u frame) s = .next x ∧ Leaves s x u k r ∧ x.map = (s.returnSpare u b).map ∧
      x.health.watch = s.health.watch ∧ x.log = s.log := by
  have found := found_silent (s := s) (u := u) o.op (out := .notReady) (units := s.counters.units) (.inr rfl) rfl
  have back : (foundAt s u s.counters.units s.health s.mgmt.events s.store).handBack o.op .notReady = _ :=
    (handBack_reloc owner _ _).trans ((congrArg (State.relocEnded _ k · _) reads).trans (read_lost (s := foundAt s u s.counters.units
      s.health s.mgmt.events s.store) slot step spare (.inl rfl)))
  obtain ⟨e, st, form⟩ := return_like (s := s) (x := foundAt s u s.counters.units s.health s.mgmt.events s.store) (by exact rfl)
    (by exact rfl) r.unit b
  obtain ⟨m, t, e', st', -, gone⟩ := return_form s r.unit b
  have watch : (s.returnSpare r.unit b).health.watch = s.health.watch := by rw [gone]
  rw [form, unit] at back
  rw [unit] at watch
  obtain ⟨x, stepped, same⟩ := result_hands ends (outcome_gives _ (.inr three)) (outside (.inr three))
    (outcomeOf_three s.nextFree three) found back (by exact rfl) (rested_stays (by exact rfl))
  obtain ⟨left, map, kept, log⟩ := same_leaves (e := e) (c := { s.counters with units := s.counters.units }) same
  exact ⟨x, stepped, left, map, kept.trans watch, log⟩

end

/-- Settles O59, by the relocation's step and the outcome. -/
theorem relocationsEndByTheirOutcomes : Obligations.RelocationsEndByTheirOutcomes := by
  unfold Obligations.RelocationsEndByTheirOutcomes
  refine ⟨fun s k r b slot spare steps => ?outcomes, fun s u frame f o k r b ends owner slot unit spare count => ?results⟩
  case outcomes =>
    intro port ended logged waits sends
    refine ⟨fun step => ⟨fun soft i block capacity serves rests detached => ?_, read_hard slot step spare, read_waits slot step,
        fun again => read_lost slot step spare (.inr (.inr ⟨rfl, again⟩)), read_lost slot step spare (.inl rfl),
        read_lost slot step spare (.inr (.inl rfl))⟩, fun step => ?_⟩
    · exact ⟨_, read_done slot step spare soft i block capacity serves rests detached⟩
    · intro gone claimed
      refine ⟨write_done slot step spare, fun stop => ?_, write_waits slot step,
        fun again => write_lost slot step spare (.inr (.inr ⟨rfl, again⟩)), write_lost slot step spare (.inl rfl),
        write_lost slot step spare (.inr (.inl rfl))⟩
      rw [write_faults slot stop]
      exact ⟨fun next few claims serves rests detached =>
          ⟨_, fault_again slot step spare few claims serves rests detached⟩,
        fault_third slot step spare, fault_refused slot step spare, fault_tableFull slot step spare⟩
  case results =>
    refine ⟨fun step writes zero => ?_, fun step writes three => ?_, fun step reads three => ?_⟩
    · obtain ⟨x, stepped, l, map, watch, log⟩ := result_installs ends owner slot unit spare step writes zero
      exact ⟨x, stepped, ⟨l.slot, l.link, l.guard, l.mode, l.engine, l.ports⟩, map, watch, log⟩
    · obtain ⟨x, stepped, l, map, watch, log⟩ := result_discards ends owner slot unit spare step writes three
      exact ⟨x, stepped, ⟨l.slot, l.link, l.guard, l.mode, l.engine, l.ports⟩, map, watch, log⟩
    · obtain ⟨x, stepped, l, map, watch, log⟩ := result_returns ends owner slot unit spare step reads three
      exact ⟨x, stepped, ⟨l.slot, l.link, l.guard, l.mode, l.engine, l.ports⟩, map, watch, log⟩

end Sys2Proof.Proofs.RelocationSteps
end

section
/-!
PROOFS. Work that starts (O58): a save, the first WRITE of an erase, a relocation and the redirect of a pending write, each with the
condition without which it does nothing.
-/

namespace Sys2Proof.Proofs.WorkStarts

open Sys2Proof Sys2Proof.Machine Sys2Proof.Laws

section
variable {s Y : State}

theorem exec_takeSave (running : s.Running) (done : s.takeASave = Y) : exec .takeSave s = .next Y := by
  rw [← done]
  exact whenUp_up (fun s => s.takeASave) running.up

theorem exec_eraseWaitEnd (running : s.Running) (done : s.endEraseWait = Y) : exec .eraseWaitEnd s = .next Y := by
  rw [← done]
  exact whenUp_up (fun s => s.endEraseWait) running.up

theorem exec_relocationStart (running : s.Running) (done : s.startRelocation = Y) : exec .relocationStart s = .next Y := by
  rw [← done]
  exact whenUp_up (fun s => s.startRelocation) running.up

theorem exec_redirect (running : s.Running) (done : s.redirect = Y) : exec .pendingWriteRedirect s = .next Y := by
  rw [← done]
  exact whenUp_up (fun s => s.redirect) running.up

/-! ### Saves (R182, R183) -/

theorem takesSave_iff : s.takesSave = true ↔ (s.store.state = .clean ∨ s.store.state = .dirty ∨ s.store.state = .invalid) ∧
    (s.port 0).state = .ready ∧ s.modes.mode.saves = true ∧
    (s.store.saveAsked = true ∨ (s.mgmt.params.autosave = true ∧ s.store.state = .dirty ∧ s.store.retryHold = false)) := by
  unfold State.takesSave
  simp only [Bool.and_eq_true, Bool.or_eq_true, decide_eq_true_eq, Bool.not_eq_true', or_assoc, and_assoc]

/-- A save that the controller may not take is not taken. -/
theorem save_waits (running : s.Running) (not : s.store.state = .absent ∨ s.store.state = .saving ∨ (s.port 0).state ≠ .ready ∨
    s.modes.mode = .startup ∨ (s.store.saveAsked = false ∧
      (s.mgmt.params.autosave = false ∨ s.store.state ≠ .dirty ∨ s.store.retryHold = true))) :
    exec .takeSave s = .next s := by
  have refuses : ¬ s.takesSave = true := by
    rw [takesSave_iff]
    rintro ⟨state, ready, saves, asked⟩
    obtain absent | saving | unready | startup | ⟨unasked, noAuto⟩ := not
    · rw [absent] at state; simp at state
    · rw [saving] at state; simp at state
    · exact unready ready
    · rw [startup] at saves; cases saves
    · obtain asked | ⟨auto, dirty, free⟩ := asked
      · rw [unasked] at asked; cases asked
      · obtain off | clean | held := noAuto
        · rw [off] at auto; cases auto
        · exact clean dirty
        · rw [held] at free; cases free
  exact exec_takeSave running (if_neg refuses)

/-- A save that the controller may take is taken and sends its first write. -/
theorem save_starts (running : s.Running) (takes : s.takesSave = true) :
    ∃ p c st n, exec .takeSave s = .next (State.refreshIdle { s with ports := p, counters := c, nextId := n, store := st }) ∧
      st.state = .saving ∧ st.saveAsked = false ∧ st.dirtyAgain = false ∧ st.generation = s.store.generation ∧
      ∃ r, st.save = some r ∧ r.step = .first ∧
        r.image = imageBlocks (nextGeneration s.store.generation) s.savedItems.length s.savedItems.stream := by
  obtain ⟨-, ready, -, -⟩ := takesSave_iff.mp takes
  obtain ⟨p, c, st, n, starts, saving, unasked, fresh, -, generation, -, -, -, r, save, step, -, image⟩ := startSave_eq ready none
  refine ⟨p, c, st, n, exec_takeSave running ((if_pos takes).trans ?_), saving, unasked, fresh, generation, r, save, step, image⟩
  rw [starts]
  exact finish_of_todo_nil (by exact running.settled)

theorem mode_saves {m : PartMode} (h : m = .config ∨ m = .service ∨ m = .draining) : m.saves = true := by
  obtain rfl | rfl | rfl := h <;> rfl

/-! ### The first WRITE of an erase (R157, R158) -/

/-- An erase that does not wait, or whose wait must last, stays. -/
theorem erase_waits (running : s.Running) (not : s.guard.inPhase .waiting = false ∨ s.guardedWork = true) :
    exec .eraseWaitEnd s = .next s := by
  refine exec_eraseWaitEnd running (if_neg ?_)
  rw [Bool.and_eq_true, Bool.not_eq_true']
  rintro ⟨waits, free⟩
  obtain no | busy := not
  · rw [no] at waits; cases waits
  · rw [busy] at free; cases free

/-- The WRITE of zeros to the first blocks of region 0. -/
def firstZeros (s : State) : EraseWrite :=
  { unit := s.map.regions[0].unit, home := s.map.regions[0].physical
    first := (s.map.cut s.map.regions[0].unit (fun _ => true) s.map.regions[0].physical s.map.regions[0].count).1
    count := (s.map.cut s.map.regions[0].unit (fun _ => true) s.map.regions[0].physical s.map.regions[0].count).2
    retried := false, wait := .port, repair := none }

/-- A state whose erase record is another. -/
def withErase (s : State) (e : EraseRecord) : State := { s with guard := { s.guard with erase := some e } }

/-- The walk of an erase that begins cuts its first WRITE from region 0, where that is guarded and its port takes it. -/
theorem eraseCut_first {e : EraseRecord} (erase : s.guard.erase = some e) (phase : e.phase = .writing) (free : e.write = none)
    (index : e.index = 0) (offset : e.offset = 0) (valid : s.map.regions[0].valid = true) (guarded : s.map.regions[0].guarded = true)
    (some_ : 0 < s.map.regions[0].count) (there : (s.port s.map.regions[0].unit).state.unavailable = false) :
    s.eraseCut = (withErase s { e with write := some (firstZeros s), tried := 0 }).offerErase := by
  have walks : ¬ (!s.map.regions[0].valid || !s.map.regions[0].guarded || decide (s.map.regions[0].count ≤ 0)) = true := by
    rw [valid, guarded]
    simp only [Bool.not_true, Bool.false_or, decide_eq_true_eq]
    omega
  cases e
  cases index
  cases offset
  unfold State.eraseCut State.eraseCutUpTo
  rw [erase]
  dsimp only
  rw [if_pos ⟨phase, free⟩, show regionIndex 0 = some 0 from regionIndex_some 0]
  dsimp only
  refine (if_neg walks).trans ((if_neg (ne_true_of_eq_false there)).trans ?_)
  rw [onErase_eq erase]
  rfl

/-- A WRITE of an erase that finds four operations outstanding and a place in the queue is queued (R80). -/
theorem offerErase_queues {e : EraseRecord} {w : EraseWrite} (erase : s.guard.erase = some e) (write : e.write = some w)
    (direct : w.repair = none) (port : w.wait = .port) (there : (s.port w.unit).state.unavailable = false)
    (place : (s.port w.unit).queue.length < 64) (full : (s.port w.unit).slots.toList.all (fun o => o.isSome) = true) :
    s.offerErase = { s with
      nextId := s.nextId + 1
      ports := s.ports.set w.unit { s.port w.unit with queue := (s.port w.unit).queue ++
        [mkOp .write w.first w.count .erase s.nextId (List.replicate w.count zeroBlock)] } } := by
  unfold State.offerErase
  rw [erase]
  dsimp only [Option.bind]
  rw [write]
  dsimp only
  rw [direct]
  dsimp only
  rw [full_offer there place full]
  refine (onErase_eq (by exact erase) _).trans ?_
  have same : ({ e with write := e.write.map fun w => { w with wait := if Offered.taken = .full then .place else .port } } :
      EraseRecord) = e := by
    cases e
    cases w
    cases write
    cases port
    rfl
  exact congrArg (fun x : Option EraseRecord => ({ s with
      guard := { s.guard with erase := x }, nextId := s.nextId + 1
      ports := s.ports.set w.unit { s.port w.unit with queue := (s.port w.unit).queue ++
        [mkOp .write w.first w.count .erase s.nextId (List.replicate w.count zeroBlock)] } } : State)) ((congrArg some same).trans erase.symm)

/-- An erase whose wait ends queues its first WRITE of zeros. -/
theorem erase_begins (running : s.Running) {e : EraseRecord} (erase : s.guard.erase = some e) (phase : e.phase = .waiting)
    (free : e.write = none) (index : e.index = 0) (offset : e.offset = 0) (quiet : s.guardedWork = false)
    (valid : s.map.regions[0].valid = true) (guarded : s.map.regions[0].guarded = true) (some_ : 0 < s.map.regions[0].count)
    (there : (s.port s.map.regions[0].unit).state.unavailable = false) (place : (s.port s.map.regions[0].unit).queue.length < 64)
    (full : (s.port s.map.regions[0].unit).slots.toList.all (fun o => o.isSome) = true) :
    exec .eraseWaitEnd s = .next (State.refreshIdle { withErase s { e with
        phase := .writing, tried := 0, write := some (firstZeros s) } with
      nextId := s.nextId + 1
      ports := s.ports.set s.map.regions[0].unit { s.port s.map.regions[0].unit with queue := (s.port s.map.regions[0].unit).queue ++
        [mkOp .write (firstZeros s).first (firstZeros s).count .erase s.nextId (List.replicate (firstZeros s).count zeroBlock)] } }) := by
  have ends : (s.guard.inPhase .waiting && !s.guardedWork) = true := by
    unfold GuardUnit.inPhase
    rw [erase, quiet]
    simp [phase]
  have cuts := eraseCut_first (s := withErase s { e with phase := .writing }) (e := { e with phase := .writing }) rfl rfl free index offset
    valid guarded some_ there
  have queues := offerErase_queues (s := withErase (withErase s { e with phase := .writing })
    { e with phase := .writing, write := some (firstZeros s), tried := 0 }) (w := firstZeros s) rfl rfl rfl rfl there place full
  refine exec_eraseWaitEnd running ((if_pos ends).trans ?_)
  rw [onErase_eq erase]
  refine (congrArg State.finish (cuts.trans queues)).trans ?_
  exact finish_of_todo_nil (by exact running.settled)

/-! ### Relocations (R100, R101) -/

/-- Without an empty slot or an eligible entry nothing starts. -/
theorem relocation_waits (running : s.Running) (not : (s.health.slot0 ≠ none ∧ s.health.slot1 ≠ none) ∨ s.nextEligible = none) :
    exec .relocationStart s = .next s := by
  refine exec_relocationStart running ?_
  unfold State.startRelocation
  obtain ⟨first, second⟩ | none_ := not
  · have full : s.health.emptySlot = none := by
      unfold HealthMonitor.emptySlot slotIndices
      refine List.find?_eq_none.mpr fun k mem => ?_
      rw [Option.isNone_iff_eq_none]
      obtain rfl | rfl : k = 0 ∨ k = 1 := by simpa using mem
      · exact first
      · exact second
    rw [full]
  · rw [none_]
    cases s.health.emptySlot <;> rfl

/-- The item of a relocation. -/
def relocItem (s : State) (e : WatchEntry) (h : Nat) (held : Bool) : RelocItem :=
  { id := s.nextId, slot := 0, home := ⟨e.block.unit, h, 1⟩, held := held }

/-- The relocation in slot 0 as it joins the list. -/
def fresh (s : State) (e : WatchEntry) (h : Nat) (r : Resolution) : Relocation :=
  { item := s.nextId, block := e.block.block, home := h, unit := e.block.unit, resolution := r, spare := none, tried := 0,
    retried := false, step := .held, wait := .port, data := [] }

/-- A state with a relocation in slot 0 and its item at the end of the list. -/
def joined (s : State) (e : WatchEntry) (h : Nat) (r : Resolution) (held : Bool) : State := { s with
  nextId := s.nextId + 1
  engine := { s.engine with items := s.engine.items ++ [.reloc (relocItem s e h held)] }
  health := { s.health with slot0 := some (fresh s e h r) }
  modes := { s.modes with idle := .stopped } }

/-- An item as a relocation's becomes RUNNING. -/
def runItem (id : Nat) (i : Item) : Item :=
  match i with
  | .host r => .host r
  | .reloc r => if r.id == id then .reloc { r with held := false } else .reloc r

/-- Only the new item becomes RUNNING, for its serial number is above the others (R47). -/
theorem run_new {l : List Item} {n : Nat} (given : ∀ m ∈ l.map Item.id, m < n) {i : RelocItem} (id : i.id = n) :
    (l ++ [Item.reloc i]).map (runItem n) = l ++ [Item.reloc { i with held := false }] := by
  have kept : l.map (runItem n) = l := by
    refine (List.map_congr_left fun j mem => ?_).trans (List.map_id l)
    have less := given j.id (List.mem_map_of_mem mem)
    cases j with
    | host r => rfl
    | reloc r => exact if_neg (by rw [beq_iff_eq]; exact Nat.ne_of_lt less)
  rw [List.map_append, kept]
  exact congrArg (fun j : Item => l ++ [j]) (if_pos (beq_iff_eq.mpr id))

/-- A relocation that starts in the empty slot 0 joins the list, and runs where the list does not hold it. -/
theorem startReloc_eq (empty : s.health.slot0 = none) (e : WatchEntry) (h : Nat) (r : Resolution) : s.startReloc 0 e h r =
    if s.holds s.engine.items (.reloc (relocItem s e h true)) = true then joined s e h r true
    else (joined s e h r true).relocRuns s.nextId 0 := by
  have buffers : slotBuffers (s.health.slot 0) = 0 := by
    rw [show s.health.slot 0 = none from empty]
    rfl
  unfold State.startReloc State.takeId
  dsimp only
  rw [setReloc_at (by exact Nat.zero_le _), buffers]
  rfl

/-- The start of a relocation. -/
theorem relocation_starts (running : s.Running) {e : WatchEntry} {h : Nat} {r : Resolution} (next : s.nextEligible = some (e, h, r))
    (empty : s.health.slot0 = none) (done : s.startReloc 0 e h r = Y) (todo : Y.todo = s.todo) :
    exec .relocationStart s = .next Y.refreshIdle := by
  refine exec_relocationStart running ?_
  have slot : s.health.emptySlot = some 0 := by
    unfold HealthMonitor.emptySlot slotIndices
    rw [List.find?_cons_of_pos (by rw [Option.isNone_iff_eq_none]; exact empty)]
  unfold State.startRelocation
  rw [slot, next]
  dsimp only
  rw [done]
  exact finish_of_todo_nil (todo.trans running.settled)

/-- A relocation that runs claims its spare. -/
theorem runs_claims (lawful : s.Lawful) {e : WatchEntry} {h : Nat} {r : Resolution} :
    (joined s e h r true).relocRuns s.nextId 0 = (joined s e h r false).relocClaims 0 := by
  unfold State.relocRuns
  refine congrArg (fun l : List Item => State.relocClaims { joined s e h r true with
    engine := { s.engine with items := l } } 0) ?_
  exact run_new lawful.given (i := relocItem s e h true) rfl

/-- A relocation without a buffer ends: its slot is empty and the list is as it was. -/
theorem fresh_ends {l : List Item} {n : Nat} (given : ∀ m ∈ l.map Item.id, m < n) {i : RelocItem} (id : i.id = n) {X : State}
    {q : Relocation} (slot : X.health.slot 0 = some q) (item : q.item = n) (step : q.step = .held)
    (items : X.engine.items = l ++ [.reloc i]) :
    X.relocEnds 0 = { X with health := X.health.withSlot none 0, engine := { X.engine with items := l } } := by
  have buffers : slotBuffers (X.health.slot 0) = 0 := by
    rw [slot]
    unfold slotBuffers
    simp [step]
  have left : (X.engine.items.filter fun j => j.request?.isSome || j.id != q.item) = l := by
    rw [items, List.filter_append, item]
    have kept : (l.filter fun j => j.request?.isSome || j.id != n) = l := List.filter_eq_self.mpr fun j mem => by
      have less := given j.id (List.mem_map_of_mem mem)
      simp only [Bool.or_eq_true, bne_iff_ne]
      exact .inr (Nat.ne_of_lt less)
    rw [kept, List.filter_cons_of_neg (by simp [Item.request?, Item.id, id]), List.filter_nil, List.append_nil]
  unfold State.relocEnds
  rw [slot]
  dsimp only
  rw [setReloc_at (by exact Nat.zero_le _), buffers]
  unfold State.removeReloc
  exact congrArg (fun l : List Item => ({ X with
    health := X.health.withSlot none 0, engine := { X.engine with items := l } } : State)) left

theorem slot0_emptied {hl : HealthMonitor} (empty : hl.slot0 = none) (q : Option Relocation) :
    ({ hl with slot0 := q } : HealthMonitor).withSlot none 0 = hl := by
  cases hl
  cases empty
  rfl

/-- What a relocation that starts leaves as it was, apart from its spare. -/
structure Claims (s x : State) (map : MapUnit) : Prop where
  map : x.map = map
  link : x.link = s.link
  ports : x.ports = s.ports
  guard : x.guard = s.guard
  counters : x.counters = s.counters
  log : x.log = s.log

theorem refreshIdle_claims {x : State} {map : MapUnit} (claims : Claims s x map) : Claims s x.refreshIdle map :=
  ⟨(refreshIdle_map _).trans claims.map, (refreshIdle_link _).trans claims.link, (refreshIdle_ports _).trans claims.ports,
    (refreshIdle_guard _).trans claims.guard, (refreshIdle_counters _).trans claims.counters, (refreshIdle_log _).trans claims.log⟩

section
variable {e : WatchEntry} {h : Nat} {r : Resolution} (running : s.Running) (next : s.nextEligible = some (e, h, r))
  (empty : s.health.slot0 = none)
include running next empty

/-- A relocation that the list holds is HELD (R101). -/
theorem relocation_held (holds : s.holds s.engine.items (.reloc (relocItem s e h true)) = true) :
    exec .relocationStart s = .next (joined s e h r true).refreshIdle :=
  relocation_starts running next empty ((startReloc_eq empty e h r).trans (if_pos holds)) rfl

section
variable (lawful : s.Lawful) (free : s.holds s.engine.items (.reloc (relocItem s e h true)) = false)
include lawful free

/-- A relocation that the list does not hold is as its claim leaves it. -/
theorem relocation_runs (done : (joined s e h r false).relocClaims 0 = Y) (todo : Y.todo = s.todo) :
    exec .relocationStart s = .next Y.refreshIdle :=
  relocation_starts running next empty
    ((startReloc_eq empty e h r).trans ((if_neg (ne_true_of_eq_false free)).trans ((runs_claims lawful).trans done))) todo

/-- A claim that issues a spare leaves the relocation waiting for a buffer (R54, R101). -/
theorem relocation_issued {b : Nat} (claims : (s.claim e.block.unit h).1 = .issued b) :
    ∃ x, exec .relocationStart s = .next x ∧ Claims s x (s.claim e.block.unit h).2.map ∧
      x.engine = { s.engine with items := s.engine.items ++ [.reloc (relocItem s e h false)] } ∧
      x.health = { s.health with slot0 := some { fresh s e h r with spare := some b, tried := 1, step := .buffer } } := by
  obtain ⟨same, ev, st, form⟩ := claim_like (s := s) (x := joined s e h r false) rfl e.block.unit h
  have claimed : (joined s e h r false).claim e.block.unit h = (.issued b, { joined s e h r false with
      map := (s.claim e.block.unit h).2.map, mgmt := { s.mgmt with events := ev }, store := st }) :=
    Prod.ext (same.trans claims) form
  have runs : (joined s e h r false).relocClaims 0 = { joined s e h r false with
      map := (s.claim e.block.unit h).2.map, mgmt := { s.mgmt with events := ev }, store := st
      health := { s.health with slot0 := some { fresh s e h r with spare := some b, tried := 1, step := .buffer } } } := by
    unfold State.relocClaims
    rw [show (joined s e h r false).health.slot 0 = some (fresh s e h r) from rfl]
    dsimp only
    rw [show (joined s e h r false).claim (fresh s e h r).unit (fresh s e h r).home = _ from claimed]
    exact setReloc_at (by exact Nat.zero_le _)
  exact ⟨_, relocation_runs running next empty lawful free runs rfl, refreshIdle_claims ⟨rfl, rfl, rfl, rfl, rfl, rfl⟩,
    refreshIdle_engine _, refreshIdle_health _⟩

/-- A claim that finds no spare ends the relocation (R101). -/
theorem relocation_exhausted (claims : (s.claim e.block.unit h).1 = .exhausted) :
    ∃ x, exec .relocationStart s = .next x ∧ Claims s x s.map ∧ x.engine = s.engine ∧ x.health = s.health := by
  have same := (claim_like (s := s) (x := joined s e h r false) rfl e.block.unit h).1
  have ends := fresh_ends lawful.given (i := relocItem s e h false) rfl (X := joined s e h r false) (q := fresh s e h r) rfl rfl rfl rfl
  have runs : (joined s e h r false).relocClaims 0 = (joined s e h r false).relocEnds 0 := by
    unfold State.relocClaims
    rw [show (joined s e h r false).health.slot 0 = some (fresh s e h r) from rfl]
    dsimp only
    rw [show (joined s e h r false).claim (fresh s e h r).unit (fresh s e h r).home = _ from claim_exhausted (same.trans claims)]
  exact ⟨_, relocation_runs running next empty lawful free (runs.trans ends) rfl, refreshIdle_claims ⟨rfl, rfl, rfl, rfl, rfl, rfl⟩,
    refreshIdle_engine _, (refreshIdle_health _).trans (slot0_emptied empty _)⟩

/-- A claim that finds the learned table full ends the relocation with the table-full hold (R101, R108). -/
theorem relocation_tableFull (claims : (s.claim e.block.unit h).1 = .tableFull) :
    ∃ x, exec .relocationStart s = .next x ∧ Claims s x s.map ∧ x.engine = s.engine ∧
      x.health = { s.health with tableFull := true } ∧ x.mgmt.events = s.mgmt.events ||| Event.spareExhausted.bit := by
  have same := (claim_like (s := s) (x := joined s e h r false) rfl e.block.unit h).1
  have ends := fresh_ends lawful.given (i := relocItem s e h false) rfl
    (X := ((joined s e h r false).raise .spareExhausted).holdTable) (q := fresh s e h r) rfl rfl rfl rfl
  have runs : (joined s e h r false).relocClaims 0 = (((joined s e h r false).raise .spareExhausted).holdTable).relocEnds 0 := by
    unfold State.relocClaims
    rw [show (joined s e h r false).health.slot 0 = some (fresh s e h r) from rfl]
    dsimp only
    rw [show (joined s e h r false).claim (fresh s e h r).unit (fresh s e h r).home = _ from claim_tableFull (same.trans claims)]
  exact ⟨_, relocation_runs running next empty lawful free (runs.trans ends) rfl, refreshIdle_claims ⟨rfl, rfl, rfl, rfl, rfl, rfl⟩,
    refreshIdle_engine _, (refreshIdle_health _).trans (slot0_emptied (hl := { s.health with tableFull := true }) empty _),
    by rw [refreshIdle_mgmt]; rfl⟩

end
end

/-! ### Redirects (R105, R106) -/

/-- Without a segment that waits for a redirect at a queue with a place, nothing starts. -/
theorem redirect_waits (running : s.Running) (not : ∀ r, Item.host r ∈ s.engine.items → ∀ g ∈ r.segs,
    (∀ n, g.phase ≠ .redirect n) ∨ 64 ≤ (s.port g.unit).queue.length) : exec .pendingWriteRedirect s = .next s := by
  have none_ : s.engine.items.findSome? s.redirectOf = none := by
    refine findSome_none fun i mem => ?_
    cases i with
    | reloc _ => rfl
    | host r =>
      refine findSome_none (f := fun g : Segment => if (s.port g.unit).queue.length < Config.queuePlaces then
        g.redirects.map fun tried => (r, g, tried) else none) fun g mem' => ?_
      obtain other | full := not r mem g mem'
      · have notWaiting : g.redirects = none := by
          unfold Segment.redirects
          split
          · next n phase => exact absurd phase (other n)
          · rfl
        simp [notWaiting]
      · exact if_neg (Nat.not_lt.mpr full)
  refine exec_redirect running ?_
  unfold State.redirect
  rw [none_]

/-- The segment of a repair for a redirect. -/
def redirected (b tried : Nat) (g : Segment) : Segment := { g with
  phase := .repairing, repair := some { kind := .redirect, spare := b, tried := tried + 1, marked := false, wait := .port } }

/-- The segment of a fallback write that its port takes. -/
def fallenBack (g : Segment) : Segment := { g with phase := .issued, fallback := true, repair := none }

/-- The segment of a fallback write that is to be offered. -/
def placedAgain (g : Segment) : Segment := { g with phase := .place, fallback := true, repair := none }

/-- The spare write of a redirect. -/
def spareWrite (s : State) (r : Request) (g : Segment) (b : Nat) : Op :=
  mkOp .write b 1 (.repair r.id g.id) s.nextId (g.blocks.take 1)

theorem onSegment_found {id : Nat} {r : Request} {g : Segment} (found : s.request? id = some r) (segment : r.segment? g.id = some g)
    {f : Segment → Segment} (kept : ∀ g, (f g).id = g.id) :
    (s.onSegment id g.id f).request? id = some (r.onSegment g.id f) ∧ (r.onSegment g.id f).segment? g.id = some (f g) :=
  ⟨request_onRequest (f := fun q => q.onSegment g.id f) found (fun _ => rfl), segment_onSegment segment kept⟩

/-- A spare write that the port takes waits for its end at the port. -/
theorem offerRepair_taken {id : Nat} {q : Request} {g h : Segment} {p : Repair} {Z : State} (found : s.request? id = some q)
    (segment : q.segment? g.id = some h) (repair : h.repair = some p)
    (offer : s.offer h.unit .write p.spare 1 (.repair id g.id) (h.blocks.take 1) = (.taken, Z)) :
    s.offerRepair id g.id = Z.onSegment id g.id fun g => { g with repair := g.repair.map fun p => { p with wait := .port } } := by
  unfold State.offerRepair
  rw [found]
  dsimp only [Option.bind]
  rw [segment]
  dsimp only
  rw [repair]
  dsimp only
  rw [offer]
  rfl

/-- What a redirect leaves as it was, apart from its spare. -/
structure Redirects (s x : State) (map : MapUnit) : Prop where
  map : x.map = map
  link : x.link = s.link
  guard : x.guard = s.guard
  health : x.health = s.health
  log : x.log = s.log

theorem refreshIdle_redirects {x : State} {map : MapUnit} (redirects : Redirects s x map) : Redirects s x.refreshIdle map :=
  ⟨(refreshIdle_map _).trans redirects.map, (refreshIdle_link _).trans redirects.link, (refreshIdle_guard _).trans redirects.guard,
    (refreshIdle_health _).trans redirects.health, (refreshIdle_log _).trans redirects.log⟩

/-- The part after the claim of a redirect. -/
def claimedAs (s : State) (map : MapUnit) (events : BitVec 16) (store : StoreController) : State :=
  { s with map := map, mgmt := { s.mgmt with events := events }, store := store }

section
variable {r : Request} {g : Segment} {tried : Nat} (running : s.Running)
  (waits : s.engine.items.findSome? s.redirectOf = some (r, g, tried)) (found : s.request? r.id = some r)
  (segment : r.segment? g.id = some g)

theorem redirect_claims (running : s.Running) (waits : s.engine.items.findSome? s.redirectOf = some (r, g, tried))
    (done : s.repairClaim r g .redirect tried = Y) (todo : Y.todo = s.todo) : exec .pendingWriteRedirect s = .next Y.refreshIdle := by
  refine exec_redirect running ?_
  unfold State.redirect
  rw [waits]
  dsimp only
  rw [done]
  exact finish_of_todo_nil (todo.trans running.settled)

/-- A redirect whose claim issues a spare, by what its port makes of the spare write. -/
theorem redirect_issued (found : s.request? r.id = some r) (segment : r.segment? g.id = some g) {b : Nat}
    (claims : (s.claim g.unit g.home).1 = .issued b) : ∃ e st, ∀ (n : Nat) (c : CounterBank) (ports : Four Port),
      State.offer ((claimedAs s (s.claim g.unit g.home).2.map e st).onSegment r.id g.id (redirected b tried)) g.unit .write b 1
        (.repair r.id g.id) (g.blocks.take 1) = (.taken, { (claimedAs s (s.claim g.unit g.home).2.map e st).onSegment r.id g.id
          (redirected b tried) with nextId := n, counters := c, ports := ports }) →
      s.repairClaim r g .redirect tried = { claimedAs s (s.claim g.unit g.home).2.map e st with
        nextId := n, counters := c, ports := ports, engine := (s.onSegment r.id g.id (redirected b tried)).engine } := by
  obtain ⟨m, e, st, form⟩ := claim_eq s g.unit g.home
  have map : (s.claim g.unit g.home).2.map = m := by rw [form]
  refine ⟨e, st, fun n c ports offer => ?_⟩
  rw [map] at offer ⊢
  have claimed : s.claim g.unit g.home = (.issued b, claimedAs s m e st) := Prod.ext claims form
  obtain ⟨foundNow, segmentNow⟩ := onSegment_found (s := claimedAs s m e st) (f := redirected b tried) found segment (fun _ => rfl)
  have taken := offerRepair_taken foundNow segmentNow rfl offer
  have twice : ((claimedAs s m e st).onSegment r.id g.id (redirected b tried)).onSegment r.id g.id
      (fun g => { g with repair := g.repair.map fun p => { p with wait := .port } }) =
        (claimedAs s m e st).onSegment r.id g.id (redirected b tried) :=
    onSegment_onSegment _ _ _ _ _ (fun _ => rfl)
  unfold State.repairClaim
  rw [claimed]
  dsimp only
  refine taken.trans ?_
  exact congrArg (fun x : RequestEngine => ({ claimedAs s m e st with
    nextId := n, counters := c, ports := ports, engine := x } : State)) (congrArg State.engine twice)

include running waits found segment

/-- A spare write that finds four operations outstanding is queued (R80, R105). -/
theorem redirect_queues {b : Nat} (claims : (s.claim g.unit g.home).1 = .issued b) (serves : (s.port g.unit).state.serves = true)
    (place : (s.port g.unit).queue.length < 64) (full : (s.port g.unit).slots.toList.all (fun o => o.isSome) = true) :
    ∃ x, exec .pendingWriteRedirect s = .next x ∧ Redirects s x (s.claim g.unit g.home).2.map ∧
      x.engine = (s.onSegment r.id g.id (redirected b tried)).engine ∧ x.counters = s.counters ∧
      x.ports = s.ports.set g.unit { s.port g.unit with queue := (s.port g.unit).queue ++ [spareWrite s r g b] } := by
  obtain ⟨e, st, sends⟩ := redirect_issued (tried := tried) found segment claims
  have done := sends _ _ _ (full_offer (s := (claimedAs s (s.claim g.unit g.home).2.map e st).onSegment r.id g.id (redirected b tried))
    (by exact serves_available serves) (by exact place) (by exact full))
  exact ⟨_, redirect_claims running waits done rfl, refreshIdle_redirects ⟨rfl, rfl, rfl, rfl, rfl⟩, refreshIdle_engine _,
    refreshIdle_counters _, refreshIdle_ports _⟩

/-- A spare write at a port with nothing else to do is sent (R79, R105). -/
theorem redirect_sends {b : Nat} (claims : (s.claim g.unit g.home).1 = .issued b) (serves : (s.port g.unit).state.serves = true)
    (rests : (s.port g.unit).Rests) (detached : (s.port g.unit).attachPlace = none) :
    ∃ x, exec .pendingWriteRedirect s = .next x ∧ Redirects s x (s.claim g.unit g.home).2.map ∧
      x.engine = (s.onSegment r.id g.id (redirected b tried)).engine ∧
      x.ports = s.ports.set g.unit (s.sendsFirst (s.port g.unit) (spareWrite s r g b)) := by
  obtain ⟨e, st, sends⟩ := redirect_issued (tried := tried) found segment claims
  have done := sends _ _ _ (offer_sends (s := (claimedAs s (s.claim g.unit g.home).2.map e st).onSegment r.id g.id (redirected b tried))
    (by exact serves) (by exact rests) (by exact detached))
  exact ⟨_, redirect_claims running waits done rfl, refreshIdle_redirects ⟨rfl, rfl, rfl, rfl, rfl⟩, refreshIdle_engine _,
    refreshIdle_ports _⟩

omit running waits in
/-- The write of a block where it lies, in a part with other events (R106). -/
theorem fallback_sends (e : BitVec 16) (write : r.kind = .write) (serves : (s.port g.unit).state.serves = true)
    (rests : (s.port g.unit).Rests) (detached : (s.port g.unit).attachPlace = none) :
    (claimedAs s s.map e s.store).fallbackWrite r g = { claimedAs s s.map e s.store with
      nextId := s.nextId + 1, counters := opCounted s g.unit
      ports := s.ports.set g.unit (s.sendsFirst (s.port g.unit) (mkOp .write g.first g.count (.segment r.id g.id) s.nextId g.blocks))
      engine := (s.onSegment r.id g.id fallenBack).engine } := by
  obtain ⟨foundNow, segmentNow⟩ := onSegment_found (s := claimedAs s s.map e s.store) (f := placedAgain) found segment (fun _ => rfl)
  have sends := offerSegment_sends (s := (claimedAs s s.map e s.store).onSegment r.id g.id placedAgain)
    (r := r.onSegment g.id placedAgain) (g := placedAgain g) foundNow segmentNow (by exact serves) (by exact rests) (by exact detached)
  have op : mkOp r.kind.op g.first g.count (.segment r.id g.id) s.nextId (if r.kind = .write then g.blocks else []) =
      mkOp .write g.first g.count (.segment r.id g.id) s.nextId g.blocks := by
    rw [write]
    rfl
  have twice : ((claimedAs s s.map e s.store).onSegment r.id g.id placedAgain).onSegment r.id g.id (fun g => { g with phase := .issued }) =
      (claimedAs s s.map e s.store).onSegment r.id g.id fallenBack := onSegment_onSegment _ _ _ _ _ (fun _ => rfl)
  have engine : (((claimedAs s s.map e s.store).onSegment r.id g.id placedAgain).onSegment (r.onSegment g.id placedAgain).id
      (placedAgain g).id fun g => { g with phase := .issued }).engine = (s.onSegment r.id g.id fallenBack).engine :=
    Eq.trans (congrArg State.engine twice) rfl
  refine sends.trans (congrArg₂ (fun (o : Op) (x : RequestEngine) => ({ claimedAs s s.map e s.store with
    nextId := s.nextId + 1, counters := opCounted s g.unit
    ports := s.ports.set g.unit (s.sendsFirst (s.port g.unit) o), engine := x } : State)) op engine)

omit running waits found segment in
/-- The events of a redirect whose claim is refused. -/
def refusedEvents (s : State) (outcome : ClaimOutcome) : BitVec 16 :=
  match outcome with
  | .pinned => s.mgmt.events ||| Event.pinTargetSuspect.bit
  | .tableFull => s.mgmt.events ||| Event.spareExhausted.bit
  | .exhausted => s.mgmt.events
  | .issued _ => s.mgmt.events

omit running waits found segment in
/-- A redirect whose claim is refused writes the block where it lies (R106). -/
theorem repairClaim_refused (refused : ∀ b, (s.claim g.unit g.home).1 ≠ .issued b) : s.repairClaim r g .redirect tried =
    (claimedAs s s.map (refusedEvents s (s.claim g.unit g.home).1) s.store).fallbackWrite r g := by
  unfold State.repairClaim
  cases outcome : (s.claim g.unit g.home).1 with
  | issued b => exact absurd outcome (refused b)
  | pinned => rw [claim_pinned outcome]; rfl
  | exhausted => rw [claim_exhausted outcome]; rfl
  | tableFull => rw [claim_tableFull outcome]; rfl

omit running waits found segment in
/-- A claim that is refused leaves the map. -/
theorem refused_map (refused : ∀ b, (s.claim g.unit g.home).1 ≠ .issued b) : (s.claim g.unit g.home).2.map = s.map := by
  cases outcome : (s.claim g.unit g.home).1 with
  | issued b => exact absurd outcome (refused b)
  | pinned => rw [claim_pinned outcome]
  | exhausted => rw [claim_exhausted outcome]
  | tableFull => rw [claim_tableFull outcome]; rfl

/-- A redirect without a spare sends the fallback write (R79, R106). -/
theorem redirect_falls (refused : ∀ b, (s.claim g.unit g.home).1 ≠ .issued b) (write : r.kind = .write)
    (serves : (s.port g.unit).state.serves = true) (rests : (s.port g.unit).Rests) (detached : (s.port g.unit).attachPlace = none) :
    ∃ x, exec .pendingWriteRedirect s = .next x ∧ Redirects s x s.map ∧
      x.engine = (s.onSegment r.id g.id fallenBack).engine ∧
      x.ports = s.ports.set g.unit (s.sendsFirst (s.port g.unit)
        (mkOp .write g.first g.count (.segment r.id g.id) s.nextId g.blocks)) ∧
      x.mgmt.events = refusedEvents s (s.claim g.unit g.home).1 := by
  have done := (repairClaim_refused (r := r) (tried := tried) refused).trans
    (fallback_sends found segment (refusedEvents s (s.claim g.unit g.home).1) write serves rests detached)
  exact ⟨_, redirect_claims running waits done rfl, refreshIdle_redirects ⟨rfl, rfl, rfl, rfl, rfl⟩, refreshIdle_engine _,
    refreshIdle_ports _, by rw [refreshIdle_mgmt]; rfl⟩

end
end

/-- Settles O58, by the work that starts. -/
theorem workStartsWhenItMay : Obligations.WorkStartsWhenItMay := by
  unfold Obligations.WorkStartsWhenItMay
  intro s running
  refine ⟨save_waits running, fun state ready mode asked => ?save, erase_waits running,
    fun e erase phase free index offset quiet valid guarded some_ => ?erase,
    fun first second => relocation_waits running (.inl ⟨first, second⟩), fun none_ => relocation_waits running (.inr none_),
    fun e h r next empty => ?relocation, redirect_waits running,
    fun r g tried lawful waits found segment write serves => ?redirect⟩
  case save =>
    obtain ⟨p, c, st, n, step, saving, unasked, clean, generation, save⟩ :=
      save_starts running (takesSave_iff.mpr ⟨state, ready, mode_saves mode, asked⟩)
    refine ⟨_, step, ?_⟩
    rw [refreshIdle_store, refreshIdle_link, refreshIdle_engine, refreshIdle_map, refreshIdle_health, refreshIdle_scan, refreshIdle_log,
      refreshIdle_mgmt, refreshIdle_guard, refreshIdle_modes_mode]
    exact ⟨saving, unasked, clean, generation, save, rfl, rfl, rfl, rfl, rfl, rfl, rfl, rfl, rfl⟩
  case erase =>
    intro region cut there place full
    exact erase_begins running erase phase free index offset quiet valid guarded some_ there place full
  case relocation =>
    intro item held
    refine ⟨relocation_held running next empty, fun lawful free => ⟨fun b claims => ?_, fun claims => ?_, fun claims => ?_⟩⟩
    · obtain ⟨x, step, c, engine, health⟩ := relocation_issued running next empty lawful free claims
      exact ⟨x, step, ⟨c.map, c.link, c.ports, c.guard, c.counters, c.log⟩, engine, health⟩
    · obtain ⟨x, step, c, engine, health⟩ := relocation_exhausted running next empty lawful free claims
      have map : (s.claim e.block.unit h).2.map = s.map := by rw [claim_exhausted claims]
      exact ⟨x, step, ⟨c.map.trans map.symm, c.link, c.ports, c.guard, c.counters, c.log⟩, c.map, engine, health⟩
    · obtain ⟨x, step, c, engine, health, events⟩ := relocation_tableFull running next empty lawful free claims
      have map : (s.claim e.block.unit h).2.map = s.map := by rw [claim_tableFull claims]; rfl
      exact ⟨x, step, ⟨c.map.trans map.symm, c.link, c.ports, c.guard, c.counters, c.log⟩, c.map, engine, health, events⟩
  case redirect =>
    refine ⟨fun b claims => ⟨fun place full => ?_, fun rests detached => ?_⟩, fun refused rests detached => ?_⟩
    · obtain ⟨x, step, d, engine, counters, ports⟩ := redirect_queues running waits found segment claims serves place full
      exact ⟨x, step, ⟨d.map, d.link, d.guard, d.health, d.log⟩, engine, counters, ports⟩
    · obtain ⟨x, step, d, engine, ports⟩ := redirect_sends running waits found segment claims serves rests detached
      exact ⟨x, step, ⟨d.map, d.link, d.guard, d.health, d.log⟩, engine, ports⟩
    · obtain ⟨x, step, d, engine, ports, events⟩ := redirect_falls running waits found segment refused write serves rests detached
      refine ⟨x, step, ⟨d.map.trans (refused_map refused).symm, d.link, d.guard, d.health, d.log⟩, d.map, engine, ports, ?_, ?_, ?_⟩
      all_goals
        intro outcome
        rw [events, outcome]
        rfl

end Sys2Proof.Proofs.WorkStarts
end
